-- ==== Sys2Proof/Word.lean ====
section
/-!
DEFINITION. The word types: a byte, a 32-bit sequencer word and a 64-bit register.
-/
namespace Sys2Proof

/-- One byte (R12: multi-byte values are little-endian lists of these). -/
abbrev Byte := BitVec 8

/-- A sequencer general register, CSR or instruction word (R233, R236). -/
abbrev W32 := BitVec 32

/-- A register of the block window (R46: 64 bits, atomic). -/
abbrev W64 := BitVec 64

end Sys2Proof
end

