-- ==== Sys2Proof/Syntax.lean ====
section
/-!
DEFINITION. The commands the block takes: one constructor per row of spec/opcode_table.json. A command carries what
comes from outside: the unit it concerns, payload bytes, readings, answers, and who writes.
-/
namespace Sys2Proof

/-- Who makes a register access: the masters of R409, the tenant of a partition on the host register port (R437),
or a sequencer (FS f is f, the CC is 128). -/
inductive Writer where
  | hmp
  | tray
  | probe
  | tenant (p : Nat)
  | seq (q : Nat)
deriving DecidableEq, Repr

/-- An error input (R270, R271): index i of Table 11-1 at FS f, host input or internal fault i of a CT, source i of
the CC. -/
inductive PinRef where
  | fs (f i : Nat)
  | host (k i : Nat)
  | ctInt (k i : Nat)
  | cc (i : Nat)
deriving DecidableEq, Repr


/-- A result block of a strip: engine, item of the recipe, block ordinal, payload (R159). -/
structure StripOut where
  eng : Nat
  item : Nat
  ord : Nat
  data : List Byte
deriving DecidableEq, Repr

/-- A block as an MT reads it from external memory: channel, channel-local block index, payload, whether the read is
uncorrectable, and the sleeve it carries when it comes from a partner wafer. -/
structure MemRd where
  m : Nat
  blk : Nat
  data : List Byte
  ue : Bool
  slv : Nat
deriving DecidableEq, Repr

/-- A tensor block in a link packet with the sleeve that follows it (R444); a sleeve of 0 is none. -/
structure LtBlk where
  slv : Nat
  data : List Byte
deriving DecidableEq, Repr

/-- A link packet at an LT (R31, R310, R444): in transit, sideband field, the field it is addressed to, the transaction
tag, lt_sleeved with the whole blocks it then marks, and the payload of a packet without that mark. -/
structure LtPkt where
  transit : Bool
  sb : Nat
  field : Nat
  tag : Nat
  sleeved : Bool := false
  blocks : List LtBlk := []
  data : List Byte := []
deriving DecidableEq, Repr

/-- An outstanding memory transaction of an MT's snapshot (Table 14-3 kind 4). -/
structure MtTx where
  m : Nat
  addr : Nat
  write : Bool
  part : Nat
  tag : Nat
  gen : Nat
deriving DecidableEq, Repr

/-- A failing address of a memory BIST: memory index, address, first failing bit, and whether a spare row repaired it
(R401). -/
structure MemFail where
  mem : Nat
  addr : Nat
  bit : Nat
  repaired : Bool
deriving DecidableEq, Repr

/-- A logic BIST mismatch: scan domain and signature (R402). -/
structure ScanFail where
  domain : Nat
  sig : Nat
deriving DecidableEq, Repr

/-- What BIST finds in one unit (R401, R402): clock absent, failing addresses, failing scan domains, in order. -/
structure BistRes where
  unit : Nat
  absent : Bool := false
  mem : List MemFail := []
  scan : List ScanFail := []
deriving DecidableEq, Repr

/-- What a full training of a channel left: the channel, and its 192-byte record (R308, R443). -/
structure TrainIn where
  m : Nat
  data : List Byte
deriving DecidableEq, Repr


/-- The commands: one constructor per row of spec/opcode_table.json, in its order. -/
inductive Instr where
  /-- HEARTBEAT_SEND (R19). Every 10 µs the active CC sends a heartbeat to the standby CC. -/
  | heartbeatSend 
  /-- HEARTBEAT_LOSS (R19). The standby CC sees no heartbeat for 100 µs and begins to take over as active CC. -/
  | heartbeatLoss 
  /-- ACTIVE_CC_FATAL (R19). The active CC's error pin signals a fatal fault, and the standby begins to take over. -/
  | activeCcFatal 
  /-- SWAP_REQ (R19). The owner writes CC_ROLE.swap_req; when standby_ok is set, a CC swap begins. -/
  | swapReq (w : Writer)
  /-- CC_SWAP (R22). The swap completes: the new active CC resumes from the last checkpoint, and CC_SWAP is recorded. -/
  | ccSwap 
  /-- CC_CHECKPOINT (R20). The active CC checkpoints its sequencer state to the standby; it does so at least every 1 ms. -/
  | ccCheckpoint 
  /-- WT_COMPARE (R21). diff is the difference of the two counts in ns. -/
  | wtCompare (diff : Nat)
  /-- MT_POOL_CFG_WRITE (R28). v is the value written. -/
  | mtPoolCfgWrite (w : Writer) (m v : Nat)
  /-- TROG_PACKET_DELIVER (R36). flits are the header flit and the data flits, 32 bytes each. -/
  | trogPacketDeliver (flits : List Byte)
  /-- TROG_LINK_REPLAY (R36). f is the receiver's router; ok tells whether the replay succeeded. -/
  | trogLinkReplay (f : Nat) (ok : Bool)
  /-- CONTROL_RESEND (R36). src and sq name the packet by its source and sequence number. -/
  | controlResend (src sq : Nat)
  /-- PROOF_ARRAY_READY (R43). A waking proof array becomes ready 1.5 µs after its wake began. -/
  | proofArrayReady (f : Nat)
  /-- PROOF_ARRAY_SLEEP (R43). The idle hold of FS_WAKE_CFG.hold_us expires and the proof array powers down. -/
  | proofArraySleep (f : Nat)
  /-- MT_LOAD (R57). An MT serves a host read of a block: it checks or creates the sleeve, applies fog, decryption and sealed-region rules, and drops stale responses. -/
  | mtLoad (m b : Nat) (data : List Byte) (ue lineUe late : Bool) (part : Nat) (link : Bool) (gen tag : Nat) (tagLate : Bool)
  /-- MT_WRITE (R64). An MT handles a host write: it stores or invalidates the sleeve-region entry, checks the sleeve, and detects writes to a draining extent. -/
  | mtWrite (m b : Nat) (whole : Bool) (slv : Nat) (data : List Byte) (part : Nat) (link : Bool)
  /-- SLEEVE_LINE_ARRIVE (R66). A sleeve-region line read arrives; it is compared with the delivered block, and late mismatches or late fog are recorded. -/
  | sleeveLineArrive (m b : Nat) (ue : Bool)
  /-- MT_SLEEVE_CFG_WRITE (R61). A write of MT_SLEEVE_CFG is ignored while enable is 1, and enable stays stuck at 0 for an invalid cap_log2. -/
  | mtSleeveCfgWrite (w : Writer) (m v : Nat)
  /-- CT_INGRESS (R69). c is the core; slv is the sleeve carried beside the block, zero for none; fewer than 2048 bytes are a block cut short by a new first beat. -/
  | ctIngress (c cyc : Nat) (operand : Bool) (ctx slv : Nat) (data : List Byte)
  /-- JOB_KILL_RAISE (R70). The ports and places of CT k as they stand raise the kills that wait. -/
  | jobKillRaise (k cyc : Nat)
  /-- KILL_ACK (R70). The host acknowledges a job kill; the kill is no longer pending and egress fogging for that context ends. -/
  | killAck (c cyc : Nat)
  /-- CT_EGRESS (R57). e is the engine egr_engine names; slv is the sleeve of a carried block. -/
  | ctEgress (e cyc : Nat) (produced : Bool) (tag slv : Nat) (data : List Byte)
  /-- LT_OUTBOUND (R57). An outbound link packet passes an LT: sleeves are checked, the generation sideband is written, and sealed traffic to an untrusted peer is dropped. -/
  | ltOutbound (l : Nat) (x : LtPkt)
  /-- LT_INBOUND (R57). An inbound link packet passes an LT: sleeves are checked or created, stale replies are dropped, requests to a resetting partition are negatively acknowledged, and flits are captured during a stop. -/
  | ltInbound (l : Nat) (x : LtPkt)
  /-- DESC_BEAT (R78). cyc is the CT's host cycle. -/
  | descBeat (e cyc data : Nat)
  /-- SIG_BEAT (R97). kind is the beat kind of Table 3-9. -/
  | sigBeat (e cyc kind data : Nat)
  /-- ABORT_BEAT (R100). pulse tells that a retire pulse shares the cycle. -/
  | abortBeat (e cyc : Nat) (pulse : Bool)
  /-- RETIRE_PULSE (R98). A retire pulse retires the oldest running tile, restarts the watchdog and fixes the tile's stamp deadline and proof wait. -/
  | retirePulse (e cyc : Nat)
  /-- FOLD_DRAIN (R138). The fold unit drains waiting FIFO beats into a tile's accumulators, in round robin over the engines. -/
  | foldDrain (k cyc : Nat)
  /-- ENGINE_RESET_INPUT (R105). The host asserts eng_rst; every open tile of the engine is abandoned and its FIFO is emptied. -/
  | engineResetInput (e : Nat) (on : Bool)
  /-- REKEY (R114). v is the value written to FS_PROOF_CFG. -/
  | rekey (w : Writer) (f v : Nat)
  /-- CC_SETTING_FORWARD (R115). n names the setting: 0 CC_PROOF_RATE, 1 CC_CHECK_MODE, 2 CC_HORIZON_CFG, 3 CC_WDOG_CFG. -/
  | ccSettingForward (w : Writer) (n p v : Nat)
  /-- PROOF_FORCE_WRITE (R116). hi names CT_PROOF_FORCE1. -/
  | proofForceWrite (w : Writer) (k : Nat) (hi : Bool) (v : Nat)
  /-- TAP_BLOCK (R119). A block arrives on the operand tap; the CT mirrors the first presentation of a selected tile's block, or ignores it. -/
  | tapBlock (e cyc tag kind ord : Nat) (data : List Byte)
  /-- PROOF_RESERVE (R120). The FS receives a reservation and reserves store space and a tile entry, or refuses. -/
  | proofReserve (f : Nat)
  /-- MIRROR_BLOCK_ARRIVE (R120). A mirrored block reaches the FS store; it is held or discarded, and it wakes the array. -/
  | mirrorBlockArrive (k : Nat)
  /-- PROOF_START (R125). The array starts a tile whose operands are complete, once the array is awake and free. -/
  | proofStart (f : Nat)
  /-- STRIP_SEGMENT_START (R125). A strip segment of at most 4,096 cycles starts on the array when no live tile is ready. -/
  | stripSegmentStart (f : Nat)
  /-- PROOF_COMPARE_DONE (R123). The array finishes comparing a tile and sends a clean or failed proof verdict to the CT and the ledger. -/
  | proofCompareDone (f : Nat)
  /-- PROOF_ARRAY_FAULT (R124). chk is the checker of Table 4-17. -/
  | proofArrayFault (f chk : Nat)
  /-- ARRAY_SUSPECT_CLEAR (R124). v is the value written to FS_PROOF_STAT. -/
  | arraySuspectClear (w : Writer) (f v : Nat)
  /-- PROOF_ABANDON (R130). compared is how many elements the array had compared. -/
  | proofAbandon (f compared : Nat)
  /-- PROOF_VERDICT_ARRIVE (R147). A proof verdict reaches the CT; it is combined into the first or final stamp, or discarded when the tile is closed. -/
  | proofVerdictArrive (f : Nat)
  /-- NEG_RELEASE (R133). v is the value written to FS_NEG_RELEASE. -/
  | negRelease (w : Writer) (f v : Nat)
  /-- FIRST_STAMP_DEADLINE (R145). A tile's stamp deadline expires; the checksum verdict is settled and the first stamp is issued. -/
  | firstStampDeadline (e : Nat)
  /-- STAMP_SEND (R146). A waiting stamp leaves on the engine's stamp output in the first free cycle that its place allows. -/
  | stampSend (e cyc : Nat)
  /-- PROOF_TIMEOUT (R149). A proof verdict that has not arrived within proof_wait is given up as unchecked. -/
  | proofTimeout (e : Nat)
  /-- FOLD_FAULT (R139). A fold-unit self-check fires; the tile becomes checksum-unchecked and FOLD_FAULT is recorded. -/
  | foldFault (e tag chk : Nat)
  /-- STRIP_DUE (R165). A core becomes due for a strip; its grace timer starts and STRIP_DUE is posted. -/
  | stripDue (c : Nat)
  /-- STRIP (R166). The STRIP instruction requests a strip on a core with a recipe and returns a status. -/
  | strip (q rd ra rb : Nat)
  /-- STRIP_CMD (R166). v is the value written to FS_STRIP_CMD. -/
  | stripCmd (w : Writer) (f v : Nat)
  /-- GRACE_EXPIRE (R166). The grace timer of a core expires; the core enters shadow, unshielded or forcing. -/
  | graceExpire (c : Nat)
  /-- FORCE_DEADLINE_EXPIRE (R166). The 10 ms deadline of a forcing core expires without a grant; the core becomes unshielded. -/
  | forceDeadlineExpire (c : Nat)
  /-- SHADOW_LOSS (R168). In 1 ms of WT, more than 1/16 of a shadowed core's tiles lost their proof, so the shadow is lost. -/
  | shadowLoss (c : Nat)
  /-- STRIP_OVERDUE (R169). An engine passes last_wt + P while unshielded or forcing; its overdue flag sets and this is recorded once for the core. -/
  | stripOverdue (e : Nat)
  /-- YIELD_GRANT (R158). The host grants a core's yield; the core enters strip mode and seeks a partner or completes a hold. -/
  | yieldGrant (c : Nat)
  /-- PAIR_WAIT_EXPIRE (R161). The pair wait of a granted core expires, and the core runs two-way against the array. -/
  | pairWaitExpire (c : Nat)
  /-- STRIP_RESULT (R163). outs are result blocks that arrive from the core. -/
  | stripResult (c : Nat) (outs : List StripOut)
  /-- STRIP_RESULT_TIMEOUT (R162). An element not arrived within 10 ms of running counts as differing. -/
  | stripResultTimeout (c : Nat)
  /-- STEP_MARK (R173). v is the value written to CC_STEP. -/
  | stepMark (w : Writer) (p v : Nat)
  /-- LOSS_POST (R174). v is the value written to CC_LOSS. -/
  | lossPost (w : Writer) (p v : Nat)
  /-- LOSS_RESET_STATS (R174). v is the value written to CC_LOSS_CFG. -/
  | lossResetStats (w : Writer) (p v : Nat)
  /-- BRACKET (R180). The BRACKET instruction starts or cancels a bracketing session and returns a status. -/
  | bracket (q rd ra : Nat)
  /-- BRK_CMD_START (R180). v is the value written to FS_BRK_CMD. -/
  | brkCmdStart (w : Writer) (f v : Nat)
  /-- BRK_CANCEL (R192). A write of FS_BRK_CMD.cancel aborts the open session with reason 10. -/
  | brkCancel (w : Writer) (f : Nat)
  /-- TOKEN_GRANT (R190). The CC grants a waiting token request in arrival order once the budget allows. -/
  | tokenGrant 
  /-- TOKEN_WAIT_EXPIRE (R190). A token request still waiting after token_wait_ms is withdrawn and the session aborts with reason 9. -/
  | tokenWaitExpire (f : Nat)
  /-- TOKEN_RETURN (R191). A session returns its tokens to the CC in a control packet. -/
  | tokenReturn 
  /-- HOLD_WAIT_EXPIRE (R181). A hold that is incomplete after hold_wait_ms ends the session with reason 8. -/
  | holdWaitExpire (f : Nat)
  /-- MAINT_OPEN (R181). v is the value written to FS_MAINT. -/
  | maintOpen (w : Writer) (f v : Nat)
  /-- MAINT_CLOSE (R181). v is the value written to FS_MAINT. -/
  | maintClose (w : Writer) (f v : Nat)
  /-- MAINT_WINDOW_EXPIRE (R181). The maintenance window reaches win_max_ms and closes. -/
  | maintWindowExpire (f : Nat)
  /-- PM_ACCEPT (R184). refuseToo tells that pm_refuse pulses in the same cycle. -/
  | pmAccept (refuseToo : Bool)
  /-- PM_REFUSE (R184). The host refuses a stress request and the ascent ends. -/
  | pmRefuse 
  /-- PM_ANSWER_TIMEOUT (R184). No answer arrives within 1 ms and the session aborts with reason 1. -/
  | pmAnswerTimeout 
  /-- PM_SETTLED (R184). The host signals settled and the step strip runs. -/
  | pmSettled 
  /-- PM_SETTLE_TIMEOUT (R184). Settled is missing after settle_ms and the session aborts with reason 2. -/
  | pmSettleTimeout (f : Nat)
  /-- BRK_STEP_DONE (R186). A step strip settles; the session advances, or withdraws stress and runs the nominal rerun. -/
  | brkStepDone (f : Nat)
  /-- THERMAL_SAMPLE (R183). temps are the readings of clusters 0 upwards, 8-bit two's complement. -/
  | thermalSample (f : Nat) (temps : List Nat)
  /-- HEAT_MAX_EXPIRE (R189). heat_max_ms expires and the step strip runs at the temperature reached. -/
  | heatMaxExpire (f : Nat)
  /-- COOL_EXPIRE (R188). cool_ms passes before cooling, and the rerun is given up as inconclusive. -/
  | coolExpire (f : Nat)
  /-- FENCE_CONFIRM (R204). FENCE func 0 sends a confirmation to the CC and blocks until the CC answers. -/
  | fenceConfirm (q rd ra rb : Nat)
  /-- FENCE_CLEAR (R196). FENCE func 1 clears a latent engine to healthy and frees its entry. -/
  | fenceClear (q rd ra : Nat)
  /-- FENCE_MAKE_LATENT (R255). FENCE func 2 makes an engine latent with a given cause. -/
  | fenceMakeLatent (q rd ra rb : Nat)
  /-- FENCE_REPLAY (R198). FENCE func 3 requests a suspect replay of a latent engine. -/
  | fenceReplay (q rd ra : Nat)
  /-- FENCE_CONFIRM_ARRIVE (R202). The CC receives a confirmation, appends it to the fence list (compacting if full) and answers with the index. -/
  | fenceConfirmArrive 
  /-- FENCE_ANSWER (R204). The CC's answer reaches the FS, the blocked FENCE completes, and a checkpoint is taken. -/
  | fenceAnswer 
  /-- OWNER_FENCE (R196). v is the value written to CC_FENCE_CMD. -/
  | ownerFence (w : Writer) (v : Nat)
  /-- FENCE_REMOVE (R206). v is the value written to CC_FENCE_CMD. -/
  | fenceRemove (w : Writer) (v : Nat)
  /-- FENCE_UPDATE (R207). The next stored fence update is driven on the fence port once the port is free. -/
  | fenceUpdate 
  /-- FENCE_ACK (R207). The host acknowledges a fence update; the unit becomes fenced or healthy. -/
  | fenceAck 
  /-- FENCE_ACK_TIMEOUT (R196). ack_ms passes without acknowledgement; this is recorded once and the update stays asserted. -/
  | fenceAckTimeout 
  /-- FENCE_RESYNC (R209). The host asserts fence_resync and the CC drives the whole fence set again. -/
  | fenceResync 
  /-- LATENT_WINDOW (R196). latent_s elapses since a latent entry was made, and the sequencer is signalled. -/
  | latentWindow (e : Nat)
  /-- REPLAY_WAIT_EXPIRE (R198). c is the suspect core. -/
  | replayWaitExpire (c : Nat)
  /-- FS_FAILURE (R213). A released field's FS stops working in service; its field runs unmonitored and its MTs and LTs are orphaned. -/
  | fsFailure (f : Nat)
  /-- LSP_EXPORT (R221). v is the value written to CC_LSP_CMD. -/
  | lspExport (w : Writer) (v : Nat)
  /-- LSP_DATA_READ (R221). A read of CC_LSP_DATA returns 8 record bytes and advances the offset. -/
  | lspDataRead (w : Writer)
  /-- PACK_BEGIN (R227). CC_PACK_CMD with op begin starts receiving a pack into the inactive bank. -/
  | packBegin (w : Writer) (len : Nat)
  /-- PACK_DATA (R227). A write of CC_PACK_DATA stores the next 8 pack bytes. -/
  | packData (w : Writer) (v : Nat)
  /-- PACK_COMMIT (R227). CC_PACK_CMD with op commit verifies the pack and stages or rejects it. -/
  | packCommit (w : Writer)
  /-- PACK_ABORT (R227). CC_PACK_CMD with op abort ends staging. -/
  | packAbort (w : Writer)
  /-- PACK_SWAP (R228). CC_PACK_CMD with op swap makes the staged bank active and switches the fields one at a time. -/
  | packSwap (w : Writer)
  /-- PACK_REVERT (R228). CC_PACK_CMD with op revert swaps back to the other bank when it verifies. -/
  | packRevert (w : Writer)
  /-- PACK_FIELD_ANSWER (R228). An FS answers after loading its recipe table from the new bank; the switch proceeds to the next field. -/
  | packFieldAnswer 
  /-- PACK_FLOOR_WRITE (R229). A write of CC_PACK_FLOOR that lowers the floor is ignored outside MANUFACTURE and RMA. -/
  | packFloorWrite (w : Writer) (v : Nat)
  /-- ADD (R238). ALU func 0: rd = ra + rb. -/
  | add (q rd ra rb : Nat)
  /-- SUB (R238). ALU func 1: rd = ra − rb. -/
  | sub (q rd ra rb : Nat)
  /-- AND (R238). ALU func 2: bitwise and. -/
  | andI (q rd ra rb : Nat)
  /-- OR (R238). ALU func 3: bitwise or. -/
  | orI (q rd ra rb : Nat)
  /-- XOR (R238). ALU func 4: bitwise xor. -/
  | xorI (q rd ra rb : Nat)
  /-- SHL (R238). ALU func 5: logical left shift. -/
  | shl (q rd ra rb : Nat)
  /-- SHR (R238). ALU func 6: logical right shift. -/
  | shr (q rd ra rb : Nat)
  /-- SRA (R238). ALU func 7: arithmetic right shift. -/
  | sra (q rd ra rb : Nat)
  /-- MUL (R238). ALU func 8: low 32 bits of the product. -/
  | mul (q rd ra rb : Nat)
  /-- MULHU (R238). ALU func 9: high 32 bits of the unsigned product. -/
  | mulhu (q rd ra rb : Nat)
  /-- SLT (R238). ALU func 10: signed less-than. -/
  | slt (q rd ra rb : Nat)
  /-- SLTU (R238). ALU func 11: unsigned less-than. -/
  | sltu (q rd ra rb : Nat)
  /-- CLZ (R238). ALU func 12: count leading zeros. -/
  | clz (q rd ra rb : Nat)
  /-- POPC (R238). ALU func 13: count set bits. -/
  | popc (q rd ra rb : Nat)
  /-- ADDI (R238). Add a sign-extended immediate. -/
  | addi (q rd ra imm : Nat)
  /-- ANDI (R238). And with a zero-extended immediate. -/
  | andi (q rd ra imm : Nat)
  /-- ORI (R238). Or with a zero-extended immediate. -/
  | ori (q rd ra imm : Nat)
  /-- XORI (R238). Xor with a zero-extended immediate. -/
  | xori (q rd ra imm : Nat)
  /-- SHLI (R238). Shift left by an immediate amount. -/
  | shli (q rd ra imm : Nat)
  /-- SHRI (R238). Logical right shift by an immediate amount. -/
  | shri (q rd ra imm : Nat)
  /-- SRAI (R238). Arithmetic right shift by an immediate amount. -/
  | srai (q rd ra imm : Nat)
  /-- LUI (R238). rd = imm16 << 16. -/
  | lui (q rd imm : Nat)
  /-- SLTI (R238). Signed compare with an immediate. -/
  | slti (q rd ra imm : Nat)
  /-- SLTUI (R238). Unsigned compare with a sign-extended immediate. -/
  | sltui (q rd ra imm : Nat)
  /-- LW (R239). Load a word from local memory. -/
  | lw (q rd ra imm : Nat) (ue : Bool)
  /-- LH (R239). Load a sign-extended halfword. -/
  | lh (q rd ra imm : Nat) (ue : Bool)
  /-- LHU (R239). Load a zero-extended halfword. -/
  | lhu (q rd ra imm : Nat) (ue : Bool)
  /-- LB (R239). Load a sign-extended byte. -/
  | lb (q rd ra imm : Nat) (ue : Bool)
  /-- LBU (R239). Load a zero-extended byte. -/
  | lbu (q rd ra imm : Nat) (ue : Bool)
  /-- SW (R239). Store a word to SRAM. -/
  | sw (q rs ra imm : Nat)
  /-- SH (R239). Store a halfword to SRAM. -/
  | sh (q rs ra imm : Nat)
  /-- SB (R239). Store a byte to SRAM. -/
  | sb (q rs ra imm : Nat)
  /-- CSRR (R233). Read a local CSR into rd. -/
  | csrr (q rd n : Nat)
  /-- CSRW (R233). Write a local CSR; a write of NOTE_POP removes the head notification. -/
  | csrw (q n ra : Nat)
  /-- RDR (R241). late tells that the access is not answered within 10 µs. -/
  | rdr (q rd ra imm : Nat) (late : Bool)
  /-- WRR (R241). late tells that the access is not answered within 10 µs. -/
  | wrr (q rs ra imm : Nat) (late : Bool)
  /-- BEQ (R240). Branch if equal. -/
  | beq (q ra rb off : Nat)
  /-- BNE (R240). Branch if not equal. -/
  | bne (q ra rb off : Nat)
  /-- BLT (R240). Branch if signed less. -/
  | blt (q ra rb off : Nat)
  /-- BGE (R240). Branch if signed greater or equal. -/
  | bge (q ra rb off : Nat)
  /-- BLTU (R240). Branch if unsigned less. -/
  | bltu (q ra rb off : Nat)
  /-- BGEU (R240). Branch if unsigned greater or equal. -/
  | bgeu (q ra rb off : Nat)
  /-- JAL (R240). Jump and link by a word offset. -/
  | jal (q rd off : Nat)
  /-- JALR (R240). Jump and link to a register target. -/
  | jalr (q rd ra imm : Nat)
  /-- TRET (R259). Return from a trap: clear in_trap and continue at TRAP_PC. -/
  | tret (q : Nat)
  /-- WAIT (R245). Return pending masked events, or sleep until one becomes pending or the timeout expires. -/
  | wait (q rd ra rb : Nat)
  /-- WAIT_WAKE (R245). A sleeping WAIT resumes on a masked event or on its timeout. -/
  | waitWake (q : Nat)
  /-- SIG_LOCAL_ADD (R249). SIG sub 0 adds n to a local semaphore. -/
  | sigLocalAdd (q ra imm : Nat)
  /-- SIG_REMOTE_ADD (R249). SIG sub 1 sends an add to another sequencer's semaphore. -/
  | sigRemoteAdd (q rt ra imm : Nat)
  /-- SIG_LOCAL_SUB (R249). SIG sub 2 subtracts n from a local semaphore without waiting. -/
  | sigLocalSub (q ra imm : Nat)
  /-- SEM_SIGNAL_ARRIVE (R249). A remote semaphore add arrives and is applied exactly once. -/
  | semSignalArrive (q : Nat)
  /-- WAITS (R250). Take n from a semaphore, or sleep until the count reaches n or the timeout expires. -/
  | waits (q rd ra rb n : Nat)
  /-- WAITS_WAKE (R250). A sleeping WAITS resumes when the count reaches n, or times out and writes 0. -/
  | waitsWake (q : Nat)
  /-- SEND (R253). fn holds func in bits 13:0; bit 14 tells that its read of the buffer meets an uncorrectable SRAM error. -/
  | send (q rd ra rb fn : Nat)
  /-- MESSAGE_ARRIVE (R254). A program message reaches a sequencer's receive queue, or is dropped when the queue is full. -/
  | messageArrive (src dst : Nat) (lost : Bool)
  /-- RECV (R254). Copy the oldest received message into SRAM. -/
  | recv (q rd rb : Nat)
  /-- PROOF_SET_FORCE (R255). PROOF.SET func 0 sets or clears a core's force bit. -/
  | proofSetForce (q rd ra rb : Nat)
  /-- PROOF_SET_REKEY (R255). PROOF.SET func 1 draws a new selection key. -/
  | proofSetRekey (q rd : Nat)
  /-- PROOF_SET_RATE (R255). PROOF.SET func 2 writes a partition's rate exponent. -/
  | proofSetRate (q rd ra rb : Nat)
  /-- RESET_CONTEXT (R302). RESET scope 0 requests a context reset on an engine. -/
  | resetContext (q rd ra rb : Nat)
  /-- RESET_ENGINE (R302). RESET scope 1 requests an engine reset. -/
  | resetEngine (q rd ra rb : Nat)
  /-- RESET_PARTITION (R305). RESET scope 2 starts a partition reset, or takes the partition out of service when the budget is exhausted. -/
  | resetPartition (q rd ra rb : Nat)
  /-- RESET_WAFER (R314). RESET scope 3 resets every partition in service and every link port. -/
  | resetWafer (q rd ra rb : Nat)
  /-- RESET_POWER_CYCLE (R315). RESET scope 4 saves records and asserts pwr_cycle_req. -/
  | resetPowerCycle (q rd ra rb : Nat)
  /-- LOG (R258). Write a program record with the given code, unit and parameters. -/
  | log (q rs ra imm : Nat)
  /-- TIME_READ (R248). TIME func 0 writes WT to a register pair. -/
  | timeRead (q rd : Nat)
  /-- TIME_ARM_REL (R248). TIME func 1 arms the timer ra µs from now, or disarms it. -/
  | timeArmRel (q ra : Nat)
  /-- TIME_ARM_ABS (R248). TIME func 2 arms the timer at an absolute WT. -/
  | timeArmAbs (q ra : Nat)
  /-- TIMER_EXPIRE (R248). The sequencer timer reaches its time and TIMER becomes pending. -/
  | timerExpire (q : Nat)
  /-- WDOG_TRAP (R260). The instruction watchdog reaches its limit and the sequencer traps with WDOG. -/
  | wdogTrap (q : Nat)
  /-- SEQ_RESTART (R262). A write of FS_SEQ_CTL.restart or CC_SEQ_CTL.restart restarts the sequencer from a checked image or the reference program. -/
  | seqRestart (w : Writer) (q : Nat)
  /-- MBOX_WRITE (R244). An owner write of the mailbox register makes MBOX pending. -/
  | mboxWrite (w : Writer) (q v : Nat)
  /-- OWNER_SEM_SIG (R252). An owner write of FS_SEM_SIG or CC_SEM_SIG adds to a semaphore. -/
  | ownerSemSig (w : Writer) (q v : Nat)
  /-- IMG_BEGIN (R266). CC_IMG_CMD with op begin starts receiving an image into the target's other bank. -/
  | imgBegin (w : Writer) (fs : Bool) (len : Nat)
  /-- IMG_DATA (R266). A write of CC_IMG_DATA stores the next 8 image bytes. -/
  | imgData (w : Writer) (v : Nat)
  /-- IMG_COMMIT (R265). CC_IMG_CMD with op commit checks the image and stages or rejects it. -/
  | imgCommit (w : Writer)
  /-- IMG_ABORT (R266). CC_IMG_CMD with op abort ends staging. -/
  | imgAbort (w : Writer)
  /-- IMG_APPLY (R266). CC_IMG_CMD with op apply restarts the named sequencers from the staged image. -/
  | imgApply (w : Writer) (fs : Bool) (field : Nat) (all : Bool)
  /-- IMG_PROMOTE (R266). CC_IMG_CMD with op promote stores the boot pointer to the staged bank. -/
  | imgPromote (w : Writer) (fs : Bool)
  /-- IMG_REVERT (R266). CC_IMG_CMD with op revert moves the boot pointer to the other bank when that bank passes the checks. -/
  | imgRevert (w : Writer) (fs : Bool)
  /-- IMG_FLOOR_WRITE (R266). A write of CC_IMG_FLOOR that lowers a floor is ignored outside MANUFACTURE and RMA. -/
  | imgFloorWrite (w : Writer) (v : Nat)
  /-- ERR_PIN_LATCH (R272). edge tells that the input was inactive for 2 cycles before; held that it stays active. -/
  | errPinLatch (p : PinRef) (edge held : Bool)
  /-- PIN_RELATCH (R273). An input still active after its latch was cleared latches again after 10 ms. -/
  | pinRelatch (p : PinRef)
  /-- PIN_STUCK (R273). An input active for 1 s without a break is flagged stuck and recorded. -/
  | pinStuck (p : PinRef)
  /-- PIN_UNSTUCK (R273). A stuck input inactive for 10 ms clears its stuck flag and PIN_STUCK is recorded with set = 0. -/
  | pinUnstuck (p : PinRef)
  /-- FSW_CLOSE (R275). A write of 1 to FS_FSW.open closes the FS handling. -/
  | fswClose (w : Writer) (f v : Nat)
  /-- CC_FAULT_CLOSE (R276). An owner write of CC_FAULT_CTL.open closes the CC handling and drops the interrupt. -/
  | ccFaultClose (w : Writer) (v : Nat)
  /-- PIN_SELECT (R272). A write of FS_PIN_SEL captures FS_PIN_DATA and clears the pin's edge count. -/
  | pinSelect (w : Writer) (f v : Nat)
  /-- PIN_CLEAR (R272). A write of FS_PIN_CLR clears the named pin's latch. -/
  | pinClear (w : Writer) (f v : Nat)
  /-- CT_ERR_CAPTURE (R272). A write of CT_ERR_CAP captures and clears the host-input edge counts. -/
  | ctErrCapture (w : Writer) (k v : Nat)
  /-- INJECT_ARM (R277). An owner write of CC_INJ_CMD arms N inverted checks of a checker at a unit, or is refused. -/
  | injectArm (w : Writer) (v : Nat)
  /-- INJECT_CANCEL (R279). A write of CC_INJ_CMD with N = 0 or checker 0 cancels an arming. -/
  | injectCancel (w : Writer) (v : Nat)
  /-- RECORD_FORWARD_ARRIVE (R285). A forwarded record reaches the CC master copy; sequence gaps are counted and recorded. -/
  | recordForwardArrive (f : Nat)
  /-- BUCKET_REFILL (R286). A record code's token bucket gains one token at the end of its period_ms. -/
  | bucketRefill (r code : Nat)
  /-- LOUPE_SELECT (R289). A write of CC_LOUPE_SEL selects the source and area, releasing a freeze of the old source. -/
  | loupeSelect (w : Writer) (v : Nat)
  /-- LOUPE_CAPTURE (R289). A write of CC_LOUPE_CUR captures one record atomically, or refuses. -/
  | loupeCapture (w : Writer) (v : Nat)
  /-- LOUPE_ADVANCE (R289). A read of CC_LOUPE_DATA3 advances the cursor and captures the next record. -/
  | loupeAdvance (w : Writer)
  /-- REC_CLEAR (R290). A write of CC_REC_CLR clears the first or last area of a recorder. -/
  | recClear (w : Writer) (v : Nat)
  /-- RECORDER_FREEZE (R291). A write of CC_LOUPE_FRZ.freeze = 1 freezes the selected recorder, or is refused. -/
  | recorderFreeze (w : Writer) (v : Nat)
  /-- RECORDER_RELEASE (R291). A write of freeze = 0 releases the recorder and writes its held records. -/
  | recorderRelease (w : Writer) (v : Nat)
  /-- FREEZE_MAX_EXPIRE (R291). A recorder freeze reaches max_ms and is released. -/
  | freezeMaxExpire (r : Nat)
  /-- HANG (R298). An engine's progress watchdog reaches its interval; HANG is raised against the engine and its suspect list freezes. -/
  | hang (e : Nat)
  /-- CONTEXT_CHANGE (R298). active and ctx are the levels after the change. -/
  | contextChange (e cyc : Nat) (active : Bool) (ctx : Nat)
  /-- CMD_RESET_CONTEXT (R300). v is the value written to CC_RESET_CMD. -/
  | cmdResetContext (w : Writer) (v : Nat)
  /-- CMD_RESET_ENGINE (R300). v is the value written to CC_RESET_CMD. -/
  | cmdResetEngine (w : Writer) (v : Nat)
  /-- CMD_RESET_PARTITION (R300). v is the value written to CC_RESET_CMD. -/
  | cmdResetPartition (w : Writer) (v : Nat)
  /-- CMD_RESET_WAFER (R300). v is the value written to CC_RESET_CMD. -/
  | cmdResetWafer (w : Writer) (v : Nat)
  /-- CMD_RESET_POWER_CYCLE (R300). v is the value written to CC_RESET_CMD. -/
  | cmdResetPowerCycle (w : Writer) (v : Nat)
  /-- RETURN_TO_SERVICE (R319). v is the value written to CC_RESET_CMD. -/
  | returnToService (w : Writer) (v : Nat)
  /-- CLEAR_BUDGET_HOLD (R318). v is the value written to CC_RESET_CMD. -/
  | clearBudgetHold (w : Writer) (v : Nat)
  /-- RESET_ACK (R302). The host acknowledges a context or engine reset; open tiles are abandoned and RESET_DONE is posted. -/
  | resetAck (c : Nat)
  /-- RESET_TIMEOUT (R303). x is the engine of scopes 0 and 1 and the partition of scope 2; scope 3 ignores it. -/
  | resetTimeout (scope x : Nat)
  /-- PARTITION_ISOLATE (R305). At T_iso the darkslide closes, the generation increments, open work is abandoned, and LTs send their negative acknowledgements. -/
  | partitionIsolate (p : Nat)
  /-- RESET_DRAINED (R307). all tells that every MT has drained; otherwise 20 µs have passed. -/
  | resetDrained (p : Nat) (all : Bool)
  /-- PARTITION_RESET_ACK (R306). The host acknowledges the compute reset, and retraining begins. -/
  | partitionResetAck (p : Nat)
  /-- RETRAIN_DONE (R308). The channels trained in full, with their new records. -/
  | retrainDone (p : Nat) (recs : List TrainIn)
  /-- RETRAIN_TIMEOUT (R308). Retraining reaches 12 s after the acknowledgement; RESET_TIMEOUT is raised with phase 1. -/
  | retrainTimeout (p : Nat)
  /-- PARTITION_RELEASE (R305). Release completes: new key, CTs and MTs re-enabled, darkslide open, release levels raised. -/
  | partitionRelease (p : Nat)
  /-- PARTITION_MAP_WRITE (R296). chan tells CC_PART_CHAN from CC_PART_FIELD; j is the register. -/
  | partitionMapWrite (w : Writer) (chan : Bool) (j v : Nat)
  /-- SUSPECT_SELECT (R320). A write of CT_SUSP_SEL captures an engine's suspect list. -/
  | suspectSelect (w : Writer) (k v : Nat)
  /-- SUSPECT_LIST_RELEASE (R320). A write of CT_SUSP_SEL.release unfreezes an engine's suspect list. -/
  | suspectListRelease (w : Writer) (k v : Nat)
  /-- CREPLAY_START (R321). A write of FS_CREPLAY_CMD starts a context replay on a quarantine core, or is refused. -/
  | creplayStart (w : Writer) (f v : Nat)
  /-- CREPLAY_CANCEL (R322). A write of FS_CREPLAY_CMD.cancel ends the running replay with outcome 5. -/
  | creplayCancel (w : Writer) (f v : Nat)
  /-- CREPLAY_WAIT_EXPIRE (R321). No grant of the quarantine core within wait_ms gives outcome 6. -/
  | creplayWaitExpire (f : Nat)
  /-- CREPLAY_LIMIT_EXPIRE (R321). lim tells that the limit expired; otherwise the quarantine core's watchdog did. -/
  | creplayLimitExpire (f : Nat) (lim : Bool)
  /-- REPLAY_DONE (R322). The host signals rp_done or rp_unable; the outcome is recorded and signalled, and the core is released. -/
  | replayDone (f : Nat) (unable : Bool)
  /-- CKPT_TABLE_WRITE (R329). host tells the hosting table from the shard table; word is the register number, v the value written. -/
  | ckptTableWrite (w : Writer) (host : Bool) (word v : Nat)
  /-- CKPT_SAVE (R334). v is the value written to CC_CKPT_CMD; outside tells that a partner is outside the domain, below major version 4 or outside the trust group; tab are the four blocks of the stream table as read. -/
  | ckptSave (w : Writer) (v : Nat) (outside : Bool) (tab : List MemRd)
  /-- CKPT_OPEN_ARRIVE (R334). h is the hosting entry named; count channels of len blocks each. -/
  | ckptOpenArrive (h wafer part shard count len key step : Nat)
  /-- CKPT_OPEN_REPLY (R334). A partner's accept or refuse reaches the source, and the drain begins or the partner is removed. -/
  | ckptOpenReply (p shard partner : Nat) (ok : Bool)
  /-- SHADOW_BLOCK_ARRIVE (R334). Block j of sub-stream k for hosting entry h, with its sleeve. -/
  | shadowBlockArrive (h k j slv : Nat) (data : List Byte)
  /-- CKPT_DRAIN_DONE (R334). l are the blocks drained as their MTs read them. -/
  | ckptDrainDone (p : Nat) (l : List MemRd)
  /-- CKPT_ROOT_ARRIVE (R334). A partner receives a shard root and answers match or mismatch. -/
  | ckptRootArrive (h root : Nat)
  /-- CKPT_VERIFY_ANSWER (R334). A verify answer reaches the source; at quorum the manifest is built and sent. -/
  | ckptVerifyAnswer (p shard partner : Nat) (ok : Bool)
  /-- CKPT_MANIFEST_ARRIVE (R334). A partner writes and checks the manifest, marks the slot committed and acknowledges. -/
  | ckptManifestArrive (h : Nat) (man : List Byte)
  /-- CKPT_MANIFEST_ACK (R334). A manifest acknowledgement reaches the source; at quorum the save commits. -/
  | ckptManifestAck (p shard partner : Nat)
  /-- CKPT_ACK_TIMEOUT (R335). No verify answer or manifest acknowledgement arrives within ack_ms, and the save fails. -/
  | ckptAckTimeout (p : Nat)
  /-- CKPT_RESTORE (R338). v is the value written to CC_CKPT_CMD. -/
  | ckptRestore (w : Writer) (v : Nat)
  /-- RESTORE_DATA_COMPLETE (R339). reach tells that the source partner answered with a committed copy; man is its manifest; from newest, man holds the manifests of the partners that answered, that of partner 0 first; l are the blocks read in place or received, in the local channels and blocks. -/
  | restoreDataComplete (p : Nat) (reach : Bool) (man : List Byte) (l : List MemRd)
  /-- CKPT_ABORT (R335). v is the value written to CC_CKPT_CMD. -/
  | ckptAbort (w : Writer) (v : Nat)
  /-- STOP_REQUEST (R343). CC_STOP_CMD with op stop fixes T_stop, asserts the stop-bath wire and broadcasts the announcement, or is refused. -/
  | stopRequest (w : Writer) (joined freeze : Bool)
  /-- STOP_ANNOUNCE_ARRIVE (R344). The stop announcement reaches a tap, which goes quiet and raises its tree-34 contribution. -/
  | stopAnnounceArrive (u : Nat)
  /-- STOP_CANCEL (R345). CC_STOP_CMD with op cancel cancels the stop before the sample, or is refused after it. -/
  | stopCancel (w : Writer)
  /-- STOP_SAMPLE (R345). At T_stop − 300 ns the CC samples tree 34 and lets the stop proceed or cancels it. -/
  | stopSample 
  /-- STOP_GATE (R346). At T_stop CTs gate their clusters, MTs snapshot and pause, and LTs stop and capture. -/
  | stopGate (txs : List MtTx)
  /-- JOIN_ARRIVE (R349). A joined-stop message arrives; an accepting wafer fixes its T_stop and forwards, otherwise it ignores and counts it. -/
  | joinArrive (l id lead : Nat)
  /-- STOP_MARK_ARRIVE (R350). A peer's STOP_MARK arrives and the port's capture is closed. -/
  | stopMarkArrive (l id : Nat)
  /-- CAPTURE_WINDOW_EXPIRE (R350). At T_stop + 4 µs unmarked ports are open and STOP_DONE is recorded. -/
  | captureWindowExpire 
  /-- LINK_LATENCY_PING (R349). Every second each LT measures its port's one-way latency with a control ping. -/
  | linkLatencyPing (l rtt turn : Nat)
  /-- STOP_FREEZE (R351). CC_STOP_CMD with op freeze asserts the freeze wire. -/
  | stopFreeze (w : Writer)
  /-- STOP_RELEASE (R351). CC_STOP_CMD with op release drops the freeze wire. -/
  | stopRelease (w : Writer)
  /-- STOP_RESUME (R351). CC_STOP_CMD with op resume fixes T_run and forwards the resume in a joined stop. -/
  | stopResume (w : Writer)
  /-- FORCE_RELEASE (R351). CC_STOP_CMD with op force_release drops both wires at once and the CTs ungate unaligned. -/
  | forceRelease (w : Writer)
  /-- STOP_AUTO_RESUME (R351). An unfrozen stop resumes by itself after max_ms. -/
  | stopAutoResume 
  /-- RESUME_ARRIVE (R352). A joined resume message arrives and is acted on and forwarded, or ignored while frozen. -/
  | resumeArrive (l id lead : Nat)
  /-- STOP_RUN (R351). At T_run the CTs ungate; LTs deliver their rings and return credit; MTs restart paused work. -/
  | stopRun 
  /-- STOP_WIRE_DROP (R351). 1 µs after T_run the CC drops the stop-bath wire. -/
  | stopWireDrop 
  /-- SHEET_CAPTURE (R353). CC_SHEET_CMD with op capture deseals partitions in scope and starts the contact-sheet capture. -/
  | sheetCapture (w : Writer) (v : Nat)
  /-- SHEET_ABORT (R354). CC_SHEET_CMD with op abort ends the capture and marks the sheet aborted. -/
  | sheetAbort (w : Writer)
  /-- SHEET_COMPLETE (R355). The capture ends, the header is written and the freeze is dropped with auto_release. -/
  | sheetComplete (sections need : Nat)
  /-- BARRIER_JOIN (R356). An engine joins a barrier channel. -/
  | barrierJoin (e cyc c : Nat)
  /-- BARRIER_ENTER (R357). A participant enters a round; its pending count and round count advance. -/
  | barrierEnter (e cyc c : Nat)
  /-- BARRIER_LEAVE (R357). A participant leaves a channel and its pending entries are discarded. -/
  | barrierLeave (e cyc c : Nat)
  /-- BARRIER_RELEASE (R358). A barrier tree goes high; each CT releases the round and toggles the sense bit. -/
  | barrierRelease (c : Nat)
  /-- BARRIER_RELEASE_TIMER (R358). The CT's hold-high, contribute-zero and disregard intervals after a release end. -/
  | barrierReleaseTimer (c : Nat)
  /-- BAR_CFG_WRITE (R359). A write of CC_BAR_CFG clears every participant of the channel and is forwarded to the CTs. -/
  | barCfgWrite (w : Writer) (c v : Nat)
  /-- LIFECYCLE_TRANSITION (R365). An owner write of CC_LIFECYCLE with confirm 0xA5 moves the state forward, desealing and tainting as required. -/
  | lifecycleTransition (w : Writer) (v : Nat)
  /-- TRUST_GROUP_WRITE (R369). An owner write of CC_TRUST_GROUP is taken only while no partition is sealed. -/
  | trustGroupWrite (w : Writer) (v : Nat)
  /-- TRUST_GROUP_SEND (R369). At link training and every second, each LT sends its trust group to its peer and stores the peer's group. -/
  | trustGroupSend (l peer : Nat)
  /-- GET_VERSION (R370). SPDM GET_VERSION request answered by the attestation engine. -/
  | getVersion 
  /-- GET_CAPABILITIES (R370). SPDM GET_CAPABILITIES request answered. -/
  | getCapabilities (ver : Nat)
  /-- NEGOTIATE_ALGORITHMS (R370). SPDM NEGOTIATE_ALGORITHMS request answered. -/
  | negotiateAlgorithms (ver : Nat)
  /-- GET_DIGESTS (R370). SPDM GET_DIGESTS request answered for certificate slot 0. -/
  | getDigests (ver : Nat)
  /-- GET_CERTIFICATE (R370). SPDM GET_CERTIFICATE returns the slot 0 chain. -/
  | getCertificate (ver slot off len : Nat)
  /-- CHALLENGE (R370). SPDM CHALLENGE answered with a signature by the identity key. -/
  | challenge (ver slot : Nat) (summary : Bool) (nonce : List Byte)
  /-- GET_MEASUREMENTS (R371). SPDM GET_MEASUREMENTS returns the measurement blocks and keeps the nonce and epochs of a signed 0xFF response. -/
  | getMeasurements (ver : Nat) (sign : Bool) (index : Nat) (nonce : List Byte)
  /-- SPDM_UNSUPPORTED (R370). Any other SPDM request is answered with ERROR UnsupportedRequest. -/
  | spdmUnsupported (ver code : Nat)
  /-- KEY_BEGIN (R377). CC_KEY_CMD with op begin starts receiving a wrapped-key blob for a partition. -/
  | keyBegin (w : Writer) (p : Nat)
  /-- KEY_DATA (R377). A write of CC_KEY_DATA stores the next 8 blob bytes. -/
  | keyData (w : Writer) (v : Nat)
  /-- KEY_LOAD (R377). CC_KEY_CMD with op load checks and unwraps the blob, writes the key slot and sends the key to the MTs. -/
  | keyLoad (w : Writer) (p : Nat)
  /-- KEY_ABORT (R377). CC_KEY_CMD with op abort ends receiving a blob. -/
  | keyAbort (w : Writer) (p : Nat)
  /-- SEAL_REGION_WRITE (R375). A write of MT_SEAL_RGN is refused when the region is out of bounds, overlapping or locked. -/
  | sealRegionWrite (w : Writer) (m n : Nat) (wordB : Bool) (v : Nat)
  /-- TAG_LINE_ARRIVE (R379). A GCM tag line arrives; a failing tag sets fog, or is recorded late when it arrived after delivery. -/
  | tagLineArrive (m b tag : Nat)
  /-- DEBUG_ENABLE (R380). An owner write of CC_PART_SEAL.debug = 1 enables debug, first desealing a sealed partition. -/
  | debugEnable (w : Writer) (p : Nat)
  /-- DEBUG_DISABLE (R381). A write of debug = 0 disables debug, or completes a deseal without enabling debug. -/
  | debugDisable (w : Writer) (p : Nat)
  /-- SRAM_CLEAR_ACK (R381). The host acknowledges the SRAM clear; DESEAL is recorded and the waiting operation proceeds. -/
  | sramClearAck (p : Nat)
  /-- SRAM_CLEAR_TIMEOUT (R381). No acknowledgement arrives within clear_ms; this is recorded once and the CC keeps waiting. -/
  | sramClearTimeout (p : Nat)
  /-- SCRUB_START (R382). CC_SCRUB_CMD with op start begins a scrub: it deseals, isolates and disables trace. -/
  | scrubStart (w : Writer) (p : Nat)
  /-- SCRUB_ABORT (R384). CC_SCRUB_CMD with op abort ends the scrub incomplete, cause 1. -/
  | scrubAbort (w : Writer) (p : Nat)
  /-- SCRUB_PHASE_DONE (R382). A scrub pass or check completes and the next phase starts, or the scrub ends. -/
  | scrubPhaseDone (p : Nat) (bad : Option Nat)
  /-- SCRUB_ACK_TIMEOUT (R384). No compute-reset acknowledgement arrives within 3 s, and the scrub ends incomplete, cause 2. -/
  | scrubAckTimeout (p : Nat)
  /-- SAFELIGHT_CT_REPORT (R389). Every 1 ms each CT sends its safelight increments to its FS. -/
  | safelightCtReport (k : Nat)
  /-- SAFELIGHT_FS_REPORT (R389). Every 10 ms each FS sends the field's increments to the CC, which credits the partition and wafer sums. -/
  | safelightFsReport (f : Nat)
  /-- SAFE_SELECT (R387). A write of CT_SAFE_SEL captures a safelight counter into CT_SAFE_VAL. -/
  | safeSelect (w : Writer) (k v : Nat)
  /-- CC_SAFE_SELECT (R389). A write of CC_SAFE_SEL captures a partition or wafer sum. -/
  | ccSafeSelect (w : Writer) (v : Nat)
  /-- PCNT_SELECT (R390). A write of CT_PCNT_SEL captures a programmable counter's configuration and value. -/
  | pcntSelect (w : Writer) (k v : Nat)
  /-- PCNT_CFG_WRITE (R390). A write of CT_PCNT_CFG reconfigures the counter and clears it and its wrapped flag. -/
  | pcntCfgWrite (w : Writer) (k v : Nat)
  /-- PCNT_CLEAR (R390). v is the value written to CT_PCNT_CTL. -/
  | pcntClear (w : Writer) (k v : Nat)
  /-- TRACE_ENABLE (R392). v is the value written to CC_TRACE_CFG. -/
  | traceEnable (w : Writer) (p v : Nat)
  /-- TRACE_MARK (R394). A write of CC_TRACE_MARK queues a type-7 host marker record. -/
  | traceMark (w : Writer) (p v : Nat)
  /-- TRACE_BLOCK_WRITE (R393). The trace writer writes a block when it is full or 50 µs after its first record. -/
  | traceBlockWrite (p : Nat)
  /-- LEDGER_SELECT (R172). A write of FS_LEDGER_SEL captures an engine's four ledger words. -/
  | ledgerSelect (w : Writer) (f v : Nat)
  /-- FIX_SELECT (R196). A write of FS_FIX_SEL captures a latent entry into FS_FIX_DATA. -/
  | fixSelect (w : Writer) (f v : Nat)
  /-- FENCE_INDEX_SELECT (R202). A write of CC_FENCE_IDX selects the fence-list entry that CC_FENCE_ENTRY shows. -/
  | fenceIndexSelect (w : Writer) (v : Nat)
  /-- SHARD_SELECT (R326). A write of CC_CKPT_SHARD_SEL captures a shard entry. -/
  | shardSelect (w : Writer) (v : Nat)
  /-- HOST_SELECT (R327). A write of CC_CKPT_HOST_SEL captures a hosting entry. -/
  | hostSelect (w : Writer) (v : Nat)
  /-- BOOT_SELECT (R399). A write of CC_BOOT_SEL captures the end WT of a start-up step. -/
  | bootSelect (w : Writer) (v : Nat)
  /-- BIST_SELECT (R403). A write of CC_BIST_SEL captures a sub-unit's BIST result. -/
  | bistSelect (w : Writer) (v : Nat)
  /-- HOME_SELECT (R449). A write of CC_HOME_SEL captures a tap's home FS and stack. -/
  | homeSelect (w : Writer) (v : Nat)
  /-- ARCHIVE_SELECT (R426). bad: the word reads uncorrectable. -/
  | archiveSelect (w : Writer) (v : Nat) (bad : Bool)
  /-- POWER_ON_RESET (R399). The straps, and the archive words that read uncorrectable. -/
  | powerOnReset (waferId sa : Nat) (bad : List Nat)
  /-- CC_BIST_DONE (R402). What BIST finds in CC-A and CC-B. -/
  | ccBistDone (a b : BistRes)
  /-- BIST_WAVE_DONE (R402). Units of the wave in which BIST finds something. -/
  | bistWaveDone (res : List BistRes)
  /-- BOOT_STRIP_WAIT_EXPIRE (R405). A core that has not granted its start-up strip within strip_wait_ms is released from the request. -/
  | bootStripWaitExpire (c : Nat)
  /-- START_STRIPS_DONE (R210). Start-up strips end, and reconciliation forms the fence set and drives it (step 8). -/
  | startStripsDone 
  /-- FS_IMAGE_VERIFIED (R406). The copy the FS received. -/
  | fsImageVerified (f : Nat) (copy : List Byte)
  /-- BROADCAST_DONE (R406). The broadcast ends; the pack is loaded and every sequencer is started. -/
  | broadcastDone 
  /-- TRAIN_REPORT (R407). ok, trained in full, a saved record was tried first, the new record. -/
  | trainReport (link : Bool) (u : Nat) (ok full tried : Bool) (data : List Byte)
  /-- TRAIN_LIMIT_EXPIRE (R407). train_s passes and every unreported channel and port counts as failed. -/
  | trainLimitExpire 
  /-- FIELD_RELEASE (R408). Step 11 raises the release levels of qualifying fields together and sets CC_SERVICE. -/
  | fieldRelease 
  /-- OWNER_CLAIM (R409). A write of CC_OWNER.op claim makes the writer owner when there is none, or TRAY takes over a stale owner. -/
  | ownerClaim (w : Writer)
  /-- OWNER_RELEASE (R409). The owner's write of release leaves the block without an owner. -/
  | ownerRelease (w : Writer)
  /-- OWNER_ACCEPT (R411). The handover target's accept makes it owner within 100 ms. -/
  | ownerAccept (w : Writer)
  /-- OWNER_STALE (R410). 5 s without an owner access sets CC_OWNER.stale. -/
  | ownerStale 
  /-- HANDOVER_START (R411). A write of CC_OWNER_HO.target starts, replaces or cancels a handover. -/
  | handoverStart (w : Writer) (target : Nat)
  /-- HANDOVER_LAPSED (R411). 100 ms pass without accept; the handover lapses and is recorded. -/
  | handoverLapsed 
  /-- ARRAY_SELFTEST_START (R404). A write of FS_SELFTEST.start requests the in-service array self-test, which waits for an empty queue. -/
  | arraySelftestStart (w : Writer) (f : Nat)
  /-- ARRAY_SELFTEST_DONE (R404). The 2 ms array self-test ends with pass or fail, and reservations resume. -/
  | arraySelftestDone (f : Nat) (pass : Bool)
  /-- CLOCK_WINDOW (R414). Edge counts of the window. -/
  | clockWindow (ref bk : Nat)
  /-- CLOCK_EDGE_LOSS (R415). BKCLK, else REFCLK. -/
  | clockEdgeLoss (bk : Bool)
  /-- PLL_READY (R417). PLL B, else PLL A. -/
  | pllReady (bk : Bool)
  /-- SOURCE_RETURN (R417). The preferred source has been ready for 1 s, and TAPCLK switches back to it. -/
  | sourceReturn 
  /-- BKCLK_STABLE (R419). A cold-started BKCLK becomes stable after 200 µs and its edge check begins. -/
  | bkclkStable 
  /-- AON_CLOCK_LOSS (R416). AONCLK shows no edge for 100 ns as seen from TAPCLK; AONCLK is condemned. -/
  | aonClockLoss 
  /-- AON_SELF_RESET (R416). As for POWER_ON_RESET. -/
  | aonSelfReset (waferId sa : Nat) (bad : List Nat)
  /-- SSC_CFG_WRITE (R421). A write of CC_SSC_CFG takes effect at the start of the next modulation period. -/
  | sscCfgWrite (w : Writer) (v : Nat)
  /-- VDD_WARN (R422). The AON supply falls through 0.70 V; VDD_WARN is raised and the newest records are saved to the archive. -/
  | vddWarn (mv : Nat)
  /-- VDD_WARN_CLEAR (R422). The AON supply rises above 0.72 V and the warning clears. -/
  | vddWarnClear (mv : Nat)
  /-- SUPPLY_RESET (R422). As for POWER_ON_RESET. -/
  | supplyReset (waferId sa : Nat) (bad : List Nat)
  /-- VDD_DROOP (R423). Lowest reading and time below the threshold. -/
  | vddDroop (f mv ns : Nat)
  /-- CYCLE_CAPTURE (R425). A write of CT_CYC.capture samples the host cycle count and WT together. -/
  | cycleCapture (w : Writer) (k cyc : Nat)
  /-- TEMP_STALE (R440). ts_upd does not toggle for 1 ms; the cluster temperature reads −128 and heating stops. -/
  | tempStale (k : Nat)
  /-- HREG_REQUEST (R437). part: made for that tenant. -/
  | hregRequest (write : Bool) (addr data : Nat) (part : Option Nat)
  /-- HREG_TIMEOUT (R437). A register request not answered within 20 µs receives status 3. -/
  | hregTimeout 
  /-- REGISTER_WRITE (R465). A write to a register with no row of its own stores the fields the writer may write, persisting RP fields to the archive. -/
  | registerWrite (w : Writer) (addr v : Nat)
  /-- RESERVATION_REPLY (R120). The FS's accept or refusal of a proof reservation reaches the CT, which keeps mirroring or stops it, counts the refusal in CT_PROOF_STAT.dropped and records cause 4. -/
  | reservationReply (f : Nat)
  /-- LINK_TRAINED (R369). An off-wafer link port completes training in service; the LT measures λ, exchanges trust groups, counts as trained for joined stops and completes a scope-3 reset. -/
  | linkTrained (l : Nat)
  /-- LINK_DOWN (R349). An off-wafer link port goes down and stops counting as trained for join, resume and trust-group purposes. -/
  | linkDown (l : Nat)
  /-- TRACE_RECORD_ARRIVE (R393). A bulk-class trace record reaches the partition's trace writer, which places it in the current block or drops it and marks a loss. -/
  | traceRecordArrive (k : Nat)
  /-- UNDEFINED_OPCODE (R237). word holds the word fetched in bits 31:0; bit 32 tells that its fetch meets an uncorrectable SRAM error. -/
  | undefinedOpcode (q word : Nat)
  /-- LSP_RECORD_READY (R221). The CC finishes building a Listapor record, including any payload fetched from the FS, and CC_LSP_STAT.state moves from building to ready. -/
  | lspRecordReady 
  /-- RESTORE_SERVE_REQUEST (R338). h is the hosting entry named. -/
  | restoreServeRequest (h : Nat)
  /-- PROBE_BIST_RUN (R403). PROBE, in MANUFACTURE or RMA, runs logic or memory BIST or shifts scan chains on a chosen unit outside power-up, and the result replaces the one in CC_BIST_DATA. -/
  | probeBistRun (res : BistRes)
  /-- PLDM_REQUEST (R447). 0 AON supply, 1 + f hottest cluster of field f, 255 service level. -/
  | pldmRequest (sensor : Nat)
  /-- MCTP_CONTROL_REQUEST (R447). An MCTP control message (type 0x00) on the management port is answered by the AON-domain endpoint. -/
  | mctpControlRequest (cmd v : Nat)
  /-- I3C_ADDRESS_ASSIGN (R447). The I3C bus controller assigns a dynamic address, after which the management port no longer answers only at its static address. -/
  | i3cAddressAssign (a : Nat)
  /-- YIELD_GRANT_DROP (R442). The host drops yld_grant after a release, and a waiting yield request for that core is raised after the grant has been low for a cycle. -/
  | yieldGrantDrop (c : Nat)
  /-- RESET_REQUEST_RAISE (R439). A waiting context or engine reset request of a core is raised on rst_req once the previous reset handshake has completed. -/
  | resetRequestRaise (c : Nat)
deriving DecidableEq, Repr

end Sys2Proof
end

