-- ==== Sys2Proof/Decode.lean ====
section
/-!
DEFINITION. Decoding. The opcode table gives no row any bits, so no word spells a command (decodeTableWord). The
sequencer's own 32-bit instructions (Tables 10-3 to 10-5) do have bits: decodeSeq reads one into the command that
executes it on a sequencer, and encodeSeq is its inverse on well-formed instructions.
-/
namespace Sys2Proof
open Sys2Proof.Machine

/-- The command a word spells by the opcode table's bits: the table gives none. -/
def decodeTableWord (_nbits _w : Nat) : Option Instr := none

/-- Fields of Table 10-3. -/
def fOp (w : Nat) : Nat := bits w 26 6
def fRd (w : Nat) : Nat := bits w 22 4
def fRa (w : Nat) : Nat := bits w 18 4
def fSub (w : Nat) : Nat := bits w 16 2
def fImm (w : Nat) : Nat := bits w 0 16
def fRb (w : Nat) : Nat := bits w 14 4
def fFunc (w : Nat) : Nat := bits w 0 14
def fOff22 (w : Nat) : Nat := bits w 0 22

/-- ALU functions (Table 10-5); CLZ and POPC keep rb, which their meaning requires to be g0. -/
def decodeAlu (q rd ra rb : Nat) : Nat → Option Instr
  | 0 => some (.add q rd ra rb)
  | 1 => some (.sub q rd ra rb)
  | 2 => some (.andI q rd ra rb)
  | 3 => some (.orI q rd ra rb)
  | 4 => some (.xorI q rd ra rb)
  | 5 => some (.shl q rd ra rb)
  | 6 => some (.shr q rd ra rb)
  | 7 => some (.sra q rd ra rb)
  | 8 => some (.mul q rd ra rb)
  | 9 => some (.mulhu q rd ra rb)
  | 10 => some (.slt q rd ra rb)
  | 11 => some (.sltu q rd ra rb)
  | 12 => some (.clz q rd ra rb)
  | 13 => some (.popc q rd ra rb)
  | _ => none

/-- Reliability instructions and TIME by func (Table 10-10, R248); their unused registers are required to be zero. -/
def decodeRel (q op rd ra rb fn : Nat) : Option Instr :=
  if op = 0x38 then (if fn = 0 then some (.strip q rd ra rb) else none)
  else if op = 0x39 then
    (if fn = 0 then some (.proofSetForce q rd ra rb)
     else if fn = 1 then (if ra = 0 ∧ rb = 0 then some (.proofSetRekey q rd) else none)
     else if fn = 2 then some (.proofSetRate q rd ra rb) else none)
  else if op = 0x3A then
    (if fn = 0 then some (.fenceConfirm q rd ra rb)
     else if fn = 1 then (if rb = 0 then some (.fenceClear q rd ra) else none)
     else if fn = 2 then some (.fenceMakeLatent q rd ra rb)
     else if fn = 3 then (if rb = 0 then some (.fenceReplay q rd ra) else none) else none)
  else if op = 0x3B then
    (if fn = 0 then some (.resetContext q rd ra rb) else if fn = 1 then some (.resetEngine q rd ra rb)
     else if fn = 2 then some (.resetPartition q rd ra rb) else if fn = 3 then some (.resetWafer q rd ra rb)
     else if fn = 4 then some (.resetPowerCycle q rd ra rb) else none)
  else if op = 0x3D then (if rb = 0 ∧ fn = 0 then some (.bracket q rd ra) else none)
  else if op = 0x3E then
    (if rb ≠ 0 then none
     else if fn = 0 then (if ra = 0 then some (.timeRead q rd) else none)
     else if fn = 1 then (if rd = 0 then some (.timeArmRel q ra) else none)
     else if fn = 2 then (if rd = 0 then some (.timeArmAbs q ra) else none) else none)
  else none

/-- Immediate arithmetic by opcode (Table 10-4). -/
def decodeImm (q op rd ra imm : Nat) : Option Instr :=
  if op = 0x01 then some (.addi q rd ra imm) else if op = 0x02 then some (.andi q rd ra imm)
  else if op = 0x03 then some (.ori q rd ra imm) else if op = 0x04 then some (.xori q rd ra imm)
  else if op = 0x05 then some (.shli q rd ra imm) else if op = 0x06 then some (.shri q rd ra imm)
  else if op = 0x07 then some (.srai q rd ra imm)
  else if op = 0x08 then (if ra = 0 then some (.lui q rd imm) else none)
  else if op = 0x09 then some (.slti q rd ra imm) else if op = 0x0A then some (.sltui q rd ra imm) else none

/-- Loads, stores, CSR and block register access by opcode (Table 10-4). -/
def decodeMem (q op rd ra imm : Nat) : Option Instr :=
  if op = 0x10 then some (.lw q rd ra imm false) else if op = 0x11 then some (.lh q rd ra imm false)
  else if op = 0x12 then some (.lhu q rd ra imm false) else if op = 0x13 then some (.lb q rd ra imm false)
  else if op = 0x14 then some (.lbu q rd ra imm false) else if op = 0x15 then some (.sw q rd ra imm)
  else if op = 0x16 then some (.sh q rd ra imm) else if op = 0x17 then some (.sb q rd ra imm)
  else if op = 0x18 then (if ra = 0 then some (.csrr q rd imm) else none)
  else if op = 0x19 then (if rd = 0 then some (.csrw q imm ra) else none)
  else if op = 0x1A then some (.rdr q rd ra imm false) else if op = 0x1B then some (.wrr q rd ra imm false)
  else if op = 0x27 then some (.jalr q rd ra imm) else if op = 0x3C then some (.log q rd ra imm) else none

/-- SIG by its sub field (R249). -/
def decodeSig (q rd ra sub imm : Nat) : Option Instr :=
  if sub = 0 then (if rd = 0 then some (.sigLocalAdd q ra imm) else none)
  else if sub = 1 then some (.sigRemoteAdd q rd ra imm)
  else if sub = 2 then (if rd = 0 then some (.sigLocalSub q ra imm) else none) else none

/-- Branches (B format: op, ra in 25:22, rb in 21:18, 00, off16). -/
def decodeBranch (q op ra rb off : Nat) : Option Instr :=
  if op = 0x20 then some (.beq q ra rb off) else if op = 0x21 then some (.bne q ra rb off)
  else if op = 0x22 then some (.blt q ra rb off) else if op = 0x23 then some (.bge q ra rb off)
  else if op = 0x24 then some (.bltu q ra rb off) else if op = 0x25 then some (.bgeu q ra rb off) else none

/-- The command a sequencer instruction word stands for on sequencer `q` (Tables 10-3 to 10-5, R236, R237); none for
an undefined opcode, func or sub, and for a non-zero unused bit. -/
def decodeSeq (q w : Nat) : Option Instr :=
  let op := fOp w
  if op = 0x00 then decodeAlu q (fRd w) (fRa w) (fRb w) (fFunc w)
  else if op ≤ 0x0A then (if fSub w = 0 then decodeImm q op (fRd w) (fRa w) (fImm w) else none)
  else if (0x10 ≤ op ∧ op ≤ 0x1B) ∨ op = 0x27 ∨ op = 0x3C then
    (if fSub w = 0 then decodeMem q op (fRd w) (fRa w) (fImm w) else none)
  else if 0x20 ≤ op ∧ op ≤ 0x25 then
    (if fSub w = 0 then decodeBranch q op (fRd w) (fRa w) (fImm w) else none)
  else if op = 0x26 then some (.jal q (fRd w) (fOff22 w))
  else if op = 0x28 then (if bits w 0 26 = 0 then some (.tret q) else none)
  else if op = 0x30 then (if fFunc w = 0 then some (.wait q (fRd w) (fRa w) (fRb w)) else none)
  else if op = 0x31 then decodeSig q (fRd w) (fRa w) (fSub w) (fImm w)
  else if op = 0x32 then
    (if fFunc w < 16 then some (.waits q (fRd w) (fRa w) (fRb w) (fFunc w)) else none)
  else if op = 0x33 then some (.send q (fRd w) (fRa w) (fRb w) (fFunc w))
  else if op = 0x34 then (if fRa w = 0 ∧ fFunc w = 0 then some (.recv q (fRd w) (fRb w)) else none)
  else decodeRel q op (fRd w) (fRa w) (fRb w) (fFunc w)

/-- The words of the formats (Table 10-3). -/
def encR (op rd ra rb fn : Nat) : Nat := op * 2 ^ 26 + rd * 2 ^ 22 + ra * 2 ^ 18 + rb * 2 ^ 14 + fn
def encI (op rd ra sub imm : Nat) : Nat := op * 2 ^ 26 + rd * 2 ^ 22 + ra * 2 ^ 18 + sub * 2 ^ 16 + imm
def encJ (op rd off : Nat) : Nat := op * 2 ^ 26 + rd * 2 ^ 22 + off

/-- The word of a sequencer instruction (Tables 10-3 to 10-5); none for a command that is not one. -/
def encodeSeq (i : Instr) : Option Nat :=
  match i with
  | .add _ rd ra rb => some (encR 0 rd ra rb 0)
  | .sub _ rd ra rb => some (encR 0 rd ra rb 1)
  | .andI _ rd ra rb => some (encR 0 rd ra rb 2)
  | .orI _ rd ra rb => some (encR 0 rd ra rb 3)
  | .xorI _ rd ra rb => some (encR 0 rd ra rb 4)
  | .shl _ rd ra rb => some (encR 0 rd ra rb 5)
  | .shr _ rd ra rb => some (encR 0 rd ra rb 6)
  | .sra _ rd ra rb => some (encR 0 rd ra rb 7)
  | .mul _ rd ra rb => some (encR 0 rd ra rb 8)
  | .mulhu _ rd ra rb => some (encR 0 rd ra rb 9)
  | .slt _ rd ra rb => some (encR 0 rd ra rb 10)
  | .sltu _ rd ra rb => some (encR 0 rd ra rb 11)
  | .clz _ rd ra rb => some (encR 0 rd ra rb 12)
  | .popc _ rd ra rb => some (encR 0 rd ra rb 13)
  | .addi _ rd ra imm => some (encI 0x01 rd ra 0 imm)
  | .andi _ rd ra imm => some (encI 0x02 rd ra 0 imm)
  | .ori _ rd ra imm => some (encI 0x03 rd ra 0 imm)
  | .xori _ rd ra imm => some (encI 0x04 rd ra 0 imm)
  | .shli _ rd ra imm => some (encI 0x05 rd ra 0 imm)
  | .shri _ rd ra imm => some (encI 0x06 rd ra 0 imm)
  | .srai _ rd ra imm => some (encI 0x07 rd ra 0 imm)
  | .lui _ rd imm => some (encI 0x08 rd 0 0 imm)
  | .slti _ rd ra imm => some (encI 0x09 rd ra 0 imm)
  | .sltui _ rd ra imm => some (encI 0x0A rd ra 0 imm)
  | .lw _ rd ra imm _ => some (encI 0x10 rd ra 0 imm)
  | .lh _ rd ra imm _ => some (encI 0x11 rd ra 0 imm)
  | .lhu _ rd ra imm _ => some (encI 0x12 rd ra 0 imm)
  | .lb _ rd ra imm _ => some (encI 0x13 rd ra 0 imm)
  | .lbu _ rd ra imm _ => some (encI 0x14 rd ra 0 imm)
  | .sw _ rs ra imm => some (encI 0x15 rs ra 0 imm)
  | .sh _ rs ra imm => some (encI 0x16 rs ra 0 imm)
  | .sb _ rs ra imm => some (encI 0x17 rs ra 0 imm)
  | .csrr _ rd n => some (encI 0x18 rd 0 0 n)
  | .csrw _ n ra => some (encI 0x19 0 ra 0 n)
  | .rdr _ rd ra imm _ => some (encI 0x1A rd ra 0 imm)
  | .wrr _ rs ra imm _ => some (encI 0x1B rs ra 0 imm)
  | .beq _ ra rb off => some (encI 0x20 ra rb 0 off)
  | .bne _ ra rb off => some (encI 0x21 ra rb 0 off)
  | .blt _ ra rb off => some (encI 0x22 ra rb 0 off)
  | .bge _ ra rb off => some (encI 0x23 ra rb 0 off)
  | .bltu _ ra rb off => some (encI 0x24 ra rb 0 off)
  | .bgeu _ ra rb off => some (encI 0x25 ra rb 0 off)
  | .jal _ rd off => some (encJ 0x26 rd off)
  | .jalr _ rd ra imm => some (encI 0x27 rd ra 0 imm)
  | .tret _ => some (encR 0x28 0 0 0 0)
  | .wait _ rd ra rb => some (encR 0x30 rd ra rb 0)
  | .sigLocalAdd _ ra imm => some (encI 0x31 0 ra 0 imm)
  | .sigRemoteAdd _ rt ra imm => some (encI 0x31 rt ra 1 imm)
  | .sigLocalSub _ ra imm => some (encI 0x31 0 ra 2 imm)
  | .waits _ rd ra rb n => some (encR 0x32 rd ra rb n)
  | .send _ rd ra rb fn => some (encR 0x33 rd ra rb (fn % 2 ^ 14))
  | .recv _ rd rb => some (encR 0x34 rd 0 rb 0)
  | .strip _ rd ra rb => some (encR 0x38 rd ra rb 0)
  | .proofSetForce _ rd ra rb => some (encR 0x39 rd ra rb 0)
  | .proofSetRekey _ rd => some (encR 0x39 rd 0 0 1)
  | .proofSetRate _ rd ra rb => some (encR 0x39 rd ra rb 2)
  | .fenceConfirm _ rd ra rb => some (encR 0x3A rd ra rb 0)
  | .fenceClear _ rd ra => some (encR 0x3A rd ra 0 1)
  | .fenceMakeLatent _ rd ra rb => some (encR 0x3A rd ra rb 2)
  | .fenceReplay _ rd ra => some (encR 0x3A rd ra 0 3)
  | .resetContext _ rd ra rb => some (encR 0x3B rd ra rb 0)
  | .resetEngine _ rd ra rb => some (encR 0x3B rd ra rb 1)
  | .resetPartition _ rd ra rb => some (encR 0x3B rd ra rb 2)
  | .resetWafer _ rd ra rb => some (encR 0x3B rd ra rb 3)
  | .resetPowerCycle _ rd ra rb => some (encR 0x3B rd ra rb 4)
  | .log _ rs ra imm => some (encI 0x3C rs ra 0 imm)
  | .bracket _ rd ra => some (encR 0x3D rd ra 0 0)
  | .timeRead _ rd => some (encR 0x3E rd 0 0 0)
  | .timeArmRel _ ra => some (encR 0x3E 0 ra 0 1)
  | .timeArmAbs _ ra => some (encR 0x3E 0 ra 0 2)
  | _ => none

end Sys2Proof
end

