-- ==== Sys2Proof/Machine/Codes.lean ====
section
/-!
DEFINITION. Event codes (Table 11-7 and the record tables of the chapters) and their attributes.
-/
namespace Sys2Proof.Machine

def Code.FUSE_TEST_DISAGREE : Nat := 0x0101
def Code.UNIT_LATENT : Nat := 0x0102
def Code.UNIT_CLEARED : Nat := 0x0103
def Code.UNIT_FENCED : Nat := 0x0104
def Code.UNIT_UNFENCED : Nat := 0x0105
def Code.FENCE_ACK_TIMEOUT : Nat := 0x0106
def Code.FIELD_UNMONITORED : Nat := 0x0107
def Code.STEP_REJECTED : Nat := 0x0120
def Code.STRIP_DUE : Nat := 0x0130
def Code.STRIP_SETTLED : Nat := 0x0131
def Code.STRIP_ABORTED : Nat := 0x0132
def Code.REPLAY_OUTCOME : Nat := 0x0133
def Code.LATENT_WINDOW : Nat := 0x0134
def Code.STEP_MARK : Nat := 0x0135
def Code.RESET_DONE : Nat := 0x0136
def Code.BOOT_DONE : Nat := 0x0140
def Code.OWNER_CHANGED : Nat := 0x0141
def Code.HANDOVER_LAPSED : Nat := 0x0142
def Code.BOOT_STRIP_MISSED : Nat := 0x0143
def Code.TRACE_DISABLED : Nat := 0x0150
def Code.PROOF_MISMATCH : Nat := 0x1001
def Code.ABFT_EXCEED : Nat := 0x1002
def Code.STRIP_FAIL : Nat := 0x1003
def Code.STRIP_OVERDUE : Nat := 0x1004
def Code.UNPROVABLE : Nat := 0x1005
def Code.UNCHECKED_BACKPRESSURE : Nat := 0x1006
def Code.LOSS_EXCURSION : Nat := 0x1007
def Code.TILE_CONTRACT : Nat := 0x1008
def Code.CHECKSUM_UNCERTIFIED : Nat := 0x1009
def Code.SLEEVE_CRC : Nat := 0x2001
def Code.FOG_CONSUMED : Nat := 0x2002
def Code.FOG_SET : Nat := 0x2003
def Code.SLEEVE_VERSION : Nat := 0x2004
def Code.SLEEVE_REGION_ACCESS : Nat := 0x2005
def Code.SLEEVE_PARTIAL : Nat := 0x2006
def Code.SLEEVE_LATE : Nat := 0x2007
def Code.SLEEVE_REGION_UE : Nat := 0x2008
def Code.MT_POOL_MISS : Nat := 0x2010
def Code.CLK_TRIP : Nat := 0x3001
def Code.VDD_WARN : Nat := 0x3002
def Code.CLK_SWITCH : Nat := 0x3003
def Code.AON_ONLY : Nat := 0x3004
def Code.VDD_DROOP : Nat := 0x3005
def Code.BRACKET_RESULT : Nat := 0x3010
def Code.BRACKET_ABORT : Nat := 0x3011
def Code.HANG : Nat := 0x4001
def Code.RESET_TIMEOUT : Nat := 0x4002
def Code.BUDGET_EXHAUSTED : Nat := 0x4003
def Code.RESET_STARTED : Nat := 0x4004
def Code.PART_RELEASED : Nat := 0x4005
def Code.STALE_DROPPED : Nat := 0x4006
def Code.NACK_UNTRACKED : Nat := 0x4007
def Code.CTX_REPLAY : Nat := 0x4008
def Code.PWR_CYCLE_REQ : Nat := 0x4009
def Code.DESEAL : Nat := 0x5001
def Code.KEY_LOADED : Nat := 0x5002
def Code.KEY_REFUSED : Nat := 0x5003
def Code.SEAL_ACCESS : Nat := 0x5004
def Code.SEAL_TAG_LATE : Nat := 0x5005
def Code.SEAL_NO_KEY : Nat := 0x5006
def Code.SCRUB_DONE : Nat := 0x5007
def Code.SCRUB_INCOMPLETE : Nat := 0x5008
def Code.LIFECYCLE_CHANGED : Nat := 0x5009
def Code.SRAM_CLEAR_TIMEOUT : Nat := 0x500A
def Code.SEAL_LINK_BLOCKED : Nat := 0x500B
def Code.DEBUG_CHANGED : Nat := 0x500C
def Code.INJECT_ARMED : Nat := 0x5010
def Code.INJECT_REFUSED : Nat := 0x5011
def Code.CC_SWAP : Nat := 0x6010
def Code.TROG_LINK_REPLAY : Nat := 0x6011
def Code.TROG_ROUTER_DOWN : Nat := 0x6012
def Code.PROOF_ARRAY_FAULT : Nat := 0x6020
def Code.FOLD_FAULT : Nat := 0x6021
def Code.ARRAY_OUTVOTED : Nat := 0x6022
def Code.FENCE_LIST_FULL : Nat := 0x6030
def Code.LATENT_FULL : Nat := 0x6031
def Code.SEQ_TRAP : Nat := 0x6040
def Code.IMAGE_REJECTED : Nat := 0x6041
def Code.SEQ_FALLBACK : Nat := 0x6042
def Code.IMAGE_STAGED : Nat := 0x6043
def Code.IMAGE_APPLIED : Nat := 0x6044
def Code.ERR_PIN : Nat := 0x6050
def Code.PIN_STUCK : Nat := 0x6051
def Code.REC_GAP : Nat := 0x6052
def Code.REC_CLEARED : Nat := 0x6053
def Code.REC_CRC : Nat := 0x6054
def Code.ARCHIVE_WORN : Nat := 0x6060
def Code.ARCHIVE_UE : Nat := 0x6061
def Code.TRAIN_REC_FULL : Nat := 0x6062
def Code.MBIST_FAIL : Nat := 0x6070
def Code.LBIST_FAIL : Nat := 0x6071
def Code.BCAST_VERIFY_FAIL : Nat := 0x6072
def Code.TRAIN_FAIL : Nat := 0x6073
def Code.PACK_STAGED : Nat := 0x7001
def Code.PACK_REJECTED : Nat := 0x7002
def Code.PACK_ACTIVE : Nat := 0x7003
def Code.NEG_EXPORTED : Nat := 0x7004
def Code.PACK_FIELD_SKIPPED : Nat := 0x7005
def Code.RESTORE_SKEW : Nat := 0x8001
def Code.CKPT_COMMITTED : Nat := 0x8002
def Code.CKPT_FAILED : Nat := 0x8003
def Code.RESTORE_DONE : Nat := 0x8004
def Code.RESTORE_REFUSED : Nat := 0x8005
def Code.CKPT_SLOT_ACCESS : Nat := 0x8006
def Code.BARRIER_OVERRUN : Nat := 0x9001
def Code.SEM_UNDERFLOW : Nat := 0x9002
def Code.SEM_OVERFLOW : Nat := 0x9003
def Code.STOP_DONE : Nat := 0x9004
def Code.STOP_CANCELLED : Nat := 0x9005
def Code.STOP_RESUMED : Nat := 0x9006
def Code.BARRIER_EARLY : Nat := 0x9007
def Code.BARRIER_MISUSE : Nat := 0x9008
def Code.SHEET_DONE : Nat := 0x9009
def Code.CAPTURE_OPEN : Nat := 0x900A

/-- Codes marked H: held during a freeze (Table 11-7). -/
def heldCodes : List Nat :=
  [Code.PROOF_MISMATCH,
   Code.ABFT_EXCEED,
   Code.STRIP_FAIL,
   Code.LOSS_EXCURSION,
   Code.SLEEVE_CRC,
   Code.FOG_CONSUMED,
   Code.FOG_SET,
   Code.SLEEVE_LATE,
   Code.SLEEVE_REGION_UE]

/-- Codes marked E: exempt from the rate limit (Table 11-7 and the record tables of chapters 12, 14, 15, 17, 18). -/
def exemptCodes : List Nat :=
  [Code.FUSE_TEST_DISAGREE,
   Code.UNIT_FENCED,
   Code.UNIT_UNFENCED,
   Code.FIELD_UNMONITORED,
   Code.CLK_TRIP,
   Code.VDD_WARN,
   Code.CLK_SWITCH,
   Code.AON_ONLY,
   Code.BUDGET_EXHAUSTED,
   Code.PWR_CYCLE_REQ,
   Code.DESEAL,
   Code.KEY_LOADED,
   Code.SCRUB_DONE,
   Code.LIFECYCLE_CHANGED,
   Code.DEBUG_CHANGED,
   Code.INJECT_ARMED,
   Code.INJECT_REFUSED,
   Code.CC_SWAP,
   Code.FENCE_LIST_FULL,
   Code.IMAGE_REJECTED,
   Code.SEQ_FALLBACK,
   Code.IMAGE_STAGED,
   Code.IMAGE_APPLIED,
   Code.REC_GAP,
   Code.REC_CLEARED,
   Code.ARCHIVE_WORN,
   Code.STOP_DONE,
   Code.STOP_CANCELLED,
   Code.STOP_RESUMED,
   Code.SHEET_DONE,
   Code.BOOT_DONE,
   Code.OWNER_CHANGED,
   Code.MBIST_FAIL,
   Code.LBIST_FAIL,
   Code.BCAST_VERIFY_FAIL]

end Sys2Proof.Machine
end

