-- ==== Sys2Proof/Config.lean ====
section
/-!
DEFINITION. What one build fixes (R7, R449) and what the spec leaves to an outside standard or leaves open:
the reference host of R11 and R471, and the opaque functions and free values of the model.
-/
namespace Sys2Proof.Config

/-- Reference host (R11, Table 0-5): fields per wafer. -/
def nField : Nat := 84
/-- Clusters per field (R11). -/
def nCluster : Nat := 64
/-- Cores per cluster (R11). -/
def nCore : Nat := 96
/-- Engines per core (R11). -/
def nEngine : Nat := 4
/-- Memory channels (R11). -/
def nMt : Nat := 768
/-- Off-wafer link ports (R11). -/
def nLt : Nat := 48
/-- Partitions (R11). -/
def nPart : Nat := 64
/-- Field grid columns and rows (R449). -/
def gridX : Nat := 14
def gridY : Nat := 6
/-- The largest hop count, GX − 1 + GY − 1 (Table 19-16). -/
def hopMax : Nat := gridX - 1 + (gridY - 1)
/-- Control-class bound 90 × hmax + 180 ns (R37, Table 19-16). -/
def bcastNs : Nat := 90 * hopMax + 180
/-- Fields that hold CC-A and CC-B (R471). -/
def ccAField : Nat := 30
def ccBField : Nat := 53
/-- Stack of a memory channel on the reference host: 32 channels per stack (R471). -/
def mtStack (m : Nat) : Nat := m / 32
/-- Home FS of a memory channel (R471). -/
def mtHome (m : Nat) : Nat := let st := m / 32; if st < 12 then st + 1 else st + 59
/-- Home FS of a link port (R471). -/
def ltHome (l : Nat) : Nat :=
  match l / 4 with
  | 0 => 0 | 1 => 14 | 2 => 28 | 3 => 42 | 4 => 56 | 5 => 70
  | 6 => 13 | 7 => 27 | 8 => 41 | 9 => 55 | 10 => 69 | _ => 83

/-- Patch level of the release (R450); log entry 2. DESIGN CHOICE. -/
def patchLevel : Nat := 0
/-- The wafer_id strap as sampled in step 1 (R434); log entry 2. DESIGN CHOICE. -/
def strapWaferId : Nat := 0
/-- The I3C static address strap i3c_sa (R434); log entry 2. DESIGN CHOICE. -/
def strapI3c : Nat := 0x20
/-- Lifecycle state the fuses hold at the first power-up (R365: MANUFACTURE is state 0); log entry 2. DESIGN CHOICE. -/
def fuseLifecycle : Nat := 0

/-! ### Functions fixed by standards outside the spec -/

/-- SHA-384 of a byte string, 48 bytes as a number (FIPS 180-4; the spec names it and gives no constants). -/
opaque sha384 : List Byte → Nat
/-- ECDSA P-384 verification with SHA-384: key digest, signed bytes, signature bytes. -/
opaque ecdsaVerify : Nat → List Byte → List Byte → Bool
/-- The ECDSA signature by the key named by a number over the bytes. -/
opaque ecdsaSign : Nat → List Byte → List Byte
/-- The fuse anchor (SHA-384 of a public key) of an anchor number (R224, R376). -/
opaque fuseAnchor : Nat → Nat
/-- ECDH, HKDF and unwrap of a wrapped-key blob (R376): the plain key, none when authentication fails. -/
opaque unwrapKey : Nat → List Byte → Option Nat
/-- AES-256-GCM keystream-decrypted block: key, address, generation or IV input, ciphertext bytes. -/
opaque aesDecrypt : Nat → Nat → List Byte → List Byte
/-- The 128-bit GHASH key H = AES-256(key, 0), as a number (R332). -/
opaque ghashKey : Nat → Nat
/-- The AES-256-GCM tag of a block under a key at an address (R379). -/
opaque aesTag : Nat → Nat → List Byte → Nat
/-- DICE-style identity: the certificate chain of slot 0 (R370). -/
opaque certChain : List Byte
/-- SHA-384 of the identity public key (Table 9-2 key 3). -/
opaque identityDigest : Nat
/-- The SHA-384 measurement of fixed material: hardware, ROMs, anchors (R371), by index. -/
opaque fixedMeasurement : Nat → Nat
/-- What the scrub passes leave in the sleeve region of a channel until the zero pass has ended (R57, R382): scrub key, channel,
block. -/
opaque scrubEntry : Nat → Nat → Nat → Nat

/-! ### Free values: nothing in Lean can evaluate them -/

/-- The n-th open value a step draws, as a natural number (read modulo the width it fills). -/
opaque freeNat : Nat → Nat
/-- The n-th draw of the block's entropy source, 128 bits (R114, R371). -/
opaque entropy : Nat → BitVec 128
/-- The reference program ROM of an FS (false) or the CC (true): bytes the spec does not list (R45). -/
opaque refRom : Bool → Nat → Byte

end Sys2Proof.Config
end

