-- ==== Sys2Proof/Machine/RegMap.lean ====
section
/-!
DEFINITION. The register map of spec/21_register_map.md (Tables 21-1 to 21-8) with the fields of each register
as the chapter that owns it gives them: place, access code (Table 0-7) and reset value.
-/
namespace Sys2Proof.Machine

/-- Access codes (Table 0-7, R14). -/
inductive Acc where
  | ro | rw | w1c | w1s | wo | rp
deriving DecidableEq, Repr

/-- The five kinds of unit window (Table 21-1). -/
inductive UnitCls where
  | cc | fs | ct | mt | lt
deriving DecidableEq, Repr

/-- Every register name of Tables 21-2 to 21-8. -/
inductive Reg where
  | BLOCK_ID
  | CC_OWNER
  | CC_OWNER_HO
  | CC_BUILD0
  | CC_BUILD1
  | CC_ROLE
  | CC_SERVICE
  | CC_FIELD_REL0
  | CC_FIELD_REL1
  | CC_FAULT_GLOBAL0
  | CC_FAULT_GLOBAL1
  | CC_FAULT_CTL
  | CC_INJ_CMD
  | CC_INJ_STAT
  | CC_SAFE_SEL
  | CC_SAFE_VAL
  | CC_SAFE_AT
  | CC_OBS_STAT
  | CC_BOOT_STAT
  | CC_BOOT_CFG
  | CC_BOOT_SEL
  | CC_BOOT_T
  | CC_BIST_SEL
  | CC_BIST_DATA0
  | CC_BIST_DATA1
  | CC_HOME_SEL
  | CC_HOME_DATA
  | CC_LOUPE_SEL
  | CC_LOUPE_CUR
  | CC_LOUPE_DATA
  | CC_LOUPE_STAT
  | CC_LOUPE_FRZ
  | CC_LOUPE_NEW
  | CC_REC_CLR
  | CC_REC_STAT
  | CC_REC_RATE
  | CC_ARCH_STAT
  | CC_ARCH_SEL
  | CC_ARCH_DATA
  | CC_ARCH_WEAR
  | CC_FENCE_CMD
  | CC_FENCE_STAT
  | CC_FENCE_IDX
  | CC_FENCE_ENTRY
  | CC_FIX_POLICY
  | CC_LIFECYCLE
  | CC_TRUST_GROUP
  | CC_SEAL_CFG
  | CC_PART_SEAL
  | CC_KEY_CMD
  | CC_KEY_DATA
  | CC_KEY_STAT
  | CC_SCRUB_CMD
  | CC_SCRUB_STAT
  | CC_WT
  | CC_CLK_CFG
  | CC_CLK_STAT
  | CC_CLK_CNT
  | CC_SSC_CFG
  | CC_VDD_CFG
  | CC_VDD_STAT
  | CC_BRK_ENV
  | CC_TEST_BUDGET
  | CC_TOKEN_COST
  | CC_STOP_CMD
  | CC_STOP_CFG
  | CC_STOP_STAT
  | CC_STOP_T
  | CC_SHEET_CMD
  | CC_SHEET_REGION0
  | CC_SHEET_REGION1
  | CC_SHEET_GEOM
  | CC_SHEET_STAT
  | CC_PART_FIELD
  | CC_RESET_CMD
  | CC_RESET_STAT
  | CC_BUDGET_CFG
  | CC_BUDGET_STAT
  | CC_PART_STAT
  | CC_WDOG_CFG
  | CC_PROOF_RATE
  | CC_CHECK_MODE
  | CC_HORIZON_CFG
  | CC_HORIZON
  | CC_STEP
  | CC_STEP_STAT
  | CC_LOSS
  | CC_LOSS_CFG
  | CC_PART_CHAN
  | CC_BAR_CFG
  | CC_TRACE_CFG
  | CC_TRACE_RING0
  | CC_TRACE_RING1
  | CC_TRACE_HEAD
  | CC_TRACE_TAIL
  | CC_TRACE_MARK
  | CC_TRACE_STAT
  | CC_MODE_STAT
  | CC_SEQ_CTL
  | CC_SEQ_STAT
  | CC_SEQ_MBOX
  | CC_SEM_SIG
  | CC_SEM_CNT
  | CC_IMG_CMD
  | CC_IMG_DATA
  | CC_IMG_STAT
  | CC_IMG_VER0
  | CC_IMG_VER1
  | CC_IMG_FLOOR
  | CC_IMG_DIGSEL
  | CC_IMG_DIG
  | CC_LSP_CMD
  | CC_LSP_STAT
  | CC_LSP_PTR
  | CC_LSP_DATA
  | CC_PACK_CMD
  | CC_PACK_DATA
  | CC_PACK_STAT
  | CC_PACK_VER
  | CC_PACK_FLOOR
  | CC_PACK_DIG
  | CC_CKPT_SHARD_SEL
  | CC_CKPT_SHARD0
  | CC_CKPT_SHARD1
  | CC_CKPT_SHARD2
  | CC_CKPT_SHARD3
  | CC_CKPT_HOST_SEL
  | CC_CKPT_HOST0
  | CC_CKPT_HOST1
  | CC_CKPT_HOST2
  | CC_CKPT_HOST3
  | CC_CKPT_CFG
  | CC_CKPT_STAT
  | CC_CKPT_CMD
  | CC_CKPT_SKEW_SEL
  | CC_CKPT_SKEW
  | CC_CKPT_ARG0
  | CC_CKPT_ARG1
  | CC_CKPT_ARG2
  | FS_WAKE_CFG
  | FS_WAKE_STAT
  | FS_PROOF_CFG
  | FS_PROOF_STAT
  | FS_PROOF_CNT
  | FS_PROOF_DROP
  | FS_NEG_STAT
  | FS_NEG_RELEASE
  | FS_STRIP_CFG
  | FS_STRIP_STAT
  | FS_STRIP_CNT
  | FS_STRIP_CMD
  | FS_LEDGER_SEL
  | FS_LEDGER_DATA0
  | FS_LEDGER_DATA1
  | FS_LEDGER_DATA2
  | FS_LEDGER_DATA3
  | FS_BRK_CFG
  | FS_BRK_LIMIT
  | FS_BRK_CMD
  | FS_BRK_STAT
  | FS_MAINT
  | FS_FIX_CFG
  | FS_FIX_STAT
  | FS_FIX_SEL
  | FS_FIX_DATA
  | FS_PACK_VER
  | FS_SEQ_CTL
  | FS_SEQ_STAT
  | FS_SEQ_MBOX
  | FS_SEM_SIG
  | FS_SEM_CNT
  | FS_FSW
  | FS_REC_STAT
  | FS_REC_RATE
  | FS_PIN_SEL
  | FS_PIN_DATA
  | FS_PIN_CLR
  | FS_CREPLAY_CMD
  | FS_CREPLAY_STAT
  | FS_CREPLAY_CFG
  | FS_SELFTEST
  | FS_VMON
  | CT_SIG_CFG
  | CT_SIG_STAT
  | CT_SIG_LAST
  | CT_PCNT_SEL
  | CT_PCNT_CFG
  | CT_PCNT_VAL
  | CT_SLEEVE_STAT
  | CT_PCNT_CTL
  | CT_TRACE_STAT
  | CT_PROOF_FORCE0
  | CT_PROOF_FORCE1
  | CT_PROOF_STAT
  | CT_ABFT_CFG
  | CT_ABFT_STAT
  | CT_ABFT_STAT2
  | CT_ABFT_LAST
  | CT_ERR
  | CT_ERR_CAP
  | CT_WDOG_STAT
  | CT_SUSP_SEL
  | CT_SUSP_DATA0
  | CT_SUSP_DATA1
  | CT_BAR_STAT
  | CT_STOP_STAT
  | CT_SAFE_SEL
  | CT_SAFE_VAL
  | CT_CYC
  | CT_CYC_WT
  | MT_POOL_CFG
  | MT_POOL_STAT
  | MT_SLEEVE_CFG
  | MT_SLEEVE_STAT
  | MT_GEN_STAT
  | MT_SHADOW_STAT
  | MT_SHADOW_ERR
  | MT_SEAL_RGN_A
  | MT_SEAL_RGN_B
  | MT_SEAL_STAT
  | LT_SLEEVE_STAT
  | LT_GEN_STAT
  | LT_SHADOW_STAT
  | LT_STOP_STAT
  | LT_TRUST
deriving DecidableEq, Repr

/-- A field: its register, lowest bit, width, access code and reset value. -/
structure Fld where
  reg : Reg
  lo : Nat
  w : Nat
  acc : Acc
  rst : Nat
deriving DecidableEq, Repr

/-- Where a register sits: unit window, offset of copy 0, distance of copies, copies per unit. -/
structure Place where
  unit : UnitCls
  off : Nat
  stride : Nat
  count : Nat
deriving DecidableEq, Repr

/-- The number of a register in the tables' order; part of its key in the register file. -/
def Reg.num : Reg → Nat
  | .BLOCK_ID => 0
  | .CC_OWNER => 1
  | .CC_OWNER_HO => 2
  | .CC_BUILD0 => 3
  | .CC_BUILD1 => 4
  | .CC_ROLE => 5
  | .CC_SERVICE => 6
  | .CC_FIELD_REL0 => 7
  | .CC_FIELD_REL1 => 8
  | .CC_FAULT_GLOBAL0 => 9
  | .CC_FAULT_GLOBAL1 => 10
  | .CC_FAULT_CTL => 11
  | .CC_INJ_CMD => 12
  | .CC_INJ_STAT => 13
  | .CC_SAFE_SEL => 14
  | .CC_SAFE_VAL => 15
  | .CC_SAFE_AT => 16
  | .CC_OBS_STAT => 17
  | .CC_BOOT_STAT => 18
  | .CC_BOOT_CFG => 19
  | .CC_BOOT_SEL => 20
  | .CC_BOOT_T => 21
  | .CC_BIST_SEL => 22
  | .CC_BIST_DATA0 => 23
  | .CC_BIST_DATA1 => 24
  | .CC_HOME_SEL => 25
  | .CC_HOME_DATA => 26
  | .CC_LOUPE_SEL => 27
  | .CC_LOUPE_CUR => 28
  | .CC_LOUPE_DATA => 29
  | .CC_LOUPE_STAT => 30
  | .CC_LOUPE_FRZ => 31
  | .CC_LOUPE_NEW => 32
  | .CC_REC_CLR => 33
  | .CC_REC_STAT => 34
  | .CC_REC_RATE => 35
  | .CC_ARCH_STAT => 36
  | .CC_ARCH_SEL => 37
  | .CC_ARCH_DATA => 38
  | .CC_ARCH_WEAR => 39
  | .CC_FENCE_CMD => 40
  | .CC_FENCE_STAT => 41
  | .CC_FENCE_IDX => 42
  | .CC_FENCE_ENTRY => 43
  | .CC_FIX_POLICY => 44
  | .CC_LIFECYCLE => 45
  | .CC_TRUST_GROUP => 46
  | .CC_SEAL_CFG => 47
  | .CC_PART_SEAL => 48
  | .CC_KEY_CMD => 49
  | .CC_KEY_DATA => 50
  | .CC_KEY_STAT => 51
  | .CC_SCRUB_CMD => 52
  | .CC_SCRUB_STAT => 53
  | .CC_WT => 54
  | .CC_CLK_CFG => 55
  | .CC_CLK_STAT => 56
  | .CC_CLK_CNT => 57
  | .CC_SSC_CFG => 58
  | .CC_VDD_CFG => 59
  | .CC_VDD_STAT => 60
  | .CC_BRK_ENV => 61
  | .CC_TEST_BUDGET => 62
  | .CC_TOKEN_COST => 63
  | .CC_STOP_CMD => 64
  | .CC_STOP_CFG => 65
  | .CC_STOP_STAT => 66
  | .CC_STOP_T => 67
  | .CC_SHEET_CMD => 68
  | .CC_SHEET_REGION0 => 69
  | .CC_SHEET_REGION1 => 70
  | .CC_SHEET_GEOM => 71
  | .CC_SHEET_STAT => 72
  | .CC_PART_FIELD => 73
  | .CC_RESET_CMD => 74
  | .CC_RESET_STAT => 75
  | .CC_BUDGET_CFG => 76
  | .CC_BUDGET_STAT => 77
  | .CC_PART_STAT => 78
  | .CC_WDOG_CFG => 79
  | .CC_PROOF_RATE => 80
  | .CC_CHECK_MODE => 81
  | .CC_HORIZON_CFG => 82
  | .CC_HORIZON => 83
  | .CC_STEP => 84
  | .CC_STEP_STAT => 85
  | .CC_LOSS => 86
  | .CC_LOSS_CFG => 87
  | .CC_PART_CHAN => 88
  | .CC_BAR_CFG => 89
  | .CC_TRACE_CFG => 90
  | .CC_TRACE_RING0 => 91
  | .CC_TRACE_RING1 => 92
  | .CC_TRACE_HEAD => 93
  | .CC_TRACE_TAIL => 94
  | .CC_TRACE_MARK => 95
  | .CC_TRACE_STAT => 96
  | .CC_MODE_STAT => 97
  | .CC_SEQ_CTL => 98
  | .CC_SEQ_STAT => 99
  | .CC_SEQ_MBOX => 100
  | .CC_SEM_SIG => 101
  | .CC_SEM_CNT => 102
  | .CC_IMG_CMD => 103
  | .CC_IMG_DATA => 104
  | .CC_IMG_STAT => 105
  | .CC_IMG_VER0 => 106
  | .CC_IMG_VER1 => 107
  | .CC_IMG_FLOOR => 108
  | .CC_IMG_DIGSEL => 109
  | .CC_IMG_DIG => 110
  | .CC_LSP_CMD => 111
  | .CC_LSP_STAT => 112
  | .CC_LSP_PTR => 113
  | .CC_LSP_DATA => 114
  | .CC_PACK_CMD => 115
  | .CC_PACK_DATA => 116
  | .CC_PACK_STAT => 117
  | .CC_PACK_VER => 118
  | .CC_PACK_FLOOR => 119
  | .CC_PACK_DIG => 120
  | .CC_CKPT_SHARD_SEL => 121
  | .CC_CKPT_SHARD0 => 122
  | .CC_CKPT_SHARD1 => 123
  | .CC_CKPT_SHARD2 => 124
  | .CC_CKPT_SHARD3 => 125
  | .CC_CKPT_HOST_SEL => 126
  | .CC_CKPT_HOST0 => 127
  | .CC_CKPT_HOST1 => 128
  | .CC_CKPT_HOST2 => 129
  | .CC_CKPT_HOST3 => 130
  | .CC_CKPT_CFG => 131
  | .CC_CKPT_STAT => 132
  | .CC_CKPT_CMD => 133
  | .CC_CKPT_SKEW_SEL => 134
  | .CC_CKPT_SKEW => 135
  | .CC_CKPT_ARG0 => 136
  | .CC_CKPT_ARG1 => 137
  | .CC_CKPT_ARG2 => 138
  | .FS_WAKE_CFG => 139
  | .FS_WAKE_STAT => 140
  | .FS_PROOF_CFG => 141
  | .FS_PROOF_STAT => 142
  | .FS_PROOF_CNT => 143
  | .FS_PROOF_DROP => 144
  | .FS_NEG_STAT => 145
  | .FS_NEG_RELEASE => 146
  | .FS_STRIP_CFG => 147
  | .FS_STRIP_STAT => 148
  | .FS_STRIP_CNT => 149
  | .FS_STRIP_CMD => 150
  | .FS_LEDGER_SEL => 151
  | .FS_LEDGER_DATA0 => 152
  | .FS_LEDGER_DATA1 => 153
  | .FS_LEDGER_DATA2 => 154
  | .FS_LEDGER_DATA3 => 155
  | .FS_BRK_CFG => 156
  | .FS_BRK_LIMIT => 157
  | .FS_BRK_CMD => 158
  | .FS_BRK_STAT => 159
  | .FS_MAINT => 160
  | .FS_FIX_CFG => 161
  | .FS_FIX_STAT => 162
  | .FS_FIX_SEL => 163
  | .FS_FIX_DATA => 164
  | .FS_PACK_VER => 165
  | .FS_SEQ_CTL => 166
  | .FS_SEQ_STAT => 167
  | .FS_SEQ_MBOX => 168
  | .FS_SEM_SIG => 169
  | .FS_SEM_CNT => 170
  | .FS_FSW => 171
  | .FS_REC_STAT => 172
  | .FS_REC_RATE => 173
  | .FS_PIN_SEL => 174
  | .FS_PIN_DATA => 175
  | .FS_PIN_CLR => 176
  | .FS_CREPLAY_CMD => 177
  | .FS_CREPLAY_STAT => 178
  | .FS_CREPLAY_CFG => 179
  | .FS_SELFTEST => 180
  | .FS_VMON => 181
  | .CT_SIG_CFG => 182
  | .CT_SIG_STAT => 183
  | .CT_SIG_LAST => 184
  | .CT_PCNT_SEL => 185
  | .CT_PCNT_CFG => 186
  | .CT_PCNT_VAL => 187
  | .CT_SLEEVE_STAT => 188
  | .CT_PCNT_CTL => 189
  | .CT_TRACE_STAT => 190
  | .CT_PROOF_FORCE0 => 191
  | .CT_PROOF_FORCE1 => 192
  | .CT_PROOF_STAT => 193
  | .CT_ABFT_CFG => 194
  | .CT_ABFT_STAT => 195
  | .CT_ABFT_STAT2 => 196
  | .CT_ABFT_LAST => 197
  | .CT_ERR => 198
  | .CT_ERR_CAP => 199
  | .CT_WDOG_STAT => 200
  | .CT_SUSP_SEL => 201
  | .CT_SUSP_DATA0 => 202
  | .CT_SUSP_DATA1 => 203
  | .CT_BAR_STAT => 204
  | .CT_STOP_STAT => 205
  | .CT_SAFE_SEL => 206
  | .CT_SAFE_VAL => 207
  | .CT_CYC => 208
  | .CT_CYC_WT => 209
  | .MT_POOL_CFG => 210
  | .MT_POOL_STAT => 211
  | .MT_SLEEVE_CFG => 212
  | .MT_SLEEVE_STAT => 213
  | .MT_GEN_STAT => 214
  | .MT_SHADOW_STAT => 215
  | .MT_SHADOW_ERR => 216
  | .MT_SEAL_RGN_A => 217
  | .MT_SEAL_RGN_B => 218
  | .MT_SEAL_STAT => 219
  | .LT_SLEEVE_STAT => 220
  | .LT_GEN_STAT => 221
  | .LT_SHADOW_STAT => 222
  | .LT_STOP_STAT => 223
  | .LT_TRUST => 224

/-- Tables 21-2 to 21-8: window, offset, stride and copies. -/
def Reg.place : Reg → Place
  | .BLOCK_ID => ⟨.cc, 0x0, 0, 1⟩
  | .CC_OWNER => ⟨.cc, 0x10, 0, 1⟩
  | .CC_OWNER_HO => ⟨.cc, 0x18, 0, 1⟩
  | .CC_BUILD0 => ⟨.cc, 0x20, 0, 1⟩
  | .CC_BUILD1 => ⟨.cc, 0x28, 0, 1⟩
  | .CC_ROLE => ⟨.cc, 0x40, 0, 1⟩
  | .CC_SERVICE => ⟨.cc, 0x48, 0, 1⟩
  | .CC_FIELD_REL0 => ⟨.cc, 0x50, 0, 1⟩
  | .CC_FIELD_REL1 => ⟨.cc, 0x58, 0, 1⟩
  | .CC_FAULT_GLOBAL0 => ⟨.cc, 0x80, 0, 1⟩
  | .CC_FAULT_GLOBAL1 => ⟨.cc, 0x88, 0, 1⟩
  | .CC_FAULT_CTL => ⟨.cc, 0x90, 0, 1⟩
  | .CC_INJ_CMD => ⟨.cc, 0x100, 0, 1⟩
  | .CC_INJ_STAT => ⟨.cc, 0x108, 0, 1⟩
  | .CC_SAFE_SEL => ⟨.cc, 0x200, 0, 1⟩
  | .CC_SAFE_VAL => ⟨.cc, 0x208, 0, 1⟩
  | .CC_SAFE_AT => ⟨.cc, 0x210, 0, 1⟩
  | .CC_OBS_STAT => ⟨.cc, 0x218, 0, 1⟩
  | .CC_BOOT_STAT => ⟨.cc, 0x300, 0, 1⟩
  | .CC_BOOT_CFG => ⟨.cc, 0x308, 0, 1⟩
  | .CC_BOOT_SEL => ⟨.cc, 0x310, 0, 1⟩
  | .CC_BOOT_T => ⟨.cc, 0x318, 0, 1⟩
  | .CC_BIST_SEL => ⟨.cc, 0x320, 0, 1⟩
  | .CC_BIST_DATA0 => ⟨.cc, 0x328, 0, 1⟩
  | .CC_BIST_DATA1 => ⟨.cc, 0x330, 0, 1⟩
  | .CC_HOME_SEL => ⟨.cc, 0x400, 0, 1⟩
  | .CC_HOME_DATA => ⟨.cc, 0x408, 0, 1⟩
  | .CC_LOUPE_SEL => ⟨.cc, 0x10000, 0, 1⟩
  | .CC_LOUPE_CUR => ⟨.cc, 0x10008, 0, 1⟩
  | .CC_LOUPE_DATA => ⟨.cc, 0x10010, 8, 4⟩
  | .CC_LOUPE_STAT => ⟨.cc, 0x10030, 0, 1⟩
  | .CC_LOUPE_FRZ => ⟨.cc, 0x10038, 0, 1⟩
  | .CC_LOUPE_NEW => ⟨.cc, 0x10040, 0, 1⟩
  | .CC_REC_CLR => ⟨.cc, 0x10048, 0, 1⟩
  | .CC_REC_STAT => ⟨.cc, 0x10050, 0, 1⟩
  | .CC_REC_RATE => ⟨.cc, 0x10080, 0, 1⟩
  | .CC_ARCH_STAT => ⟨.cc, 0x20000, 0, 1⟩
  | .CC_ARCH_SEL => ⟨.cc, 0x20008, 0, 1⟩
  | .CC_ARCH_DATA => ⟨.cc, 0x20010, 0, 1⟩
  | .CC_ARCH_WEAR => ⟨.cc, 0x20018, 0, 1⟩
  | .CC_FENCE_CMD => ⟨.cc, 0x20100, 0, 1⟩
  | .CC_FENCE_STAT => ⟨.cc, 0x20108, 0, 1⟩
  | .CC_FENCE_IDX => ⟨.cc, 0x20110, 0, 1⟩
  | .CC_FENCE_ENTRY => ⟨.cc, 0x20118, 0, 1⟩
  | .CC_FIX_POLICY => ⟨.cc, 0x20120, 0, 1⟩
  | .CC_LIFECYCLE => ⟨.cc, 0x30000, 0, 1⟩
  | .CC_TRUST_GROUP => ⟨.cc, 0x30008, 0, 1⟩
  | .CC_SEAL_CFG => ⟨.cc, 0x30010, 0, 1⟩
  | .CC_PART_SEAL => ⟨.cc, 0x30100, 8, 64⟩
  | .CC_KEY_CMD => ⟨.cc, 0x30400, 0, 1⟩
  | .CC_KEY_DATA => ⟨.cc, 0x30408, 0, 1⟩
  | .CC_KEY_STAT => ⟨.cc, 0x30410, 0, 1⟩
  | .CC_SCRUB_CMD => ⟨.cc, 0x30500, 0, 1⟩
  | .CC_SCRUB_STAT => ⟨.cc, 0x30600, 8, 64⟩
  | .CC_WT => ⟨.cc, 0x40000, 0, 1⟩
  | .CC_CLK_CFG => ⟨.cc, 0x40008, 0, 1⟩
  | .CC_CLK_STAT => ⟨.cc, 0x40010, 0, 1⟩
  | .CC_CLK_CNT => ⟨.cc, 0x40018, 0, 1⟩
  | .CC_SSC_CFG => ⟨.cc, 0x40020, 0, 1⟩
  | .CC_VDD_CFG => ⟨.cc, 0x40028, 0, 1⟩
  | .CC_VDD_STAT => ⟨.cc, 0x40030, 0, 1⟩
  | .CC_BRK_ENV => ⟨.cc, 0x40800, 0, 1⟩
  | .CC_TEST_BUDGET => ⟨.cc, 0x40808, 0, 1⟩
  | .CC_TOKEN_COST => ⟨.cc, 0x40810, 0, 1⟩
  | .CC_STOP_CMD => ⟨.cc, 0x41000, 0, 1⟩
  | .CC_STOP_CFG => ⟨.cc, 0x41008, 0, 1⟩
  | .CC_STOP_STAT => ⟨.cc, 0x41010, 0, 1⟩
  | .CC_STOP_T => ⟨.cc, 0x41018, 0, 1⟩
  | .CC_SHEET_CMD => ⟨.cc, 0x41020, 0, 1⟩
  | .CC_SHEET_REGION0 => ⟨.cc, 0x41028, 0, 1⟩
  | .CC_SHEET_REGION1 => ⟨.cc, 0x41030, 0, 1⟩
  | .CC_SHEET_GEOM => ⟨.cc, 0x41038, 0, 1⟩
  | .CC_SHEET_STAT => ⟨.cc, 0x41040, 0, 1⟩
  | .CC_PART_FIELD => ⟨.cc, 0x50000, 8, 16⟩
  | .CC_RESET_CMD => ⟨.cc, 0x50080, 0, 1⟩
  | .CC_RESET_STAT => ⟨.cc, 0x50088, 0, 1⟩
  | .CC_BUDGET_CFG => ⟨.cc, 0x50090, 0, 1⟩
  | .CC_BUDGET_STAT => ⟨.cc, 0x50098, 0, 1⟩
  | .CC_PART_STAT => ⟨.cc, 0x50100, 8, 64⟩
  | .CC_WDOG_CFG => ⟨.cc, 0x50300, 8, 64⟩
  | .CC_PROOF_RATE => ⟨.cc, 0x50800, 8, 64⟩
  | .CC_CHECK_MODE => ⟨.cc, 0x50A00, 8, 64⟩
  | .CC_HORIZON_CFG => ⟨.cc, 0x50C00, 8, 64⟩
  | .CC_HORIZON => ⟨.cc, 0x50E00, 8, 64⟩
  | .CC_STEP => ⟨.cc, 0x51000, 8, 64⟩
  | .CC_STEP_STAT => ⟨.cc, 0x51200, 8, 64⟩
  | .CC_LOSS => ⟨.cc, 0x51400, 8, 64⟩
  | .CC_LOSS_CFG => ⟨.cc, 0x51600, 8, 64⟩
  | .CC_PART_CHAN => ⟨.cc, 0x51800, 8, 128⟩
  | .CC_BAR_CFG => ⟨.cc, 0x52000, 8, 32⟩
  | .CC_TRACE_CFG => ⟨.cc, 0x52400, 8, 64⟩
  | .CC_TRACE_RING0 => ⟨.cc, 0x52600, 8, 64⟩
  | .CC_TRACE_RING1 => ⟨.cc, 0x52800, 8, 64⟩
  | .CC_TRACE_HEAD => ⟨.cc, 0x52A00, 8, 64⟩
  | .CC_TRACE_TAIL => ⟨.cc, 0x52C00, 8, 64⟩
  | .CC_TRACE_MARK => ⟨.cc, 0x52E00, 8, 64⟩
  | .CC_TRACE_STAT => ⟨.cc, 0x53000, 8, 64⟩
  | .CC_MODE_STAT => ⟨.cc, 0x53400, 8, 64⟩
  | .CC_SEQ_CTL => ⟨.cc, 0x60000, 0, 1⟩
  | .CC_SEQ_STAT => ⟨.cc, 0x60008, 0, 1⟩
  | .CC_SEQ_MBOX => ⟨.cc, 0x60010, 0, 1⟩
  | .CC_SEM_SIG => ⟨.cc, 0x60018, 0, 1⟩
  | .CC_SEM_CNT => ⟨.cc, 0x60020, 8, 8⟩
  | .CC_IMG_CMD => ⟨.cc, 0x60100, 0, 1⟩
  | .CC_IMG_DATA => ⟨.cc, 0x60108, 0, 1⟩
  | .CC_IMG_STAT => ⟨.cc, 0x60110, 0, 1⟩
  | .CC_IMG_VER0 => ⟨.cc, 0x60118, 0, 1⟩
  | .CC_IMG_VER1 => ⟨.cc, 0x60120, 0, 1⟩
  | .CC_IMG_FLOOR => ⟨.cc, 0x60128, 0, 1⟩
  | .CC_IMG_DIGSEL => ⟨.cc, 0x60130, 0, 1⟩
  | .CC_IMG_DIG => ⟨.cc, 0x60140, 8, 6⟩
  | .CC_LSP_CMD => ⟨.cc, 0x70000, 0, 1⟩
  | .CC_LSP_STAT => ⟨.cc, 0x70008, 0, 1⟩
  | .CC_LSP_PTR => ⟨.cc, 0x70010, 0, 1⟩
  | .CC_LSP_DATA => ⟨.cc, 0x70018, 0, 1⟩
  | .CC_PACK_CMD => ⟨.cc, 0x70100, 0, 1⟩
  | .CC_PACK_DATA => ⟨.cc, 0x70108, 0, 1⟩
  | .CC_PACK_STAT => ⟨.cc, 0x70110, 0, 1⟩
  | .CC_PACK_VER => ⟨.cc, 0x70118, 0, 1⟩
  | .CC_PACK_FLOOR => ⟨.cc, 0x70120, 0, 1⟩
  | .CC_PACK_DIG => ⟨.cc, 0x70140, 8, 6⟩
  | .CC_CKPT_SHARD_SEL => ⟨.cc, 0x80000, 0, 1⟩
  | .CC_CKPT_SHARD0 => ⟨.cc, 0x80008, 0, 1⟩
  | .CC_CKPT_SHARD1 => ⟨.cc, 0x80010, 0, 1⟩
  | .CC_CKPT_SHARD2 => ⟨.cc, 0x80018, 0, 1⟩
  | .CC_CKPT_SHARD3 => ⟨.cc, 0x80020, 0, 1⟩
  | .CC_CKPT_HOST_SEL => ⟨.cc, 0x80040, 0, 1⟩
  | .CC_CKPT_HOST0 => ⟨.cc, 0x80048, 0, 1⟩
  | .CC_CKPT_HOST1 => ⟨.cc, 0x80050, 0, 1⟩
  | .CC_CKPT_HOST2 => ⟨.cc, 0x80058, 0, 1⟩
  | .CC_CKPT_HOST3 => ⟨.cc, 0x80060, 0, 1⟩
  | .CC_CKPT_CFG => ⟨.cc, 0x80100, 8, 64⟩
  | .CC_CKPT_STAT => ⟨.cc, 0x80300, 8, 64⟩
  | .CC_CKPT_CMD => ⟨.cc, 0x80600, 0, 1⟩
  | .CC_CKPT_SKEW_SEL => ⟨.cc, 0x80608, 0, 1⟩
  | .CC_CKPT_SKEW => ⟨.cc, 0x80610, 0, 1⟩
  | .CC_CKPT_ARG0 => ⟨.cc, 0x80800, 32, 64⟩
  | .CC_CKPT_ARG1 => ⟨.cc, 0x80808, 32, 64⟩
  | .CC_CKPT_ARG2 => ⟨.cc, 0x80810, 32, 64⟩
  | .FS_WAKE_CFG => ⟨.fs, 0x40, 0, 1⟩
  | .FS_WAKE_STAT => ⟨.fs, 0x48, 0, 1⟩
  | .FS_PROOF_CFG => ⟨.fs, 0x80, 0, 1⟩
  | .FS_PROOF_STAT => ⟨.fs, 0x88, 0, 1⟩
  | .FS_PROOF_CNT => ⟨.fs, 0x90, 0, 1⟩
  | .FS_PROOF_DROP => ⟨.fs, 0x98, 0, 1⟩
  | .FS_NEG_STAT => ⟨.fs, 0xA0, 0, 1⟩
  | .FS_NEG_RELEASE => ⟨.fs, 0xA8, 0, 1⟩
  | .FS_STRIP_CFG => ⟨.fs, 0xC0, 0, 1⟩
  | .FS_STRIP_STAT => ⟨.fs, 0xC8, 0, 1⟩
  | .FS_STRIP_CNT => ⟨.fs, 0xD0, 0, 1⟩
  | .FS_STRIP_CMD => ⟨.fs, 0xD8, 0, 1⟩
  | .FS_LEDGER_SEL => ⟨.fs, 0xE0, 0, 1⟩
  | .FS_LEDGER_DATA0 => ⟨.fs, 0xE8, 0, 1⟩
  | .FS_LEDGER_DATA1 => ⟨.fs, 0xF0, 0, 1⟩
  | .FS_LEDGER_DATA2 => ⟨.fs, 0xF8, 0, 1⟩
  | .FS_LEDGER_DATA3 => ⟨.fs, 0x100, 0, 1⟩
  | .FS_BRK_CFG => ⟨.fs, 0x140, 0, 1⟩
  | .FS_BRK_LIMIT => ⟨.fs, 0x148, 0, 1⟩
  | .FS_BRK_CMD => ⟨.fs, 0x150, 0, 1⟩
  | .FS_BRK_STAT => ⟨.fs, 0x158, 0, 1⟩
  | .FS_MAINT => ⟨.fs, 0x160, 0, 1⟩
  | .FS_FIX_CFG => ⟨.fs, 0x180, 0, 1⟩
  | .FS_FIX_STAT => ⟨.fs, 0x188, 0, 1⟩
  | .FS_FIX_SEL => ⟨.fs, 0x190, 0, 1⟩
  | .FS_FIX_DATA => ⟨.fs, 0x198, 0, 1⟩
  | .FS_PACK_VER => ⟨.fs, 0x1C0, 0, 1⟩
  | .FS_SEQ_CTL => ⟨.fs, 0x200, 0, 1⟩
  | .FS_SEQ_STAT => ⟨.fs, 0x208, 0, 1⟩
  | .FS_SEQ_MBOX => ⟨.fs, 0x210, 0, 1⟩
  | .FS_SEM_SIG => ⟨.fs, 0x218, 0, 1⟩
  | .FS_SEM_CNT => ⟨.fs, 0x220, 8, 8⟩
  | .FS_FSW => ⟨.fs, 0x280, 0, 1⟩
  | .FS_REC_STAT => ⟨.fs, 0x288, 0, 1⟩
  | .FS_REC_RATE => ⟨.fs, 0x290, 0, 1⟩
  | .FS_PIN_SEL => ⟨.fs, 0x298, 0, 1⟩
  | .FS_PIN_DATA => ⟨.fs, 0x2A0, 0, 1⟩
  | .FS_PIN_CLR => ⟨.fs, 0x2A8, 0, 1⟩
  | .FS_CREPLAY_CMD => ⟨.fs, 0x300, 0, 1⟩
  | .FS_CREPLAY_STAT => ⟨.fs, 0x308, 0, 1⟩
  | .FS_CREPLAY_CFG => ⟨.fs, 0x310, 0, 1⟩
  | .FS_SELFTEST => ⟨.fs, 0x340, 0, 1⟩
  | .FS_VMON => ⟨.fs, 0x380, 0, 1⟩
  | .CT_SIG_CFG => ⟨.ct, 0x10, 0, 1⟩
  | .CT_SIG_STAT => ⟨.ct, 0x18, 0, 1⟩
  | .CT_SIG_LAST => ⟨.ct, 0x20, 0, 1⟩
  | .CT_PCNT_SEL => ⟨.ct, 0x28, 0, 1⟩
  | .CT_PCNT_CFG => ⟨.ct, 0x30, 0, 1⟩
  | .CT_PCNT_VAL => ⟨.ct, 0x38, 0, 1⟩
  | .CT_SLEEVE_STAT => ⟨.ct, 0x40, 0, 1⟩
  | .CT_PCNT_CTL => ⟨.ct, 0x48, 0, 1⟩
  | .CT_TRACE_STAT => ⟨.ct, 0x50, 0, 1⟩
  | .CT_PROOF_FORCE0 => ⟨.ct, 0x60, 0, 1⟩
  | .CT_PROOF_FORCE1 => ⟨.ct, 0x68, 0, 1⟩
  | .CT_PROOF_STAT => ⟨.ct, 0x70, 0, 1⟩
  | .CT_ABFT_CFG => ⟨.ct, 0x80, 0, 1⟩
  | .CT_ABFT_STAT => ⟨.ct, 0x88, 0, 1⟩
  | .CT_ABFT_STAT2 => ⟨.ct, 0x90, 0, 1⟩
  | .CT_ABFT_LAST => ⟨.ct, 0x98, 0, 1⟩
  | .CT_ERR => ⟨.ct, 0xA0, 0, 1⟩
  | .CT_ERR_CAP => ⟨.ct, 0xA8, 0, 1⟩
  | .CT_WDOG_STAT => ⟨.ct, 0xB0, 0, 1⟩
  | .CT_SUSP_SEL => ⟨.ct, 0xB8, 0, 1⟩
  | .CT_SUSP_DATA0 => ⟨.ct, 0xC0, 0, 1⟩
  | .CT_SUSP_DATA1 => ⟨.ct, 0xC8, 0, 1⟩
  | .CT_BAR_STAT => ⟨.ct, 0xD0, 0, 1⟩
  | .CT_STOP_STAT => ⟨.ct, 0xD8, 0, 1⟩
  | .CT_SAFE_SEL => ⟨.ct, 0xE0, 0, 1⟩
  | .CT_SAFE_VAL => ⟨.ct, 0xE8, 0, 1⟩
  | .CT_CYC => ⟨.ct, 0xF0, 0, 1⟩
  | .CT_CYC_WT => ⟨.ct, 0xF8, 0, 1⟩
  | .MT_POOL_CFG => ⟨.mt, 0x20, 0, 1⟩
  | .MT_POOL_STAT => ⟨.mt, 0x28, 0, 1⟩
  | .MT_SLEEVE_CFG => ⟨.mt, 0x40, 0, 1⟩
  | .MT_SLEEVE_STAT => ⟨.mt, 0x48, 0, 1⟩
  | .MT_GEN_STAT => ⟨.mt, 0x60, 0, 1⟩
  | .MT_SHADOW_STAT => ⟨.mt, 0x80, 0, 1⟩
  | .MT_SHADOW_ERR => ⟨.mt, 0x88, 0, 1⟩
  | .MT_SEAL_RGN_A => ⟨.mt, 0x100, 16, 8⟩
  | .MT_SEAL_RGN_B => ⟨.mt, 0x108, 16, 8⟩
  | .MT_SEAL_STAT => ⟨.mt, 0x180, 0, 1⟩
  | .LT_SLEEVE_STAT => ⟨.lt, 0x40, 0, 1⟩
  | .LT_GEN_STAT => ⟨.lt, 0x60, 0, 1⟩
  | .LT_SHADOW_STAT => ⟨.lt, 0x80, 0, 1⟩
  | .LT_STOP_STAT => ⟨.lt, 0xA0, 0, 1⟩
  | .LT_TRUST => ⟨.lt, 0xC0, 0, 1⟩

-- BLOCK_ID (spec chapter 19)
def F.BLOCK_ID_vendor : Fld := ⟨.BLOCK_ID, 0, 16, .ro, 0x5C3D⟩
def F.BLOCK_ID_family : Fld := ⟨.BLOCK_ID, 16, 8, .ro, 1⟩
def F.BLOCK_ID_member : Fld := ⟨.BLOCK_ID, 24, 8, .ro, 2⟩
def F.BLOCK_ID_major : Fld := ⟨.BLOCK_ID, 32, 8, .ro, 4⟩
def F.BLOCK_ID_minor : Fld := ⟨.BLOCK_ID, 40, 8, .ro, 2⟩
def F.BLOCK_ID_patch : Fld := ⟨.BLOCK_ID, 48, 8, .ro, Config.patchLevel⟩
-- CC_OWNER (spec chapter 17)
def F.CC_OWNER_owner : Fld := ⟨.CC_OWNER, 0, 2, .ro, 3⟩
def F.CC_OWNER_stale : Fld := ⟨.CC_OWNER, 2, 1, .ro, 0⟩
def F.CC_OWNER_op : Fld := ⟨.CC_OWNER, 4, 3, .wo, 0⟩
def F.CC_OWNER_changes : Fld := ⟨.CC_OWNER, 8, 8, .ro, 0⟩
def F.CC_OWNER_idle_ms : Fld := ⟨.CC_OWNER, 16, 16, .ro, 0⟩
-- CC_OWNER_HO (spec chapter 17)
def F.CC_OWNER_HO_target : Fld := ⟨.CC_OWNER_HO, 0, 2, .rw, 3⟩
def F.CC_OWNER_HO_pending : Fld := ⟨.CC_OWNER_HO, 2, 1, .ro, 0⟩
-- CC_BUILD0 (spec chapter 19)
def F.CC_BUILD0_nfield : Fld := ⟨.CC_BUILD0, 0, 8, .ro, Config.nField⟩
def F.CC_BUILD0_ncluster : Fld := ⟨.CC_BUILD0, 8, 7, .ro, Config.nCluster⟩
def F.CC_BUILD0_ncore : Fld := ⟨.CC_BUILD0, 15, 8, .ro, Config.nCore⟩
def F.CC_BUILD0_nengine : Fld := ⟨.CC_BUILD0, 23, 3, .ro, Config.nEngine⟩
def F.CC_BUILD0_npart : Fld := ⟨.CC_BUILD0, 26, 7, .ro, Config.nPart⟩
def F.CC_BUILD0_nmt : Fld := ⟨.CC_BUILD0, 33, 11, .ro, Config.nMt⟩
def F.CC_BUILD0_nlt : Fld := ⟨.CC_BUILD0, 44, 7, .ro, Config.nLt⟩
def F.CC_BUILD0_gx_m1 : Fld := ⟨.CC_BUILD0, 51, 4, .ro, Config.gridX - 1⟩
def F.CC_BUILD0_gy_m1 : Fld := ⟨.CC_BUILD0, 55, 4, .ro, Config.gridY - 1⟩
-- CC_BUILD1 (spec chapter 19)
def F.CC_BUILD1_wafer_id : Fld := ⟨.CC_BUILD1, 0, 10, .ro, Config.strapWaferId⟩
def F.CC_BUILD1_hmax : Fld := ⟨.CC_BUILD1, 16, 8, .ro, Config.hopMax⟩
def F.CC_BUILD1_bcast_ns : Fld := ⟨.CC_BUILD1, 24, 16, .ro, Config.bcastNs⟩
def F.CC_BUILD1_cca_field : Fld := ⟨.CC_BUILD1, 40, 7, .ro, Config.ccAField⟩
def F.CC_BUILD1_ccb_field : Fld := ⟨.CC_BUILD1, 48, 7, .ro, Config.ccBField⟩
-- CC_ROLE (spec chapter 1)
def F.CC_ROLE_active : Fld := ⟨.CC_ROLE, 0, 1, .ro, 0⟩
def F.CC_ROLE_standby_ok : Fld := ⟨.CC_ROLE, 1, 1, .ro, 0⟩
def F.CC_ROLE_swap_req : Fld := ⟨.CC_ROLE, 2, 1, .wo, 0⟩
def F.CC_ROLE_swap_count : Fld := ⟨.CC_ROLE, 8, 8, .ro, 0⟩
-- CC_SERVICE (spec chapter 8)
def F.CC_SERVICE_level : Fld := ⟨.CC_SERVICE, 0, 2, .ro, 1⟩
def F.CC_SERVICE_oos : Fld := ⟨.CC_SERVICE, 2, 1, .ro, 1⟩
def F.CC_SERVICE_released : Fld := ⟨.CC_SERVICE, 8, 8, .ro, 0⟩
def F.CC_SERVICE_unmon : Fld := ⟨.CC_SERVICE, 16, 8, .ro, 0⟩
-- CC_FIELD_REL0 (spec chapter 8)
def F.CC_FIELD_REL0_rel : Fld := ⟨.CC_FIELD_REL0, 0, 64, .ro, 0⟩
-- CC_FIELD_REL1 (spec chapter 8)
def F.CC_FIELD_REL1_rel : Fld := ⟨.CC_FIELD_REL1, 0, 64, .ro, 0⟩
-- CC_FAULT_GLOBAL0 (spec chapter 11)
def F.CC_FAULT_GLOBAL0_open : Fld := ⟨.CC_FAULT_GLOBAL0, 0, 64, .ro, 0⟩
-- CC_FAULT_GLOBAL1 (spec chapter 11)
def F.CC_FAULT_GLOBAL1_open : Fld := ⟨.CC_FAULT_GLOBAL1, 0, 64, .ro, 0⟩
-- CC_FAULT_CTL (spec chapter 11)
def F.CC_FAULT_CTL_sec_count : Fld := ⟨.CC_FAULT_CTL, 0, 4, .ro, 0⟩
def F.CC_FAULT_CTL_merged : Fld := ⟨.CC_FAULT_CTL, 4, 1, .ro, 0⟩
def F.CC_FAULT_CTL_open : Fld := ⟨.CC_FAULT_CTL, 5, 1, .w1c, 0⟩
def F.CC_FAULT_CTL_src : Fld := ⟨.CC_FAULT_CTL, 8, 8, .w1c, 0⟩
-- CC_INJ_CMD (spec chapter 11)
def F.CC_INJ_CMD_checker : Fld := ⟨.CC_INJ_CMD, 0, 3, .wo, 0⟩
def F.CC_INJ_CMD_unit : Fld := ⟨.CC_INJ_CMD, 8, 24, .wo, 0⟩
def F.CC_INJ_CMD_count : Fld := ⟨.CC_INJ_CMD, 32, 8, .wo, 0⟩
def F.CC_INJ_CMD_partition : Fld := ⟨.CC_INJ_CMD, 40, 6, .wo, 0⟩
-- CC_INJ_STAT (spec chapter 11)
def F.CC_INJ_STAT_checker : Fld := ⟨.CC_INJ_STAT, 0, 3, .ro, 0⟩
def F.CC_INJ_STAT_refused : Fld := ⟨.CC_INJ_STAT, 3, 1, .w1c, 0⟩
def F.CC_INJ_STAT_reason : Fld := ⟨.CC_INJ_STAT, 4, 4, .ro, 0⟩
def F.CC_INJ_STAT_remaining : Fld := ⟨.CC_INJ_STAT, 8, 8, .ro, 0⟩
def F.CC_INJ_STAT_armings : Fld := ⟨.CC_INJ_STAT, 16, 16, .ro, 0⟩
-- CC_SAFE_SEL (spec chapter 16)
def F.CC_SAFE_SEL_index : Fld := ⟨.CC_SAFE_SEL, 0, 4, .rw, 0⟩
def F.CC_SAFE_SEL_scope : Fld := ⟨.CC_SAFE_SEL, 8, 7, .rw, 0x7F⟩
-- CC_SAFE_VAL (spec chapter 16)
def F.CC_SAFE_VAL_value : Fld := ⟨.CC_SAFE_VAL, 0, 48, .ro, 0⟩
-- CC_SAFE_AT (spec chapter 16)
def F.CC_SAFE_AT_wt : Fld := ⟨.CC_SAFE_AT, 0, 64, .ro, 0⟩
-- CC_OBS_STAT (spec chapter 16)
def F.CC_OBS_STAT_denied : Fld := ⟨.CC_OBS_STAT, 0, 32, .w1c, 0⟩
-- CC_BOOT_STAT (spec chapter 17)
def F.CC_BOOT_STAT_step : Fld := ⟨.CC_BOOT_STAT, 0, 4, .ro, 1⟩
def F.CC_BOOT_STAT_hold_release : Fld := ⟨.CC_BOOT_STAT, 4, 1, .ro, 0⟩
def F.CC_BOOT_STAT_full_train : Fld := ⟨.CC_BOOT_STAT, 5, 1, .ro, 0⟩
def F.CC_BOOT_STAT_fs_failed : Fld := ⟨.CC_BOOT_STAT, 8, 8, .ro, 0⟩
def F.CC_BOOT_STAT_strips_missed : Fld := ⟨.CC_BOOT_STAT, 16, 16, .ro, 0⟩
def F.CC_BOOT_STAT_boot_lost : Fld := ⟨.CC_BOOT_STAT, 32, 8, .ro, 0⟩
def F.CC_BOOT_STAT_done_ms : Fld := ⟨.CC_BOOT_STAT, 40, 24, .ro, 0⟩
-- CC_BOOT_CFG (spec chapter 17)
def F.CC_BOOT_CFG_wave : Fld := ⟨.CC_BOOT_CFG, 0, 5, .rp, 0xC⟩
def F.CC_BOOT_CFG_bist_tok : Fld := ⟨.CC_BOOT_CFG, 16, 16, .rp, 0x280⟩
def F.CC_BOOT_CFG_strip_wait_ms : Fld := ⟨.CC_BOOT_CFG, 32, 16, .rp, 0x1F4⟩
def F.CC_BOOT_CFG_train_s : Fld := ⟨.CC_BOOT_CFG, 48, 8, .rp, 0x14⟩
def F.CC_BOOT_CFG_full_train : Fld := ⟨.CC_BOOT_CFG, 56, 1, .rp, 0⟩
-- CC_BOOT_SEL (spec chapter 17)
def F.CC_BOOT_SEL_step : Fld := ⟨.CC_BOOT_SEL, 0, 4, .rw, 1⟩
-- CC_BOOT_T (spec chapter 17)
def F.CC_BOOT_T_wt : Fld := ⟨.CC_BOOT_T, 0, 64, .ro, 0⟩
-- CC_BIST_SEL (spec chapter 17)
def F.CC_BIST_SEL_unit : Fld := ⟨.CC_BIST_SEL, 0, 24, .rw, 0⟩
-- CC_BIST_DATA0 (spec chapter 17)
def F.CC_BIST_DATA0_result : Fld := ⟨.CC_BIST_DATA0, 0, 2, .ro, 0⟩
def F.CC_BIST_DATA0_clock_absent : Fld := ⟨.CC_BIST_DATA0, 2, 1, .ro, 0⟩
def F.CC_BIST_DATA0_failures : Fld := ⟨.CC_BIST_DATA0, 8, 8, .ro, 0⟩
def F.CC_BIST_DATA0_memory : Fld := ⟨.CC_BIST_DATA0, 16, 8, .ro, 0⟩
def F.CC_BIST_DATA0_address : Fld := ⟨.CC_BIST_DATA0, 24, 24, .ro, 0⟩
def F.CC_BIST_DATA0_bit : Fld := ⟨.CC_BIST_DATA0, 48, 9, .ro, 0⟩
def F.CC_BIST_DATA0_domain : Fld := ⟨.CC_BIST_DATA0, 57, 7, .ro, 0⟩
-- CC_BIST_DATA1 (spec chapter 17)
def F.CC_BIST_DATA1_signature : Fld := ⟨.CC_BIST_DATA1, 0, 64, .ro, 0⟩
-- CC_HOME_SEL (spec chapter 19)
def F.CC_HOME_SEL_index : Fld := ⟨.CC_HOME_SEL, 0, 10, .rw, 0⟩
def F.CC_HOME_SEL_kind : Fld := ⟨.CC_HOME_SEL, 10, 1, .rw, 0⟩
-- CC_HOME_DATA (spec chapter 19)
def F.CC_HOME_DATA_home : Fld := ⟨.CC_HOME_DATA, 0, 7, .ro, 0⟩
def F.CC_HOME_DATA_stack : Fld := ⟨.CC_HOME_DATA, 8, 10, .ro, 0⟩
def F.CC_HOME_DATA_present : Fld := ⟨.CC_HOME_DATA, 31, 1, .ro, 0⟩
-- CC_LOUPE_SEL (spec chapter 11)
def F.CC_LOUPE_SEL_source : Fld := ⟨.CC_LOUPE_SEL, 0, 8, .rw, 0xFF⟩
def F.CC_LOUPE_SEL_area : Fld := ⟨.CC_LOUPE_SEL, 8, 2, .rw, 1⟩
-- CC_LOUPE_CUR (spec chapter 11)
def F.CC_LOUPE_CUR_cursor : Fld := ⟨.CC_LOUPE_CUR, 0, 32, .rw, 0⟩
-- CC_LOUPE_DATA (spec chapter )
def F.CC_LOUPE_DATA_data : Fld := ⟨.CC_LOUPE_DATA, 0, 64, .ro, 0⟩
-- CC_LOUPE_STAT (spec chapter 11)
def F.CC_LOUPE_STAT_side : Fld := ⟨.CC_LOUPE_STAT, 0, 32, .ro, 0⟩
def F.CC_LOUPE_STAT_valid : Fld := ⟨.CC_LOUPE_STAT, 32, 1, .ro, 0⟩
def F.CC_LOUPE_STAT_crc_bad : Fld := ⟨.CC_LOUPE_STAT, 33, 1, .ro, 0⟩
def F.CC_LOUPE_STAT_gone : Fld := ⟨.CC_LOUPE_STAT, 34, 1, .ro, 0⟩
def F.CC_LOUPE_STAT_empty : Fld := ⟨.CC_LOUPE_STAT, 35, 1, .ro, 0⟩
def F.CC_LOUPE_STAT_refused : Fld := ⟨.CC_LOUPE_STAT, 36, 1, .ro, 0⟩
-- CC_LOUPE_FRZ (spec chapter 11)
def F.CC_LOUPE_FRZ_freeze : Fld := ⟨.CC_LOUPE_FRZ, 0, 1, .rw, 0⟩
def F.CC_LOUPE_FRZ_max_ms : Fld := ⟨.CC_LOUPE_FRZ, 16, 16, .rw, 0x3E8⟩
-- CC_LOUPE_NEW (spec chapter 11)
def F.CC_LOUPE_NEW_newest : Fld := ⟨.CC_LOUPE_NEW, 0, 32, .ro, 0⟩
def F.CC_LOUPE_NEW_first_used : Fld := ⟨.CC_LOUPE_NEW, 32, 11, .ro, 0⟩
-- CC_REC_CLR (spec chapter 11)
def F.CC_REC_CLR_first : Fld := ⟨.CC_REC_CLR, 0, 1, .wo, 0⟩
def F.CC_REC_CLR_last : Fld := ⟨.CC_REC_CLR, 1, 1, .wo, 0⟩
def F.CC_REC_CLR_source : Fld := ⟨.CC_REC_CLR, 2, 8, .wo, 0⟩
-- CC_REC_STAT (spec chapter 11)
def F.CC_REC_STAT_first_used : Fld := ⟨.CC_REC_STAT, 0, 11, .ro, 0⟩
def F.CC_REC_STAT_frozen : Fld := ⟨.CC_REC_STAT, 11, 1, .ro, 0⟩
def F.CC_REC_STAT_missed : Fld := ⟨.CC_REC_STAT, 16, 16, .w1c, 0⟩
def F.CC_REC_STAT_held_ovf : Fld := ⟨.CC_REC_STAT, 32, 8, .w1c, 0⟩
def F.CC_REC_STAT_fwd : Fld := ⟨.CC_REC_STAT, 40, 8, .w1c, 0⟩
def F.CC_REC_STAT_suppressed : Fld := ⟨.CC_REC_STAT, 48, 16, .w1c, 0⟩
-- CC_REC_RATE (spec chapter 11)
def F.CC_REC_RATE_burst : Fld := ⟨.CC_REC_RATE, 0, 8, .rw, 0x10⟩
def F.CC_REC_RATE_period_ms : Fld := ⟨.CC_REC_RATE, 8, 16, .rw, 0xA⟩
-- CC_ARCH_STAT (spec chapter 18)
def F.CC_ARCH_STAT_ue : Fld := ⟨.CC_ARCH_STAT, 0, 16, .w1c, 0⟩
def F.CC_ARCH_STAT_worn : Fld := ⟨.CC_ARCH_STAT, 16, 16, .w1c, 0⟩
def F.CC_ARCH_STAT_max_wear : Fld := ⟨.CC_ARCH_STAT, 32, 17, .ro, 0⟩
-- CC_ARCH_SEL (spec chapter 18)
def F.CC_ARCH_SEL_word : Fld := ⟨.CC_ARCH_SEL, 0, 15, .rw, 0⟩
-- CC_ARCH_DATA (spec chapter 18)
def F.CC_ARCH_DATA_data : Fld := ⟨.CC_ARCH_DATA, 0, 64, .ro, 0⟩
-- CC_ARCH_WEAR (spec chapter 18)
def F.CC_ARCH_WEAR_writes : Fld := ⟨.CC_ARCH_WEAR, 0, 17, .ro, 0⟩
def F.CC_ARCH_WEAR_worn : Fld := ⟨.CC_ARCH_WEAR, 17, 1, .ro, 0⟩
def F.CC_ARCH_WEAR_ue : Fld := ⟨.CC_ARCH_WEAR, 18, 1, .ro, 0⟩
-- CC_FENCE_CMD (spec chapter 8)
def F.CC_FENCE_CMD_unit : Fld := ⟨.CC_FENCE_CMD, 0, 24, .wo, 0⟩
def F.CC_FENCE_CMD_reason : Fld := ⟨.CC_FENCE_CMD, 24, 8, .wo, 0⟩
def F.CC_FENCE_CMD_op : Fld := ⟨.CC_FENCE_CMD, 32, 1, .wo, 0⟩
-- CC_FENCE_STAT (spec chapter 8)
def F.CC_FENCE_STAT_used : Fld := ⟨.CC_FENCE_STAT, 0, 14, .ro, 0⟩
def F.CC_FENCE_STAT_refused : Fld := ⟨.CC_FENCE_STAT, 14, 1, .w1c, 0⟩
def F.CC_FENCE_STAT_volatile : Fld := ⟨.CC_FENCE_STAT, 15, 1, .ro, 0⟩
def F.CC_FENCE_STAT_pending : Fld := ⟨.CC_FENCE_STAT, 16, 16, .ro, 0⟩
def F.CC_FENCE_STAT_compactions : Fld := ⟨.CC_FENCE_STAT, 32, 16, .ro, 0⟩
-- CC_FENCE_IDX (spec chapter 8)
def F.CC_FENCE_IDX_index : Fld := ⟨.CC_FENCE_IDX, 0, 13, .rw, 0⟩
-- CC_FENCE_ENTRY (spec chapter 8)
def F.CC_FENCE_ENTRY_entry : Fld := ⟨.CC_FENCE_ENTRY, 0, 32, .ro, 0⟩
-- CC_FIX_POLICY (spec chapter 8)
def F.CC_FIX_POLICY_unmon_release : Fld := ⟨.CC_FIX_POLICY, 0, 1, .rp, 0⟩
def F.CC_FIX_POLICY_ack_ms : Fld := ⟨.CC_FIX_POLICY, 16, 16, .rp, 0xA⟩
-- CC_LIFECYCLE (spec chapter 15)
def F.CC_LIFECYCLE_state : Fld := ⟨.CC_LIFECYCLE, 0, 3, .ro, Config.fuseLifecycle⟩
def F.CC_LIFECYCLE_target : Fld := ⟨.CC_LIFECYCLE, 8, 3, .wo, 0⟩
def F.CC_LIFECYCLE_confirm : Fld := ⟨.CC_LIFECYCLE, 16, 8, .wo, 0⟩
-- CC_TRUST_GROUP (spec chapter 15)
def F.CC_TRUST_GROUP_group : Fld := ⟨.CC_TRUST_GROUP, 0, 16, .rp, 0⟩
-- CC_SEAL_CFG (spec chapter 15)
def F.CC_SEAL_CFG_nonce_s : Fld := ⟨.CC_SEAL_CFG, 0, 16, .rw, 0x3C⟩
def F.CC_SEAL_CFG_clear_ms : Fld := ⟨.CC_SEAL_CFG, 16, 16, .rw, 0x64⟩
-- CC_PART_SEAL (spec chapter 15)
def F.CC_PART_SEAL_sealed : Fld := ⟨.CC_PART_SEAL, 0, 1, .ro, 0⟩
def F.CC_PART_SEAL_debug : Fld := ⟨.CC_PART_SEAL, 1, 1, .rw, 0⟩
def F.CC_PART_SEAL_tainted : Fld := ⟨.CC_PART_SEAL, 2, 1, .ro, 0⟩
def F.CC_PART_SEAL_desealing : Fld := ⟨.CC_PART_SEAL, 3, 1, .ro, 0⟩
def F.CC_PART_SEAL_eligible : Fld := ⟨.CC_PART_SEAL, 4, 1, .ro, 0⟩
def F.CC_PART_SEAL_epoch : Fld := ⟨.CC_PART_SEAL, 16, 32, .ro, 0⟩
-- CC_KEY_CMD (spec chapter 15)
def F.CC_KEY_CMD_op : Fld := ⟨.CC_KEY_CMD, 0, 2, .wo, 0⟩
def F.CC_KEY_CMD_partition : Fld := ⟨.CC_KEY_CMD, 2, 6, .wo, 0⟩
-- CC_KEY_DATA (spec chapter 15)
def F.CC_KEY_DATA_data : Fld := ⟨.CC_KEY_DATA, 0, 64, .wo, 0⟩
-- CC_KEY_STAT (spec chapter 15)
def F.CC_KEY_STAT_state : Fld := ⟨.CC_KEY_STAT, 0, 2, .ro, 0⟩
def F.CC_KEY_STAT_reason : Fld := ⟨.CC_KEY_STAT, 2, 4, .ro, 0⟩
def F.CC_KEY_STAT_refused : Fld := ⟨.CC_KEY_STAT, 6, 1, .w1c, 0⟩
def F.CC_KEY_STAT_received : Fld := ⟨.CC_KEY_STAT, 8, 8, .ro, 0⟩
-- CC_SCRUB_CMD (spec chapter 15)
def F.CC_SCRUB_CMD_op : Fld := ⟨.CC_SCRUB_CMD, 0, 2, .wo, 0⟩
def F.CC_SCRUB_CMD_partition : Fld := ⟨.CC_SCRUB_CMD, 2, 6, .wo, 0⟩
-- CC_SCRUB_STAT (spec chapter 15)
def F.CC_SCRUB_STAT_state : Fld := ⟨.CC_SCRUB_STAT, 0, 2, .ro, 0⟩
def F.CC_SCRUB_STAT_phase : Fld := ⟨.CC_SCRUB_STAT, 2, 3, .ro, 0⟩
def F.CC_SCRUB_STAT_cause : Fld := ⟨.CC_SCRUB_STAT, 8, 4, .ro, 0⟩
def F.CC_SCRUB_STAT_count : Fld := ⟨.CC_SCRUB_STAT, 16, 32, .ro, 0⟩
-- CC_WT (spec chapter 18)
def F.CC_WT_wt : Fld := ⟨.CC_WT, 0, 64, .ro, 0⟩
-- CC_CLK_CFG (spec chapter 18)
def F.CC_CLK_CFG_src_pref : Fld := ⟨.CC_CLK_CFG, 0, 1, .rp, 0⟩
def F.CC_CLK_CFG_bk_sleep : Fld := ⟨.CC_CLK_CFG, 1, 1, .rp, 0⟩
-- CC_CLK_STAT (spec chapter 18)
def F.CC_CLK_STAT_src : Fld := ⟨.CC_CLK_STAT, 0, 2, .ro, 2⟩
def F.CC_CLK_STAT_judged : Fld := ⟨.CC_CLK_STAT, 2, 3, .ro, 0⟩
def F.CC_CLK_STAT_condemned : Fld := ⟨.CC_CLK_STAT, 5, 3, .ro, 0⟩
def F.CC_CLK_STAT_no_majority : Fld := ⟨.CC_CLK_STAT, 8, 1, .ro, 0⟩
def F.CC_CLK_STAT_trips : Fld := ⟨.CC_CLK_STAT, 16, 16, .w1c, 0⟩
def F.CC_CLK_STAT_aon_ms : Fld := ⟨.CC_CLK_STAT, 32, 32, .ro, 0⟩
-- CC_CLK_CNT (spec chapter 18)
def F.CC_CLK_CNT_ref : Fld := ⟨.CC_CLK_CNT, 0, 16, .ro, 0⟩
def F.CC_CLK_CNT_bk : Fld := ⟨.CC_CLK_CNT, 16, 16, .ro, 0⟩
-- CC_SSC_CFG (spec chapter 18)
def F.CC_SSC_CFG_enable : Fld := ⟨.CC_SSC_CFG, 0, 1, .rp, 0⟩
def F.CC_SSC_CFG_spread : Fld := ⟨.CC_SSC_CFG, 1, 4, .rp, 0⟩
def F.CC_SSC_CFG_mod : Fld := ⟨.CC_SSC_CFG, 5, 2, .rp, 0⟩
-- CC_VDD_CFG (spec chapter 18)
def F.CC_VDD_CFG_droop_mv : Fld := ⟨.CC_VDD_CFG, 0, 16, .rp, 0⟩
def F.CC_VDD_CFG_droop_ns : Fld := ⟨.CC_VDD_CFG, 16, 16, .rp, 4⟩
-- CC_VDD_STAT (spec chapter 18)
def F.CC_VDD_STAT_aon_mv : Fld := ⟨.CC_VDD_STAT, 0, 16, .ro, 0⟩
def F.CC_VDD_STAT_warn : Fld := ⟨.CC_VDD_STAT, 16, 1, .ro, 0⟩
def F.CC_VDD_STAT_cc_temp : Fld := ⟨.CC_VDD_STAT, 17, 8, .ro, 0x80⟩
def F.CC_VDD_STAT_warns : Fld := ⟨.CC_VDD_STAT, 32, 16, .w1c, 0⟩
-- CC_BRK_ENV (spec chapter 7)
def F.CC_BRK_ENV_f_steps : Fld := ⟨.CC_BRK_ENV, 0, 5, .rp, 0⟩
def F.CC_BRK_ENV_v_steps : Fld := ⟨.CC_BRK_ENV, 8, 4, .rp, 0⟩
def F.CC_BRK_ENV_t_max : Fld := ⟨.CC_BRK_ENV, 16, 8, .rp, 0⟩
-- CC_TEST_BUDGET (spec chapter 7)
def F.CC_TEST_BUDGET_budget : Fld := ⟨.CC_TEST_BUDGET, 0, 16, .rp, 0x2580⟩
def F.CC_TEST_BUDGET_in_use : Fld := ⟨.CC_TEST_BUDGET, 16, 16, .ro, 0⟩
def F.CC_TEST_BUDGET_waiting : Fld := ⟨.CC_TEST_BUDGET, 32, 8, .ro, 0⟩
-- CC_TOKEN_COST (spec chapter 7)
def F.CC_TOKEN_COST_hold_tok : Fld := ⟨.CC_TOKEN_COST, 0, 8, .rp, 1⟩
def F.CC_TOKEN_COST_push_tok : Fld := ⟨.CC_TOKEN_COST, 8, 8, .rp, 4⟩
def F.CC_TOKEN_COST_heat_tok : Fld := ⟨.CC_TOKEN_COST, 16, 8, .rp, 2⟩
-- CC_STOP_CMD (spec chapter 14)
def F.CC_STOP_CMD_op : Fld := ⟨.CC_STOP_CMD, 0, 3, .wo, 0⟩
def F.CC_STOP_CMD_joined : Fld := ⟨.CC_STOP_CMD, 3, 1, .wo, 0⟩
def F.CC_STOP_CMD_freeze : Fld := ⟨.CC_STOP_CMD, 4, 1, .wo, 0⟩
-- CC_STOP_CFG (spec chapter 14)
def F.CC_STOP_CFG_lead_ns : Fld := ⟨.CC_STOP_CFG, 0, 16, .rw, 0xBB8⟩
def F.CC_STOP_CFG_join_lead_us : Fld := ⟨.CC_STOP_CFG, 16, 16, .rw, 0xC8⟩
def F.CC_STOP_CFG_max_ms : Fld := ⟨.CC_STOP_CFG, 32, 16, .rw, 0x64⟩
def F.CC_STOP_CFG_accept_joined : Fld := ⟨.CC_STOP_CFG, 48, 1, .rp, 0⟩
-- CC_STOP_STAT (spec chapter 14)
def F.CC_STOP_STAT_state : Fld := ⟨.CC_STOP_STAT, 0, 3, .ro, 0⟩
def F.CC_STOP_STAT_refused : Fld := ⟨.CC_STOP_STAT, 3, 1, .w1c, 0⟩
def F.CC_STOP_STAT_reason : Fld := ⟨.CC_STOP_STAT, 4, 3, .ro, 0⟩
def F.CC_STOP_STAT_late : Fld := ⟨.CC_STOP_STAT, 7, 1, .ro, 0⟩
def F.CC_STOP_STAT_stop_id : Fld := ⟨.CC_STOP_STAT, 8, 16, .ro, 0⟩
-- CC_STOP_T (spec chapter 14)
def F.CC_STOP_T_t_stop : Fld := ⟨.CC_STOP_T, 0, 64, .ro, 0⟩
-- CC_SHEET_CMD (spec chapter 14)
def F.CC_SHEET_CMD_op : Fld := ⟨.CC_SHEET_CMD, 0, 2, .wo, 0⟩
def F.CC_SHEET_CMD_dest : Fld := ⟨.CC_SHEET_CMD, 2, 1, .wo, 0⟩
def F.CC_SHEET_CMD_all : Fld := ⟨.CC_SHEET_CMD, 3, 1, .wo, 0⟩
def F.CC_SHEET_CMD_partition : Fld := ⟨.CC_SHEET_CMD, 4, 6, .wo, 0⟩
def F.CC_SHEET_CMD_content : Fld := ⟨.CC_SHEET_CMD, 10, 4, .wo, 0⟩
def F.CC_SHEET_CMD_auto_release : Fld := ⟨.CC_SHEET_CMD, 14, 1, .wo, 0⟩
-- CC_SHEET_REGION0 (spec chapter 14)
def F.CC_SHEET_REGION0_group : Fld := ⟨.CC_SHEET_REGION0, 0, 5, .rp, 0⟩
def F.CC_SHEET_REGION0_mask : Fld := ⟨.CC_SHEET_REGION0, 32, 32, .rp, 0⟩
-- CC_SHEET_REGION1 (spec chapter 14)
def F.CC_SHEET_REGION1_base : Fld := ⟨.CC_SHEET_REGION1, 0, 29, .rp, 0⟩
def F.CC_SHEET_REGION1_length : Fld := ⟨.CC_SHEET_REGION1, 32, 29, .rp, 0⟩
-- CC_SHEET_GEOM (spec chapter 14)
def F.CC_SHEET_GEOM_chains : Fld := ⟨.CC_SHEET_GEOM, 0, 5, .rp, 0⟩
def F.CC_SHEET_GEOM_words : Fld := ⟨.CC_SHEET_GEOM, 8, 24, .rp, 0⟩
-- CC_SHEET_STAT (spec chapter 14)
def F.CC_SHEET_STAT_state : Fld := ⟨.CC_SHEET_STAT, 0, 2, .ro, 0⟩
def F.CC_SHEET_STAT_truncated : Fld := ⟨.CC_SHEET_STAT, 2, 1, .ro, 0⟩
def F.CC_SHEET_STAT_refused : Fld := ⟨.CC_SHEET_STAT, 3, 1, .w1c, 0⟩
def F.CC_SHEET_STAT_blocks : Fld := ⟨.CC_SHEET_STAT, 16, 48, .ro, 0⟩
-- CC_PART_FIELD (spec chapter )
def F.CC_PART_FIELD_part0 : Fld := ⟨.CC_PART_FIELD, 0, 6, .rp, 0⟩
def F.CC_PART_FIELD_part1 : Fld := ⟨.CC_PART_FIELD, 8, 6, .rp, 0⟩
def F.CC_PART_FIELD_part2 : Fld := ⟨.CC_PART_FIELD, 16, 6, .rp, 0⟩
def F.CC_PART_FIELD_part3 : Fld := ⟨.CC_PART_FIELD, 24, 6, .rp, 0⟩
def F.CC_PART_FIELD_part4 : Fld := ⟨.CC_PART_FIELD, 32, 6, .rp, 0⟩
def F.CC_PART_FIELD_part5 : Fld := ⟨.CC_PART_FIELD, 40, 6, .rp, 0⟩
def F.CC_PART_FIELD_part6 : Fld := ⟨.CC_PART_FIELD, 48, 6, .rp, 0⟩
def F.CC_PART_FIELD_part7 : Fld := ⟨.CC_PART_FIELD, 56, 6, .rp, 0⟩
-- CC_RESET_CMD (spec chapter 12)
def F.CC_RESET_CMD_scope : Fld := ⟨.CC_RESET_CMD, 0, 3, .wo, 0⟩
def F.CC_RESET_CMD_partition : Fld := ⟨.CC_RESET_CMD, 8, 6, .wo, 0⟩
def F.CC_RESET_CMD_engine : Fld := ⟨.CC_RESET_CMD, 16, 22, .wo, 0⟩
def F.CC_RESET_CMD_context : Fld := ⟨.CC_RESET_CMD, 38, 16, .wo, 0⟩
-- CC_RESET_STAT (spec chapter 12)
def F.CC_RESET_STAT_status : Fld := ⟨.CC_RESET_STAT, 0, 8, .ro, 0⟩
def F.CC_RESET_STAT_refused : Fld := ⟨.CC_RESET_STAT, 8, 1, .w1c, 0⟩
-- CC_BUDGET_CFG (spec chapter 12)
def F.CC_BUDGET_CFG_part_limit : Fld := ⟨.CC_BUDGET_CFG, 0, 4, .rp, 3⟩
def F.CC_BUDGET_CFG_part_window_s : Fld := ⟨.CC_BUDGET_CFG, 4, 12, .rp, 0x258⟩
def F.CC_BUDGET_CFG_wafer_limit : Fld := ⟨.CC_BUDGET_CFG, 16, 4, .rp, 5⟩
def F.CC_BUDGET_CFG_wafer_window_h : Fld := ⟨.CC_BUDGET_CFG, 20, 8, .rp, 0x18⟩
-- CC_BUDGET_STAT (spec chapter 12)
def F.CC_BUDGET_STAT_outs : Fld := ⟨.CC_BUDGET_STAT, 0, 5, .ro, 0⟩
def F.CC_BUDGET_STAT_wafer_oos : Fld := ⟨.CC_BUDGET_STAT, 5, 1, .ro, 0⟩
def F.CC_BUDGET_STAT_hold : Fld := ⟨.CC_BUDGET_STAT, 6, 1, .ro, 0⟩
def F.CC_BUDGET_STAT_pwr_req : Fld := ⟨.CC_BUDGET_STAT, 7, 1, .ro, 0⟩
-- CC_PART_STAT (spec chapter 12)
def F.CC_PART_STAT_gen : Fld := ⟨.CC_PART_STAT, 0, 8, .ro, 0⟩
def F.CC_PART_STAT_phase : Fld := ⟨.CC_PART_STAT, 8, 3, .ro, 4⟩
def F.CC_PART_STAT_full : Fld := ⟨.CC_PART_STAT, 11, 1, .ro, 0⟩
def F.CC_PART_STAT_recent : Fld := ⟨.CC_PART_STAT, 12, 4, .ro, 0⟩
def F.CC_PART_STAT_last_ms : Fld := ⟨.CC_PART_STAT, 16, 32, .ro, 0⟩
def F.CC_PART_STAT_resets : Fld := ⟨.CC_PART_STAT, 48, 16, .ro, 0⟩
-- CC_WDOG_CFG (spec chapter 12)
def F.CC_WDOG_CFG_interval : Fld := ⟨.CC_WDOG_CFG, 0, 16, .rw, 0x32⟩
-- CC_PROOF_RATE (spec chapter 4)
def F.CC_PROOF_RATE_rate_exp : Fld := ⟨.CC_PROOF_RATE, 0, 5, .rw, 8⟩
-- CC_CHECK_MODE (spec chapter 5)
def F.CC_CHECK_MODE_mode : Fld := ⟨.CC_CHECK_MODE, 0, 2, .rw, 3⟩
-- CC_HORIZON_CFG (spec chapter 6)
def F.CC_HORIZON_CFG_period_s : Fld := ⟨.CC_HORIZON_CFG, 0, 17, .rw, 0xA⟩
def F.CC_HORIZON_CFG_q_exp : Fld := ⟨.CC_HORIZON_CFG, 17, 5, .rw, 6⟩
def F.CC_HORIZON_CFG_epoch_steps : Fld := ⟨.CC_HORIZON_CFG, 22, 8, .rw, 0x10⟩
-- CC_HORIZON (spec chapter 6)
def F.CC_HORIZON_d : Fld := ⟨.CC_HORIZON, 0, 16, .ro, 0xFFFF⟩
def F.CC_HORIZON_d_samp : Fld := ⟨.CC_HORIZON, 16, 16, .ro, 0xFFFF⟩
def F.CC_HORIZON_d_rot : Fld := ⟨.CC_HORIZON, 32, 16, .ro, 0xFFFF⟩
def F.CC_HORIZON_valid : Fld := ⟨.CC_HORIZON, 48, 1, .ro, 0⟩
def F.CC_HORIZON_overdue : Fld := ⟨.CC_HORIZON, 49, 1, .ro, 0⟩
def F.CC_HORIZON_unproved : Fld := ⟨.CC_HORIZON, 50, 1, .ro, 0⟩
-- CC_STEP (spec chapter 6)
def F.CC_STEP_step : Fld := ⟨.CC_STEP, 0, 40, .wo, 0⟩
-- CC_STEP_STAT (spec chapter 6)
def F.CC_STEP_STAT_step : Fld := ⟨.CC_STEP_STAT, 0, 32, .ro, 0⟩
def F.CC_STEP_STAT_t_min_us : Fld := ⟨.CC_STEP_STAT, 32, 32, .ro, 0⟩
-- CC_LOSS (spec chapter 6)
def F.CC_LOSS_loss : Fld := ⟨.CC_LOSS, 0, 32, .wo, 0⟩
-- CC_LOSS_CFG (spec chapter 6)
def F.CC_LOSS_CFG_k : Fld := ⟨.CC_LOSS_CFG, 0, 8, .rw, 8⟩
def F.CC_LOSS_CFG_reset_stats : Fld := ⟨.CC_LOSS_CFG, 8, 1, .wo, 0⟩
def F.CC_LOSS_CFG_accepted : Fld := ⟨.CC_LOSS_CFG, 16, 16, .ro, 0⟩
-- CC_PART_CHAN (spec chapter )
def F.CC_PART_CHAN_part0 : Fld := ⟨.CC_PART_CHAN, 0, 6, .rp, 0⟩
def F.CC_PART_CHAN_unassigned0 : Fld := ⟨.CC_PART_CHAN, 7, 1, .rp, 0⟩
def F.CC_PART_CHAN_part1 : Fld := ⟨.CC_PART_CHAN, 8, 6, .rp, 0⟩
def F.CC_PART_CHAN_unassigned1 : Fld := ⟨.CC_PART_CHAN, 15, 1, .rp, 0⟩
def F.CC_PART_CHAN_part2 : Fld := ⟨.CC_PART_CHAN, 16, 6, .rp, 0⟩
def F.CC_PART_CHAN_unassigned2 : Fld := ⟨.CC_PART_CHAN, 23, 1, .rp, 0⟩
def F.CC_PART_CHAN_part3 : Fld := ⟨.CC_PART_CHAN, 24, 6, .rp, 0⟩
def F.CC_PART_CHAN_unassigned3 : Fld := ⟨.CC_PART_CHAN, 31, 1, .rp, 0⟩
def F.CC_PART_CHAN_part4 : Fld := ⟨.CC_PART_CHAN, 32, 6, .rp, 0⟩
def F.CC_PART_CHAN_unassigned4 : Fld := ⟨.CC_PART_CHAN, 39, 1, .rp, 0⟩
def F.CC_PART_CHAN_part5 : Fld := ⟨.CC_PART_CHAN, 40, 6, .rp, 0⟩
def F.CC_PART_CHAN_unassigned5 : Fld := ⟨.CC_PART_CHAN, 47, 1, .rp, 0⟩
def F.CC_PART_CHAN_part6 : Fld := ⟨.CC_PART_CHAN, 48, 6, .rp, 0⟩
def F.CC_PART_CHAN_unassigned6 : Fld := ⟨.CC_PART_CHAN, 55, 1, .rp, 0⟩
def F.CC_PART_CHAN_part7 : Fld := ⟨.CC_PART_CHAN, 56, 6, .rp, 0⟩
def F.CC_PART_CHAN_unassigned7 : Fld := ⟨.CC_PART_CHAN, 63, 1, .rp, 0⟩
-- CC_BAR_CFG (spec chapter 14)
def F.CC_BAR_CFG_enable : Fld := ⟨.CC_BAR_CFG, 0, 1, .rw, 0⟩
def F.CC_BAR_CFG_partition : Fld := ⟨.CC_BAR_CFG, 1, 6, .rw, 0⟩
-- CC_TRACE_CFG (spec chapter 16)
def F.CC_TRACE_CFG_enable : Fld := ⟨.CC_TRACE_CFG, 0, 1, .rw, 0⟩
def F.CC_TRACE_CFG_stop_mode : Fld := ⟨.CC_TRACE_CFG, 1, 1, .rw, 0⟩
def F.CC_TRACE_CFG_events : Fld := ⟨.CC_TRACE_CFG, 8, 7, .rw, 0⟩
-- CC_TRACE_RING0 (spec chapter 16)
def F.CC_TRACE_RING0_group : Fld := ⟨.CC_TRACE_RING0, 0, 5, .rw, 0⟩
def F.CC_TRACE_RING0_mask : Fld := ⟨.CC_TRACE_RING0, 32, 32, .rw, 0⟩
-- CC_TRACE_RING1 (spec chapter 16)
def F.CC_TRACE_RING1_base : Fld := ⟨.CC_TRACE_RING1, 0, 29, .rw, 0⟩
def F.CC_TRACE_RING1_length : Fld := ⟨.CC_TRACE_RING1, 32, 29, .rw, 0⟩
-- CC_TRACE_HEAD (spec chapter 16)
def F.CC_TRACE_HEAD_head : Fld := ⟨.CC_TRACE_HEAD, 0, 40, .ro, 0⟩
-- CC_TRACE_TAIL (spec chapter 16)
def F.CC_TRACE_TAIL_tail : Fld := ⟨.CC_TRACE_TAIL, 0, 40, .rw, 0⟩
-- CC_TRACE_MARK (spec chapter 16)
def F.CC_TRACE_MARK_value : Fld := ⟨.CC_TRACE_MARK, 0, 48, .wo, 0⟩
-- CC_TRACE_STAT (spec chapter 16)
def F.CC_TRACE_STAT_lost : Fld := ⟨.CC_TRACE_STAT, 0, 32, .w1c, 0⟩
def F.CC_TRACE_STAT_cause : Fld := ⟨.CC_TRACE_STAT, 32, 4, .ro, 0⟩
-- CC_MODE_STAT (spec chapter 20)
def F.CC_MODE_STAT_mode : Fld := ⟨.CC_MODE_STAT, 0, 2, .ro, 3⟩
def F.CC_MODE_STAT_sealed : Fld := ⟨.CC_MODE_STAT, 2, 1, .ro, 0⟩
def F.CC_MODE_STAT_debug : Fld := ⟨.CC_MODE_STAT, 3, 1, .ro, 0⟩
def F.CC_MODE_STAT_tainted : Fld := ⟨.CC_MODE_STAT, 4, 1, .ro, 0⟩
def F.CC_MODE_STAT_desealing : Fld := ⟨.CC_MODE_STAT, 5, 1, .ro, 0⟩
def F.CC_MODE_STAT_bracketing : Fld := ⟨.CC_MODE_STAT, 6, 1, .ro, 0⟩
def F.CC_MODE_STAT_stopped : Fld := ⟨.CC_MODE_STAT, 7, 1, .ro, 0⟩
def F.CC_MODE_STAT_frozen : Fld := ⟨.CC_MODE_STAT, 8, 1, .ro, 0⟩
def F.CC_MODE_STAT_reset : Fld := ⟨.CC_MODE_STAT, 9, 1, .ro, 0⟩
def F.CC_MODE_STAT_scrub : Fld := ⟨.CC_MODE_STAT, 10, 1, .ro, 0⟩
def F.CC_MODE_STAT_save : Fld := ⟨.CC_MODE_STAT, 11, 1, .ro, 0⟩
def F.CC_MODE_STAT_restore : Fld := ⟨.CC_MODE_STAT, 12, 1, .ro, 0⟩
def F.CC_MODE_STAT_update : Fld := ⟨.CC_MODE_STAT, 13, 1, .ro, 0⟩
def F.CC_MODE_STAT_aon_only : Fld := ⟨.CC_MODE_STAT, 14, 1, .ro, 1⟩
def F.CC_MODE_STAT_rec_frozen : Fld := ⟨.CC_MODE_STAT, 15, 1, .ro, 0⟩
-- CC_SEQ_CTL (spec chapter 10)
def F.CC_SEQ_CTL_restart : Fld := ⟨.CC_SEQ_CTL, 0, 1, .w1s, 0⟩
def F.CC_SEQ_CTL_use_ref : Fld := ⟨.CC_SEQ_CTL, 1, 1, .rw, 0⟩
-- CC_SEQ_STAT (spec chapter 10)
def F.CC_SEQ_STAT_running : Fld := ⟨.CC_SEQ_STAT, 0, 2, .ro, 0⟩
def F.CC_SEQ_STAT_halted : Fld := ⟨.CC_SEQ_STAT, 2, 1, .ro, 0⟩
def F.CC_SEQ_STAT_in_trap : Fld := ⟨.CC_SEQ_STAT, 3, 1, .ro, 0⟩
def F.CC_SEQ_STAT_cause : Fld := ⟨.CC_SEQ_STAT, 4, 4, .ro, 0⟩
def F.CC_SEQ_STAT_pc : Fld := ⟨.CC_SEQ_STAT, 8, 20, .ro, 0⟩
def F.CC_SEQ_STAT_traps : Fld := ⟨.CC_SEQ_STAT, 32, 16, .w1c, 0⟩
def F.CC_SEQ_STAT_rx_drop : Fld := ⟨.CC_SEQ_STAT, 48, 8, .w1c, 0⟩
def F.CC_SEQ_STAT_note_lost : Fld := ⟨.CC_SEQ_STAT, 56, 8, .w1c, 0⟩
-- CC_SEQ_MBOX (spec chapter 10)
def F.CC_SEQ_MBOX_value : Fld := ⟨.CC_SEQ_MBOX, 0, 32, .rw, 0⟩
-- CC_SEM_SIG (spec chapter 10)
def F.CC_SEM_SIG_sem : Fld := ⟨.CC_SEM_SIG, 0, 6, .wo, 0⟩
def F.CC_SEM_SIG_n : Fld := ⟨.CC_SEM_SIG, 8, 4, .wo, 0⟩
-- CC_SEM_CNT (spec chapter 10)
def F.CC_SEM_CNT_cnt : Fld := ⟨.CC_SEM_CNT, 0, 64, .ro, 0⟩
-- CC_IMG_CMD (spec chapter 10)
def F.CC_IMG_CMD_op : Fld := ⟨.CC_IMG_CMD, 0, 3, .wo, 0⟩
def F.CC_IMG_CMD_target : Fld := ⟨.CC_IMG_CMD, 3, 1, .wo, 0⟩
def F.CC_IMG_CMD_field : Fld := ⟨.CC_IMG_CMD, 8, 7, .wo, 0⟩
def F.CC_IMG_CMD_all : Fld := ⟨.CC_IMG_CMD, 15, 1, .wo, 0⟩
def F.CC_IMG_CMD_length : Fld := ⟨.CC_IMG_CMD, 32, 32, .wo, 0⟩
-- CC_IMG_DATA (spec chapter 10)
def F.CC_IMG_DATA_data : Fld := ⟨.CC_IMG_DATA, 0, 64, .wo, 0⟩
-- CC_IMG_STAT (spec chapter 10)
def F.CC_IMG_STAT_state : Fld := ⟨.CC_IMG_STAT, 0, 3, .ro, 0⟩
def F.CC_IMG_STAT_reason : Fld := ⟨.CC_IMG_STAT, 3, 4, .ro, 0⟩
def F.CC_IMG_STAT_target : Fld := ⟨.CC_IMG_STAT, 7, 1, .ro, 0⟩
def F.CC_IMG_STAT_cc_boot : Fld := ⟨.CC_IMG_STAT, 8, 1, .ro, 0⟩
def F.CC_IMG_STAT_fs_boot : Fld := ⟨.CC_IMG_STAT, 9, 1, .ro, 0⟩
def F.CC_IMG_STAT_received : Fld := ⟨.CC_IMG_STAT, 32, 32, .ro, 0⟩
-- CC_IMG_VER0 (spec chapter 10)
def F.CC_IMG_VER0_cc_a : Fld := ⟨.CC_IMG_VER0, 0, 32, .ro, 0⟩
def F.CC_IMG_VER0_cc_b : Fld := ⟨.CC_IMG_VER0, 32, 32, .ro, 0⟩
-- CC_IMG_VER1 (spec chapter 10)
def F.CC_IMG_VER1_fs_a : Fld := ⟨.CC_IMG_VER1, 0, 32, .ro, 0⟩
def F.CC_IMG_VER1_fs_b : Fld := ⟨.CC_IMG_VER1, 32, 32, .ro, 0⟩
-- CC_IMG_FLOOR (spec chapter 10)
def F.CC_IMG_FLOOR_cc : Fld := ⟨.CC_IMG_FLOOR, 0, 32, .rp, 0⟩
def F.CC_IMG_FLOOR_fs : Fld := ⟨.CC_IMG_FLOOR, 32, 32, .rp, 0⟩
-- CC_IMG_DIGSEL (spec chapter 10)
def F.CC_IMG_DIGSEL_sel : Fld := ⟨.CC_IMG_DIGSEL, 0, 3, .rw, 0⟩
-- CC_IMG_DIG (spec chapter 10)
def F.CC_IMG_DIG_dig : Fld := ⟨.CC_IMG_DIG, 0, 64, .ro, 0⟩
-- CC_LSP_CMD (spec chapter 9)
def F.CC_LSP_CMD_field : Fld := ⟨.CC_LSP_CMD, 0, 7, .wo, 0⟩
def F.CC_LSP_CMD_summary : Fld := ⟨.CC_LSP_CMD, 7, 1, .wo, 0⟩
def F.CC_LSP_CMD_index : Fld := ⟨.CC_LSP_CMD, 8, 4, .wo, 0⟩
def F.CC_LSP_CMD_payload : Fld := ⟨.CC_LSP_CMD, 12, 1, .wo, 0⟩
-- CC_LSP_STAT (spec chapter 9)
def F.CC_LSP_STAT_state : Fld := ⟨.CC_LSP_STAT, 0, 2, .ro, 0⟩
def F.CC_LSP_STAT_no_payload : Fld := ⟨.CC_LSP_STAT, 2, 1, .ro, 0⟩
def F.CC_LSP_STAT_length : Fld := ⟨.CC_LSP_STAT, 8, 32, .ro, 0⟩
-- CC_LSP_PTR (spec chapter 9)
def F.CC_LSP_PTR_offset : Fld := ⟨.CC_LSP_PTR, 0, 32, .rw, 0⟩
-- CC_LSP_DATA (spec chapter 9)
def F.CC_LSP_DATA_data : Fld := ⟨.CC_LSP_DATA, 0, 64, .ro, 0⟩
-- CC_PACK_CMD (spec chapter 9)
def F.CC_PACK_CMD_op : Fld := ⟨.CC_PACK_CMD, 0, 3, .wo, 0⟩
def F.CC_PACK_CMD_length : Fld := ⟨.CC_PACK_CMD, 32, 32, .wo, 0⟩
-- CC_PACK_DATA (spec chapter 9)
def F.CC_PACK_DATA_data : Fld := ⟨.CC_PACK_DATA, 0, 64, .wo, 0⟩
-- CC_PACK_STAT (spec chapter 9)
def F.CC_PACK_STAT_state : Fld := ⟨.CC_PACK_STAT, 0, 3, .ro, 0⟩
def F.CC_PACK_STAT_reason : Fld := ⟨.CC_PACK_STAT, 3, 5, .ro, 0⟩
def F.CC_PACK_STAT_switched : Fld := ⟨.CC_PACK_STAT, 8, 8, .ro, 0⟩
def F.CC_PACK_STAT_received : Fld := ⟨.CC_PACK_STAT, 16, 32, .ro, 0⟩
-- CC_PACK_VER (spec chapter 9)
def F.CC_PACK_VER_active : Fld := ⟨.CC_PACK_VER, 0, 32, .ro, 0⟩
def F.CC_PACK_VER_staged : Fld := ⟨.CC_PACK_VER, 32, 32, .ro, 0⟩
-- CC_PACK_FLOOR (spec chapter 9)
def F.CC_PACK_FLOOR_floor : Fld := ⟨.CC_PACK_FLOOR, 0, 32, .rp, 0⟩
-- CC_PACK_DIG (spec chapter 9)
def F.CC_PACK_DIG_dig : Fld := ⟨.CC_PACK_DIG, 0, 64, .ro, 0⟩
-- CC_CKPT_SHARD_SEL (spec chapter 13)
def F.CC_CKPT_SHARD_SEL_index : Fld := ⟨.CC_CKPT_SHARD_SEL, 0, 10, .rw, 0⟩
-- CC_CKPT_SHARD0 (spec chapter 13)
def F.CC_CKPT_SHARD0_partition : Fld := ⟨.CC_CKPT_SHARD0, 0, 6, .rw, 0⟩
def F.CC_CKPT_SHARD0_valid : Fld := ⟨.CC_CKPT_SHARD0, 6, 1, .rw, 0⟩
def F.CC_CKPT_SHARD0_group : Fld := ⟨.CC_CKPT_SHARD0, 8, 5, .rw, 0⟩
def F.CC_CKPT_SHARD0_length : Fld := ⟨.CC_CKPT_SHARD0, 16, 24, .rw, 0⟩
-- CC_CKPT_SHARD1 (spec chapter 13)
def F.CC_CKPT_SHARD1_mask : Fld := ⟨.CC_CKPT_SHARD1, 0, 32, .rw, 0⟩
-- CC_CKPT_SHARD2 (spec chapter 13)
def F.CC_CKPT_SHARD2_base0 : Fld := ⟨.CC_CKPT_SHARD2, 0, 29, .rw, 0⟩
def F.CC_CKPT_SHARD2_base1 : Fld := ⟨.CC_CKPT_SHARD2, 32, 29, .rw, 0⟩
-- CC_CKPT_SHARD3 (spec chapter 13)
def F.CC_CKPT_SHARD3_p0_wafer : Fld := ⟨.CC_CKPT_SHARD3, 0, 10, .rw, 0⟩
def F.CC_CKPT_SHARD3_p0_entry : Fld := ⟨.CC_CKPT_SHARD3, 10, 10, .rw, 0⟩
def F.CC_CKPT_SHARD3_p0_valid : Fld := ⟨.CC_CKPT_SHARD3, 20, 1, .rw, 0⟩
def F.CC_CKPT_SHARD3_p1 : Fld := ⟨.CC_CKPT_SHARD3, 32, 21, .rw, 0⟩
-- CC_CKPT_HOST_SEL (spec chapter 13)
def F.CC_CKPT_HOST_SEL_index : Fld := ⟨.CC_CKPT_HOST_SEL, 0, 10, .rw, 0⟩
-- CC_CKPT_HOST0 (spec chapter 13)
def F.CC_CKPT_HOST0_src_wafer : Fld := ⟨.CC_CKPT_HOST0, 0, 10, .rw, 0⟩
def F.CC_CKPT_HOST0_src_part : Fld := ⟨.CC_CKPT_HOST0, 10, 6, .rw, 0⟩
def F.CC_CKPT_HOST0_src_shard : Fld := ⟨.CC_CKPT_HOST0, 16, 10, .rw, 0⟩
def F.CC_CKPT_HOST0_valid : Fld := ⟨.CC_CKPT_HOST0, 26, 1, .rw, 0⟩
def F.CC_CKPT_HOST0_group : Fld := ⟨.CC_CKPT_HOST0, 32, 5, .rw, 0⟩
def F.CC_CKPT_HOST0_length : Fld := ⟨.CC_CKPT_HOST0, 40, 24, .rw, 0⟩
-- CC_CKPT_HOST1 (spec chapter 13)
def F.CC_CKPT_HOST1_mask : Fld := ⟨.CC_CKPT_HOST1, 0, 32, .rw, 0⟩
-- CC_CKPT_HOST2 (spec chapter 13)
def F.CC_CKPT_HOST2_slot0 : Fld := ⟨.CC_CKPT_HOST2, 0, 29, .rw, 0⟩
def F.CC_CKPT_HOST2_slot1 : Fld := ⟨.CC_CKPT_HOST2, 32, 29, .rw, 0⟩
def F.CC_CKPT_HOST2_committed : Fld := ⟨.CC_CKPT_HOST2, 61, 1, .ro, 0⟩
def F.CC_CKPT_HOST2_held : Fld := ⟨.CC_CKPT_HOST2, 62, 1, .ro, 0⟩
-- CC_CKPT_HOST3 (spec chapter 13)
def F.CC_CKPT_HOST3_step : Fld := ⟨.CC_CKPT_HOST3, 0, 40, .ro, 0⟩
-- CC_CKPT_CFG (spec chapter 13)
def F.CC_CKPT_CFG_quorum : Fld := ⟨.CC_CKPT_CFG, 0, 2, .rw, 1⟩
def F.CC_CKPT_CFG_ack_ms : Fld := ⟨.CC_CKPT_CFG, 8, 16, .rw, 0x3E8⟩
-- CC_CKPT_STAT (spec chapter 13)
def F.CC_CKPT_STAT_state : Fld := ⟨.CC_CKPT_STAT, 0, 3, .ro, 0⟩
def F.CC_CKPT_STAT_captured : Fld := ⟨.CC_CKPT_STAT, 3, 1, .ro, 0⟩
def F.CC_CKPT_STAT_busy : Fld := ⟨.CC_CKPT_STAT, 4, 1, .w1c, 0⟩
def F.CC_CKPT_STAT_refused : Fld := ⟨.CC_CKPT_STAT, 5, 1, .w1c, 0⟩
def F.CC_CKPT_STAT_result : Fld := ⟨.CC_CKPT_STAT, 8, 4, .ro, 0⟩
def F.CC_CKPT_STAT_cause : Fld := ⟨.CC_CKPT_STAT, 12, 4, .ro, 0⟩
def F.CC_CKPT_STAT_last_step : Fld := ⟨.CC_CKPT_STAT, 16, 40, .ro, 0⟩
def F.CC_CKPT_STAT_local_ok : Fld := ⟨.CC_CKPT_STAT, 56, 1, .ro, 0⟩
def F.CC_CKPT_STAT_local_buf : Fld := ⟨.CC_CKPT_STAT, 57, 1, .ro, 0⟩
-- CC_CKPT_CMD (spec chapter 13)
def F.CC_CKPT_CMD_op : Fld := ⟨.CC_CKPT_CMD, 0, 3, .wo, 0⟩
def F.CC_CKPT_CMD_partition : Fld := ⟨.CC_CKPT_CMD, 3, 6, .wo, 0⟩
def F.CC_CKPT_CMD_buf : Fld := ⟨.CC_CKPT_CMD, 9, 1, .wo, 0⟩
def F.CC_CKPT_CMD_realign : Fld := ⟨.CC_CKPT_CMD, 10, 1, .wo, 0⟩
def F.CC_CKPT_CMD_source : Fld := ⟨.CC_CKPT_CMD, 11, 2, .wo, 0⟩
def F.CC_CKPT_CMD_streams : Fld := ⟨.CC_CKPT_CMD, 13, 9, .wo, 0⟩
-- CC_CKPT_SKEW_SEL (spec chapter 13)
def F.CC_CKPT_SKEW_SEL_stream : Fld := ⟨.CC_CKPT_SKEW_SEL, 0, 8, .rw, 0⟩
def F.CC_CKPT_SKEW_SEL_partition : Fld := ⟨.CC_CKPT_SKEW_SEL, 8, 6, .rw, 0⟩
-- CC_CKPT_SKEW (spec chapter 13)
def F.CC_CKPT_SKEW_delta : Fld := ⟨.CC_CKPT_SKEW, 0, 16, .ro, 0⟩
def F.CC_CKPT_SKEW_mismatch : Fld := ⟨.CC_CKPT_SKEW, 16, 1, .ro, 0⟩
def F.CC_CKPT_SKEW_counter : Fld := ⟨.CC_CKPT_SKEW, 17, 1, .ro, 0⟩
def F.CC_CKPT_SKEW_realigned : Fld := ⟨.CC_CKPT_SKEW, 18, 1, .ro, 0⟩
-- CC_CKPT_ARG0 (spec chapter 13)
def F.CC_CKPT_ARG0_d : Fld := ⟨.CC_CKPT_ARG0, 0, 64, .rw, 0⟩
-- CC_CKPT_ARG1 (spec chapter 13)
def F.CC_CKPT_ARG1_d : Fld := ⟨.CC_CKPT_ARG1, 0, 64, .rw, 0⟩
-- CC_CKPT_ARG2 (spec chapter 13)
def F.CC_CKPT_ARG2_d : Fld := ⟨.CC_CKPT_ARG2, 0, 64, .rw, 0⟩
-- FS_WAKE_CFG (spec chapter 1)
def F.FS_WAKE_CFG_hold_us : Fld := ⟨.FS_WAKE_CFG, 0, 16, .rw, 0x14⟩
def F.FS_WAKE_CFG_pin_awake : Fld := ⟨.FS_WAKE_CFG, 16, 1, .rw, 0⟩
-- FS_WAKE_STAT (spec chapter 1)
def F.FS_WAKE_STAT_awake : Fld := ⟨.FS_WAKE_STAT, 0, 1, .ro, 0⟩
def F.FS_WAKE_STAT_wakes : Fld := ⟨.FS_WAKE_STAT, 16, 32, .ro, 0⟩
-- FS_PROOF_CFG (spec chapter 4)
def F.FS_PROOF_CFG_enable : Fld := ⟨.FS_PROOF_CFG, 0, 1, .rw, 1⟩
def F.FS_PROOF_CFG_rekey : Fld := ⟨.FS_PROOF_CFG, 1, 1, .w1s, 0⟩
def F.FS_PROOF_CFG_shadow_max : Fld := ⟨.FS_PROOF_CFG, 8, 6, .rw, 0x20⟩
def F.FS_PROOF_CFG_neg_cap : Fld := ⟨.FS_PROOF_CFG, 16, 6, .rw, 0x20⟩
-- FS_PROOF_STAT (spec chapter 4)
def F.FS_PROOF_STAT_queued : Fld := ⟨.FS_PROOF_STAT, 0, 6, .ro, 0⟩
def F.FS_PROOF_STAT_busy : Fld := ⟨.FS_PROOF_STAT, 6, 1, .ro, 0⟩
def F.FS_PROOF_STAT_array_suspect : Fld := ⟨.FS_PROOF_STAT, 7, 1, .w1c, 0⟩
def F.FS_PROOF_STAT_forced : Fld := ⟨.FS_PROOF_STAT, 8, 13, .ro, 0⟩
def F.FS_PROOF_STAT_store_used : Fld := ⟨.FS_PROOF_STAT, 32, 13, .ro, 0⟩
def F.FS_PROOF_STAT_force_refused : Fld := ⟨.FS_PROOF_STAT, 48, 16, .w1c, 0⟩
-- FS_PROOF_CNT (spec chapter 4)
def F.FS_PROOF_CNT_proved : Fld := ⟨.FS_PROOF_CNT, 0, 32, .ro, 0⟩
def F.FS_PROOF_CNT_mismatches : Fld := ⟨.FS_PROOF_CNT, 32, 16, .w1c, 0⟩
def F.FS_PROOF_CNT_array_faults : Fld := ⟨.FS_PROOF_CNT, 48, 16, .w1c, 0⟩
-- FS_PROOF_DROP (spec chapter 4)
def F.FS_PROOF_DROP_refused : Fld := ⟨.FS_PROOF_DROP, 0, 16, .w1c, 0⟩
def F.FS_PROOF_DROP_suspect : Fld := ⟨.FS_PROOF_DROP, 16, 16, .w1c, 0⟩
def F.FS_PROOF_DROP_abandoned : Fld := ⟨.FS_PROOF_DROP, 32, 16, .w1c, 0⟩
-- FS_NEG_STAT (spec chapter 4)
def F.FS_NEG_STAT_held : Fld := ⟨.FS_NEG_STAT, 0, 4, .ro, 0⟩
def F.FS_NEG_STAT_sealed : Fld := ⟨.FS_NEG_STAT, 4, 4, .ro, 0⟩
def F.FS_NEG_STAT_summaries : Fld := ⟨.FS_NEG_STAT, 8, 5, .ro, 0⟩
def F.FS_NEG_STAT_pinned : Fld := ⟨.FS_NEG_STAT, 16, 6, .ro, 0⟩
def F.FS_NEG_STAT_payload_lost : Fld := ⟨.FS_NEG_STAT, 32, 16, .w1c, 0⟩
-- FS_NEG_RELEASE (spec chapter 4)
def F.FS_NEG_RELEASE_slots : Fld := ⟨.FS_NEG_RELEASE, 0, 4, .wo, 0⟩
-- FS_STRIP_CFG (spec chapter 6)
def F.FS_STRIP_CFG_grace_ms : Fld := ⟨.FS_STRIP_CFG, 0, 16, .rw, 0x32⟩
def F.FS_STRIP_CFG_lead_ms : Fld := ⟨.FS_STRIP_CFG, 16, 16, .rw, 0x64⟩
def F.FS_STRIP_CFG_pair_wait_us : Fld := ⟨.FS_STRIP_CFG, 32, 16, .rw, 0x3E8⟩
def F.FS_STRIP_CFG_max_active : Fld := ⟨.FS_STRIP_CFG, 48, 5, .rw, 0x10⟩
def F.FS_STRIP_CFG_force_preempt : Fld := ⟨.FS_STRIP_CFG, 53, 1, .rw, 0⟩
-- FS_STRIP_STAT (spec chapter 6)
def F.FS_STRIP_STAT_active : Fld := ⟨.FS_STRIP_STAT, 0, 6, .ro, 0⟩
def F.FS_STRIP_STAT_cmd_refused : Fld := ⟨.FS_STRIP_STAT, 7, 1, .w1c, 0⟩
def F.FS_STRIP_STAT_due : Fld := ⟨.FS_STRIP_STAT, 8, 13, .ro, 0⟩
def F.FS_STRIP_STAT_shielded : Fld := ⟨.FS_STRIP_STAT, 24, 13, .ro, 0⟩
def F.FS_STRIP_STAT_overdue : Fld := ⟨.FS_STRIP_STAT, 40, 13, .ro, 0⟩
-- FS_STRIP_CNT (spec chapter 6)
def F.FS_STRIP_CNT_runs : Fld := ⟨.FS_STRIP_CNT, 0, 32, .ro, 0⟩
def F.FS_STRIP_CNT_fails : Fld := ⟨.FS_STRIP_CNT, 32, 16, .w1c, 0⟩
def F.FS_STRIP_CNT_aborts : Fld := ⟨.FS_STRIP_CNT, 48, 16, .w1c, 0⟩
-- FS_STRIP_CMD (spec chapter 6)
def F.FS_STRIP_CMD_core : Fld := ⟨.FS_STRIP_CMD, 0, 13, .wo, 0⟩
def F.FS_STRIP_CMD_recipe : Fld := ⟨.FS_STRIP_CMD, 13, 9, .wo, 0⟩
-- FS_LEDGER_SEL (spec chapter 6)
def F.FS_LEDGER_SEL_engine : Fld := ⟨.FS_LEDGER_SEL, 0, 15, .rw, 0⟩
-- FS_LEDGER_DATA0 (spec chapter 6)
def F.FS_LEDGER_DATA0_last_wt : Fld := ⟨.FS_LEDGER_DATA0, 0, 64, .ro, 0⟩
-- FS_LEDGER_DATA1 (spec chapter 6)
def F.FS_LEDGER_DATA1_retired : Fld := ⟨.FS_LEDGER_DATA1, 0, 32, .ro, 0⟩
def F.FS_LEDGER_DATA1_proved : Fld := ⟨.FS_LEDGER_DATA1, 32, 32, .ro, 0⟩
-- FS_LEDGER_DATA2 (spec chapter 6)
def F.FS_LEDGER_DATA2_checked : Fld := ⟨.FS_LEDGER_DATA2, 0, 32, .ro, 0⟩
def F.FS_LEDGER_DATA2_unchecked : Fld := ⟨.FS_LEDGER_DATA2, 32, 32, .ro, 0⟩
-- FS_LEDGER_DATA3 (spec chapter 6)
def F.FS_LEDGER_DATA3_epoch_proved : Fld := ⟨.FS_LEDGER_DATA3, 0, 32, .ro, 0⟩
def F.FS_LEDGER_DATA3_epoch_active : Fld := ⟨.FS_LEDGER_DATA3, 32, 1, .ro, 0⟩
def F.FS_LEDGER_DATA3_state : Fld := ⟨.FS_LEDGER_DATA3, 33, 3, .ro, 0⟩
def F.FS_LEDGER_DATA3_overdue : Fld := ⟨.FS_LEDGER_DATA3, 36, 1, .ro, 0⟩
def F.FS_LEDGER_DATA3_epoch_overdue : Fld := ⟨.FS_LEDGER_DATA3, 37, 1, .ro, 0⟩
def F.FS_LEDGER_DATA3_fails : Fld := ⟨.FS_LEDGER_DATA3, 48, 8, .ro, 0⟩
-- FS_BRK_CFG (spec chapter 7)
def F.FS_BRK_CFG_hold_wait_ms : Fld := ⟨.FS_BRK_CFG, 0, 12, .rw, 0x3E8⟩
def F.FS_BRK_CFG_settle_ms : Fld := ⟨.FS_BRK_CFG, 12, 4, .rw, 5⟩
def F.FS_BRK_CFG_token_wait_ms : Fld := ⟨.FS_BRK_CFG, 16, 16, .rw, 0x2710⟩
def F.FS_BRK_CFG_heat_max_ms : Fld := ⟨.FS_BRK_CFG, 32, 16, .rw, 0x3E8⟩
def F.FS_BRK_CFG_cool_ms : Fld := ⟨.FS_BRK_CFG, 48, 16, .rw, 0x1F4⟩
-- FS_BRK_LIMIT (spec chapter 7)
def F.FS_BRK_LIMIT_f_steps : Fld := ⟨.FS_BRK_LIMIT, 0, 5, .rw, 0x10⟩
def F.FS_BRK_LIMIT_v_steps : Fld := ⟨.FS_BRK_LIMIT, 8, 4, .rw, 0xC⟩
-- FS_BRK_CMD (spec chapter 7)
def F.FS_BRK_CMD_kind : Fld := ⟨.FS_BRK_CMD, 0, 2, .wo, 0⟩
def F.FS_BRK_CMD_cluster : Fld := ⟨.FS_BRK_CMD, 2, 6, .wo, 0⟩
def F.FS_BRK_CMD_max_step : Fld := ⟨.FS_BRK_CMD, 8, 5, .wo, 0⟩
def F.FS_BRK_CMD_recipe : Fld := ⟨.FS_BRK_CMD, 13, 9, .wo, 0⟩
def F.FS_BRK_CMD_t_target : Fld := ⟨.FS_BRK_CMD, 22, 8, .wo, 0⟩
def F.FS_BRK_CMD_cancel : Fld := ⟨.FS_BRK_CMD, 30, 1, .wo, 0⟩
-- FS_BRK_STAT (spec chapter 7)
def F.FS_BRK_STAT_phase : Fld := ⟨.FS_BRK_STAT, 0, 3, .ro, 0⟩
def F.FS_BRK_STAT_cmd_refused : Fld := ⟨.FS_BRK_STAT, 3, 1, .w1c, 0⟩
def F.FS_BRK_STAT_step : Fld := ⟨.FS_BRK_STAT, 4, 5, .ro, 0⟩
def F.FS_BRK_STAT_sessions : Fld := ⟨.FS_BRK_STAT, 16, 16, .ro, 0⟩
def F.FS_BRK_STAT_aborts : Fld := ⟨.FS_BRK_STAT, 32, 16, .w1c, 0⟩
-- FS_MAINT (spec chapter 7)
def F.FS_MAINT_open : Fld := ⟨.FS_MAINT, 0, 1, .w1s, 0⟩
def F.FS_MAINT_close : Fld := ⟨.FS_MAINT, 1, 1, .w1s, 0⟩
def F.FS_MAINT_is_open : Fld := ⟨.FS_MAINT, 2, 1, .ro, 0⟩
def F.FS_MAINT_win_max_ms : Fld := ⟨.FS_MAINT, 16, 16, .rw, 0x7D0⟩
-- FS_FIX_CFG (spec chapter 8)
def F.FS_FIX_CFG_latent_auto : Fld := ⟨.FS_FIX_CFG, 0, 1, .rw, 1⟩
def F.FS_FIX_CFG_fence_marginal : Fld := ⟨.FS_FIX_CFG, 1, 1, .rw, 0⟩
def F.FS_FIX_CFG_latent_s : Fld := ⟨.FS_FIX_CFG, 8, 8, .rw, 0x3C⟩
def F.FS_FIX_CFG_replay_wait_ms : Fld := ⟨.FS_FIX_CFG, 16, 16, .rw, 0x64⟩
def F.FS_FIX_CFG_recur_limit : Fld := ⟨.FS_FIX_CFG, 32, 4, .rw, 3⟩
-- FS_FIX_STAT (spec chapter 8)
def F.FS_FIX_STAT_latent : Fld := ⟨.FS_FIX_STAT, 0, 7, .ro, 0⟩
def F.FS_FIX_STAT_latent_full : Fld := ⟨.FS_FIX_STAT, 16, 16, .w1c, 0⟩
def F.FS_FIX_STAT_clears : Fld := ⟨.FS_FIX_STAT, 32, 16, .w1c, 0⟩
def F.FS_FIX_STAT_confirms : Fld := ⟨.FS_FIX_STAT, 48, 16, .w1c, 0⟩
-- FS_FIX_SEL (spec chapter 8)
def F.FS_FIX_SEL_entry : Fld := ⟨.FS_FIX_SEL, 0, 6, .rw, 0⟩
-- FS_FIX_DATA (spec chapter 8)
def F.FS_FIX_DATA_engine : Fld := ⟨.FS_FIX_DATA, 0, 15, .ro, 0⟩
def F.FS_FIX_DATA_state : Fld := ⟨.FS_FIX_DATA, 15, 2, .ro, 0⟩
def F.FS_FIX_DATA_forced : Fld := ⟨.FS_FIX_DATA, 17, 1, .ro, 0⟩
def F.FS_FIX_DATA_slot : Fld := ⟨.FS_FIX_DATA, 18, 3, .ro, 7⟩
def F.FS_FIX_DATA_replay : Fld := ⟨.FS_FIX_DATA, 21, 3, .ro, 0⟩
def F.FS_FIX_DATA_failures : Fld := ⟨.FS_FIX_DATA, 24, 4, .ro, 0⟩
def F.FS_FIX_DATA_cause : Fld := ⟨.FS_FIX_DATA, 28, 3, .ro, 0⟩
def F.FS_FIX_DATA_entered : Fld := ⟨.FS_FIX_DATA, 32, 32, .ro, 0⟩
-- FS_PACK_VER (spec chapter 9)
def F.FS_PACK_VER_version : Fld := ⟨.FS_PACK_VER, 0, 32, .ro, 0⟩
def F.FS_PACK_VER_switching : Fld := ⟨.FS_PACK_VER, 32, 1, .ro, 0⟩
-- FS_SEQ_CTL (spec chapter 10)
def F.FS_SEQ_CTL_restart : Fld := ⟨.FS_SEQ_CTL, 0, 1, .w1s, 0⟩
def F.FS_SEQ_CTL_use_ref : Fld := ⟨.FS_SEQ_CTL, 1, 1, .rw, 0⟩
-- FS_SEQ_STAT (spec chapter 10)
def F.FS_SEQ_STAT_running : Fld := ⟨.FS_SEQ_STAT, 0, 2, .ro, 0⟩
def F.FS_SEQ_STAT_halted : Fld := ⟨.FS_SEQ_STAT, 2, 1, .ro, 0⟩
def F.FS_SEQ_STAT_in_trap : Fld := ⟨.FS_SEQ_STAT, 3, 1, .ro, 0⟩
def F.FS_SEQ_STAT_cause : Fld := ⟨.FS_SEQ_STAT, 4, 4, .ro, 0⟩
def F.FS_SEQ_STAT_pc : Fld := ⟨.FS_SEQ_STAT, 8, 20, .ro, 0⟩
def F.FS_SEQ_STAT_traps : Fld := ⟨.FS_SEQ_STAT, 32, 16, .w1c, 0⟩
def F.FS_SEQ_STAT_rx_drop : Fld := ⟨.FS_SEQ_STAT, 48, 8, .w1c, 0⟩
def F.FS_SEQ_STAT_note_lost : Fld := ⟨.FS_SEQ_STAT, 56, 8, .w1c, 0⟩
-- FS_SEQ_MBOX (spec chapter 10)
def F.FS_SEQ_MBOX_value : Fld := ⟨.FS_SEQ_MBOX, 0, 32, .rw, 0⟩
-- FS_SEM_SIG (spec chapter 10)
def F.FS_SEM_SIG_sem : Fld := ⟨.FS_SEM_SIG, 0, 6, .wo, 0⟩
def F.FS_SEM_SIG_n : Fld := ⟨.FS_SEM_SIG, 8, 4, .wo, 0⟩
-- FS_SEM_CNT (spec chapter 10)
def F.FS_SEM_CNT_cnt : Fld := ⟨.FS_SEM_CNT, 0, 64, .ro, 0⟩
-- FS_FSW (spec chapter 11)
def F.FS_FSW_fs_src : Fld := ⟨.FS_FSW, 0, 8, .ro, 0⟩
def F.FS_FSW_ct_grp : Fld := ⟨.FS_FSW, 8, 8, .ro, 0⟩
def F.FS_FSW_mt_grp : Fld := ⟨.FS_FSW, 16, 8, .ro, 0⟩
def F.FS_FSW_lt_grp : Fld := ⟨.FS_FSW, 24, 4, .ro, 0⟩
def F.FS_FSW_sec_count : Fld := ⟨.FS_FSW, 28, 4, .ro, 0⟩
def F.FS_FSW_merged : Fld := ⟨.FS_FSW, 32, 1, .ro, 0⟩
def F.FS_FSW_open : Fld := ⟨.FS_FSW, 33, 1, .w1c, 0⟩
def F.FS_FSW_stuck : Fld := ⟨.FS_FSW, 34, 1, .ro, 0⟩
-- FS_REC_STAT (spec chapter 11)
def F.FS_REC_STAT_first_used : Fld := ⟨.FS_REC_STAT, 0, 11, .ro, 0⟩
def F.FS_REC_STAT_frozen : Fld := ⟨.FS_REC_STAT, 11, 1, .ro, 0⟩
def F.FS_REC_STAT_missed : Fld := ⟨.FS_REC_STAT, 16, 16, .w1c, 0⟩
def F.FS_REC_STAT_held_ovf : Fld := ⟨.FS_REC_STAT, 32, 8, .w1c, 0⟩
def F.FS_REC_STAT_fwd : Fld := ⟨.FS_REC_STAT, 40, 8, .w1c, 0⟩
def F.FS_REC_STAT_suppressed : Fld := ⟨.FS_REC_STAT, 48, 16, .w1c, 0⟩
-- FS_REC_RATE (spec chapter 11)
def F.FS_REC_RATE_burst : Fld := ⟨.FS_REC_RATE, 0, 8, .rw, 0x10⟩
def F.FS_REC_RATE_period_ms : Fld := ⟨.FS_REC_RATE, 8, 16, .rw, 0xA⟩
-- FS_PIN_SEL (spec chapter 11)
def F.FS_PIN_SEL_index : Fld := ⟨.FS_PIN_SEL, 0, 8, .rw, 0⟩
-- FS_PIN_DATA (spec chapter 11)
def F.FS_PIN_DATA_level : Fld := ⟨.FS_PIN_DATA, 0, 1, .ro, 0⟩
def F.FS_PIN_DATA_latched : Fld := ⟨.FS_PIN_DATA, 1, 1, .ro, 0⟩
def F.FS_PIN_DATA_edges : Fld := ⟨.FS_PIN_DATA, 2, 4, .ro, 0⟩
def F.FS_PIN_DATA_stuck : Fld := ⟨.FS_PIN_DATA, 6, 1, .ro, 0⟩
def F.FS_PIN_DATA_unit : Fld := ⟨.FS_PIN_DATA, 8, 24, .ro, 0⟩
-- FS_PIN_CLR (spec chapter 11)
def F.FS_PIN_CLR_index : Fld := ⟨.FS_PIN_CLR, 0, 8, .wo, 0⟩
-- FS_CREPLAY_CMD (spec chapter 12)
def F.FS_CREPLAY_CMD_engine : Fld := ⟨.FS_CREPLAY_CMD, 0, 15, .wo, 0⟩
def F.FS_CREPLAY_CMD_context : Fld := ⟨.FS_CREPLAY_CMD, 15, 16, .wo, 0⟩
def F.FS_CREPLAY_CMD_cancel : Fld := ⟨.FS_CREPLAY_CMD, 31, 1, .wo, 0⟩
-- FS_CREPLAY_STAT (spec chapter 12)
def F.FS_CREPLAY_STAT_state : Fld := ⟨.FS_CREPLAY_STAT, 0, 3, .ro, 0⟩
def F.FS_CREPLAY_STAT_outcome : Fld := ⟨.FS_CREPLAY_STAT, 3, 3, .ro, 0⟩
def F.FS_CREPLAY_STAT_core : Fld := ⟨.FS_CREPLAY_STAT, 6, 13, .ro, 0⟩
def F.FS_CREPLAY_STAT_refused : Fld := ⟨.FS_CREPLAY_STAT, 19, 1, .w1c, 0⟩
def F.FS_CREPLAY_STAT_replays : Fld := ⟨.FS_CREPLAY_STAT, 32, 16, .ro, 0⟩
-- FS_CREPLAY_CFG (spec chapter 12)
def F.FS_CREPLAY_CFG_limit : Fld := ⟨.FS_CREPLAY_CFG, 0, 16, .rw, 0xBB8⟩
def F.FS_CREPLAY_CFG_wait_ms : Fld := ⟨.FS_CREPLAY_CFG, 16, 16, .rw, 0x3E8⟩
-- FS_SELFTEST (spec chapter 17)
def F.FS_SELFTEST_start : Fld := ⟨.FS_SELFTEST, 0, 1, .w1s, 0⟩
def F.FS_SELFTEST_busy : Fld := ⟨.FS_SELFTEST, 1, 1, .ro, 0⟩
def F.FS_SELFTEST_result : Fld := ⟨.FS_SELFTEST, 2, 2, .ro, 0⟩
-- FS_VMON (spec chapter 18)
def F.FS_VMON_mv : Fld := ⟨.FS_VMON, 0, 16, .ro, 0⟩
def F.FS_VMON_last_min : Fld := ⟨.FS_VMON, 16, 16, .ro, 0⟩
def F.FS_VMON_droops : Fld := ⟨.FS_VMON, 32, 16, .w1c, 0⟩
def F.FS_VMON_temp : Fld := ⟨.FS_VMON, 48, 8, .ro, 0x80⟩
-- CT_SIG_CFG (spec chapter 3)
def F.CT_SIG_CFG_admit_level : Fld := ⟨.CT_SIG_CFG, 0, 6, .rw, 0x10⟩
def F.CT_SIG_CFG_one_open : Fld := ⟨.CT_SIG_CFG, 6, 1, .rw, 0⟩
-- CT_SIG_STAT (spec chapter 3)
def F.CT_SIG_STAT_refused : Fld := ⟨.CT_SIG_STAT, 0, 16, .w1c, 0⟩
def F.CT_SIG_STAT_overflow : Fld := ⟨.CT_SIG_STAT, 16, 16, .w1c, 0⟩
def F.CT_SIG_STAT_slot_full : Fld := ⟨.CT_SIG_STAT, 32, 16, .w1c, 0⟩
def F.CT_SIG_STAT_contract : Fld := ⟨.CT_SIG_STAT, 48, 16, .w1c, 0⟩
-- CT_SIG_LAST (spec chapter 3)
def F.CT_SIG_LAST_reason : Fld := ⟨.CT_SIG_LAST, 0, 8, .ro, 0⟩
def F.CT_SIG_LAST_engine : Fld := ⟨.CT_SIG_LAST, 8, 9, .ro, 0⟩
def F.CT_SIG_LAST_tile : Fld := ⟨.CT_SIG_LAST, 24, 40, .ro, 0⟩
-- CT_PCNT_SEL (spec chapter 16)
def F.CT_PCNT_SEL_counter : Fld := ⟨.CT_PCNT_SEL, 0, 5, .rw, 0⟩
-- CT_PCNT_CFG (spec chapter 16)
def F.CT_PCNT_CFG_event : Fld := ⟨.CT_PCNT_CFG, 0, 8, .rw, 0⟩
def F.CT_PCNT_CFG_classes : Fld := ⟨.CT_PCNT_CFG, 8, 5, .rw, 0x1F⟩
def F.CT_PCNT_CFG_fmt : Fld := ⟨.CT_PCNT_CFG, 13, 5, .rw, 0⟩
def F.CT_PCNT_CFG_fmt_en : Fld := ⟨.CT_PCNT_CFG, 18, 1, .rw, 0⟩
def F.CT_PCNT_CFG_engine : Fld := ⟨.CT_PCNT_CFG, 19, 9, .rw, 0⟩
def F.CT_PCNT_CFG_engine_en : Fld := ⟨.CT_PCNT_CFG, 28, 1, .rw, 0⟩
def F.CT_PCNT_CFG_layer_en : Fld := ⟨.CT_PCNT_CFG, 29, 1, .rw, 0⟩
def F.CT_PCNT_CFG_op_en : Fld := ⟨.CT_PCNT_CFG, 30, 1, .rw, 0⟩
def F.CT_PCNT_CFG_layer : Fld := ⟨.CT_PCNT_CFG, 32, 16, .rw, 0⟩
def F.CT_PCNT_CFG_operator : Fld := ⟨.CT_PCNT_CFG, 48, 16, .rw, 0⟩
-- CT_PCNT_VAL (spec chapter 16)
def F.CT_PCNT_VAL_value : Fld := ⟨.CT_PCNT_VAL, 0, 48, .ro, 0⟩
def F.CT_PCNT_VAL_wrapped : Fld := ⟨.CT_PCNT_VAL, 63, 1, .ro, 0⟩
-- CT_SLEEVE_STAT (spec chapter 2)
def F.CT_SLEEVE_STAT_crc_err : Fld := ⟨.CT_SLEEVE_STAT, 0, 16, .w1c, 0⟩
def F.CT_SLEEVE_STAT_fog_consumed : Fld := ⟨.CT_SLEEVE_STAT, 16, 16, .w1c, 0⟩
def F.CT_SLEEVE_STAT_fog_transit : Fld := ⟨.CT_SLEEVE_STAT, 32, 16, .w1c, 0⟩
def F.CT_SLEEVE_STAT_unsleeved : Fld := ⟨.CT_SLEEVE_STAT, 48, 16, .w1c, 0⟩
-- CT_PCNT_CTL (spec chapter 16)
def F.CT_PCNT_CTL_clear : Fld := ⟨.CT_PCNT_CTL, 0, 1, .w1s, 0⟩
def F.CT_PCNT_CTL_freeze : Fld := ⟨.CT_PCNT_CTL, 1, 1, .rw, 0⟩
-- CT_TRACE_STAT (spec chapter 16)
def F.CT_TRACE_STAT_queued : Fld := ⟨.CT_TRACE_STAT, 0, 7, .ro, 0⟩
def F.CT_TRACE_STAT_lost : Fld := ⟨.CT_TRACE_STAT, 16, 32, .w1c, 0⟩
-- CT_PROOF_FORCE0 (spec chapter 4)
def F.CT_PROOF_FORCE0_force : Fld := ⟨.CT_PROOF_FORCE0, 0, 64, .rw, 0⟩
-- CT_PROOF_FORCE1 (spec chapter 4)
def F.CT_PROOF_FORCE1_force : Fld := ⟨.CT_PROOF_FORCE1, 0, 64, .rw, 0⟩
-- CT_PROOF_STAT (spec chapter 4)
def F.CT_PROOF_STAT_selected : Fld := ⟨.CT_PROOF_STAT, 0, 16, .w1c, 0⟩
def F.CT_PROOF_STAT_unprovable : Fld := ⟨.CT_PROOF_STAT, 16, 16, .w1c, 0⟩
def F.CT_PROOF_STAT_dropped : Fld := ⟨.CT_PROOF_STAT, 32, 16, .w1c, 0⟩
def F.CT_PROOF_STAT_mirror_ovf : Fld := ⟨.CT_PROOF_STAT, 48, 16, .w1c, 0⟩
-- CT_ABFT_CFG (spec chapter 5)
def F.CT_ABFT_CFG_proof_wait : Fld := ⟨.CT_ABFT_CFG, 0, 16, .rw, 0x400⟩
-- CT_ABFT_STAT (spec chapter 5)
def F.CT_ABFT_STAT_clean : Fld := ⟨.CT_ABFT_STAT, 0, 16, .w1c, 0⟩
def F.CT_ABFT_STAT_failed : Fld := ⟨.CT_ABFT_STAT, 16, 16, .w1c, 0⟩
def F.CT_ABFT_STAT_uncertified : Fld := ⟨.CT_ABFT_STAT, 32, 16, .w1c, 0⟩
def F.CT_ABFT_STAT_saturated : Fld := ⟨.CT_ABFT_STAT, 48, 16, .w1c, 0⟩
-- CT_ABFT_STAT2 (spec chapter 5)
def F.CT_ABFT_STAT2_proof_timeout : Fld := ⟨.CT_ABFT_STAT2, 0, 16, .w1c, 0⟩
def F.CT_ABFT_STAT2_evicted : Fld := ⟨.CT_ABFT_STAT2, 16, 16, .w1c, 0⟩
def F.CT_ABFT_STAT2_fold_fault : Fld := ⟨.CT_ABFT_STAT2, 32, 16, .w1c, 0⟩
def F.CT_ABFT_STAT2_stamps_late : Fld := ⟨.CT_ABFT_STAT2, 48, 16, .w1c, 0⟩
-- CT_ABFT_LAST (spec chapter 5)
def F.CT_ABFT_LAST_ratio : Fld := ⟨.CT_ABFT_LAST, 0, 8, .ro, 0⟩
def F.CT_ABFT_LAST_engine : Fld := ⟨.CT_ABFT_LAST, 8, 9, .ro, 0⟩
def F.CT_ABFT_LAST_guard : Fld := ⟨.CT_ABFT_LAST, 17, 1, .ro, 0⟩
def F.CT_ABFT_LAST_tile : Fld := ⟨.CT_ABFT_LAST, 24, 40, .ro, 0⟩
-- CT_ERR (spec chapter 11)
def F.CT_ERR_latched : Fld := ⟨.CT_ERR, 0, 8, .w1c, 0⟩
def F.CT_ERR_stuck : Fld := ⟨.CT_ERR, 8, 8, .ro, 0⟩
def F.CT_ERR_edges : Fld := ⟨.CT_ERR, 16, 32, .ro, 0⟩
def F.CT_ERR_internal : Fld := ⟨.CT_ERR, 48, 8, .w1c, 0⟩
-- CT_ERR_CAP (spec chapter 11)
def F.CT_ERR_CAP_capture : Fld := ⟨.CT_ERR_CAP, 0, 1, .wo, 0⟩
-- CT_WDOG_STAT (spec chapter 12)
def F.CT_WDOG_STAT_hangs : Fld := ⟨.CT_WDOG_STAT, 0, 16, .w1c, 0⟩
def F.CT_WDOG_STAT_engine : Fld := ⟨.CT_WDOG_STAT, 16, 9, .ro, 0⟩
def F.CT_WDOG_STAT_context : Fld := ⟨.CT_WDOG_STAT, 32, 16, .ro, 0⟩
-- CT_SUSP_SEL (spec chapter 12)
def F.CT_SUSP_SEL_engine : Fld := ⟨.CT_SUSP_SEL, 0, 9, .rw, 0⟩
def F.CT_SUSP_SEL_release : Fld := ⟨.CT_SUSP_SEL, 9, 1, .wo, 0⟩
def F.CT_SUSP_SEL_frozen : Fld := ⟨.CT_SUSP_SEL, 10, 1, .ro, 0⟩
def F.CT_SUSP_SEL_count : Fld := ⟨.CT_SUSP_SEL, 11, 4, .ro, 0⟩
def F.CT_SUSP_SEL_ovf : Fld := ⟨.CT_SUSP_SEL, 15, 1, .ro, 0⟩
-- CT_SUSP_DATA0 (spec chapter 12)
def F.CT_SUSP_DATA0_ctx0_3 : Fld := ⟨.CT_SUSP_DATA0, 0, 64, .ro, 0⟩
-- CT_SUSP_DATA1 (spec chapter 12)
def F.CT_SUSP_DATA1_ctx4_7 : Fld := ⟨.CT_SUSP_DATA1, 0, 64, .ro, 0⟩
-- CT_BAR_STAT (spec chapter 14)
def F.CT_BAR_STAT_sense : Fld := ⟨.CT_BAR_STAT, 0, 32, .ro, 0⟩
def F.CT_BAR_STAT_early : Fld := ⟨.CT_BAR_STAT, 32, 16, .w1c, 0⟩
def F.CT_BAR_STAT_overrun : Fld := ⟨.CT_BAR_STAT, 48, 16, .w1c, 0⟩
-- CT_STOP_STAT (spec chapter 14)
def F.CT_STOP_STAT_gated : Fld := ⟨.CT_STOP_STAT, 0, 1, .ro, 0⟩
def F.CT_STOP_STAT_quiet : Fld := ⟨.CT_STOP_STAT, 1, 1, .ro, 0⟩
def F.CT_STOP_STAT_held : Fld := ⟨.CT_STOP_STAT, 8, 6, .ro, 0⟩
def F.CT_STOP_STAT_held_lost : Fld := ⟨.CT_STOP_STAT, 16, 16, .w1c, 0⟩
-- CT_SAFE_SEL (spec chapter 16)
def F.CT_SAFE_SEL_index : Fld := ⟨.CT_SAFE_SEL, 0, 4, .rw, 0⟩
-- CT_SAFE_VAL (spec chapter 16)
def F.CT_SAFE_VAL_value : Fld := ⟨.CT_SAFE_VAL, 0, 48, .ro, 0⟩
-- CT_CYC (spec chapter 18)
def F.CT_CYC_cycles : Fld := ⟨.CT_CYC, 0, 32, .ro, 0⟩
def F.CT_CYC_capture : Fld := ⟨.CT_CYC, 32, 1, .w1s, 0⟩
-- CT_CYC_WT (spec chapter 18)
def F.CT_CYC_WT_wt : Fld := ⟨.CT_CYC_WT, 0, 64, .ro, 0⟩
-- MT_POOL_CFG (spec chapter 1)
def F.MT_POOL_CFG_reserved_min : Fld := ⟨.MT_POOL_CFG, 0, 4, .rw, 4⟩
def F.MT_POOL_CFG_shared_cap : Fld := ⟨.MT_POOL_CFG, 8, 8, .rw, 0x20⟩
-- MT_POOL_STAT (spec chapter 1)
def F.MT_POOL_STAT_held : Fld := ⟨.MT_POOL_STAT, 0, 9, .ro, 0⟩
def F.MT_POOL_STAT_misses : Fld := ⟨.MT_POOL_STAT, 16, 32, .w1c, 0⟩
def F.MT_POOL_STAT_pool : Fld := ⟨.MT_POOL_STAT, 48, 10, .ro, 0⟩
def F.MT_POOL_STAT_pool_size : Fld := ⟨.MT_POOL_STAT, 58, 6, .ro, 0⟩
-- MT_SLEEVE_CFG (spec chapter 2)
def F.MT_SLEEVE_CFG_enable : Fld := ⟨.MT_SLEEVE_CFG, 0, 1, .rw, 0⟩
def F.MT_SLEEVE_CFG_dflt_fmt : Fld := ⟨.MT_SLEEVE_CFG, 1, 5, .rw, 0⟩
def F.MT_SLEEVE_CFG_cap_log2 : Fld := ⟨.MT_SLEEVE_CFG, 8, 6, .rw, 0⟩
def F.MT_SLEEVE_CFG_region_base : Fld := ⟨.MT_SLEEVE_CFG, 16, 24, .rw, 0⟩
-- MT_SLEEVE_STAT (spec chapter 2)
def F.MT_SLEEVE_STAT_crc_err : Fld := ⟨.MT_SLEEVE_STAT, 0, 16, .w1c, 0⟩
def F.MT_SLEEVE_STAT_fog_set : Fld := ⟨.MT_SLEEVE_STAT, 16, 16, .w1c, 0⟩
def F.MT_SLEEVE_STAT_created : Fld := ⟨.MT_SLEEVE_STAT, 32, 16, .w1c, 0⟩
def F.MT_SLEEVE_STAT_late : Fld := ⟨.MT_SLEEVE_STAT, 48, 16, .w1c, 0⟩
-- MT_GEN_STAT (spec chapter 12)
def F.MT_GEN_STAT_stale : Fld := ⟨.MT_GEN_STAT, 0, 32, .w1c, 0⟩
-- MT_SHADOW_STAT (spec chapter 13)
def F.MT_SHADOW_STAT_out : Fld := ⟨.MT_SHADOW_STAT, 0, 32, .ro, 0⟩
def F.MT_SHADOW_STAT_in : Fld := ⟨.MT_SHADOW_STAT, 32, 32, .ro, 0⟩
-- MT_SHADOW_ERR (spec chapter 13)
def F.MT_SHADOW_ERR_dirty : Fld := ⟨.MT_SHADOW_ERR, 0, 16, .w1c, 0⟩
def F.MT_SHADOW_ERR_slot_access : Fld := ⟨.MT_SHADOW_ERR, 16, 16, .w1c, 0⟩
def F.MT_SHADOW_ERR_bad_block : Fld := ⟨.MT_SHADOW_ERR, 32, 16, .w1c, 0⟩
-- MT_SEAL_RGN_A (spec chapter 15)
def F.MT_SEAL_RGN_A_base : Fld := ⟨.MT_SEAL_RGN_A, 0, 29, .rw, 0⟩
def F.MT_SEAL_RGN_A_valid : Fld := ⟨.MT_SEAL_RGN_A, 29, 1, .rw, 0⟩
def F.MT_SEAL_RGN_A_region_id : Fld := ⟨.MT_SEAL_RGN_A, 32, 32, .rw, 0⟩
-- MT_SEAL_RGN_B (spec chapter 15)
def F.MT_SEAL_RGN_B_length : Fld := ⟨.MT_SEAL_RGN_B, 0, 29, .rw, 0⟩
def F.MT_SEAL_RGN_B_tag_base : Fld := ⟨.MT_SEAL_RGN_B, 32, 29, .rw, 0⟩
-- MT_SEAL_STAT (spec chapter 15)
def F.MT_SEAL_STAT_refused : Fld := ⟨.MT_SEAL_STAT, 0, 16, .w1c, 0⟩
def F.MT_SEAL_STAT_tag_fail : Fld := ⟨.MT_SEAL_STAT, 16, 16, .w1c, 0⟩
def F.MT_SEAL_STAT_late : Fld := ⟨.MT_SEAL_STAT, 32, 16, .w1c, 0⟩
def F.MT_SEAL_STAT_key : Fld := ⟨.MT_SEAL_STAT, 48, 1, .ro, 0⟩
-- LT_SLEEVE_STAT (spec chapter 2)
def F.LT_SLEEVE_STAT_crc_err : Fld := ⟨.LT_SLEEVE_STAT, 0, 16, .w1c, 0⟩
def F.LT_SLEEVE_STAT_fog_out : Fld := ⟨.LT_SLEEVE_STAT, 16, 16, .w1c, 0⟩
def F.LT_SLEEVE_STAT_fog_in : Fld := ⟨.LT_SLEEVE_STAT, 32, 16, .w1c, 0⟩
def F.LT_SLEEVE_STAT_unsleeved : Fld := ⟨.LT_SLEEVE_STAT, 48, 16, .w1c, 0⟩
-- LT_GEN_STAT (spec chapter 12)
def F.LT_GEN_STAT_stale : Fld := ⟨.LT_GEN_STAT, 0, 16, .w1c, 0⟩
def F.LT_GEN_STAT_nacks : Fld := ⟨.LT_GEN_STAT, 16, 16, .w1c, 0⟩
def F.LT_GEN_STAT_untracked : Fld := ⟨.LT_GEN_STAT, 32, 16, .w1c, 0⟩
def F.LT_GEN_STAT_outstanding : Fld := ⟨.LT_GEN_STAT, 48, 11, .ro, 0⟩
-- LT_SHADOW_STAT (spec chapter 13)
def F.LT_SHADOW_STAT_out : Fld := ⟨.LT_SHADOW_STAT, 0, 32, .ro, 0⟩
def F.LT_SHADOW_STAT_in : Fld := ⟨.LT_SHADOW_STAT, 32, 32, .ro, 0⟩
-- LT_STOP_STAT (spec chapter 14)
def F.LT_STOP_STAT_lat_ns : Fld := ⟨.LT_STOP_STAT, 0, 16, .ro, 0⟩
def F.LT_STOP_STAT_closed : Fld := ⟨.LT_STOP_STAT, 16, 1, .ro, 0⟩
def F.LT_STOP_STAT_late : Fld := ⟨.LT_STOP_STAT, 17, 1, .ro, 0⟩
def F.LT_STOP_STAT_overflow : Fld := ⟨.LT_STOP_STAT, 18, 1, .ro, 0⟩
def F.LT_STOP_STAT_ring : Fld := ⟨.LT_STOP_STAT, 19, 17, .ro, 0⟩
def F.LT_STOP_STAT_joins_ignored : Fld := ⟨.LT_STOP_STAT, 48, 16, .w1c, 0⟩
-- LT_TRUST (spec chapter 15)
def F.LT_TRUST_peer : Fld := ⟨.LT_TRUST, 0, 16, .ro, 0⟩
def F.LT_TRUST_known : Fld := ⟨.LT_TRUST, 16, 1, .ro, 0⟩
def F.LT_TRUST_blocked : Fld := ⟨.LT_TRUST, 32, 16, .w1c, 0⟩

/-- The fields of a register, from its lowest bit up; bits of no field are reserved and read zero (R465). -/
def Reg.flds : Reg → List Fld
  | .BLOCK_ID => [F.BLOCK_ID_vendor, F.BLOCK_ID_family, F.BLOCK_ID_member, F.BLOCK_ID_major, F.BLOCK_ID_minor, F.BLOCK_ID_patch]
  | .CC_OWNER => [F.CC_OWNER_owner, F.CC_OWNER_stale, F.CC_OWNER_op, F.CC_OWNER_changes, F.CC_OWNER_idle_ms]
  | .CC_OWNER_HO => [F.CC_OWNER_HO_target, F.CC_OWNER_HO_pending]
  | .CC_BUILD0 => [F.CC_BUILD0_nfield, F.CC_BUILD0_ncluster, F.CC_BUILD0_ncore, F.CC_BUILD0_nengine, F.CC_BUILD0_npart, F.CC_BUILD0_nmt, F.CC_BUILD0_nlt, F.CC_BUILD0_gx_m1, F.CC_BUILD0_gy_m1]
  | .CC_BUILD1 => [F.CC_BUILD1_wafer_id, F.CC_BUILD1_hmax, F.CC_BUILD1_bcast_ns, F.CC_BUILD1_cca_field, F.CC_BUILD1_ccb_field]
  | .CC_ROLE => [F.CC_ROLE_active, F.CC_ROLE_standby_ok, F.CC_ROLE_swap_req, F.CC_ROLE_swap_count]
  | .CC_SERVICE => [F.CC_SERVICE_level, F.CC_SERVICE_oos, F.CC_SERVICE_released, F.CC_SERVICE_unmon]
  | .CC_FIELD_REL0 => [F.CC_FIELD_REL0_rel]
  | .CC_FIELD_REL1 => [F.CC_FIELD_REL1_rel]
  | .CC_FAULT_GLOBAL0 => [F.CC_FAULT_GLOBAL0_open]
  | .CC_FAULT_GLOBAL1 => [F.CC_FAULT_GLOBAL1_open]
  | .CC_FAULT_CTL => [F.CC_FAULT_CTL_sec_count, F.CC_FAULT_CTL_merged, F.CC_FAULT_CTL_open, F.CC_FAULT_CTL_src]
  | .CC_INJ_CMD => [F.CC_INJ_CMD_checker, F.CC_INJ_CMD_unit, F.CC_INJ_CMD_count, F.CC_INJ_CMD_partition]
  | .CC_INJ_STAT => [F.CC_INJ_STAT_checker, F.CC_INJ_STAT_refused, F.CC_INJ_STAT_reason, F.CC_INJ_STAT_remaining, F.CC_INJ_STAT_armings]
  | .CC_SAFE_SEL => [F.CC_SAFE_SEL_index, F.CC_SAFE_SEL_scope]
  | .CC_SAFE_VAL => [F.CC_SAFE_VAL_value]
  | .CC_SAFE_AT => [F.CC_SAFE_AT_wt]
  | .CC_OBS_STAT => [F.CC_OBS_STAT_denied]
  | .CC_BOOT_STAT => [F.CC_BOOT_STAT_step, F.CC_BOOT_STAT_hold_release, F.CC_BOOT_STAT_full_train, F.CC_BOOT_STAT_fs_failed, F.CC_BOOT_STAT_strips_missed, F.CC_BOOT_STAT_boot_lost, F.CC_BOOT_STAT_done_ms]
  | .CC_BOOT_CFG => [F.CC_BOOT_CFG_wave, F.CC_BOOT_CFG_bist_tok, F.CC_BOOT_CFG_strip_wait_ms, F.CC_BOOT_CFG_train_s, F.CC_BOOT_CFG_full_train]
  | .CC_BOOT_SEL => [F.CC_BOOT_SEL_step]
  | .CC_BOOT_T => [F.CC_BOOT_T_wt]
  | .CC_BIST_SEL => [F.CC_BIST_SEL_unit]
  | .CC_BIST_DATA0 => [F.CC_BIST_DATA0_result, F.CC_BIST_DATA0_clock_absent, F.CC_BIST_DATA0_failures, F.CC_BIST_DATA0_memory, F.CC_BIST_DATA0_address, F.CC_BIST_DATA0_bit, F.CC_BIST_DATA0_domain]
  | .CC_BIST_DATA1 => [F.CC_BIST_DATA1_signature]
  | .CC_HOME_SEL => [F.CC_HOME_SEL_index, F.CC_HOME_SEL_kind]
  | .CC_HOME_DATA => [F.CC_HOME_DATA_home, F.CC_HOME_DATA_stack, F.CC_HOME_DATA_present]
  | .CC_LOUPE_SEL => [F.CC_LOUPE_SEL_source, F.CC_LOUPE_SEL_area]
  | .CC_LOUPE_CUR => [F.CC_LOUPE_CUR_cursor]
  | .CC_LOUPE_DATA => [F.CC_LOUPE_DATA_data]
  | .CC_LOUPE_STAT => [F.CC_LOUPE_STAT_side, F.CC_LOUPE_STAT_valid, F.CC_LOUPE_STAT_crc_bad, F.CC_LOUPE_STAT_gone, F.CC_LOUPE_STAT_empty, F.CC_LOUPE_STAT_refused]
  | .CC_LOUPE_FRZ => [F.CC_LOUPE_FRZ_freeze, F.CC_LOUPE_FRZ_max_ms]
  | .CC_LOUPE_NEW => [F.CC_LOUPE_NEW_newest, F.CC_LOUPE_NEW_first_used]
  | .CC_REC_CLR => [F.CC_REC_CLR_first, F.CC_REC_CLR_last, F.CC_REC_CLR_source]
  | .CC_REC_STAT => [F.CC_REC_STAT_first_used, F.CC_REC_STAT_frozen, F.CC_REC_STAT_missed, F.CC_REC_STAT_held_ovf, F.CC_REC_STAT_fwd, F.CC_REC_STAT_suppressed]
  | .CC_REC_RATE => [F.CC_REC_RATE_burst, F.CC_REC_RATE_period_ms]
  | .CC_ARCH_STAT => [F.CC_ARCH_STAT_ue, F.CC_ARCH_STAT_worn, F.CC_ARCH_STAT_max_wear]
  | .CC_ARCH_SEL => [F.CC_ARCH_SEL_word]
  | .CC_ARCH_DATA => [F.CC_ARCH_DATA_data]
  | .CC_ARCH_WEAR => [F.CC_ARCH_WEAR_writes, F.CC_ARCH_WEAR_worn, F.CC_ARCH_WEAR_ue]
  | .CC_FENCE_CMD => [F.CC_FENCE_CMD_unit, F.CC_FENCE_CMD_reason, F.CC_FENCE_CMD_op]
  | .CC_FENCE_STAT => [F.CC_FENCE_STAT_used, F.CC_FENCE_STAT_refused, F.CC_FENCE_STAT_volatile, F.CC_FENCE_STAT_pending, F.CC_FENCE_STAT_compactions]
  | .CC_FENCE_IDX => [F.CC_FENCE_IDX_index]
  | .CC_FENCE_ENTRY => [F.CC_FENCE_ENTRY_entry]
  | .CC_FIX_POLICY => [F.CC_FIX_POLICY_unmon_release, F.CC_FIX_POLICY_ack_ms]
  | .CC_LIFECYCLE => [F.CC_LIFECYCLE_state, F.CC_LIFECYCLE_target, F.CC_LIFECYCLE_confirm]
  | .CC_TRUST_GROUP => [F.CC_TRUST_GROUP_group]
  | .CC_SEAL_CFG => [F.CC_SEAL_CFG_nonce_s, F.CC_SEAL_CFG_clear_ms]
  | .CC_PART_SEAL => [F.CC_PART_SEAL_sealed, F.CC_PART_SEAL_debug, F.CC_PART_SEAL_tainted, F.CC_PART_SEAL_desealing, F.CC_PART_SEAL_eligible, F.CC_PART_SEAL_epoch]
  | .CC_KEY_CMD => [F.CC_KEY_CMD_op, F.CC_KEY_CMD_partition]
  | .CC_KEY_DATA => [F.CC_KEY_DATA_data]
  | .CC_KEY_STAT => [F.CC_KEY_STAT_state, F.CC_KEY_STAT_reason, F.CC_KEY_STAT_refused, F.CC_KEY_STAT_received]
  | .CC_SCRUB_CMD => [F.CC_SCRUB_CMD_op, F.CC_SCRUB_CMD_partition]
  | .CC_SCRUB_STAT => [F.CC_SCRUB_STAT_state, F.CC_SCRUB_STAT_phase, F.CC_SCRUB_STAT_cause, F.CC_SCRUB_STAT_count]
  | .CC_WT => [F.CC_WT_wt]
  | .CC_CLK_CFG => [F.CC_CLK_CFG_src_pref, F.CC_CLK_CFG_bk_sleep]
  | .CC_CLK_STAT => [F.CC_CLK_STAT_src, F.CC_CLK_STAT_judged, F.CC_CLK_STAT_condemned, F.CC_CLK_STAT_no_majority, F.CC_CLK_STAT_trips, F.CC_CLK_STAT_aon_ms]
  | .CC_CLK_CNT => [F.CC_CLK_CNT_ref, F.CC_CLK_CNT_bk]
  | .CC_SSC_CFG => [F.CC_SSC_CFG_enable, F.CC_SSC_CFG_spread, F.CC_SSC_CFG_mod]
  | .CC_VDD_CFG => [F.CC_VDD_CFG_droop_mv, F.CC_VDD_CFG_droop_ns]
  | .CC_VDD_STAT => [F.CC_VDD_STAT_aon_mv, F.CC_VDD_STAT_warn, F.CC_VDD_STAT_cc_temp, F.CC_VDD_STAT_warns]
  | .CC_BRK_ENV => [F.CC_BRK_ENV_f_steps, F.CC_BRK_ENV_v_steps, F.CC_BRK_ENV_t_max]
  | .CC_TEST_BUDGET => [F.CC_TEST_BUDGET_budget, F.CC_TEST_BUDGET_in_use, F.CC_TEST_BUDGET_waiting]
  | .CC_TOKEN_COST => [F.CC_TOKEN_COST_hold_tok, F.CC_TOKEN_COST_push_tok, F.CC_TOKEN_COST_heat_tok]
  | .CC_STOP_CMD => [F.CC_STOP_CMD_op, F.CC_STOP_CMD_joined, F.CC_STOP_CMD_freeze]
  | .CC_STOP_CFG => [F.CC_STOP_CFG_lead_ns, F.CC_STOP_CFG_join_lead_us, F.CC_STOP_CFG_max_ms, F.CC_STOP_CFG_accept_joined]
  | .CC_STOP_STAT => [F.CC_STOP_STAT_state, F.CC_STOP_STAT_refused, F.CC_STOP_STAT_reason, F.CC_STOP_STAT_late, F.CC_STOP_STAT_stop_id]
  | .CC_STOP_T => [F.CC_STOP_T_t_stop]
  | .CC_SHEET_CMD => [F.CC_SHEET_CMD_op, F.CC_SHEET_CMD_dest, F.CC_SHEET_CMD_all, F.CC_SHEET_CMD_partition, F.CC_SHEET_CMD_content, F.CC_SHEET_CMD_auto_release]
  | .CC_SHEET_REGION0 => [F.CC_SHEET_REGION0_group, F.CC_SHEET_REGION0_mask]
  | .CC_SHEET_REGION1 => [F.CC_SHEET_REGION1_base, F.CC_SHEET_REGION1_length]
  | .CC_SHEET_GEOM => [F.CC_SHEET_GEOM_chains, F.CC_SHEET_GEOM_words]
  | .CC_SHEET_STAT => [F.CC_SHEET_STAT_state, F.CC_SHEET_STAT_truncated, F.CC_SHEET_STAT_refused, F.CC_SHEET_STAT_blocks]
  | .CC_PART_FIELD => [F.CC_PART_FIELD_part0, F.CC_PART_FIELD_part1, F.CC_PART_FIELD_part2, F.CC_PART_FIELD_part3, F.CC_PART_FIELD_part4, F.CC_PART_FIELD_part5, F.CC_PART_FIELD_part6, F.CC_PART_FIELD_part7]
  | .CC_RESET_CMD => [F.CC_RESET_CMD_scope, F.CC_RESET_CMD_partition, F.CC_RESET_CMD_engine, F.CC_RESET_CMD_context]
  | .CC_RESET_STAT => [F.CC_RESET_STAT_status, F.CC_RESET_STAT_refused]
  | .CC_BUDGET_CFG => [F.CC_BUDGET_CFG_part_limit, F.CC_BUDGET_CFG_part_window_s, F.CC_BUDGET_CFG_wafer_limit, F.CC_BUDGET_CFG_wafer_window_h]
  | .CC_BUDGET_STAT => [F.CC_BUDGET_STAT_outs, F.CC_BUDGET_STAT_wafer_oos, F.CC_BUDGET_STAT_hold, F.CC_BUDGET_STAT_pwr_req]
  | .CC_PART_STAT => [F.CC_PART_STAT_gen, F.CC_PART_STAT_phase, F.CC_PART_STAT_full, F.CC_PART_STAT_recent, F.CC_PART_STAT_last_ms, F.CC_PART_STAT_resets]
  | .CC_WDOG_CFG => [F.CC_WDOG_CFG_interval]
  | .CC_PROOF_RATE => [F.CC_PROOF_RATE_rate_exp]
  | .CC_CHECK_MODE => [F.CC_CHECK_MODE_mode]
  | .CC_HORIZON_CFG => [F.CC_HORIZON_CFG_period_s, F.CC_HORIZON_CFG_q_exp, F.CC_HORIZON_CFG_epoch_steps]
  | .CC_HORIZON => [F.CC_HORIZON_d, F.CC_HORIZON_d_samp, F.CC_HORIZON_d_rot, F.CC_HORIZON_valid, F.CC_HORIZON_overdue, F.CC_HORIZON_unproved]
  | .CC_STEP => [F.CC_STEP_step]
  | .CC_STEP_STAT => [F.CC_STEP_STAT_step, F.CC_STEP_STAT_t_min_us]
  | .CC_LOSS => [F.CC_LOSS_loss]
  | .CC_LOSS_CFG => [F.CC_LOSS_CFG_k, F.CC_LOSS_CFG_reset_stats, F.CC_LOSS_CFG_accepted]
  | .CC_PART_CHAN => [F.CC_PART_CHAN_part0, F.CC_PART_CHAN_unassigned0, F.CC_PART_CHAN_part1, F.CC_PART_CHAN_unassigned1, F.CC_PART_CHAN_part2, F.CC_PART_CHAN_unassigned2, F.CC_PART_CHAN_part3, F.CC_PART_CHAN_unassigned3, F.CC_PART_CHAN_part4, F.CC_PART_CHAN_unassigned4, F.CC_PART_CHAN_part5, F.CC_PART_CHAN_unassigned5, F.CC_PART_CHAN_part6, F.CC_PART_CHAN_unassigned6, F.CC_PART_CHAN_part7, F.CC_PART_CHAN_unassigned7]
  | .CC_BAR_CFG => [F.CC_BAR_CFG_enable, F.CC_BAR_CFG_partition]
  | .CC_TRACE_CFG => [F.CC_TRACE_CFG_enable, F.CC_TRACE_CFG_stop_mode, F.CC_TRACE_CFG_events]
  | .CC_TRACE_RING0 => [F.CC_TRACE_RING0_group, F.CC_TRACE_RING0_mask]
  | .CC_TRACE_RING1 => [F.CC_TRACE_RING1_base, F.CC_TRACE_RING1_length]
  | .CC_TRACE_HEAD => [F.CC_TRACE_HEAD_head]
  | .CC_TRACE_TAIL => [F.CC_TRACE_TAIL_tail]
  | .CC_TRACE_MARK => [F.CC_TRACE_MARK_value]
  | .CC_TRACE_STAT => [F.CC_TRACE_STAT_lost, F.CC_TRACE_STAT_cause]
  | .CC_MODE_STAT => [F.CC_MODE_STAT_mode, F.CC_MODE_STAT_sealed, F.CC_MODE_STAT_debug, F.CC_MODE_STAT_tainted, F.CC_MODE_STAT_desealing, F.CC_MODE_STAT_bracketing, F.CC_MODE_STAT_stopped, F.CC_MODE_STAT_frozen, F.CC_MODE_STAT_reset, F.CC_MODE_STAT_scrub, F.CC_MODE_STAT_save, F.CC_MODE_STAT_restore, F.CC_MODE_STAT_update, F.CC_MODE_STAT_aon_only, F.CC_MODE_STAT_rec_frozen]
  | .CC_SEQ_CTL => [F.CC_SEQ_CTL_restart, F.CC_SEQ_CTL_use_ref]
  | .CC_SEQ_STAT => [F.CC_SEQ_STAT_running, F.CC_SEQ_STAT_halted, F.CC_SEQ_STAT_in_trap, F.CC_SEQ_STAT_cause, F.CC_SEQ_STAT_pc, F.CC_SEQ_STAT_traps, F.CC_SEQ_STAT_rx_drop, F.CC_SEQ_STAT_note_lost]
  | .CC_SEQ_MBOX => [F.CC_SEQ_MBOX_value]
  | .CC_SEM_SIG => [F.CC_SEM_SIG_sem, F.CC_SEM_SIG_n]
  | .CC_SEM_CNT => [F.CC_SEM_CNT_cnt]
  | .CC_IMG_CMD => [F.CC_IMG_CMD_op, F.CC_IMG_CMD_target, F.CC_IMG_CMD_field, F.CC_IMG_CMD_all, F.CC_IMG_CMD_length]
  | .CC_IMG_DATA => [F.CC_IMG_DATA_data]
  | .CC_IMG_STAT => [F.CC_IMG_STAT_state, F.CC_IMG_STAT_reason, F.CC_IMG_STAT_target, F.CC_IMG_STAT_cc_boot, F.CC_IMG_STAT_fs_boot, F.CC_IMG_STAT_received]
  | .CC_IMG_VER0 => [F.CC_IMG_VER0_cc_a, F.CC_IMG_VER0_cc_b]
  | .CC_IMG_VER1 => [F.CC_IMG_VER1_fs_a, F.CC_IMG_VER1_fs_b]
  | .CC_IMG_FLOOR => [F.CC_IMG_FLOOR_cc, F.CC_IMG_FLOOR_fs]
  | .CC_IMG_DIGSEL => [F.CC_IMG_DIGSEL_sel]
  | .CC_IMG_DIG => [F.CC_IMG_DIG_dig]
  | .CC_LSP_CMD => [F.CC_LSP_CMD_field, F.CC_LSP_CMD_summary, F.CC_LSP_CMD_index, F.CC_LSP_CMD_payload]
  | .CC_LSP_STAT => [F.CC_LSP_STAT_state, F.CC_LSP_STAT_no_payload, F.CC_LSP_STAT_length]
  | .CC_LSP_PTR => [F.CC_LSP_PTR_offset]
  | .CC_LSP_DATA => [F.CC_LSP_DATA_data]
  | .CC_PACK_CMD => [F.CC_PACK_CMD_op, F.CC_PACK_CMD_length]
  | .CC_PACK_DATA => [F.CC_PACK_DATA_data]
  | .CC_PACK_STAT => [F.CC_PACK_STAT_state, F.CC_PACK_STAT_reason, F.CC_PACK_STAT_switched, F.CC_PACK_STAT_received]
  | .CC_PACK_VER => [F.CC_PACK_VER_active, F.CC_PACK_VER_staged]
  | .CC_PACK_FLOOR => [F.CC_PACK_FLOOR_floor]
  | .CC_PACK_DIG => [F.CC_PACK_DIG_dig]
  | .CC_CKPT_SHARD_SEL => [F.CC_CKPT_SHARD_SEL_index]
  | .CC_CKPT_SHARD0 => [F.CC_CKPT_SHARD0_partition, F.CC_CKPT_SHARD0_valid, F.CC_CKPT_SHARD0_group, F.CC_CKPT_SHARD0_length]
  | .CC_CKPT_SHARD1 => [F.CC_CKPT_SHARD1_mask]
  | .CC_CKPT_SHARD2 => [F.CC_CKPT_SHARD2_base0, F.CC_CKPT_SHARD2_base1]
  | .CC_CKPT_SHARD3 => [F.CC_CKPT_SHARD3_p0_wafer, F.CC_CKPT_SHARD3_p0_entry, F.CC_CKPT_SHARD3_p0_valid, F.CC_CKPT_SHARD3_p1]
  | .CC_CKPT_HOST_SEL => [F.CC_CKPT_HOST_SEL_index]
  | .CC_CKPT_HOST0 => [F.CC_CKPT_HOST0_src_wafer, F.CC_CKPT_HOST0_src_part, F.CC_CKPT_HOST0_src_shard, F.CC_CKPT_HOST0_valid, F.CC_CKPT_HOST0_group, F.CC_CKPT_HOST0_length]
  | .CC_CKPT_HOST1 => [F.CC_CKPT_HOST1_mask]
  | .CC_CKPT_HOST2 => [F.CC_CKPT_HOST2_slot0, F.CC_CKPT_HOST2_slot1, F.CC_CKPT_HOST2_committed, F.CC_CKPT_HOST2_held]
  | .CC_CKPT_HOST3 => [F.CC_CKPT_HOST3_step]
  | .CC_CKPT_CFG => [F.CC_CKPT_CFG_quorum, F.CC_CKPT_CFG_ack_ms]
  | .CC_CKPT_STAT => [F.CC_CKPT_STAT_state, F.CC_CKPT_STAT_captured, F.CC_CKPT_STAT_busy, F.CC_CKPT_STAT_refused, F.CC_CKPT_STAT_result, F.CC_CKPT_STAT_cause, F.CC_CKPT_STAT_last_step, F.CC_CKPT_STAT_local_ok, F.CC_CKPT_STAT_local_buf]
  | .CC_CKPT_CMD => [F.CC_CKPT_CMD_op, F.CC_CKPT_CMD_partition, F.CC_CKPT_CMD_buf, F.CC_CKPT_CMD_realign, F.CC_CKPT_CMD_source, F.CC_CKPT_CMD_streams]
  | .CC_CKPT_SKEW_SEL => [F.CC_CKPT_SKEW_SEL_stream, F.CC_CKPT_SKEW_SEL_partition]
  | .CC_CKPT_SKEW => [F.CC_CKPT_SKEW_delta, F.CC_CKPT_SKEW_mismatch, F.CC_CKPT_SKEW_counter, F.CC_CKPT_SKEW_realigned]
  | .CC_CKPT_ARG0 => [F.CC_CKPT_ARG0_d]
  | .CC_CKPT_ARG1 => [F.CC_CKPT_ARG1_d]
  | .CC_CKPT_ARG2 => [F.CC_CKPT_ARG2_d]
  | .FS_WAKE_CFG => [F.FS_WAKE_CFG_hold_us, F.FS_WAKE_CFG_pin_awake]
  | .FS_WAKE_STAT => [F.FS_WAKE_STAT_awake, F.FS_WAKE_STAT_wakes]
  | .FS_PROOF_CFG => [F.FS_PROOF_CFG_enable, F.FS_PROOF_CFG_rekey, F.FS_PROOF_CFG_shadow_max, F.FS_PROOF_CFG_neg_cap]
  | .FS_PROOF_STAT => [F.FS_PROOF_STAT_queued, F.FS_PROOF_STAT_busy, F.FS_PROOF_STAT_array_suspect, F.FS_PROOF_STAT_forced, F.FS_PROOF_STAT_store_used, F.FS_PROOF_STAT_force_refused]
  | .FS_PROOF_CNT => [F.FS_PROOF_CNT_proved, F.FS_PROOF_CNT_mismatches, F.FS_PROOF_CNT_array_faults]
  | .FS_PROOF_DROP => [F.FS_PROOF_DROP_refused, F.FS_PROOF_DROP_suspect, F.FS_PROOF_DROP_abandoned]
  | .FS_NEG_STAT => [F.FS_NEG_STAT_held, F.FS_NEG_STAT_sealed, F.FS_NEG_STAT_summaries, F.FS_NEG_STAT_pinned, F.FS_NEG_STAT_payload_lost]
  | .FS_NEG_RELEASE => [F.FS_NEG_RELEASE_slots]
  | .FS_STRIP_CFG => [F.FS_STRIP_CFG_grace_ms, F.FS_STRIP_CFG_lead_ms, F.FS_STRIP_CFG_pair_wait_us, F.FS_STRIP_CFG_max_active, F.FS_STRIP_CFG_force_preempt]
  | .FS_STRIP_STAT => [F.FS_STRIP_STAT_active, F.FS_STRIP_STAT_cmd_refused, F.FS_STRIP_STAT_due, F.FS_STRIP_STAT_shielded, F.FS_STRIP_STAT_overdue]
  | .FS_STRIP_CNT => [F.FS_STRIP_CNT_runs, F.FS_STRIP_CNT_fails, F.FS_STRIP_CNT_aborts]
  | .FS_STRIP_CMD => [F.FS_STRIP_CMD_core, F.FS_STRIP_CMD_recipe]
  | .FS_LEDGER_SEL => [F.FS_LEDGER_SEL_engine]
  | .FS_LEDGER_DATA0 => [F.FS_LEDGER_DATA0_last_wt]
  | .FS_LEDGER_DATA1 => [F.FS_LEDGER_DATA1_retired, F.FS_LEDGER_DATA1_proved]
  | .FS_LEDGER_DATA2 => [F.FS_LEDGER_DATA2_checked, F.FS_LEDGER_DATA2_unchecked]
  | .FS_LEDGER_DATA3 => [F.FS_LEDGER_DATA3_epoch_proved, F.FS_LEDGER_DATA3_epoch_active, F.FS_LEDGER_DATA3_state, F.FS_LEDGER_DATA3_overdue, F.FS_LEDGER_DATA3_epoch_overdue, F.FS_LEDGER_DATA3_fails]
  | .FS_BRK_CFG => [F.FS_BRK_CFG_hold_wait_ms, F.FS_BRK_CFG_settle_ms, F.FS_BRK_CFG_token_wait_ms, F.FS_BRK_CFG_heat_max_ms, F.FS_BRK_CFG_cool_ms]
  | .FS_BRK_LIMIT => [F.FS_BRK_LIMIT_f_steps, F.FS_BRK_LIMIT_v_steps]
  | .FS_BRK_CMD => [F.FS_BRK_CMD_kind, F.FS_BRK_CMD_cluster, F.FS_BRK_CMD_max_step, F.FS_BRK_CMD_recipe, F.FS_BRK_CMD_t_target, F.FS_BRK_CMD_cancel]
  | .FS_BRK_STAT => [F.FS_BRK_STAT_phase, F.FS_BRK_STAT_cmd_refused, F.FS_BRK_STAT_step, F.FS_BRK_STAT_sessions, F.FS_BRK_STAT_aborts]
  | .FS_MAINT => [F.FS_MAINT_open, F.FS_MAINT_close, F.FS_MAINT_is_open, F.FS_MAINT_win_max_ms]
  | .FS_FIX_CFG => [F.FS_FIX_CFG_latent_auto, F.FS_FIX_CFG_fence_marginal, F.FS_FIX_CFG_latent_s, F.FS_FIX_CFG_replay_wait_ms, F.FS_FIX_CFG_recur_limit]
  | .FS_FIX_STAT => [F.FS_FIX_STAT_latent, F.FS_FIX_STAT_latent_full, F.FS_FIX_STAT_clears, F.FS_FIX_STAT_confirms]
  | .FS_FIX_SEL => [F.FS_FIX_SEL_entry]
  | .FS_FIX_DATA => [F.FS_FIX_DATA_engine, F.FS_FIX_DATA_state, F.FS_FIX_DATA_forced, F.FS_FIX_DATA_slot, F.FS_FIX_DATA_replay, F.FS_FIX_DATA_failures, F.FS_FIX_DATA_cause, F.FS_FIX_DATA_entered]
  | .FS_PACK_VER => [F.FS_PACK_VER_version, F.FS_PACK_VER_switching]
  | .FS_SEQ_CTL => [F.FS_SEQ_CTL_restart, F.FS_SEQ_CTL_use_ref]
  | .FS_SEQ_STAT => [F.FS_SEQ_STAT_running, F.FS_SEQ_STAT_halted, F.FS_SEQ_STAT_in_trap, F.FS_SEQ_STAT_cause, F.FS_SEQ_STAT_pc, F.FS_SEQ_STAT_traps, F.FS_SEQ_STAT_rx_drop, F.FS_SEQ_STAT_note_lost]
  | .FS_SEQ_MBOX => [F.FS_SEQ_MBOX_value]
  | .FS_SEM_SIG => [F.FS_SEM_SIG_sem, F.FS_SEM_SIG_n]
  | .FS_SEM_CNT => [F.FS_SEM_CNT_cnt]
  | .FS_FSW => [F.FS_FSW_fs_src, F.FS_FSW_ct_grp, F.FS_FSW_mt_grp, F.FS_FSW_lt_grp, F.FS_FSW_sec_count, F.FS_FSW_merged, F.FS_FSW_open, F.FS_FSW_stuck]
  | .FS_REC_STAT => [F.FS_REC_STAT_first_used, F.FS_REC_STAT_frozen, F.FS_REC_STAT_missed, F.FS_REC_STAT_held_ovf, F.FS_REC_STAT_fwd, F.FS_REC_STAT_suppressed]
  | .FS_REC_RATE => [F.FS_REC_RATE_burst, F.FS_REC_RATE_period_ms]
  | .FS_PIN_SEL => [F.FS_PIN_SEL_index]
  | .FS_PIN_DATA => [F.FS_PIN_DATA_level, F.FS_PIN_DATA_latched, F.FS_PIN_DATA_edges, F.FS_PIN_DATA_stuck, F.FS_PIN_DATA_unit]
  | .FS_PIN_CLR => [F.FS_PIN_CLR_index]
  | .FS_CREPLAY_CMD => [F.FS_CREPLAY_CMD_engine, F.FS_CREPLAY_CMD_context, F.FS_CREPLAY_CMD_cancel]
  | .FS_CREPLAY_STAT => [F.FS_CREPLAY_STAT_state, F.FS_CREPLAY_STAT_outcome, F.FS_CREPLAY_STAT_core, F.FS_CREPLAY_STAT_refused, F.FS_CREPLAY_STAT_replays]
  | .FS_CREPLAY_CFG => [F.FS_CREPLAY_CFG_limit, F.FS_CREPLAY_CFG_wait_ms]
  | .FS_SELFTEST => [F.FS_SELFTEST_start, F.FS_SELFTEST_busy, F.FS_SELFTEST_result]
  | .FS_VMON => [F.FS_VMON_mv, F.FS_VMON_last_min, F.FS_VMON_droops, F.FS_VMON_temp]
  | .CT_SIG_CFG => [F.CT_SIG_CFG_admit_level, F.CT_SIG_CFG_one_open]
  | .CT_SIG_STAT => [F.CT_SIG_STAT_refused, F.CT_SIG_STAT_overflow, F.CT_SIG_STAT_slot_full, F.CT_SIG_STAT_contract]
  | .CT_SIG_LAST => [F.CT_SIG_LAST_reason, F.CT_SIG_LAST_engine, F.CT_SIG_LAST_tile]
  | .CT_PCNT_SEL => [F.CT_PCNT_SEL_counter]
  | .CT_PCNT_CFG => [F.CT_PCNT_CFG_event, F.CT_PCNT_CFG_classes, F.CT_PCNT_CFG_fmt, F.CT_PCNT_CFG_fmt_en, F.CT_PCNT_CFG_engine, F.CT_PCNT_CFG_engine_en, F.CT_PCNT_CFG_layer_en, F.CT_PCNT_CFG_op_en, F.CT_PCNT_CFG_layer, F.CT_PCNT_CFG_operator]
  | .CT_PCNT_VAL => [F.CT_PCNT_VAL_value, F.CT_PCNT_VAL_wrapped]
  | .CT_SLEEVE_STAT => [F.CT_SLEEVE_STAT_crc_err, F.CT_SLEEVE_STAT_fog_consumed, F.CT_SLEEVE_STAT_fog_transit, F.CT_SLEEVE_STAT_unsleeved]
  | .CT_PCNT_CTL => [F.CT_PCNT_CTL_clear, F.CT_PCNT_CTL_freeze]
  | .CT_TRACE_STAT => [F.CT_TRACE_STAT_queued, F.CT_TRACE_STAT_lost]
  | .CT_PROOF_FORCE0 => [F.CT_PROOF_FORCE0_force]
  | .CT_PROOF_FORCE1 => [F.CT_PROOF_FORCE1_force]
  | .CT_PROOF_STAT => [F.CT_PROOF_STAT_selected, F.CT_PROOF_STAT_unprovable, F.CT_PROOF_STAT_dropped, F.CT_PROOF_STAT_mirror_ovf]
  | .CT_ABFT_CFG => [F.CT_ABFT_CFG_proof_wait]
  | .CT_ABFT_STAT => [F.CT_ABFT_STAT_clean, F.CT_ABFT_STAT_failed, F.CT_ABFT_STAT_uncertified, F.CT_ABFT_STAT_saturated]
  | .CT_ABFT_STAT2 => [F.CT_ABFT_STAT2_proof_timeout, F.CT_ABFT_STAT2_evicted, F.CT_ABFT_STAT2_fold_fault, F.CT_ABFT_STAT2_stamps_late]
  | .CT_ABFT_LAST => [F.CT_ABFT_LAST_ratio, F.CT_ABFT_LAST_engine, F.CT_ABFT_LAST_guard, F.CT_ABFT_LAST_tile]
  | .CT_ERR => [F.CT_ERR_latched, F.CT_ERR_stuck, F.CT_ERR_edges, F.CT_ERR_internal]
  | .CT_ERR_CAP => [F.CT_ERR_CAP_capture]
  | .CT_WDOG_STAT => [F.CT_WDOG_STAT_hangs, F.CT_WDOG_STAT_engine, F.CT_WDOG_STAT_context]
  | .CT_SUSP_SEL => [F.CT_SUSP_SEL_engine, F.CT_SUSP_SEL_release, F.CT_SUSP_SEL_frozen, F.CT_SUSP_SEL_count, F.CT_SUSP_SEL_ovf]
  | .CT_SUSP_DATA0 => [F.CT_SUSP_DATA0_ctx0_3]
  | .CT_SUSP_DATA1 => [F.CT_SUSP_DATA1_ctx4_7]
  | .CT_BAR_STAT => [F.CT_BAR_STAT_sense, F.CT_BAR_STAT_early, F.CT_BAR_STAT_overrun]
  | .CT_STOP_STAT => [F.CT_STOP_STAT_gated, F.CT_STOP_STAT_quiet, F.CT_STOP_STAT_held, F.CT_STOP_STAT_held_lost]
  | .CT_SAFE_SEL => [F.CT_SAFE_SEL_index]
  | .CT_SAFE_VAL => [F.CT_SAFE_VAL_value]
  | .CT_CYC => [F.CT_CYC_cycles, F.CT_CYC_capture]
  | .CT_CYC_WT => [F.CT_CYC_WT_wt]
  | .MT_POOL_CFG => [F.MT_POOL_CFG_reserved_min, F.MT_POOL_CFG_shared_cap]
  | .MT_POOL_STAT => [F.MT_POOL_STAT_held, F.MT_POOL_STAT_misses, F.MT_POOL_STAT_pool, F.MT_POOL_STAT_pool_size]
  | .MT_SLEEVE_CFG => [F.MT_SLEEVE_CFG_enable, F.MT_SLEEVE_CFG_dflt_fmt, F.MT_SLEEVE_CFG_cap_log2, F.MT_SLEEVE_CFG_region_base]
  | .MT_SLEEVE_STAT => [F.MT_SLEEVE_STAT_crc_err, F.MT_SLEEVE_STAT_fog_set, F.MT_SLEEVE_STAT_created, F.MT_SLEEVE_STAT_late]
  | .MT_GEN_STAT => [F.MT_GEN_STAT_stale]
  | .MT_SHADOW_STAT => [F.MT_SHADOW_STAT_out, F.MT_SHADOW_STAT_in]
  | .MT_SHADOW_ERR => [F.MT_SHADOW_ERR_dirty, F.MT_SHADOW_ERR_slot_access, F.MT_SHADOW_ERR_bad_block]
  | .MT_SEAL_RGN_A => [F.MT_SEAL_RGN_A_base, F.MT_SEAL_RGN_A_valid, F.MT_SEAL_RGN_A_region_id]
  | .MT_SEAL_RGN_B => [F.MT_SEAL_RGN_B_length, F.MT_SEAL_RGN_B_tag_base]
  | .MT_SEAL_STAT => [F.MT_SEAL_STAT_refused, F.MT_SEAL_STAT_tag_fail, F.MT_SEAL_STAT_late, F.MT_SEAL_STAT_key]
  | .LT_SLEEVE_STAT => [F.LT_SLEEVE_STAT_crc_err, F.LT_SLEEVE_STAT_fog_out, F.LT_SLEEVE_STAT_fog_in, F.LT_SLEEVE_STAT_unsleeved]
  | .LT_GEN_STAT => [F.LT_GEN_STAT_stale, F.LT_GEN_STAT_nacks, F.LT_GEN_STAT_untracked, F.LT_GEN_STAT_outstanding]
  | .LT_SHADOW_STAT => [F.LT_SHADOW_STAT_out, F.LT_SHADOW_STAT_in]
  | .LT_STOP_STAT => [F.LT_STOP_STAT_lat_ns, F.LT_STOP_STAT_closed, F.LT_STOP_STAT_late, F.LT_STOP_STAT_overflow, F.LT_STOP_STAT_ring, F.LT_STOP_STAT_joins_ignored]
  | .LT_TRUST => [F.LT_TRUST_peer, F.LT_TRUST_known, F.LT_TRUST_blocked]

/-- Every register, in the tables' order, in pieces. -/
def regsCc0 : List Reg := [.BLOCK_ID, .CC_OWNER, .CC_OWNER_HO, .CC_BUILD0, .CC_BUILD1, .CC_ROLE, .CC_SERVICE, .CC_FIELD_REL0, .CC_FIELD_REL1, .CC_FAULT_GLOBAL0, .CC_FAULT_GLOBAL1, .CC_FAULT_CTL, .CC_INJ_CMD, .CC_INJ_STAT, .CC_SAFE_SEL, .CC_SAFE_VAL, .CC_SAFE_AT, .CC_OBS_STAT, .CC_BOOT_STAT, .CC_BOOT_CFG, .CC_BOOT_SEL, .CC_BOOT_T, .CC_BIST_SEL, .CC_BIST_DATA0, .CC_BIST_DATA1, .CC_HOME_SEL, .CC_HOME_DATA, .CC_LOUPE_SEL, .CC_LOUPE_CUR, .CC_LOUPE_DATA, .CC_LOUPE_STAT, .CC_LOUPE_FRZ, .CC_LOUPE_NEW, .CC_REC_CLR, .CC_REC_STAT, .CC_REC_RATE, .CC_ARCH_STAT, .CC_ARCH_SEL, .CC_ARCH_DATA, .CC_ARCH_WEAR]
def regsCc1 : List Reg := [.CC_FENCE_CMD, .CC_FENCE_STAT, .CC_FENCE_IDX, .CC_FENCE_ENTRY, .CC_FIX_POLICY, .CC_LIFECYCLE, .CC_TRUST_GROUP, .CC_SEAL_CFG, .CC_PART_SEAL, .CC_KEY_CMD, .CC_KEY_DATA, .CC_KEY_STAT, .CC_SCRUB_CMD, .CC_SCRUB_STAT, .CC_WT, .CC_CLK_CFG, .CC_CLK_STAT, .CC_CLK_CNT, .CC_SSC_CFG, .CC_VDD_CFG, .CC_VDD_STAT, .CC_BRK_ENV, .CC_TEST_BUDGET, .CC_TOKEN_COST, .CC_STOP_CMD, .CC_STOP_CFG, .CC_STOP_STAT, .CC_STOP_T, .CC_SHEET_CMD, .CC_SHEET_REGION0, .CC_SHEET_REGION1, .CC_SHEET_GEOM, .CC_SHEET_STAT, .CC_PART_FIELD, .CC_RESET_CMD, .CC_RESET_STAT, .CC_BUDGET_CFG, .CC_BUDGET_STAT, .CC_PART_STAT, .CC_WDOG_CFG]
def regsCc2 : List Reg := [.CC_PROOF_RATE, .CC_CHECK_MODE, .CC_HORIZON_CFG, .CC_HORIZON, .CC_STEP, .CC_STEP_STAT, .CC_LOSS, .CC_LOSS_CFG, .CC_PART_CHAN, .CC_BAR_CFG, .CC_TRACE_CFG, .CC_TRACE_RING0, .CC_TRACE_RING1, .CC_TRACE_HEAD, .CC_TRACE_TAIL, .CC_TRACE_MARK, .CC_TRACE_STAT, .CC_MODE_STAT, .CC_SEQ_CTL, .CC_SEQ_STAT, .CC_SEQ_MBOX, .CC_SEM_SIG, .CC_SEM_CNT, .CC_IMG_CMD, .CC_IMG_DATA, .CC_IMG_STAT, .CC_IMG_VER0, .CC_IMG_VER1, .CC_IMG_FLOOR, .CC_IMG_DIGSEL, .CC_IMG_DIG, .CC_LSP_CMD, .CC_LSP_STAT, .CC_LSP_PTR, .CC_LSP_DATA, .CC_PACK_CMD, .CC_PACK_DATA, .CC_PACK_STAT, .CC_PACK_VER, .CC_PACK_FLOOR]
def regsCc3 : List Reg := [.CC_PACK_DIG, .CC_CKPT_SHARD_SEL, .CC_CKPT_SHARD0, .CC_CKPT_SHARD1, .CC_CKPT_SHARD2, .CC_CKPT_SHARD3, .CC_CKPT_HOST_SEL, .CC_CKPT_HOST0, .CC_CKPT_HOST1, .CC_CKPT_HOST2, .CC_CKPT_HOST3, .CC_CKPT_CFG, .CC_CKPT_STAT, .CC_CKPT_CMD, .CC_CKPT_SKEW_SEL, .CC_CKPT_SKEW, .CC_CKPT_ARG0, .CC_CKPT_ARG1, .CC_CKPT_ARG2]
def regsFs0 : List Reg := [.FS_WAKE_CFG, .FS_WAKE_STAT, .FS_PROOF_CFG, .FS_PROOF_STAT, .FS_PROOF_CNT, .FS_PROOF_DROP, .FS_NEG_STAT, .FS_NEG_RELEASE, .FS_STRIP_CFG, .FS_STRIP_STAT, .FS_STRIP_CNT, .FS_STRIP_CMD, .FS_LEDGER_SEL, .FS_LEDGER_DATA0, .FS_LEDGER_DATA1, .FS_LEDGER_DATA2, .FS_LEDGER_DATA3, .FS_BRK_CFG, .FS_BRK_LIMIT, .FS_BRK_CMD, .FS_BRK_STAT, .FS_MAINT, .FS_FIX_CFG, .FS_FIX_STAT, .FS_FIX_SEL, .FS_FIX_DATA, .FS_PACK_VER, .FS_SEQ_CTL, .FS_SEQ_STAT, .FS_SEQ_MBOX, .FS_SEM_SIG, .FS_SEM_CNT, .FS_FSW, .FS_REC_STAT, .FS_REC_RATE, .FS_PIN_SEL, .FS_PIN_DATA, .FS_PIN_CLR, .FS_CREPLAY_CMD, .FS_CREPLAY_STAT]
def regsFs1 : List Reg := [.FS_CREPLAY_CFG, .FS_SELFTEST, .FS_VMON]
def regsCt0 : List Reg := [.CT_SIG_CFG, .CT_SIG_STAT, .CT_SIG_LAST, .CT_PCNT_SEL, .CT_PCNT_CFG, .CT_PCNT_VAL, .CT_SLEEVE_STAT, .CT_PCNT_CTL, .CT_TRACE_STAT, .CT_PROOF_FORCE0, .CT_PROOF_FORCE1, .CT_PROOF_STAT, .CT_ABFT_CFG, .CT_ABFT_STAT, .CT_ABFT_STAT2, .CT_ABFT_LAST, .CT_ERR, .CT_ERR_CAP, .CT_WDOG_STAT, .CT_SUSP_SEL, .CT_SUSP_DATA0, .CT_SUSP_DATA1, .CT_BAR_STAT, .CT_STOP_STAT, .CT_SAFE_SEL, .CT_SAFE_VAL, .CT_CYC, .CT_CYC_WT]
def regsMt0 : List Reg := [.MT_POOL_CFG, .MT_POOL_STAT, .MT_SLEEVE_CFG, .MT_SLEEVE_STAT, .MT_GEN_STAT, .MT_SHADOW_STAT, .MT_SHADOW_ERR, .MT_SEAL_RGN_A, .MT_SEAL_RGN_B, .MT_SEAL_STAT]
def regsLt0 : List Reg := [.LT_SLEEVE_STAT, .LT_GEN_STAT, .LT_SHADOW_STAT, .LT_STOP_STAT, .LT_TRUST]

/-- The registers of a window kind. -/
def regsOf : UnitCls → List Reg
  | .cc => regsCc0 ++ regsCc1 ++ regsCc2 ++ regsCc3
  | .fs => regsFs0 ++ regsFs1
  | .ct => regsCt0
  | .mt => regsMt0
  | .lt => regsLt0

/-- The whole register at power-up with an archive never written (R467). -/
def Reg.rst (r : Reg) : Nat := r.flds.foldl (fun a f => a + f.rst * 2 ^ f.lo) 0

/-- Fields other than RP ones that survive power-up (R469: the fields marked P in Tables 21-2 to 21-8). -/
def persistExtra : List Fld :=
  [F.CC_FENCE_STAT_compactions, F.CC_BUDGET_STAT_hold, F.CC_PART_SEAL_tainted, F.CC_SCRUB_STAT_state,
   F.CC_SCRUB_STAT_count, F.CC_IMG_STAT_cc_boot, F.CC_IMG_STAT_fs_boot]

/-- Whether a field keeps its value across power-up (R14, R469). -/
def Fld.persists (f : Fld) : Bool := f.acc == .rp || persistExtra.contains f

end Sys2Proof.Machine
end

