-- ==== Sys2Proof/Machine/Tbl.lean ====
section
/-!
DEFINITION. Sparse tables: sorted lists of key and value, with no entry equal to what an unlisted key
reads as, so that equal tables are equal data.
-/
namespace Sys2Proof.Machine

/-- A table from instance numbers to values. -/
abbrev Tbl (α : Type) := List (Nat × α)

/-- The listed value at `k`, if any. -/
def tfind {α : Type} : Tbl α → Nat → Option α
  | [], _ => none
  | (j, v) :: t, k => if j = k then some v else tfind t k

/-- The value at `k`, `d` when unlisted. -/
def tget {α : Type} (d : α) (t : Tbl α) (k : Nat) : α := (tfind t k).getD d

/-- `t` without the key `k`. -/
def tdel {α : Type} : Tbl α → Nat → Tbl α
  | [], _ => []
  | (j, v) :: t, k => if j = k then t else (j, v) :: tdel t k

/-- `t` with `v` listed at `k`, in its place by key. -/
def tins {α : Type} : Tbl α → Nat → α → Tbl α
  | [], k, v => [(k, v)]
  | (j, w) :: t, k, v =>
    if k < j then (k, v) :: (j, w) :: t
    else if k = j then (k, v) :: t
    else (j, w) :: tins t k v

/-- `t` reading `v` at `k`, where unlisted keys read `d`: the canonical write. -/
def tput {α : Type} [DecidableEq α] (d : α) (t : Tbl α) (k : Nat) (v : α) : Tbl α :=
  if v = d then tdel t k else tins t k v

/-- Keys strictly rising, all above `lo` when `lo` is given. -/
def tsorted {α : Type} : Option Nat → Tbl α → Bool
  | _, [] => true
  | none, (j, _) :: t => tsorted (some j) t
  | some l, (j, _) :: t => decide (l < j) && tsorted (some j) t

/-- The canonical form: rising keys, no entry equal to the default. -/
def twf {α : Type} [DecidableEq α] (d : α) (t : Tbl α) : Bool :=
  tsorted none t && t.all (fun e => decide (e.2 ≠ d))

/-- Update in place. -/
def tmod {α : Type} [DecidableEq α] (d : α) (t : Tbl α) (k : Nat) (f : α → α) : Tbl α :=
  tput d t k (f (tget d t k))

end Sys2Proof.Machine
end

