-- ==== Sys2Proof/Machine/State.lean ====
section
/-!
DEFINITION. The machine state: everything the spec gives the block, as plain data.
-/
namespace Sys2Proof.Machine


/-! ### Records and recorders (chapter 11) -/

/-- One record (Table 11-4) with its side word (R283) and the CRC its recorder stored with it (R282). -/
structure Rec where
  code : Nat
  rep : Nat := 0
  inj : Bool := false
  stopped : Bool := false
  held : Bool := false
  fwd : Bool := false
  aon : Bool := false
  wt : Nat
  unit : Nat
  temp : Nat
  mv : Nat
  layer : Nat := 0
  op : Nat := 0
  params : Nat
  side : Nat := 0
  crc : Nat := 0
deriving DecidableEq, Repr

/-- Token bucket of one code at one recorder (R286): the tokens left, none while it is full; when the running
refill period ends; records suppressed since the last one written. -/
structure Bucket where
  tokens : Option Nat := none
  due : Nat := 0
  supp : Nat := 0
deriving DecidableEq, Repr

/-- A recorder (Table 11-5): next sequence number, first and last area with the newest entry first, buckets by code
with the one of every code not listed, and the freeze with its holding queue (R291). -/
structure Recorder where
  nextSeq : Nat := 0
  first : List (Nat × Rec) := []
  last : List (Nat × Rec) := []
  buckets : Tbl Bucket := []
  rest : Bucket := {}
  frozen : Bool := false
  frzEnd : Nat := 0
  holdq : List (Nat × Rec) := []
  missed : Nat := 0
  dropped : Nat := 0
deriving DecidableEq, Repr

/-- A record on its way from a field's shard to the CC (R285). -/
structure Fwd where
  field : Nat
  seq : Nat
  rcd : Rec
deriving DecidableEq, Repr

/-- An error input (R272, R273): level, latch, edges, stuck, and the wafer times since which it is active or inactive
and at which it was last cleared. -/
structure Pin where
  level : Bool := false
  latched : Bool := false
  edges : Nat := 0
  stuck : Bool := false
  since : Nat := 0
  clearedAt : Nat := 0
deriving DecidableEq, Repr

/-- An armed injection (R277): checks left of the `n` it was armed for. -/
structure Inj where
  checker : Nat
  unit : Nat
  left : Nat
  part : Nat
  n : Nat
  newest : Bool := true
deriving DecidableEq, Repr

/-! ### Sequencers (chapter 10) -/

/-- A notification (Table 10-8). -/
structure Note where
  code : Nat
  unit : Nat
  params : Nat
  wt : Nat
deriving DecidableEq, Repr

/-- A program message (R253, R254). -/
structure Msg where
  src : Nat
  dst : Nat
  typ : Nat
  cls : Nat
  len : Nat
  inl : List Byte
  data : List Byte
deriving DecidableEq, Repr

/-- What a sequencer is doing: not started, executing, asleep in WAIT (destination, mask, wake-up time) or WAITS
(destination, semaphore, amount, wake-up time), blocked in a FENCE confirm (destination, unit, reason), or halted. -/
inductive SeqRun where
  | off
  | run
  | wait (rd mask : Nat) (deadline : Option Nat)
  | waits (rd sem n : Nat) (deadline : Option Nat)
  | fence (rd unit reason : Nat)
  | halted
deriving DecidableEq, Repr

/-- Sequencer state of R233: general registers g1 to g15 (g0 is never listed), pc, CSRs of Table 10-2, semaphores,
queues, timer, edge events, the instruction count of R260, the running program (0 reference, 1 bank A, 2 bank B)
and the local SRAM. -/
structure Seq where
  mode : SeqRun := .off
  g : Tbl W32 := []
  pc : W32 := 0
  trapVec : W32 := 0
  trapPc : W32 := 0
  trapCause : Nat := 0
  inTrap : Bool := false
  trapInfo : W32 := 0
  noteMask : W32 := 0xFFFF
  watch : Tbl W32 := []
  wdog : W32 := 0x100
  mbox : W32 := 0
  edges : Nat := 0
  sems : Tbl Nat := []
  notes : List Note := []
  rx : List Msg := []
  tx : List Msg := []
  timer : Option Nat := none
  icount : Nat := 0
  running : Nat := 0
  sram : Tbl Byte := []
  sigSeq : Nat := 0
deriving DecidableEq, Repr

/-- A remote semaphore add on its way (R249). -/
structure SemSig where
  src : Nat
  dst : Nat
  sem : Nat
  n : Nat
deriving DecidableEq, Repr

/-! ### Units, fences, clocks (chapters 1, 8, 17, 18) -/

/-- Working state of a field's FS hardware (R212): whether its BIST wave has ended, and what keeps it from working. -/
structure FsHw where
  waveDone : Bool := false
  bistFail : Bool := false
  routerDown : Bool := false
  imgFail : Bool := false
  failed : Bool := false
deriving DecidableEq, Repr

/-- A unit of the fence set (R194, R203, R207): unit ID, reason, log index (0x3FFF when held in the AON set only),
whether the host has acknowledged it, and whether FENCE_ACK_TIMEOUT was recorded for it. -/
structure FUnit where
  unit : Nat
  reason : Nat
  idx : Nat
  acked : Bool := false
  late : Bool := false
deriving DecidableEq, Repr

/-- A fence update (R207): unit, fence or unfence, reason, log index, and whether it belongs to a resend (R209). -/
structure FUpd where
  unit : Nat
  set : Bool
  reason : Nat
  idx : Nat
  resend : Bool := false
deriving DecidableEq, Repr

/-- The fence port (R207, R433): the update asserted, since when, and whether its deadline was recorded. -/
structure FPort where
  upd : FUpd
  since : Nat
  timedOut : Bool := false
deriving DecidableEq, Repr

/-- A confirmation on its way to the CC (R204): who sent it (FS f, 128 the CC sequencer, 129 the owner). -/
structure Confirm where
  src : Nat
  unit : Nat
  reason : Nat
deriving DecidableEq, Repr

/-- An answer of the CC on its way to a blocked FENCE (R204): sequencer, unit, status and log index. -/
structure FAnswer where
  dst : Nat
  unit : Nat
  status : Nat
  idx : Nat
deriving DecidableEq, Repr

/-- A latent table entry (R196, Table 8-13). -/
structure Latent where
  eng : Nat
  confirmed : Bool := false
  forced : Bool := false
  slot : Nat := 7
  replay : Nat := 0
  failures : Nat := 0
  cause : Nat := 0
  entered : Nat := 0
  window : Nat := 0
deriving DecidableEq, Repr

/-- Judgement state of a clock pair (R414): its last three ratios as exact fractions, the newest first, and its
reference once settled. -/
structure ClkPair where
  last : List (Nat × Nat) := []
  ref : Option (Nat × Nat) := none
deriving DecidableEq, Repr

/-- BKCLK (R419, R420): running, asleep under bk_sleep, starting cold since a WT, or stable and waiting for the next
judgement window. -/
inductive BkRun where
  | on
  | asleep
  | cold (since : Nat)
  | stable
deriving DecidableEq, Repr

/-- What a trained channel or port left in the archive (R429): unit (channel, or 1024 + port), valid. -/
structure TrainRec where
  unit : Nat
  data : List Byte
  valid : Bool := true
deriving DecidableEq, Repr

/-- A control-class packet dropped and not yet acknowledged (R36): source, sequence number, destination, the WT at which
it was last sent as far as the destination saw it, and how often its source has resent it. -/
structure Unacked where
  src : Nat
  sq : Nat
  dst : Nat
  sentAt : Nat
  resent : Nat := 0
deriving DecidableEq, Repr

/-- What a Trogirum packet brings a unit (Table 1-6): source, message type, class, inline payload and data flits. -/
structure TrogMsg where
  src : Nat
  typ : Nat
  cls : Nat
  inl : List Byte
  data : List Byte
deriving DecidableEq, Repr

/-- A block an MT delivers to the host: payload and sleeve. -/
structure MemOut where
  data : List Byte
  slv : Nat
deriving DecidableEq, Repr



/-! ### Counters and trace (chapter 16) -/

/-- A programmable counter (R390): its configuration, value and wrapped flag. -/
structure PCnt where
  cfg : Nat := 0x1F00
  value : Nat := 0
  wrapped : Bool := false
deriving DecidableEq, Repr

/-- A trace record (Table 16-4) before its layout: WT, type, engine field, payload. -/
structure TRec where
  wt : Nat
  typ : Nat
  eng : Nat
  pay : Nat
deriving DecidableEq, Repr

/-- A trace writer (R393): the block being filled, the WT of its first record, losses not yet marked. -/
structure TWriter where
  recs : List TRec := []
  firstWt : Nat := 0
  lost : Nat := 0
deriving DecidableEq, Repr

/-! ### Job kills (R70) -/

/-- A kill not yet acknowledged: core, context, whether it has one of the CT's eight places and whether it is on the
core's kill port; kills of a CT stand in the order of consumption. -/
structure Kill where
  core : Nat
  ctx : Nat
  place : Bool
  raised : Bool
deriving DecidableEq, Repr

/-! ### Tiles (chapters 3 to 5) -/

/-- Checksum state of a tile (R143, R147). -/
inductive Chk where
  | none
  | fold
  | unchecked
  | uncert (reason : Nat)
  | clean
  | failed
deriving DecidableEq, Repr

/-- Proof state of a tile (R147; Table 5-17 bits 43:41): not selected, outstanding, or settled. -/
inductive Prf where
  | none
  | out
  | clean
  | failed
  | unchecked
deriving DecidableEq, Repr

/-- An open tile (R100): its place among its CT's tiles, descriptor beats (`got` of them), what it took at D0 (R104,
R113, R106), check states, counted beats (R97), fold accumulators as FP32 bits (R138), mirrored ordinals (R119), and
its life after retire (R145, R149), and whether it retired out of reach of its FS (R44). -/
structure Tile where
  sq : Nat
  d0 : Nat
  d1 : Nat := 0
  d2 : Nat := 0
  d3 : Nat := 0
  got : Nat := 1
  slot : Bool
  strip : Bool := false
  mode : Nat
  key : Nat
  rate : Nat
  forced : Bool
  cnt : Nat
  room : Bool
  breach : Bool := false
  unprov : Bool := false
  admitted : Bool := false
  chk : Chk := .none
  prf : Prf := .none
  prfLed : Bool := false
  nS : Nat := 0
  nQ : Nat := 0
  nR : Nat := 0
  bad : Bool := false
  fP : Nat := 0
  fS : Nat := 0
  fQ : Nat := 0
  fR : Nat := 0
  fH : Nat := 0
  fE : Nat := 0
  nF : Nat := 0
  ratio : Nat := 0
  guard : Bool := false
  inj : Bool := false
  seen : List Nat := []
  mirror : Bool := false
  retired : Bool := false
  retWt : Nat := 0
  due : Nat := 0
  waitEnd : Nat := 0
  dlDone : Bool := false
  first : Option Nat := none
  final : Option Nat := none
  cut : Bool := false
deriving DecidableEq, Repr

/-- A beat in a signature FIFO: the tile's place, kind and data. -/
structure FBeat where
  sq : Nat
  kind : Nat
  data : Nat
deriving DecidableEq, Repr

/-- A stamp that fell due (R146): due cycle, final, tile's place, tag, verdict. -/
structure Stamp where
  due : Nat
  fin : Bool
  sq : Nat
  tag : Nat
  verdict : Nat
deriving DecidableEq, Repr

/-! ### Proof (chapter 4) -/

/-- A block of a canonical stream: kind (Table 4-3), ordinal, payload. -/
structure PBlk where
  kind : Nat
  ord : Nat
  data : List Byte
deriving DecidableEq, Repr

/-- What names a tile between a CT and its FS: engine ID and the tile's place. -/
structure TRef where
  eng : Nat
  sq : Nat
deriving DecidableEq, Repr

/-- A mirrored block in a CT's mirror buffer, on its way to the FS (R119). -/
structure MBlk where
  ref : TRef
  blk : PBlk
deriving DecidableEq, Repr

/-- A reservation (R120): descriptor words, mirror size in blocks, and the WT of retire once the tile has retired. -/
structure Rsv where
  ref : TRef
  d0 : Nat
  d1 : Nat
  d2 : Nat
  d3 : Nat
  size : Nat
  retWt : Option Nat := none
deriving DecidableEq, Repr

/-- A tile entry of the FS store (R120): the reservation, whether accepted, the blocks held, the order in which its
operands became complete (R125), whether the array runs it, whether the injected inversion applies. -/
structure PEnt where
  rsv : Rsv
  part : Nat
  sealed : Bool
  blocks : List PBlk := []
  ready : Option Nat := none
  started : Bool := false
deriving DecidableEq, Repr

/-- A reply, or a verdict, on its way to a CT (R120, R129): for a reply `code` is 1 accepted, 0 refused; for a verdict
its coding of Table 2-1, with whether the ledger was updated at once (Table 4-9); for an abandonment 1 when an engine
or partition reset caused it (Table 4-13). -/
structure PMsg where
  ref : TRef
  code : Nat
  led : Bool := false
deriving DecidableEq, Repr

/-- A negative (R131, R219): the descriptor, engine, WT of retire, blocks (operands, scales and the engine's result),
the array's result as elements, differing elements and the first 16 indices, its summary entry, its slot while the
payload is pinned and the one it was released from, its partition and whether it is sealed, its size in blocks, source (0 proof, 1 strip, 2 suspect replay, 3 bracketed
strip), digest, temperature and core supply, bracketing kind and step, pack version, and for a strip the partner's result (R164). -/
structure Neg where
  d0 : Nat
  d1 : Nat
  d2 : Nat
  d3 : Nat
  eng : Nat
  wt : Nat
  blocks : List PBlk
  array : List Nat
  diffs : Nat
  idx : List Nat
  part : Nat
  sealed : Bool
  size : Nat
  source : Nat
  entry : Nat := 0
  slot : Option Nat := none
  was : Option Nat := none
  digest : Nat := 0
  temp : Nat := 0x80
  vdd : Nat := 0
  brk : Option (Nat × Nat) := none
  pack : Nat := 0
  other : List PBlk := []
deriving DecidableEq, Repr

/-! ### Ledger and strips (chapter 6) -/

/-- A coverage-ledger entry (Table 6-7), without the core's state. -/
structure Led where
  lastWt : Nat := 0
  retired : Nat := 0
  proved : Nat := 0
  checked : Nat := 0
  unchecked : Nat := 0
  epochProved : Nat := 0
  epochActive : Bool := false
  overdue : Bool := false
  epochOverdue : Bool := false
  fails : Nat := 0
deriving DecidableEq, Repr

/-- An update of a ledger entry that a CT sends (R171): engine, and what it adds. -/
structure LedUpd where
  eng : Nat
  retired : Nat := 0
  proved : Nat := 0
  checked : Nat := 0
  unchecked : Nat := 0
  epochProved : Nat := 0
deriving DecidableEq, Repr

/-- An outbound packet in a hold queue (R344): a record, a ledger update, a reservation, an abandonment. -/
inductive Held where
  | rcd (r : Rec)
  | led (u : LedUpd)
  | rsv (r : Rsv)
  | abn (m : PMsg)
deriving DecidableEq, Repr

/-- A core's strip request (Table 6-4) and yield handshake (R442): state as Table 6-7 codes it, request level with its
kind, force flag and recipe, grant level, a request that waits for the grant to fall, timers, cause of unshielded, the strip it
runs, the suspect engine it is replayed for, the suspect core it witnesses, a replay or hold to request once the core is
idle, its place in the order of grants (R161), the bank of a requested pack recipe plus one (R228), and the shadow-loss window of R168. -/
structure Core where
  st : Nat := 0
  req : Bool := false
  kind : Nat := 0
  force : Bool := false
  recipe : Nat := 0
  granted : Bool := false
  again : Bool := false
  shadow : Bool := false
  graceEnd : Option Nat := none
  forceEnd : Option Nat := none
  pairEnd : Option Nat := none
  cause : Nat := 0
  strip : Option Nat := none
  suspect : Option Nat := none
  witness : Option Nat := none
  next : Option Nat := none
  holdNext : Bool := false
  ord : Nat := 0
  bank : Nat := 0
  win : List (Nat × Bool) := []
deriving DecidableEq, Repr

/-- A recipe item: D1 without IDs, D3, and for kinds 0 to 3 the stored blocks (first, count) or none (Table 9-4). -/
structure PItem where
  d1 : Nat
  d3 : Nat
  src : List (Option (Nat × Nat)) := [none, none, none, none]
deriving DecidableEq, Repr

/-- A running strip (R153 to R164): FS, number, key, recipe, its cores (one, a pair, or the held cores of a step),
WT of state running, items with the bank their blocks come from or the negative's blocks, result blocks that have
arrived, whether it is a bracketing step (R187), a nominal rerun (R188) or a start-up strip (R405), the bank its blocks come from, and the
engines it is limited to, none for all. -/
structure Strip where
  num : Nat
  key : Nat
  recipe : Nat
  cores : List Nat
  runAt : Nat
  items : List PItem
  nblk : List PBlk := []
  outs : List StripOut := []
  step : Bool := false
  rerun : Bool := false
  startup : Bool := false
  bank : Option Nat := none
  only : List Nat := []
deriving DecidableEq, Repr

/-- Step marks and losses of a partition at the CC (R173 to R177): the last accepted step, the WTs of the last marks
(newest first), marks in the epoch, the loss statistics μ and δ as FP32 bits, and the W of the running epoch. -/
structure StepSt where
  last : Option Nat := none
  hist : List Nat := []
  count : Nat := 0
  mu : Nat := 0
  delta : Nat := 0
  w : Option Nat := none
deriving DecidableEq, Repr

/-- Four 64-bit words of a table entry (shard and hosting tables, Tables 13-1 and 13-2). -/
structure Words4 where
  w0 : Nat := 0
  w1 : Nat := 0
  w2 : Nat := 0
  w3 : Nat := 0
deriving DecidableEq, Repr

/-- A progress watchdog (R298): the WT from which it counts, moved on by pauses; since when it stands still; whether
it has raised HANG; and the WT of its last restart (R325). -/
structure Wdog where
  base : Nat := 0
  at_ : Nat := 0
  paused : Option Nat := none
  fired : Bool := false
deriving DecidableEq, Repr


/-! ### Bracketing (chapter 7) -/

/-- A bracketing session (R180, R186): kind, target cluster, limits, recipe, heating target; its phase as FS_BRK_STAT
codes it; tokens asked for and held; steps; whether stress is applied and which request waits for accept or settled;
timers; failing engines; the highest temperature; whether the rerun replays a negative and failed; whether the heated
step strip is due; the engines that failed in the strip that has settled and awaits the session; and the slot of
the first negative it captured with a payload (R188), and the bank of its pack recipe plus one (R228). -/
structure Session where
  kind : Nat
  cluster : Nat
  smax : Nat
  recipe : Nat
  tTarget : Nat
  phase : Nat
  want : Nat := 0
  tokens : Nat := 0
  step : Nat := 1
  applied : Nat := 0
  lastPass : Nat := 0
  firstFail : Nat := 0
  settling : Bool := false
  tokEnd : Nat := 0
  holdEnd : Nat := 0
  setEnd : Nat := 0
  heatEnd : Nat := 0
  coolEnd : Nat := 0
  fails : List Nat := []
  peak : Nat := 0x80
  fromNeg : Bool := false
  hard : Bool := false
  hot : Bool := false
  done : Option (List Nat) := none
  neg : Option Nat := none
  bank : Nat := 0
deriving DecidableEq, Repr

/-- A request on, or waiting for, the power-management port (R446): field, kind, cluster, step, and the answer limit
once it is on the port. -/
structure PmReq where
  field : Nat
  kind : Nat
  cluster : Nat
  step : Nat
  limit : Option Nat := none
deriving DecidableEq, Repr

/-- A token request at the CC, or tokens on their way back (R190, R191). -/
structure TokReq where
  field : Nat
  n : Nat
deriving DecidableEq, Repr

/-! ### Fleet exchange (chapter 9) -/

/-- A Listapor export (R221 to R223): field, whether the index names a summary, index, payload asked for and given, the
negative as it was when the command came, and the record once it is built. -/
structure Lsp where
  field : Nat
  summary : Bool
  index : Nat
  payload : Bool
  neg : Neg
  data : Option (List Byte) := none
  ended : Bool := false
deriving DecidableEq, Repr

/-- The pack switch in progress (R228): fields that have not answered, oldest first, and whether it is a revert. -/
structure PSwitch where
  left : List Nat
  revert : Bool
deriving DecidableEq, Repr


/-! ### Resets and suspects (chapter 12) -/

/-- A context or engine reset in progress (R300 to R304): scope, engine, context, the WT from which its timer counts
(moved on by pauses), since when it pauses, whether RESET_TIMEOUT was raised, and whether the core's port carries it. -/
structure RStep where
  scope : Nat
  eng : Nat
  ctx : Nat
  base : Nat
  paused : Option Nat := none
  fired : Bool := false
  onPort : Bool := false
deriving DecidableEq, Repr

/-- Why a partition is isolated: a reset of scope 2 or 3, its budget's outage (R316), a return to service (R319), or
a scrub (R382). -/
inductive PKind where
  | reset
  | wafer
  | outage
  | back
  | scrub
deriving DecidableEq, Repr

/-- A partition on its way through Table 12-2: why, T_iso, whether isolation has taken hold, the timer's base with its pause, the
WT of the acknowledgement, whether RESET_TIMEOUT was raised in each phase, channels still to retrain, whether one trained in
full, whether the releasing phase has begun, the fields whose release
levels rise at its end, the latent engines whose replay is requested again then (Table 8-9), and whether a narrower step
that it took over had isolated the partition (R312). -/
structure PReset where
  kind : PKind
  tIso : Nat
  iso : Bool := false
  base : Nat
  paused : Option Nat := none
  ackAt : Option Nat := none
  fired0 : Bool := false
  fired1 : Bool := false
  left : List Nat := []
  full : Bool := false
  releasing : Bool := false
  rel : List Nat := []
  replays : List Nat := []
  shut : Bool := false
deriving DecidableEq, Repr

/-- A scope-3 step (R314): its start, whether it timed out, the link ports still to train, and its partitions. -/
structure WStep where
  base : Nat
  fired : Bool := false
  ports : List Nat
  parts : List Nat
deriving DecidableEq, Repr

/-- An inbound local request an LT has delivered and whose reply has not passed (R312): field, sideband, tag. -/
structure LtReq where
  field : Nat
  sb : Nat
  tag : Nat
deriving DecidableEq, Repr

/-- A suspect list (R320): context IDs in order of entry, overflow, frozen. -/
structure Susp where
  ids : List Nat := []
  ovf : Bool := false
  frozen : Bool := false
deriving DecidableEq, Repr

/-- A context replay (R321): suspect engine, context, quarantine core, whether it runs, the end of its wait or of its
limit, the unchecked tiles of the core when it began, and whether a detection event named one of the core's engines. -/
structure CRep where
  eng : Nat
  ctx : Nat
  core : Nat
  running : Bool := false
  limit : Nat
  unch : Nat := 0
  hit : Bool := false
deriving DecidableEq, Repr


/-! ### Shadow copies (chapter 13) -/

/-- A stream of a save or a restore (Tables 13-1 and 13-4): base, bytes 24–25, δ as stored (16-bit two's complement),
and whether a restore realigned it. -/
structure Strm where
  b : Nat
  rf : Nat
  delta : Nat
  realigned : Bool := false
deriving DecidableEq, Repr

/-- A shard of an open save (R334): index, its entry at capture, partners that have not answered the open message,
partners that accepted, matched and acknowledged, and its root. -/
structure SavShard where
  idx : Nat
  ent : Words4
  wait : List Nat
  acc : List Nat := []
  mat : List Nat := []
  ack : List Nat := []
  root : Nat := 0
deriving DecidableEq, Repr

/-- An open save (R330, R334): buffer, step, D, WT and generation at the fence, whether the partition is sealed, H, its
streams and shards, the manifest once built, and the end of the acknowledgement wait with its pause. -/
structure Save where
  buf : Nat
  step : Nat
  d : Nat
  wt : Nat
  gen : Nat
  sealed : Bool
  key : Nat
  streams : List Strm
  shards : List SavShard
  man : List Byte := []
  ackEnd : Nat := 0
  paused : Option Nat := none
deriving DecidableEq, Repr

/-- An open restore (R338): buffer to write, source as commanded, realign flag. -/
structure Restore where
  buf : Nat
  src : Nat
  realign : Bool
deriving DecidableEq, Repr

/-- A save being received in a hosting entry (R334): receiving slot, blocks per channel, H, step, block digests as
(k, j, digest), and whether the shard root matched. -/
structure HSess where
  slot : Nat
  len : Nat
  key : Nat
  step : Nat
  digs : List (Nat × Nat × Nat) := []
  matched : Bool := false
deriving DecidableEq, Repr


/-! ### Stop and barriers (chapter 14) -/

/-- The stop announced or in force (R343 to R352): ID, T_stop, joined, freeze asked for, late, sampled, gated,
unaligned, STOP_DONE recorded, resumed by itself, and T_run once fixed. -/
structure Stop where
  id : Nat
  tStop : Nat
  joined : Bool
  freeze : Bool
  late : Bool
  sampled : Bool := false
  gated : Bool := false
  unaligned : Bool := false
  done : Bool := false
  auto : Bool := false
  tRun : Option Nat := none
deriving DecidableEq, Repr

/-- A packet in a capture ring: ns from T_stop and the packet (R350). -/
structure RingPkt where
  ns : Nat
  pkt : LtPkt
deriving DecidableEq, Repr

/-- A contact sheet (R353): whole wafer or a partition, content, destination, automatic release, and whether a
partition was desealed for it. -/
structure Sheet where
  all : Bool
  part : Nat
  content : Nat
  dest : Nat
  auto : Bool
  desealed : Bool
deriving DecidableEq, Repr

/-- A barrier participant (Table 14-4): pending count and round count. -/
structure BarPart where
  k : Nat := 0
  round : Nat := 0
deriving DecidableEq, Repr

/-- A channel's release timer, the same at every CT (R358): phase (0 none, 1 holding high, 2 contributing 0) and the WT
of the last release. -/
structure BarCh where
  phase : Nat := 0
  at_ : Nat := 0
deriving DecidableEq, Repr


/-! ### Sealing (chapter 15) -/

/-- A deseal in progress (R380): cause, the master whose debug enable waits, whether sclr_req is asserted, and the
deadline of the acknowledgement. -/
structure Deseal where
  cause : Nat
  debug : Option Nat := none
  asked : Bool := false
  due : Nat := 0
  late : Bool := false
deriving DecidableEq, Repr

/-- A scrub (R382): whether the partition waits for its deseal, the scrub key, the channels whose pass is not yet
complete, and whether a partition reset stopped it. -/
structure Scrub where
  key : Nat := 0
  left : List Nat := []
  stopped : Bool := false
deriving DecidableEq, Repr

/-- A kept nonce (R373): nonce, WT of the response, the epochs it reported. -/
structure Nonce where
  nonce : Nat
  wt : Nat
  epochs : List Nat
deriving DecidableEq, Repr


/-! ### Start-up and ownership (chapters 17 and 19) -/

/-- The start-up strips of one field (R405): the engines of the second strip, whether the array was outvoted once, and
whether the field is done. -/
structure BootStrip where
  second : List Nat := []
  outvoted : Bool := false
  done : Bool := false
deriving DecidableEq, Repr

/-- The start-up controller (R399 to R408): WT at the end of each step; the boot log, oldest first; fields of the BIST wave
under way, and the first field after it; WT at which the present step began; start-up strips by field; units that failed
start-up testing, in order; image attempts by field; fields whose copy is not yet verified; channels (m) and ports
(1024 + l) that have not reported; archive words that read uncorrectable at step 2. -/
structure Boot where
  ends : Tbl Nat := []
  log : List Rec := []
  wave : List Nat := []
  next : Nat := 0
  began : Nat := 0
  strips : Tbl BootStrip := []
  failed : List Nat := []
  tries : Tbl Nat := []
  wait : List Nat := []
  left : List Nat := []
  bad : List Nat := []
deriving DecidableEq, Repr

/-- A request of the host register port (Table 19-4): write, offset, data, the tenant's partition, WT at which it was
taken. -/
structure HReq where
  write : Bool
  addr : Nat
  data : Nat
  part : Option Nat
  at_ : Nat
deriving DecidableEq, Repr

/-- What a register access answers (Table 19-4): status and read data. -/
structure HResp where
  status : Nat
  data : Nat := 0
deriving DecidableEq, Repr

/-! ### The machine -/

/-- Why a step stops. -/
inductive Fault where
  /-- Raised by every command that names a unit the build does not hold (R7). Safe: the model stops where no
  hardware of the build exists. -/
  | noSuchUnit
deriving DecidableEq, Repr

/-- Why a command is turned away. -/
inductive Refusal where
  /-- Raised by the arms of Dispatch whose command has no meaning yet. Safe: the model stops. -/
  | notModelled (mnemonic : String)
deriving DecidableEq, Repr
set_option maxRecDepth 8192 in
/-- The block's time, registers, recorders, sequencers, archive, pins, fences, clocks and training. -/
structure StateBase where
  /-- Commands waiting, first in, first out. -/
  pending : List Instr := []
  /-- MODEL: how many free values have been drawn; no statement rests on it (log entry 3). -/
  freeCtr : Nat := 0
  /-- MODEL: how many entropy draws have been made (log entry 3). -/
  entCtr : Nat := 0
  /-- Wafer time in ns (R424). -/
  wt : Nat := 0
  /-- Register file of the block window (chapter 21); an unlisted key reads the register's reset value. -/
  regs : Tbl W64 := []
  /-- Host cycle count of each CT (R425), by CT instance. -/
  cyc : Tbl Nat := []
  /-- Cluster temperatures last presented on ts_val (R440), 8-bit two's complement; 0x80 is no reading. -/
  ctTemp : Tbl Nat := []
  /-- Recorders: FS f at f, the active CC's master copy at 128, the standby's at 129 (R284, R288). -/
  recs : Tbl Recorder := []
  /-- Records forwarded and not yet at the CC (R285). -/
  fwdQ : List Fwd := []
  /-- Next sequence number the CC expects from each field (R285). -/
  fwdNext : Tbl Nat := []
  /-- Pins of field f, index i at 256 f + i (Table 11-1); CC source i at 256 · 128 + i. -/
  pins : Tbl Pin := []
  /-- Host error inputs: input i of CT k at 8 k + i (R271). -/
  errIn : Tbl Pin := []
  /-- Armed injections (R277). -/
  injs : List Inj := []
  /-- Sequencers: FS f at f, the active CC's at 128, the standby's checkpointed copy at 129 (R233, R263). -/
  seqs : Tbl Seq := []
  /-- Remote semaphore adds on their way (R249). -/
  semQ : List SemSig := []
  /-- Archive words (R426); an unlisted word reads zero. -/
  arch : Tbl W64 := []
  /-- Wear counters of the archive words (R426). -/
  wear : Tbl Nat := []
  /-- FS hardware by field (R212). -/
  fsHw : Tbl FsHw := []
  /-- Units whose self-test failed (R402), and their BIST results as CC_BIST_DATA0 and DATA1 give them. -/
  bist : Tbl (W64 × W64) := []
  /-- Units the fuse map marks bad (R210); fuses, log entry 4. -/
  fuseBad : List Nat := []
  /-- The AON fence set in the order in which it was stored (R203, R207). -/
  fset : List FUnit := []
  /-- Fence updates stored and not yet driven (R207). -/
  fenceQ : List FUpd := []
  /-- The fence port (R207). -/
  fencePort : Option FPort := none
  /-- Confirmations on their way to the CC (R204). -/
  confQ : List Confirm := []
  /-- Answers to FENCE confirms on their way (R204). -/
  ansQ : List FAnswer := []
  /-- Latent tables: FS f, slot n at 64 f + n (R196). -/
  latent : Tbl Latent := []
  /-- The WT and engine of the last 64 clears of each FS, newest first (R200). -/
  clears : Tbl (List (Nat × Nat)) := []
  /-- Judgement of the pairs REFCLK/AONCLK, BKCLK/AONCLK, BKCLK/REFCLK at 0, 1, 2 (R414). -/
  clkPairs : Tbl ClkPair := []
  /-- BKCLK's start under bk_sleep (R419, R420). -/
  bkRun : BkRun := .on
  /-- References whose PLL is locked and ready (R417): REFCLK, BKCLK. -/
  pllRef : Bool := false
  pllBk : Bool := false
  /-- WT at which TAPCLK last stopped (AON_ONLY's duration), and ns spent in AON-only operation before it. -/
  aonSince : Nat := 0
  aonNs : Nat := 0
  /-- The spread setting in use: the register value taken at the last modulation period (R421). -/
  sscNow : Nat := 0
  /-- Training records of the archive area 0x1_2000, in the order of appending (R429). -/
  trainRecs : List TrainRec := []
  /-- Output fences: darkslide levels (closed unless listed open), field and channel (R306, Table 19-13). -/
  dsFieldOpen : List Nat := []
  dsChanOpen : List Nat := []
  /-- rel outputs are CC_FIELD_REL0/1; out_of_service is CC_SERVICE.oos; check_degraded below (R417, R215). -/
  checkDegraded : Bool := true
  pwrCycleReq : Bool := false
  /-- Entries of the fence list in use (R202); archive metadata, kept across power-up. -/
  flogUsed : Nat := 0
  /-- Outage log (R317): entries of the archive area 0x1_0800, oldest first, as 64-bit words. -/
  outLog : List W64 := []
  /-- Memory repair map of the archive (R401): repaired memory locations as (unit, memory, address). -/
  repairs : List (Nat × Nat × Nat) := []
  /-- Slots of the archive's saved area that hold a record of the last save, oldest record first (R287); what they hold
  stands in the archive words. -/
  savedSlots : List Nat := []
  /-- WT of the last heartbeat (R19), and the trigger of a swap in progress (R22). -/
  hbAt : Nat := 0
  swapping : Option Nat := none
  /-- Both CCs have failed (R22, R215). -/
  ccLost : Bool := false
  /-- Trogirum: packets dropped (R36, Table 1-7), last control sequence number accepted from each source (R249),
  control packets waiting to be resent (R36). -/
  trogDrops : Nat := 0
  trogSeen : Tbl Nat := []
  trogUnacked : List Unacked := []
  /-- The Trogirum packet each unit took last, by unit ID (R34, R38). -/
  trogIn : Tbl TrogMsg := []
  /-- FS sequencers at the wafer-wide rendezvous point (Table 1-8 tree 32); no rule names one (log entry 98). -/
  rendezvous : List Nat := []
  /-- Replays failed in a row at each field's router (R35). -/
  replayFails : Tbl Nat := []
  /-- Proof arrays waking: the WT at which the array of field f is ready (R43). -/
  arrWake : Tbl Nat := []
  /-- WT at which the array of field f ended its last job (R43). -/
  arrIdle : Tbl Nat := []
  /-- The block each MT delivered last, and the packet each LT last sent out and last delivered inward. -/
  mtOut : Tbl MemOut := []
  ltOut : Tbl LtPkt := []
  ltIn : Tbl LtPkt := []
  /-- The tag of the error completion each LT gave last (R313). -/
  ltErr : Tbl Nat := []
  /-- Blocks delivered before their sleeve line (R66): the sleeve delivered, plus one; and before their tag line (R379): the
  tag the block should have, plus one; by block. -/
  slvLate : Tbl Nat := []
  sealLate : Tbl Nat := []
deriving DecidableEq, Repr

set_option maxRecDepth 8192 in
/-- What the fields count and hold: trace, tiles, proofs, strips, sleeves, brackets, pack banks. -/
structure StateData where
  /-- Safelight counters of CT k, index i, at 16 k + i (R387); increments not yet sent to the FS, at the same key;
  increments an FS holds, at 16 f + i; the CC's sums of partition p at 16 p + i and of the wafer at 16 · 64 + i (R389). -/
  safe : Tbl Nat := []
  safeCt : Tbl Nat := []
  safeFs : Tbl Nat := []
  safeSum : Tbl Nat := []
  /-- Sleeve errors not yet reported by MT m at m and by LT l at 1024 + l (R389), and the WT of each FS's last report. -/
  safeTap : Tbl Nat := []
  safeAt : Tbl Nat := []
  /-- Programmable counter i of CT k at 32 k + i (R390). -/
  pcnt : Tbl PCnt := []
  /-- Trace queues of the CTs and their unmarked losses (R395), trace writers by partition (R393), and the bytes of
  the last block each writer wrote. -/
  traceQ : Tbl (List TRec) := []
  traceLoss : Tbl Nat := []
  traceW : Tbl TWriter := []
  traceOut : Tbl (List Byte) := []
  /-- Kills of each CT (R70), and the sleeve outputs of each core's ingress and egress (Table 19-7). -/
  kills : Tbl (List Kill) := []
  ingOut : Tbl Nat := []
  egrOut : Tbl Nat := []
  /-- Host levels: eng_rst (asserted unless listed false, Table 19-6) and the context signals (R297): 2^16 for active
  plus the ID. -/
  engRst : Tbl Bool := []
  ctxSig : Tbl Nat := []
  /-- Per-partition settings as the CTs of field f hold them (R115): rate, mode, period, watchdog interval at
  4 f to 4 f + 3, each plus one; unlisted reads the register of the field's partition. -/
  ctSet : Tbl Nat := []
  /-- Selection keys (R114) and descriptors of each engine since its key (R113). -/
  selKey : Tbl Nat := []
  descCnt : Tbl Nat := []
  /-- Open tiles by engine, oldest first; tile places given by each CT; DESC beats still to discard (R98); signature
  FIFOs by engine; the engine the drain served last, plus one, by CT (R138). -/
  tiles : Tbl (List Tile) := []
  tileSq : Tbl Nat := []
  skip : Tbl Nat := []
  fifo : Tbl (List FBeat) := []
  foldRr : Tbl Nat := []
  /-- Stamps due by engine (R146), the cycle of the engine's last stamp plus one, and that stamp. -/
  stampQ : Tbl (List Stamp) := []
  stampCyc : Tbl Nat := []
  stampOut : Tbl (List Stamp) := []
  /-- Mirror buffers by CT (R119); reservations, abandonments, replies and verdicts on their way, by field; FS store
  entries in order of reservation; blocks held ahead of a reservation; completions counted (R125). -/
  mirBuf : Tbl (List MBlk) := []
  rsvQ : Tbl (List Rsv) := []
  abnQ : Tbl (List PMsg) := []
  rplQ : Tbl (List PMsg) := []
  vrdQ : Tbl (List PMsg) := []
  store : Tbl (List PEnt) := []
  early : Tbl (List MBlk) := []
  rdySeq : Tbl Nat := []
  /-- Negatives of each FS, oldest first (R131, R132), and slots whose release waits for the export (R133). -/
  negs : Tbl (List Neg) := []
  negWait : Tbl Nat := []
  /-- Array cycles of strip work left, and the WT at which the segment in progress ends (R125). -/
  segLeft : Tbl Nat := []
  segEnd : Tbl Nat := []
  /-- In-service array self-test: requested, and its end when running (R404). -/
  selfReq : Tbl Bool := []
  selfEnd : Tbl Nat := []
  /-- Coverage ledger by engine (R171); strip state by core (Table 6-4); strips by field and their numbers (R154). -/
  ledger : Tbl Led := []
  cores : Tbl Core := []
  strips : Tbl (List Strip) := []
  stripNo : Tbl Nat := []
  /-- Grants counted by field (R161), and strip result blocks that a core has presented at egress and that have not reached
  the FS (R159), by core. -/
  grantNo : Tbl Nat := []
  stripOut : Tbl (List StripOut) := []
  /-- Step marks and losses by partition (R173 to R177). -/
  steps : Tbl StepSt := []
  /-- Shard table and hosting table of the CC (R326, R327). -/
  shards : Tbl Words4 := []
  hosts : Tbl Words4 := []
  /-- Sleeve-region entries (R60, R63): the entry of block b of channel m at 2^29 m + b; unlisted reads zero (log
  entry 9). Cached lines of each channel, newest first (R66), lines whose last read was uncorrectable (R67), and the
  line each channel gathers, plus one (R65). -/
  slv : Tbl Nat := []
  slvCache : Tbl (List Nat) := []
  slvBad : Tbl Bool := []
  slvGather : Tbl Nat := []
  /-- Progress watchdogs by engine (R298). -/
  wdogs : Tbl Wdog := []
  /-- Bracketing: the session of each FS (R180), the power-management port's requests with the one on the port first,
  the fields whose accepted request waits for settled, stress_en (fields, R185), token requests at the CC in arrival
  order, and tokens on their way back (R190, R191). -/
  sessions : Tbl Session := []
  pmQ : List PmReq := []
  pmSettle : List Nat := []
  stressEn : List Nat := []
  tokQ : List TokReq := []
  tokRet : List TokReq := []
  /-- Maintenance windows (R181): the WT at which an opening window lapses, by field. -/
  maintEnd : Tbl Nat := []
  /-- The WT by which a requested field hold must be complete (R181). -/
  maintHold : Tbl Nat := []
  /-- The Listapor export (R221). -/
  lsp : Option Lsp := none
  /-- Pack store (R226): banks 0 and 1, empty when invalid; the active bank; writes of each bank; the pack being
  received with its declared length (R227); the switch in progress; and the bank of each FS's recipe table, plus one. -/
  bank0 : List Byte := []
  bank1 : List Byte := []
  bankAct : Nat := 0
  bankWear : Tbl Nat := []
  packRecv : Option (Nat × List Byte) := none
  packSw : Option PSwitch := none
  fsPack : Tbl Nat := []
deriving DecidableEq, Repr

set_option maxRecDepth 8192 in
/-- Images, resets, checkpoints, the stop, barriers, keys, SPDM, start-up and management. -/
structure StateSys where
  /-- Image store (R266): banks A and B of target t at 2 t and 2 t + 1, empty when invalid, their write counts, the image being
  received with its declared length and the bank it goes to, commands that wait for TAPCLK, and the bank of an FS apply that waits for a release
  (Table 12-5). -/
  imgBank : Tbl (List Byte) := []
  imgWear : Tbl Nat := []
  imgRecv : Option (Nat × List Byte) := none
  imgAt : Nat := 0
  imgPend : List Nat := []
  imgHold : Tbl Nat := []
  /-- Context and engine resets in order of start, partitions in a reset, outage, return or scrub, the scope-3 step, and
  the WTs of the partition resets started (R316), newest first. -/
  rsteps : List RStep := []
  presets : Tbl PReset := []
  wstep : Option WStep := none
  partHist : Tbl (List Nat) := []
  /-- Compute resets asserted (prt_req), those with the scrub flag (Table 19-2). -/
  prtReq : List Nat := []
  prtScrub : List Nat := []
  /-- Suspect lists by engine (R320) and the context replay of each FS (R321). -/
  susp : Tbl Susp := []
  crep : Tbl CRep := []
  /-- LT request tables (R312), untracked requests of port l and partition p at 64 l + p since the last reset of p,
  and trained ports (R349, R369). -/
  ltReq : Tbl (List LtReq) := []
  ltUntr : Tbl Nat := []
  ltUp : Tbl Bool := []
  /-- Open saves and restores by partition (R334, R339), the manifest each partition keeps (R334, R340), streams of its last
  restore (R340), and the stream table that restore wrote. -/
  saves : Tbl Save := []
  restores : Tbl Restore := []
  ckptMan : Tbl (List Byte) := []
  skews : Tbl (List Strm) := []
  ckptTab : Tbl (List Byte) := []
  /-- Saves being received, by hosting entry, and the last answer sent for each entry (accept or refuse, match or
  mismatch, acknowledge). -/
  hosting : Tbl HSess := []
  hostAns : Tbl Bool := []
  /-- Blocks per channel of the copy each hosting entry holds (R334, R338). -/
  copyLen : Tbl Nat := []
  /-- The stop (R343), the stop-bath and freeze wires, this wafer's stop count, and the last 16 stop IDs received. -/
  stop : Option Stop := none
  stopWire : Bool := false
  freezeWire : Bool := false
  stopCount : Nat := 0
  joinIds : List Nat := []
  /-- Quiet MTs at m and LTs at 1024 + l (R344); records held in the hold queue of CT k. -/
  quiet : Tbl Bool := []
  heldQ : Tbl (List Held) := []
  /-- Ledger updates merged while a full hold queue waits, by engine (R344). -/
  ledWait : Tbl LedUpd := []
  /-- MT snapshots (R348) and LT capture rings (R350). -/
  mtSnap : Tbl (List MtTx) := []
  ltRing : Tbl (List RingPkt) := []
  /-- The contact sheet being captured, and the header last written (R353, R355). -/
  sheet : Option Sheet := none
  sheetHead : List Byte := []
  /-- Barrier participants: engine e on channel c at 32 e + c; release timers and sense bits by channel; releases that wait
  for a gated cluster, channel c at CT k at 32 k + c (R358). -/
  bars : Tbl BarPart := []
  barCh : Tbl BarCh := []
  barSense : Tbl Bool := []
  barWait : Tbl Bool := []
  /-- Pulses on the bar_err output of each engine so far (R356, Table 14-4). -/
  barErr : Tbl Nat := []
  /-- Key slots by partition, each key plus one (R362), sealed regions whose SEAL_NO_KEY was recorded at 8 m + i (R378),
  and ports whose SEAL_LINK_BLOCKED was recorded in the present sealing of p at 64 l + p (R369). -/
  keySlots : Tbl Nat := []
  noKey : Tbl Bool := []
  linkBlk : Tbl Bool := []
  /-- Deseals and scrubs by partition (R380, R382). -/
  deseals : Tbl Deseal := []
  scrubs : Tbl Scrub := []
  scrubWt : Tbl Nat := []
  /-- The lifecycle transition that waits for deseals (R366): target and master. -/
  lifeNext : Option (Nat × Nat) := none
  /-- The key blob being received (R377): partition and bytes. -/
  keyRecv : Option (Nat × List Byte) := none
  /-- Channels whose sleeve region holds a scrub's random pass: the scrub key plus one (R382). -/
  slvRand : Tbl Nat := []
  /-- Tag lines cached by each MT, newest first (R379): tag-area line numbers. -/
  tagCache : Tbl (List Nat) := []
  /-- The 16 newest nonces, newest first, and the partition entries and indices 1 to 9 whose change moves an epoch
  (R373), as they were last compared. -/
  nonces : List Nonce := []
  epochSeen : List (List Nat) := []
  /-- SPDM: the connection (0 none, 1 version, 2 capabilities, 3 algorithms; 4 must resynchronise), its version, and
  the last response (R370). -/
  spdm : Nat := 0
  spdmVer : Nat := 0
  spdmOut : List Byte := []
  /-- The start-up controller (R399 to R408). -/
  boot : Boot := {}
  /-- WT of the owner's last access (R410), and of the naming of the pending handover's target (R411). -/
  ownAt : Nat := 0
  hoAt : Nat := 0
  /-- Register requests taken and not yet answered (R437, R453), oldest first, and the responses the host register port
  gave last. -/
  hregQ : List HReq := []
  hregOut : List HResp := []
  /-- Since when the preferred TAPCLK source has been ready while the other one is in use (R417). -/
  srcReady : Option Nat := none
  /-- AONCLK lost as seen from TAPCLK: the WT at which the AON domain resets itself (R416). -/
  aonLost : Option Nat := none
  /-- Dynamic I3C address of the management port and its static strap (R434, R447), its MCTP endpoint ID, and its last PLDM or MCTP
  control answer. -/
  i3cAddr : Option Nat := none
  i3cSa : Nat := 0
  mctpEid : Nat := 0
  mgmtOut : List Nat := []
  /-- In-band interrupts raised on the management port, one at each rise of the block interrupt (R276, R447). -/
  ibiNo : Nat := 0
  /-- The cause of the power-cycle request last reported to TRAY on the management port (R315). -/
  pwrReport : Option Nat := none
deriving DecidableEq, Repr

/-- The state of the block, in three parts. -/
structure State extends StateBase, StateData, StateSys where
deriving DecidableEq, Repr

/-- The block when its AON domain first has power, before start-up step 1 (R399): every register at its power-up
value with an archive never written (R467), nothing in flight, darkslides closed, out of service, checks degraded. -/
def State.reset : State := {}

end Sys2Proof.Machine
end

