-- ==== Sys2Proof/Machine/Ops.lean ====
section
/-!
DEFINITION. Named operations over the register file and the units: fields, counters, unit IDs, homes, partitions,
and which units can be reached.
-/
namespace Sys2Proof.Machine

/-- The outcome type of every meaning. -/
abbrev Out := Host.Outcome State Fault Refusal

/-- A command about a unit that the build does not hold stops (R7: no ID names an index at or above its
parameter); otherwise the effect is the next state. DESIGN CHOICE (log entry 16). -/
def onUnit (ok : Bool) (t : State) : Out := if ok then .next t else .fault .noSuchUnit

/-! ### The register file -/

/-- The key of copy `i` of a register in the register file. -/
def regKey (r : Reg) (i : Nat) : Nat := r.num + 256 * i

/-- The stored value of copy `i` of a register. -/
def State.regVal (s : State) (r : Reg) (i : Nat) : Nat :=
  match tfind s.regs (regKey r i) with
  | some v => v.toNat
  | none => r.rst

/-- Store a whole register (R46: one atomic write). -/
def State.setReg (s : State) (r : Reg) (i v : Nat) : State :=
  { s with regs := tput (BitVec.ofNat 64 r.rst) s.regs (regKey r i) (BitVec.ofNat 64 v) }

/-- Read a field of copy `i`. -/
def State.rd (s : State) (f : Fld) (i : Nat := 0) : Nat := bits (s.regVal f.reg i) f.lo f.w

/-- A one-bit field as a Bool. -/
def State.rb (s : State) (f : Fld) (i : Nat := 0) : Bool := s.rd f i == 1

/-- Write a field of copy `i`; the other fields keep their values. -/
def State.wr (s : State) (f : Fld) (i v : Nat) : State :=
  s.setReg f.reg i (setBits (s.regVal f.reg i) f.lo f.w v)

/-- Add to a saturating counter field. -/
def State.bump (s : State) (f : Fld) (i : Nat := 0) (n : Nat := 1) : State :=
  s.wr f i (sat f.w (s.rd f i + n))

/-- Add to a wrapping counter field. -/
def State.bumpWrap (s : State) (f : Fld) (i : Nat := 0) (n : Nat := 1) : State :=
  s.wr f i (s.rd f i + n)

/-- `f` when `c`, else nothing. -/
def when (c : Bool) (f : State → State) (s : State) : State := if c then f s else s

/-- Apply `f` for each element, in order. -/
def forAll {α : Type} (l : List α) (f : α → State → State) (s : State) : State :=
  l.foldl (fun t a => f a t) s

/-- The first element that satisfies `p`, and the list without it. -/
def takeFirst {α : Type} (p : α → Bool) : List α → Option (α × List α)
  | [] => none
  | a :: l => if p a then some (a, l) else (takeFirst p l).map (fun r => (r.1, a :: r.2))

/-! ### Free values and entropy (log entry 3) -/

/-- Draw a free value of `w` bits. -/
def State.drawFree (s : State) (w : Nat) : Nat × State :=
  (Config.freeNat s.freeCtr % 2 ^ w, { s with freeCtr := s.freeCtr + 1 })

/-- Draw 128 bits of entropy. -/
def State.drawKey (s : State) : Nat × State :=
  ((Config.entropy s.entCtr).toNat, { s with entCtr := s.entCtr + 1 })

/-! ### Unit IDs (R8 to R10) -/

/-- Field, cluster, core and engine of an engine ID (Table 0-2); the ID is also the engine's instance number. -/
def engField (e : Nat) : Nat := e / 2 ^ 15
def engCluster (e : Nat) : Nat := bits e 9 6
def engCoreIn (e : Nat) : Nat := bits e 2 7
def engIn (e : Nat) : Nat := e % 4
/-- CT instance, field × 64 + cluster (Table 0-4), of an engine. -/
def engCt (e : Nat) : Nat := e / 2 ^ 9
/-- Core instance (CT instance × 128 + core) of an engine. -/
def engCore (e : Nat) : Nat := e / 4
/-- Engine ID within its CT, 9 bits (CT registers' engine fields). -/
def engInCt (e : Nat) : Nat := e % 2 ^ 9
/-- Field and CT of a core instance. -/
def coreField (c : Nat) : Nat := c / 2 ^ 13
def coreCt (c : Nat) : Nat := c / 2 ^ 7
def coreIdx (c : Nat) : Nat := c % 2 ^ 13
/-- Engine 0 of a core. -/
def coreEng (c : Nat) : Nat := 4 * c
def ctField (k : Nat) : Nat := k / 64

def ctUnit (k : Nat) : Nat := 0x400000 + 2 * 2 ^ 19 + k
def fsUnit (f : Nat) : Nat := 0x400000 + 2 ^ 19 + f
def mtUnit (m : Nat) : Nat := 0x400000 + 3 * 2 ^ 19 + m
def ltUnit (l : Nat) : Nat := 0x400000 + 4 * 2 ^ 19 + l
def routerUnit (f : Nat) : Nat := 0x400000 + 5 * 2 ^ 19 + f
def ccInstUnit (n : Nat) : Nat := 0x400000 + n
def chanUnit (m : Nat) : Nat := 0x800000 + m
def linkUnit (l : Nat) : Nat := 0xC00000 + l
/-- Unit ID of the active CC. -/
def State.ccUnit (s : State) : Nat := ccInstUnit (s.rd F.CC_ROLE_active)

def unitKind (u : Nat) : Nat := u / 2 ^ 22
def unitType (u : Nat) : Nat := bits u 19 3
def unitInst (u : Nat) : Nat := u % 2 ^ 19

/-! ### Instances the build holds (R7) -/

def fieldOk (f : Nat) : Bool := decide (f < Config.nField)
def ctOk (k : Nat) : Bool := fieldOk (ctField k) && decide (k % 64 < Config.nCluster)
def coreOk (c : Nat) : Bool := ctOk (coreCt c) && decide (c % 128 < Config.nCore)
def engOk (e : Nat) : Bool := coreOk (engCore e) && decide (engIn e < Config.nEngine)
def mtOk (m : Nat) : Bool := decide (m < Config.nMt)
def ltOk (l : Nat) : Bool := decide (l < Config.nLt)
def partOk (p : Nat) : Bool := decide (p < Config.nPart)
/-- A sequencer number: an FS's field, or 128 for the CC. -/
def seqOk (q : Nat) : Bool := fieldOk q || q == 128

/-- Whether a unit ID names a unit of the build (R9, R10). -/
def unitPresent (u : Nat) : Bool :=
  match unitKind u with
  | 0 => engOk u
  | 1 => match unitType u with
    | 0 => decide (unitInst u < 2)
    | 1 => fieldOk (unitInst u)
    | 2 => ctOk (unitInst u)
    | 3 => mtOk (unitInst u)
    | 4 => ltOk (unitInst u)
    | 5 => fieldOk (unitInst u)
    | _ => false
  | 2 => mtOk (u % 2 ^ 10) && decide (u % 2 ^ 22 < 2 ^ 10)
  | 3 => ltOk (u % 2 ^ 6) && decide (u % 2 ^ 22 < 2 ^ 6)
  | _ => false

/-! ### Partitions (R295) -/

/-- The partition of a field, from CC_PART_FIELD. -/
def State.partOf (s : State) (f : Nat) : Nat := bits (s.regVal .CC_PART_FIELD (f / 8)) (8 * (f % 8)) 6
/-- Whether a channel is unassigned. -/
def State.chanFree (s : State) (m : Nat) : Bool := bit (s.regVal .CC_PART_CHAN (m / 8)) (8 * (m % 8) + 7)
/-- The partition of a channel, from CC_PART_CHAN. -/
def State.partOfChan (s : State) (m : Nat) : Nat := bits (s.regVal .CC_PART_CHAN (m / 8)) (8 * (m % 8)) 6
/-- The fields of a partition. -/
def State.fieldsOf (s : State) (p : Nat) : List Nat :=
  (List.range Config.nField).filter (fun f => s.partOf f == p)
/-- The channels of a partition. -/
def State.chansOf (s : State) (p : Nat) : List Nat :=
  (List.range Config.nMt).filter (fun m => !s.chanFree m && s.partOfChan m == p)

/-! ### Reach -/

/-- AON-only operation: TAPCLK is not running (R417). -/
def State.aonOnly (s : State) : Bool := s.rd F.CC_CLK_STAT_src == 2

/-- Whether the fence set holds a unit (R202: its newest entry is a fence). -/
def State.listed (s : State) (u : Nat) : Bool := s.fset.any (fun x => x.unit == u)
/-- Confirmed or fenced, by list or by fuse (R194, R195). -/
def State.fencedOr (s : State) (u : Nat) : Bool := s.listed u || s.fuseBad.contains u

/-- Fenced: acknowledged in the fence set, or by fuse (Table 8-1, R211). -/
def unitFenced (s : State) (u : Nat) : Bool := s.fuseBad.contains u || s.fset.any (fun x => x.unit == u && x.acked)
/-- Confirmed or fenced engine (R195): by its FENCE, on the list or by fuse, itself or with its CT (Tables 8-2, 8-6).
DEDUCED (log entry 97). -/
def blocked (s : State) (e : Nat) : Bool :=
  s.fencedOr e || s.fencedOr (ctUnit (engCt e)) || s.confQ.any (fun m => m.unit == e)
/-- Fenced engine (Table 8-1): acknowledged by the host, itself or with its CT (Table 8-6). -/
def engFenced (s : State) (e : Nat) : Bool := unitFenced s e || unitFenced s (ctUnit (engCt e))

/-- A working FS (R212, R213): past its BIST wave, no failure of BIST, router, image or service, and not fenced. -/
def State.fsWorks (s : State) (f : Nat) : Bool :=
  let h := tget {} s.fsHw f
  fieldOk f && h.waveDone && !h.bistFail && !h.routerDown && !h.imgFail && !h.failed
    && !s.fencedOr (fsUnit f) && !s.fencedOr (routerUnit f)

/-- A field is released (CC_FIELD_REL, R212). -/
def State.released (s : State) (f : Nat) : Bool :=
  if f < 64 then bit (s.regVal .CC_FIELD_REL0 0) f else bit (s.regVal .CC_FIELD_REL1 0) (f - 64)

/-- A cluster clock gated by a stop or freeze (R346). -/
def State.ctGated (s : State) (k : Nat) : Bool := s.rb F.CT_STOP_STAT_gated k

/-- A CT, FS, MT or LT of this field can use Trogirum: TAPCLK runs and the FS works. -/
def State.fieldLive (s : State) (f : Nat) : Bool := !s.aonOnly && s.fsWorks f

/-! ### Wafer time -/

/-- Wafer time moves forward to `t`, never back (R424). DESIGN CHOICE (log entry 14). -/
def State.toWt (s : State) (t : Nat) : State := { s with wt := max s.wt t }
/-- The host cycle count of a CT moves forward to `c` (R425). DESIGN CHOICE (log entry 14). -/
def State.toCyc (s : State) (k c : Nat) : State :=
  { s with cyc := tput 0 s.cyc k (max (tget 0 s.cyc k) c) }
def State.cycOf (s : State) (k : Nat) : Nat := tget 0 s.cyc k
/-- Wafer time as it is read and recorded: at 20 ns resolution in AON-only operation (R248, R281, R424). -/
def wtRead (s : State) : Nat := if s.aonOnly then s.wt / 20 * 20 else s.wt
/-- A millisecond and a microsecond in ns. -/
def ms : Nat := 1000000
def us : Nat := 1000
def sec : Nat := 1000000000

/-- Whether every partition of the build is the owner's: the lifecycle state (R365). -/
def State.lifecycle (s : State) : Nat := s.rd F.CC_LIFECYCLE_state

end Sys2Proof.Machine
end

