-- ==== Sys2Proof/Machine/Recorder.lean ====
section
/-!
DEFINITION. Notifications (R246), records (R281 to R285), the rate limit (R286), the freeze rule (R291) and
injected checks (R277, R278): the operations every family raises its records with.
-/
namespace Sys2Proof.Machine

/-! ### Notifications -/

/-- The number of the CC's sequencer and of the standby's checkpointed copy. -/
def ccSeq : Nat := 128
/-- DEDUCED (log entry 25). -/
def sbSeq : Nat := 129

def State.seq (s : State) (q : Nat) : Seq := tget {} s.seqs q
def State.setSeq (s : State) (q : Nat) (x : Seq) : State := { s with seqs := tput {} s.seqs q x }

/-- Capacity of the notification queue (R233). -/
def noteCap (q : Nat) : Nat := if q < 128 then 64 else 256

/-- An edge event becomes pending (R244). -/
def seqEdge (q b : Nat) (s : State) : State :=
  let x := s.seq q
  s.setSeq q { x with edges := setBits x.edges b 1 1 }

/-- Post to one queue; a full queue drops the entry and makes NOTE_OVF pending (R246). -/
def postOne (q : Nat) (n : Note) (s : State) : State :=
  let x := s.seq q
  if bit x.noteMask.toNat (n.code / 2 ^ 12 % 16) then
    if x.notes.length < noteCap q then s.setSeq q { x with notes := x.notes ++ [n] }
    else
      let t := seqEdge q 1 s
      if q < 128 then t.bump F.FS_SEQ_STAT_note_lost q
      else if q == 128 then t.bump F.CC_SEQ_STAT_note_lost else t
  else s

/-- Post a notification of an event at `wt` to a sequencer (Table 10-8); the standby CC fills its own queue as the active one does (R263).
DEDUCED (log entry 24). -/
def notifyAt (wt q code unit params : Nat) (s : State) : State :=
  let n : Note := ⟨code, unit, params % 2 ^ 48, wt⟩
  let t := postOne q n s
  if q == ccSeq then postOne sbSeq n t else t
/-- A notification of an event of this moment. DEDUCED (log entry 24). -/
def notify (q code unit params : Nat) (s : State) : State := notifyAt (wtRead s) q code unit params s

/-- Notify the FS sequencer of a field, when its FS works. -/
def notifyFs (f code unit params : Nat) (s : State) : State :=
  if s.fsWorks f then notify f code unit params s else s

/-! ### The record -/

/-- What a mechanism records: code, unit, parameters, layer and operator, whether an inverted check raised it, and
the unit whose readings it carries when that is another one (R258). -/
structure Ev where
  code : Nat
  unit : Nat
  params : Nat := 0
  layer : Nat := 0
  op : Nat := 0
  inj : Bool := false
  src : Option Nat := none
deriving DecidableEq, Repr

/-- The field a unit belongs to: its own, or that of its home FS; none for the CC (R283, R284). -/
def unitField (u : Nat) : Option Nat :=
  match unitKind u with
  | 0 => some (engField u)
  | 1 => match unitType u with
    | 1 => some (unitInst u)
    | 2 => some (ctField (unitInst u))
    | 3 => some (Config.mtHome (unitInst u))
    | 4 => some (Config.ltHome (unitInst u))
    | 5 => some (unitInst u)
    | _ => none
  | 2 => some (Config.mtHome (u % 2 ^ 10))
  | _ => some (Config.ltHome (u % 2 ^ 6))

/-- The CT of an engine or CT unit. -/
def unitCt (u : Nat) : Option Nat :=
  if unitKind u = 0 then some (engCt u)
  else if unitKind u = 1 ∧ unitType u = 2 then some (unitInst u) else none

/-- Temperature of a record (R283), 8-bit two's complement. DESIGN CHOICE (log entry 26). -/
def recTemp (s : State) (u : Nat) : Nat :=
  match unitCt u with
  | some k => tget 0x80 s.ctTemp k
  | none => match unitField u with
    | some f => s.rd F.FS_VMON_temp f
    | none => s.rd F.CC_VDD_STAT_cc_temp

/-- Voltage of a record (R283): the AON supply for the CC and in AON-only operation. DESIGN CHOICE (log entry 26). -/
def recMv (s : State) (u : Nat) : Nat :=
  if s.aonOnly then s.rd F.CC_VDD_STAT_aon_mv
  else match unitField u with
    | some f => s.rd F.FS_VMON_mv f
    | none => s.rd F.CC_VDD_STAT_aon_mv

/-- The record of an event now (R281, R283). -/
def mkRec (s : State) (e : Ev) (rep : Nat) : Rec :=
  { code := e.code, rep := rep, inj := e.inj,
    stopped := match unitCt e.unit with | some k => s.ctGated k | none => false,
    aon := s.aonOnly, wt := wtRead s % 2 ^ 64, unit := e.unit, temp := recTemp s (e.src.getD e.unit),
    mv := recMv s (e.src.getD e.unit) % 2 ^ 16, layer := e.layer, op := e.op, params := e.params % 2 ^ 48,
    side := match unitCt e.unit with | some k => s.cycOf k % 2 ^ 32 | none => 0 }

/-- CRC-32C (R282), reflected, one bit at a time. -/
def crc32cBits : Nat → Nat → Nat
  | 0, c => c
  | n + 1, c => crc32cBits n (if c % 2 = 1 then Nat.xor (c / 2) 0x82F63B78 else c / 2)

/-- CRC-32C of a byte string (R282). -/
def crc32c (l : List Byte) : Nat :=
  Nat.xor (l.foldl (fun c b => crc32cBits 8 (Nat.xor c b.toNat)) 0xFFFFFFFF) 0xFFFFFFFF

/-- Bytes 0 to 27 of a record (Table 11-4). -/
def recHead (r : Rec) : List Byte :=
  leBytes 2 r.code
  ++ leBytes 2 (r.rep % 2 ^ 11 + 2 ^ 11 * b2n r.inj + 2 ^ 12 * b2n r.stopped + 2 ^ 13 * b2n r.held
      + 2 ^ 14 * b2n r.fwd + 2 ^ 15 * b2n r.aon)
  ++ leBytes 8 r.wt ++ leBytes 3 r.unit ++ leBytes 1 r.temp ++ leBytes 2 r.mv
  ++ leBytes 2 r.layer ++ leBytes 2 r.op ++ leBytes 6 r.params

/-- A record with the CRC its recorder computes as it stores it (R282). -/
def recSealed (r : Rec) : Rec := { r with crc := crc32c (recHead r) }
/-- The 32 bytes of a stored record. -/
def recBytes (r : Rec) : List Byte := recHead r ++ leBytes 4 r.crc
/-- A comparison with `w` stored check bits, which an injection inverts (R277): whether it finds a mismatch. -/
def checkBad (inverted : Bool) (w computed stored : Nat) : Bool :=
  computed != (if inverted then 2 ^ w - 1 - stored else stored)

/-! ### Recorders -/

/-- The recorder numbers of the master copies (R284, R288). -/
def ccRec : Nat := 128
def sbRec : Nat := 129

def State.rcdr (s : State) (r : Nat) : Recorder := tget {} s.recs r
def State.setRcdr (s : State) (r : Nat) (x : Recorder) : State := { s with recs := tput {} s.recs r x }

/-- Area sizes (Table 11-5). -/
def firstCap (r : Nat) : Nat := if r < 128 then 256 else 1024
def lastCap (r : Nat) : Nat := if r < 128 then 4096 else 16384

/-- Burst and refill period in ns (Table 11-15; 0 is taken as 1). -/
def recBurst (s : State) (r : Nat) : Nat :=
  max 1 (if r < 128 then s.rd F.FS_REC_RATE_burst r else s.rd F.CC_REC_RATE_burst)
def recPeriod (s : State) (r : Nat) : Nat :=
  ms * max 1 (if r < 128 then s.rd F.FS_REC_RATE_period_ms r else s.rd F.CC_REC_RATE_period_ms)

/-- Count in REC_STAT of a recorder; the standby's copy has no register. -/
def recCount (r : Nat) (ff cf : Fld) (n : Nat) (s : State) : State :=
  if r < 128 then s.bump ff r n else if r = 128 then s.bump cf 0 n else s

/-- Stage 5: store in the last area, and in the first while it is not full (R282, R284). -/
def recStore (r seq : Nat) (x : Rec) (s : State) : State :=
  let c := s.rcdr r
  let x := recSealed x
  let fst := if c.first.length < firstCap r then (seq, x) :: c.first else c.first
  let t := s.setRcdr r { c with last := ((seq, x) :: c.last).take (lastCap r), first := fst }
  if r < 128 then t.wr F.FS_REC_STAT_first_used r fst.length
  else if r = 128 then t.wr F.CC_REC_STAT_first_used 0 fst.length else t

/-- Stage 4: the freeze rule (R291). -/
def recFreezeRule (r seq : Nat) (x : Rec) (s : State) : State :=
  let c := s.rcdr r
  if c.frozen then
    if heldCodes.contains x.code then
      if c.holdq.length < 16 then s.setRcdr r { c with holdq := c.holdq ++ [(seq, x)] }
      else recCount r F.FS_REC_STAT_held_ovf F.CC_REC_STAT_held_ovf 1
        (s.setRcdr r { c with dropped := c.dropped + 1 })
    else recCount r F.FS_REC_STAT_missed F.CC_REC_STAT_missed 1
      (s.setRcdr r { c with missed := c.missed + 1 })
  else recStore r seq x s

/-- Stage 3 at an FS shard: number and forward once, or count what cannot be forwarded (R284, R285). -/
def recNumber (r : Nat) (x : Rec) (s : State) : State :=
  let c := s.rcdr r
  let seq := c.nextSeq
  let t := s.setRcdr r { c with nextSeq := (seq + 1) % 2 ^ 32 }
  let t := if r < 128 then
      (if t.aonOnly then t.bump F.FS_REC_STAT_fwd r
       else { t with fwdQ := t.fwdQ ++ [⟨r, seq, x⟩] })
    else t
  recFreezeRule r seq x t

/-- The bucket of a code, and a change of it (R286). -/
def Recorder.bucket (c : Recorder) (code : Nat) : Bucket := tget c.rest c.buckets code
def Recorder.setBucket (c : Recorder) (code : Nat) (b : Bucket) : Recorder :=
  { c with buckets := tput c.rest c.buckets code b }

/-- A bucket when burst changes (R286): it holds at most the new burst, and one below it begins to refill. -/
def rebucket (old new period wt : Nat) (b : Bucket) : Bucket :=
  let n := b.tokens.getD old
  if new ≤ n then { b with tokens := none, due := 0 }
  else { b with tokens := some n, due := if b.tokens.isNone then wt + period else b.due }
/-- Every bucket of a recorder when burst changes. -/
def Recorder.rebucket (c : Recorder) (old new period wt : Nat) : Recorder :=
  { c with buckets := c.buckets.map (fun e => (e.1, Machine.rebucket old new period wt e.2)),
           rest := Machine.rebucket old new period wt c.rest }

/-- Stage 2, the token bucket (R286): whether the record passes, its repeat count, and the bucket after. -/
def recBucket (r code : Nat) (s : State) : Option Nat × State :=
  if exemptCodes.contains code then (some 0, s)
  else
    let c := s.rcdr r
    let b := c.bucket code
    let t := b.tokens.getD (recBurst s r)
    if t = 0 then
      (none, recCount r F.FS_REC_STAT_suppressed F.CC_REC_STAT_suppressed 1
        (s.setRcdr r (c.setBucket code { b with supp := min 2047 (b.supp + 1) })))
    else
      let nb : Bucket :=
        { tokens := some (t - 1), due := if b.tokens.isNone then s.wt + recPeriod s r else b.due, supp := 0 }
      (some b.supp, s.setRcdr r (c.setBucket code nb))

/-- The standby keeps its own master copy once it has passed its self-test; it is never frozen (R18, R288, R291). -/
def standbyCopy (x : Rec) (s : State) : State :=
  if s.rb F.CC_ROLE_standby_ok then
    let c := s.rcdr sbRec
    recStore sbRec c.nextSeq x (s.setRcdr sbRec { c with nextSeq := (c.nextSeq + 1) % 2 ^ 32 })
  else s

/-- Record at FS `f`'s shard: the five stages of R286. Nothing is recorded by an FS that does not work (R213, R214). -/
def raiseFs (f : Nat) (e : Ev) (s : State) : State :=
  if s.fsWorks f then
    match recBucket f e.code (notify f e.code e.unit e.params s) with
    | (none, t) => t
    | (some rep, t) => recNumber f (mkRec s e rep) t
  else s

/-- Record from a CT, MT or LT to the shard of its FS: lost in AON-only operation (R44, Table 11-7a). -/
def raiseTap (f : Nat) (e : Ev) (s : State) : State :=
  if s.aonOnly then s else raiseFs f e s

/-- A record reaches the CC master copy: notification, bucket, number, areas (R246, R284, R286). -/
def ccStore (x : Rec) (s : State) : State :=
  match recBucket ccRec x.code (notifyAt x.wt ccSeq x.code x.unit x.params s) with
  | (none, t) => t
  | (some rep, t) => standbyCopy { x with rep := rep } (recNumber ccRec { x with rep := rep } t)

/-- Whether the CC's recorder has not yet passed its BIST: until the end of start-up step 4 (R400).
DEDUCED (log entry 76). -/
def State.preCc (s : State) : Bool := decide (s.rd F.CC_BOOT_STAT_step ≤ 4)

/-- Record at the CC master copy (R284, R246), not without a CC (R215); before the end of step 4 in the boot log of 32
entries (R400).
DEDUCED (log entry 24). DEDUCED (log entry 76). -/
def raiseCc (e : Ev) (s : State) : State :=
  if s.ccLost then s
  else if s.preCc then
    if s.boot.log.length < 32 then { s with boot := { s.boot with log := s.boot.log ++ [mkRec s e 0] } }
    else s.bump F.CC_BOOT_STAT_boot_lost
  else ccStore (mkRec s e 0) s

/-- The key of a tap's hold queue (R344): CT k, MT m at 2^13 + m, LT l at 2^13 + 1024 + l. DEDUCED (log entry 60). -/
def holdMt (m : Nat) : Nat := 2 ^ 13 + m
/-- DEDUCED (log entry 60). -/
def holdLt (l : Nat) : Nat := 2 ^ 13 + 1024 + l

/-- Whether a tap is quiet before or in a stop (R344). -/
def ctQuiet (s : State) (k : Nat) : Bool := s.rb F.CT_STOP_STAT_quiet k
def mtQuiet (s : State) (m : Nat) : Bool := tget false s.quiet m
def ltQuiet (s : State) (l : Nat) : Bool := tget false s.quiet (1024 + l)

/-- Put a packet at the end of a tap's hold queue. -/
def holdPut (key : Nat) (h : Held) (s : State) : State :=
  { s with heldQ := tput [] s.heldQ key (tget [] s.heldQ key ++ [h]) }
/-- The hold queue of a tap is full (R344). -/
def holdFull (s : State) (key : Nat) : Bool := decide (32 ≤ (tget [] s.heldQ key).length)
/-- Hold a packet of CT `k`; CT_STOP_STAT.held follows. -/
def ctHold (k : Nat) (h : Held) (s : State) : State :=
  let t := holdPut k h s
  t.wr F.CT_STOP_STAT_held k (min 32 (tget [] t.heldQ k).length)

/-- A record of a quiet tap waits in its hold queue of 32 (R344); none: the queue is full. DEDUCED (log entry 60). -/
def holdRec (key : Nat) (e : Ev) (s : State) : Option State :=
  if holdFull s key then none else some (holdPut key (.rcd (mkRec s e 0)) s)

/-- Record of a tap by the tap's own unit ID. -/
def raiseCt (k : Nat) (e : Ev) (s : State) : State :=
  if ctQuiet s k && !s.aonOnly then
    if holdFull s k then s.bump F.CT_STOP_STAT_held_lost k else ctHold k (.rcd (mkRec s e 0)) s
  else raiseTap (ctField k) e s
def raiseMt (m : Nat) (e : Ev) (s : State) : State :=
  if mtQuiet s m && !s.aonOnly then (holdRec (holdMt m) e s).getD s else raiseTap (Config.mtHome m) e s
def raiseLt (l : Nat) (e : Ev) (s : State) : State :=
  if ltQuiet s l && !s.aonOnly then (holdRec (holdLt l) e s).getD s else raiseTap (Config.ltHome l) e s

/-- A held record reaches its FS (R344, R345): the stages of R286, with the readings and the WT of its event. -/
def sendHeld (f : Nat) (x : Rec) (s : State) : State :=
  if !s.aonOnly && s.fsWorks f then
    match recBucket f x.code (notifyAt x.wt f x.code x.unit x.params s) with
    | (none, t) => t
    | (some rep, t) => recNumber f { x with rep := rep } t
  else s

/-- A ledger update reaches the FS (R171); without a way to it the update is lost (R44). -/
def ledApply (u : LedUpd) (s : State) : State :=
  if !s.fieldLive (engField u.eng) then s
  else
    let l : Led := tget {} s.ledger u.eng
    let l : Led := { l with
      retired := (l.retired + u.retired) % 2 ^ 32
      proved := (l.proved + u.proved) % 2 ^ 32
      checked := (l.checked + u.checked) % 2 ^ 32
      unchecked := (l.unchecked + u.unchecked) % 2 ^ 32
      epochProved := min (2 ^ 32 - 1) (l.epochProved + u.epochProved)
      epochActive := l.epochActive || u.retired != 0 }
    { s with ledger := tput {} s.ledger u.eng l }
/-- Merge a ledger update into the pending one of its engine (R344). -/
def LedUpd.merge (a b : LedUpd) : LedUpd :=
  { eng := b.eng, retired := a.retired + b.retired, proved := a.proved + b.proved, checked := a.checked + b.checked,
    unchecked := a.unchecked + b.unchecked, epochProved := a.epochProved + b.epochProved }
/-- A CT sends a ledger update; while it is quiet the update is held, and merged once the queue is full (R344). -/
def ledSend (u : LedUpd) (s : State) : State :=
  let k := engCt u.eng
  if ctQuiet s k && !s.aonOnly then
    if holdFull s k then
      { s with ledWait := tins (tdel s.ledWait u.eng) u.eng (LedUpd.merge (tget { eng := u.eng } s.ledWait u.eng) u) }
    else ctHold k (.led u) s
  else ledApply u s

/-- A reservation on its way to the FS (R120); a quiet CT holds it, behind a full queue too (R344).
DESIGN CHOICE (log entry 114). -/
def rsvSend (r : Rsv) (s : State) : State :=
  let f := engField r.ref.eng
  if ctQuiet s (engCt r.ref.eng) && !s.aonOnly then ctHold (engCt r.ref.eng) (.rsv r) s
  else { s with rsvQ := tput [] s.rsvQ f (tget [] s.rsvQ f ++ [r]) }
/-- An abandonment on its way to the FS (R130); a quiet CT holds it likewise. DESIGN CHOICE (log entry 114). -/
def abnSend (m : PMsg) (s : State) : State :=
  let f := engField m.ref.eng
  if ctQuiet s (engCt m.ref.eng) && !s.aonOnly then ctHold (engCt m.ref.eng) (.abn m) s
  else { s with abnQ := tput [] s.abnQ f (tget [] s.abnQ f ++ [m]) }

/-- A held packet leaves its tap. -/
def heldSend (f : Nat) (h : Held) (s : State) : State :=
  match h with
  | .rcd x => sendHeld f x s
  | .led u => ledApply u s
  | .rsv r => { s with rsvQ := tput [] s.rsvQ f (tget [] s.rsvQ f ++ [r]) }
  | .abn m => { s with abnQ := tput [] s.abnQ f (tget [] s.abnQ f ++ [m]) }
/-- A tap leaves the quiet state: what it holds is sent in order, then the merged ledger updates.
DEDUCED (log entry 60). -/
def drainHeld (key f : Nat) (s : State) : State :=
  let t := forAll (tget [] s.heldQ key) (fun x t => heldSend f x t) { s with heldQ := tdel s.heldQ key }
  forAll (t.ledWait.filter (fun e => engCt e.1 == key)) (fun e u => ledApply e.2 { u with ledWait := tdel u.ledWait e.1 }) t

/-! ### Injected checks (R277, R278) -/

/-- Whether an arming stands for this checker at this unit (and, for an LT sleeve check, partition). -/
def injHit (checker unit part : Nat) (j : Inj) : Bool :=
  j.checker == checker && j.unit == unit && decide (0 < j.left)
    && (unitType unit != 4 || j.part == part)

/-- One check: whether it is inverted, and the state with that check consumed. -/
def injTake (checker unit part : Nat) (s : State) : Bool × State :=
  match s.injs.find? (injHit checker unit part) with
  | none => (false, s)
  | some j =>
    let rest := s.injs.filter (fun x => !(x.checker == checker && x.unit == unit))
    let t := { s with injs := if j.left ≤ 1 then rest else rest ++ [{ j with left := j.left - 1 }] }
    (true, if j.newest then t.wr F.CC_INJ_STAT_remaining 0 (j.left - 1) else t)

end Sys2Proof.Machine
end

