-- ==== Sys2Proof/Machine/Archive.lean ====
section
/-!
DEFINITION. Who may write what (R14, R182, R391, R409), and the archive: words, wear and persistent registers
(R426 to R428).
-/
namespace Sys2Proof.Machine

/-! ### Masters -/

/-- The number of a master (CC_OWNER.owner coding): 0 HMP, 1 TRAY, 2 PROBE; 3 for the others. -/
def masterNum : Writer → Nat
  | .hmp => 0
  | .tray => 1
  | .probe => 2
  | _ => 3

/-- The writer owns the block (R409). -/
def State.isOwner (s : State) (w : Writer) : Bool :=
  masterNum w != 3 && s.rd F.CC_OWNER_owner == masterNum w

/-- Integrator-written limits take writes from the owner in MANUFACTURE, PROVISIONED and RMA only (R182). -/
def State.limitOk (s : State) (w : Writer) : Bool :=
  s.isOwner w && (s.lifecycle == 0 || s.lifecycle == 1 || s.lifecycle == 3)

/-- The owner, or the tenant of partition `p`. -/
def State.ownerOrTenant (s : State) (w : Writer) (p : Nat) : Bool :=
  s.isOwner w || (match w with | .tenant q => q == p | _ => false)

/-- A denied observation access is counted (R391). -/
def State.denied (s : State) : State := s.bump F.CC_OBS_STAT_denied

/-- MANUFACTURE or RMA (Table 15-1). -/
def State.factory (s : State) : Bool := s.lifecycle == 0 || s.lifecycle == 3
/-- SCRAPPED (Table 15-1). -/
def State.scrapped (s : State) : Bool := s.lifecycle == 4

/-! ### Reaching a register (R243, R400, R410, R464) -/

/-- Byte offset of copy `i` of a register in the block window (Table 21-1, R462). -/
def regAddr (r : Reg) (i : Nat) : Nat :=
  let p := r.place
  let u := i / p.count
  let o := p.off + p.stride * (i % p.count)
  match p.unit with
  | .cc => o
  | .fs => 0x100000 + 0x10000 * u + o
  | .ct => 0x100000 + 0x10000 * (u / 64) + 0x8000 + 0x100 * (u % 64) + o
  | .mt => 0x900000 + 0x400 * u + o
  | .lt => 0xA00000 + 0x400 * u + o

/-- The registers a sequencer reaches in AON-only operation: fence port, release levels and time (R243).
DEDUCED (log entry 78). -/
def aonRegs : List Reg :=
  [.CC_FENCE_CMD, .CC_FENCE_STAT, .CC_FENCE_IDX, .CC_FENCE_ENTRY, .CC_FIELD_REL0, .CC_FIELD_REL1, .CC_SERVICE, .CC_WT]

/-- Whether a window can be reached (R464): the CC's, unless both CCs are lost (R215); an FS, CT, MT or LT window while TAPCLK runs and its FS works,
and a CT's not while its cluster is gated. -/
def State.winReach (s : State) (u : UnitCls) (n : Nat) : Bool :=
  match u with
  | .cc => !s.ccLost
  | .fs => s.fieldLive n
  | .ct => s.fieldLive (ctField n) && !s.ctGated n
  | .mt => s.fieldLive (Config.mtHome n)
  | .lt => s.fieldLive (Config.ltHome n)

/-- Whether an access reaches copy `i` of a register: a master not before the end of start-up step 4 (R400). -/
def State.regReach (s : State) (w : Writer) (r : Reg) (i : Nat) : Bool :=
  s.winReach r.place.unit (i / r.place.count)
    && (match w with | .seq _ => !s.aonOnly || aonRegs.contains r | _ => !s.preCc && !s.ccLost)

/-- An access by the owner restarts its heartbeat timer and clears stale (R410). DEDUCED (log entry 77). -/
def ownerSeen (w : Writer) (s : State) : State :=
  if s.isOwner w then { s with ownAt := s.wt }.wr F.CC_OWNER_stale 0 0 else s

/-- Another sequencer than the writer's own that watches the offset finds its WATCH bit pending (R46, R241).
DEDUCED (log entry 77). -/
def watchOne (w : Writer) (addr q : Nat) (s : State) : State :=
  if w = .seq q ∨ (q = sbSeq ∧ w = .seq ccSeq) then s
  else forAll [0, 1, 2, 3] (fun i t =>
    if (tget 0xFFFFFFFF (t.seq q).watch i).toNat = addr then seqEdge q (28 + i) t else t) s

/-- Registers that only the owner writes. DEDUCED (log entry 29). -/
def ownerRegs : List Reg :=
  [.CC_OWNER_HO, .CC_ROLE, .CC_INJ_CMD, .CC_BOOT_CFG, .CC_LOUPE_SEL, .CC_LOUPE_CUR, .CC_LOUPE_FRZ,
   .CC_REC_CLR, .CC_ARCH_SEL, .CC_FENCE_CMD, .CC_LIFECYCLE, .CC_TRUST_GROUP, .CC_SCRUB_CMD, .CC_PART_SEAL, .CC_CLK_CFG,
   .CC_SSC_CFG, .CC_VDD_CFG, .CC_BRK_ENV, .CC_TEST_BUDGET, .CC_TOKEN_COST, .CC_SHEET_CMD, .CC_SHEET_REGION0,
   .CC_SHEET_REGION1, .CC_SHEET_GEOM, .CC_PART_FIELD, .CC_PART_CHAN, .CC_RESET_CMD, .CC_BUDGET_CFG, .CC_TRACE_CFG,
   .CC_TRACE_RING0, .CC_TRACE_RING1, .CC_SEQ_CTL, .CC_SEQ_MBOX, .CC_SEM_SIG, .CC_IMG_CMD, .CC_IMG_DATA, .CC_IMG_FLOOR,
   .CC_IMG_DIGSEL, .CC_LSP_CMD, .CC_LSP_PTR, .CC_PACK_CMD, .CC_PACK_DATA, .CC_PACK_FLOOR, .CC_CKPT_SHARD_SEL,
   .CC_CKPT_SHARD0, .CC_CKPT_SHARD1, .CC_CKPT_SHARD2, .CC_CKPT_SHARD3, .CC_CKPT_HOST_SEL, .CC_CKPT_HOST0,
   .CC_CKPT_HOST1, .CC_CKPT_HOST2, .CC_CKPT_HOST3, .FS_SEQ_CTL, .FS_SEQ_MBOX, .FS_SEM_SIG]

/-- Per-partition registers the tenant of the partition writes as well as the owner (R173, R174, R330, R375, R376, R393). -/
def tenantRegs : List Reg :=
  [.CC_STEP, .CC_LOSS, .CC_CKPT_ARG0, .CC_CKPT_ARG1, .CC_CKPT_ARG2, .CC_TRACE_TAIL, .CC_TRACE_MARK]
/-- Registers whose command or entry names the partition; their own rules say whose tenant may write. -/
def ruledRegs : List Reg :=
  [.CC_CKPT_CMD, .CC_KEY_CMD, .CC_KEY_DATA, .MT_SEAL_RGN_A, .MT_SEAL_RGN_B, .CC_SAFE_SEL]
/-- CT and FS observation registers that a tenant of their field's partition writes (Table 16-3). -/
def obsRegs : List Reg := [.CT_SAFE_SEL, .CT_PCNT_SEL, .CT_PCNT_CFG, .CT_PCNT_CTL, .FS_LEDGER_SEL]

/-- The partition of the field a CT or FS register copy belongs to. -/
def obsPart (s : State) (r : Reg) (i : Nat) : Nat := s.partOf (if r.place.unit = .fs then i else ctField i)

/-- Whether a writer has any right to a register (R242, R391, R465). DEDUCED (log entry 29). -/
def State.mayWrite (s : State) (w : Writer) (r : Reg) (i : Nat) : Bool :=
  if r == .CC_OWNER || s.isOwner w then true
  else if ownerRegs.contains r then false
  else if tenantRegs.contains r then (match w with | .tenant q => q == i | _ => false)
  else if ruledRegs.contains r then (match w with | .tenant _ => true | _ => r == .CC_SAFE_SEL)
  else if obsRegs.contains r then (match w with | .tenant q => q == obsPart s r i | .seq _ => true | _ => false)
  else match w with | .tenant _ => false | _ => true

/-- What comes with a write that reaches its register: the owner's heartbeat and the WATCH bits (R46, R410).
DEDUCED (log entry 77). -/
def wrote (w : Writer) (r : Reg) (i : Nat) (s : State) : State :=
  forAll (s.seqs.map (·.1)) (watchOne w (regAddr r i)) (ownerSeen w s)

/-- The registers Table 16-3 speaks of, a write of which that it does not allow is counted. -/
def tableRegs : List Reg :=
  obsRegs ++ [.CC_SAFE_SEL, .CC_TRACE_CFG, .CC_TRACE_RING0, .CC_TRACE_RING1, .CC_TRACE_TAIL, .CC_TRACE_MARK]
/-- A write without any right to its register is ignored; a tenant's, or one of an observation register, is counted
(R391). -/
def noRight (w : Writer) (r : Reg) (s : State) : State :=
  match w with
  | .tenant _ => s.denied
  | _ => if tableRegs.contains r then s.denied else ownerSeen w s

/-- A command that is a register write: unreachable, it changes nothing but the owner's heartbeat (R400, R464). -/
def regWrite (w : Writer) (r : Reg) (i : Nat) (s : State) (o : Out) : Out :=
  if s.regReach w r i then
    match o with
    | .next t => .next (if s.mayWrite w r i then wrote w r i t else noRight w r s)
    | x => x
  else .next (ownerSeen w s)

/-! ### Persistent registers -/

/-- The bits of a register that survive power-up. -/
def Reg.persistMask (r : Reg) : Nat :=
  (r.flds.filter Fld.persists).foldl (fun a f => a + (2 ^ f.w - 1) * 2 ^ f.lo) 0

/-- Only the persistent fields of a register value. -/
def persistBits (r : Reg) (v : Nat) : Nat :=
  (r.flds.filter Fld.persists).foldl (fun a f => a + bits v f.lo f.w * 2 ^ f.lo) 0

/-- The registers with persistent fields, in register-map order; log entry 5 fixes their archive words. -/
def persistRegs : List Reg := (regsOf .cc).filter (fun r => r.flds.any Fld.persists)

/-- The archive word of copy `i` of a register: the persistent registers lie one after the other from word 0 in
register-map order (R426 gives the area, log entry 5 the order). DESIGN CHOICE. -/
def archWordIn : List Reg → Reg → Nat → Nat → Nat
  | [], _, i, b => b + i
  | x :: l, r, i, b => if x = r then b + i else archWordIn l r i (b + x.place.count)

def archWord (r : Reg) (i : Nat) : Nat := archWordIn persistRegs r i 0

/-- The region of Table 18-5 a word lies in, in row order. -/
def archRegion (w : Nat) : Nat :=
  if w < 0x1000 then 0 else if w < 0x2000 then 1 else if w < 0x2100 then 2 else if w < 0x2200 then 3
  else if w < 0x2400 then 4 else if w < 0x7E00 then 5 else 6

/-- The wear limit of a word (R427). -/
def wearLimit : Nat := 100000

/-- Write an archive word (R427): a write of the value it holds programs nothing; one past the wear limit is
refused, recorded and counted. The Bool tells whether the word now holds the value. -/
def archWrite (w v : Nat) (append : Bool) (s : State) : Bool × State :=
  let n := tget 0 s.wear w
  if n > 0 ∧ (tget 0 s.arch w).toNat = v then (true, s)
  else if n ≥ wearLimit then
    (false, raiseCc { code := Code.ARCHIVE_WORN, unit := s.ccUnit, params := w % 2 ^ 15 + 2 ^ 15 * b2n append }
      (s.bump F.CC_ARCH_STAT_worn))
  else
    let t := { s with arch := tput 0 s.arch w (BitVec.ofNat 64 v), wear := tput 0 s.wear w (n + 1) }
    (true, t.wr F.CC_ARCH_STAT_max_wear 0 (max (t.rd F.CC_ARCH_STAT_max_wear) (n + 1)))

/-- Little-endian words of a byte string. -/
def leWords : Nat → List Byte → List Nat
  | 0, _ => []
  | n + 1, l => leNat (l.take 8) :: leWords n (l.drop 8)

/-- Write `n` archive words from word `w` on; false, with nothing written, when one of them is worn (R427). -/
def archWords (w n : Nat) (l : List Byte) (append : Bool) (s : State) : Bool × State :=
  match ((List.range n).zip (leWords n l)).find? (fun x =>
      decide (wearLimit ≤ tget 0 s.wear (w + x.1)) && (tget 0 s.arch (w + x.1)).toNat != x.2) with
  | some x => archWrite (w + x.1) x.2 append s
  | none => (true, forAll ((List.range n).zip (leWords n l)) (fun x t => (archWrite (w + x.1) x.2 append t).2) s)

/-- Give a register a new value, storing its persistent fields in the archive first; a worn word leaves the
persistent fields as they were (R14, R427, Table 21-9). -/
def setPersist (r : Reg) (i v : Nat) (s : State) : State :=
  if persistBits r v = persistBits r (s.regVal r i) then s.setReg r i v
  else
    match archWrite (archWord r i) (persistBits r v) false s with
    | (true, t) => t.setReg r i v
    | (false, t) => t.setReg r i (v - persistBits r v + persistBits r (s.regVal r i))

/-- Write one persistent field. -/
def wrPersist (f : Fld) (i v : Nat) (s : State) : State :=
  setPersist f.reg i (setBits (s.regVal f.reg i) f.lo f.w v) s

end Sys2Proof.Machine
end

