-- ==== Sys2Proof/Machine/Fault.lean ====
section
/-!
DEFINITION. Fault collection (R270 to R276), fault injection (R277 to R280), the recorder's loupe, clears and freeze
(R285 to R291).
-/
namespace Sys2Proof.Machine

/-! ### Pins -/

/-- The MTs and LTs homed on an FS, in ascending order (Table 11-1). -/
def mtsOf (f : Nat) : List Nat := (List.range Config.nMt).filter (fun m => Config.mtHome m == f)
def ltsOf (f : Nat) : List Nat := (List.range Config.nLt).filter (fun l => Config.ltHome l == f)

/-- The unit of a pin of FS `f` (Table 11-1); none for an absent one. FS sources are the FS, the router source the
router. -/
def pinUnit (f i : Nat) : Option Nat :=
  if i < 64 then (if i < Config.nCluster then some (ctUnit (64 * f + i)) else none)
  else if i < 128 then ((mtsOf f)[i - 64]?).map mtUnit
  else if i < 144 then ((ltsOf f)[i - 128]?).map ltUnit
  else if i = 150 then some (routerUnit f)
  else if i < 152 then some (fsUnit f)
  else none

def State.pin (s : State) (f i : Nat) : Pin := tget {} s.pins (256 * f + i)
def State.setPin (s : State) (f i : Nat) (p : Pin) : State := { s with pins := tput {} s.pins (256 * f + i) p }
def State.hpin (s : State) (k i : Nat) : Pin := tget {} s.errIn (8 * k + i)
def State.setHpin (s : State) (k i : Nat) (p : Pin) : State := { s with errIn := tput {} s.errIn (8 * k + i) p }

/-- Group bits of the latches from index `base`, `w` to a group (Table 11-8). -/
def latchGroups (s : State) (f base w n : Nat) : Nat :=
  (List.range n).foldl (fun a g =>
    a + 2 ^ g * b2n ((List.range w).any (fun j => (s.pin f (base + w * g + j)).latched))) 0

/-- FS_FSW's latch and stuck bits follow the pin table (R274). -/
def fswSync (f : Nat) (s : State) : State :=
  let t := s.wr F.FS_FSW_fs_src f (latchGroups s f 144 1 8)
  let t := t.wr F.FS_FSW_ct_grp f (latchGroups s f 0 8 8)
  let t := t.wr F.FS_FSW_mt_grp f (latchGroups s f 64 8 8)
  let t := t.wr F.FS_FSW_lt_grp f (latchGroups s f 128 4 4)
  t.wr F.FS_FSW_stuck f (b2n ((List.range 152).any (fun i => (s.pin f i).stuck)))

/-- Bit f of the global word (R276). -/
def setGlobal (f v : Nat) (s : State) : State :=
  if f < 64 then s.setReg .CC_FAULT_GLOBAL0 0 (setBits (s.regVal .CC_FAULT_GLOBAL0 0) f 1 v)
  else s.setReg .CC_FAULT_GLOBAL1 0 (setBits (s.regVal .CC_FAULT_GLOBAL1 0) (f - 64) 1 v)

/-- An opening reaches the CC handling (R276): it opens it, or merges into the open one. -/
def ccHandling (s : State) : State :=
  if s.rb F.CC_FAULT_CTL_open then (s.bump F.CC_FAULT_CTL_sec_count).wr F.CC_FAULT_CTL_merged 0 1
  else { s.wr F.CC_FAULT_CTL_open 0 1 with ibiNo := s.ibiNo + 1 }

/-- A latch was set at FS `f` (R275): open a handling and record ERR_PIN, or merge into the open one. -/
def fsHandling (f i : Nat) (s : State) : State :=
  let t := fswSync f s
  if t.rb F.FS_FSW_open f then (t.bump F.FS_FSW_sec_count f).wr F.FS_FSW_merged f 1
  else
    let host := if i < 64 then t.rd F.CT_ERR_latched (64 * f + i) else 0
    let t := raiseFs f { code := Code.ERR_PIN, unit := (pinUnit f i).getD (fsUnit f),
                         params := i + 2 ^ 9 * host + 2 ^ 17 * (t.pin f i).edges } (t.wr F.FS_FSW_open f 1)
    ccHandling (setGlobal f 1 t)

/-- One input sets its latch: its entry after a pulse (R272); a counted edge begins a new active time (R273). -/
def pinPulse (s : State) (p : Pin) (edge held : Bool) : Pin :=
  { p with latched := true, edges := if edge then min 15 (p.edges + 1) else p.edges,
           since := if p.level && !edge then p.since else s.wt, level := held }

/-- A pulse on pin `i` of FS `f`; a stuck input opens no handling (R273). -/
def fsPinLatch (f i : Nat) (edge held : Bool) (s : State) : State :=
  if (pinUnit f i).isNone then s
  else
    let p := s.pin f i
    let t := s.setPin f i (pinPulse s p edge held)
    if p.latched || p.stuck then fswSync f t else fsHandling f i t

/-- The CT's own pin follows its latches (R271). -/
def ctPinSync (k : Nat) (s : State) : State :=
  let on := s.rd F.CT_ERR_latched k != 0 || s.rd F.CT_ERR_internal k != 0
  let f := ctField k
  let i := k % 64
  if on && !(s.pin f i).level then fsPinLatch f i true true s
  else if !on then s.setPin f i { s.pin f i with level := false }
  else s

/-- A pulse on a CC source (R276): it latches, and is recorded unless it merged. -/
def ccPinLatch (i : Nat) (edge held : Bool) (s : State) : State :=
  let p := s.pin 128 i
  let t := s.setPin 128 i (pinPulse s p edge held)
  let t := t.wr F.CC_FAULT_CTL_src 0 (setBits (t.rd F.CC_FAULT_CTL_src) i 1 1)
  if p.latched || p.stuck then t
  else if t.rb F.CC_FAULT_CTL_open then ccHandling t
  else ccHandling (raiseCc { code := Code.ERR_PIN, unit := t.ccUnit,
                             params := 256 + i + 2 ^ 17 * (t.pin 128 i).edges } t)

/-- A sub-unit of FS `f` raises or drops its pin with its internal fault (R270). -/
def fsPinDrive (f i : Nat) (on : Bool) (s : State) : State :=
  if on && !(s.pin f i).level then fsPinLatch f i true true s
  else if !on then s.setPin f i { s.pin f i with level := false } else s
/-- The same for a source of the CC. -/
def ccPinDrive (i : Nat) (on : Bool) (s : State) : State :=
  if on && !(s.pin 128 i).level then ccPinLatch i true true s
  else if !on then s.setPin 128 i { s.pin 128 i with level := false } else s
/-- An internal fault of CT `k` latches (R270, R271); while the cluster is gated it does not (Table 11-7a). -/
def ctIntLatch (k i : Nat) (s : State) : State :=
  if s.ctGated k then s
  else ctPinSync k (s.wr F.CT_ERR_internal k (setBits (s.rd F.CT_ERR_internal k) i 1 1))

/-! ### The archive as a fault source (R270, R428) -/

/-- The archive's pin follows its count of uncorrectable reads, which software clears. DEDUCED (log entry 99). -/
def archPinSync (s : State) : State := ccPinDrive 2 (s.rd F.CC_ARCH_STAT_ue != 0) s

/-- ARCHIVE_UE of an uncorrectable read (R428), by an inverted check or for real (R278). -/
def archUeRecord (w : Nat) (inj : Bool) (s : State) : State :=
  raiseCc { code := Code.ARCHIVE_UE, unit := s.ccUnit, params := w % 2 ^ 15 + 2 ^ 15 * archRegion w, inj := inj }
    (s.bump F.CC_ARCH_STAT_ue)
/-- An uncorrectable read of an archive word while the CC runs. -/
def archUe (w : Nat) (inj : Bool) (s : State) : State := archPinSync (archUeRecord w inj s)

/-- One read of an archive word: whether it is uncorrectable, for real or by an inverted check (R277 checker 5). -/
def archRead (w : Nat) (bad : Bool) (s : State) : Bool × State :=
  match injTake 5 s.ccUnit 0 s with
  | (hit, t) => if hit || bad then (true, archUe w hit t) else (false, t)
/-- The value an archive word reads as: 0 when it is uncorrectable. -/
def archWordRead (w : Nat) (s : State) : Nat × State :=
  match archRead w false s with
  | (true, t) => (0, t)
  | (false, t) => ((tget 0 s.arch w).toNat, t)

/-! ### Pulses, relatches and stuck inputs -/

/-- A pulse on an error input (R272). A gated cluster's CT neither latches nor records (Table 11-7a). -/
def pinLatch (p : PinRef) (edge held : Bool) (s : State) : State :=
  match p with
  | .fs f i => fsPinLatch f i edge held s
  | .host k i =>
    if s.ctGated k then s
    else ctPinSync k ((s.setHpin k i (pinPulse s (s.hpin k i) edge held)).wr F.CT_ERR_latched k
      (setBits (s.rd F.CT_ERR_latched k) i 1 1))
  | .ctInt k i =>
    ctIntLatch k i s
  | .cc i => ccPinLatch i edge held s

def pinOk : PinRef → Bool
  | .fs f _ => fieldOk f
  | .host k _ => ctOk k
  | .ctInt k _ => ctOk k
  | .cc i => decide (i < 8)

/-- R272. -/
def execErrPinLatch (p : PinRef) (edge held : Bool) (s : State) : Out :=
  onUnit (pinOk p) (pinLatch p edge held s)

/-- The entry of an input; a CT's internal fault keeps none. -/
def pinEntry (s : State) : PinRef → Pin
  | .fs f i => s.pin f i
  | .host k i => s.hpin k i
  | .ctInt _ _ => {}
  | .cc i => s.pin 128 i

def setPinEntry (s : State) (x : Pin) : PinRef → State
  | .fs f i => s.setPin f i x
  | .host k i => s.setHpin k i x
  | .ctInt _ _ => s
  | .cc i => s.setPin 128 i x

/-- R273: an input still active after its latch was cleared latches again, 10 ms later. -/
def execPinRelatch (p : PinRef) (s : State) : Out :=
  onUnit (pinOk p) (
    let x := pinEntry s p
    if x.level && !x.latched && !x.stuck then pinLatch p false true (s.toWt (x.clearedAt + 10 * ms)) else s)

/-- PIN_STUCK (R273, Table 11-16). -/
def stuckRecord (p : PinRef) (set : Bool) (s : State) : State :=
  match p with
  | .fs f i => fswSync f (raiseFs f { code := Code.PIN_STUCK, unit := (pinUnit f i).getD (fsUnit f),
                                      params := i + 2 ^ 9 * b2n set } s)
  | .host k i =>
    ctPinSync k (raiseCt k { code := Code.PIN_STUCK, unit := ctUnit k,
                             params := k % 64 + 2 ^ 9 * b2n set + 2 ^ 10 + 2 ^ 11 * i }
      (s.wr F.CT_ERR_stuck k (setBits (s.rd F.CT_ERR_stuck k) i 1 (b2n set))))
  | .ctInt _ _ => s
  | .cc i => raiseCc { code := Code.PIN_STUCK, unit := s.ccUnit, params := 256 + i + 2 ^ 9 * b2n set } s

/-- The collector of an input is a CT whose cluster is gated: it neither latches nor records (Table 11-7a). -/
def pinGated (s : State) : PinRef → Bool
  | .host k _ => s.ctGated k
  | .ctInt k _ => s.ctGated k
  | _ => false

/-- The latch bit of an input that software reads elsewhere than in the pin table. -/
def latchBit (p : PinRef) (s : State) : State :=
  match p with
  | .host k i => s.wr F.CT_ERR_latched k (setBits (s.rd F.CT_ERR_latched k) i 1 1)
  | .cc i => s.wr F.CC_FAULT_CTL_src 0 (setBits (s.rd F.CC_FAULT_CTL_src) i 1 1)
  | _ => s

/-- R273: active for 1 s of WT without a break. -/
def execPinStuck (p : PinRef) (s : State) : Out :=
  onUnit (pinOk p) (
    let x := pinEntry s p
    if x.level && !x.stuck && !pinGated s p then
      stuckRecord p true (latchBit p (setPinEntry (s.toWt (x.since + sec)) { x with stuck := true, latched := true } p))
    else s)

/-- R273: a stuck input has been inactive for 10 ms. -/
def execPinUnstuck (p : PinRef) (s : State) : Out :=
  onUnit (pinOk p) (
    let x := pinEntry s p
    if x.stuck && !pinGated s p then stuckRecord p false (setPinEntry s { x with stuck := false, level := false } p) else s)

/-- Whether a writer is FS `f`'s own sequencer. -/
def isSeq (w : Writer) (q : Nat) : Bool := match w with | .seq p => p == q | _ => false
/-- Any master or sequencer, but no tenant: the tenant's rights are those of Table 16-3 alone. -/
def notTenant : Writer → Bool
  | .tenant _ => false
  | _ => true

/-- R275: a write of 1 to FS_FSW.open closes the handling, by the FS sequencer or the owner (R276). -/
def fswWrite (w : Writer) (f v : Nat) (s : State) : State :=
  if (isSeq w f || s.isOwner w) && bit v 33 then
    setGlobal f 0 (((s.wr F.FS_FSW_open f 0).wr F.FS_FSW_sec_count f 0).wr F.FS_FSW_merged f 0)
  else s
def execFswClose (w : Writer) (f v : Nat) (s : State) : Out := regWrite w .FS_FSW f s <|
  onUnit (fieldOk f) (fswWrite w f v s)

/-- R276: the owner closes the CC handling, and any master clears CC source latches (Table 11-11). -/
def ccFaultWrite (w : Writer) (v : Nat) (s : State) : State :=
  let t := if s.isOwner w && bit v 5 then
      ((s.wr F.CC_FAULT_CTL_open 0 0).wr F.CC_FAULT_CTL_sec_count 0 0).wr F.CC_FAULT_CTL_merged 0 0 else s
  if notTenant w then
    forAll (List.range 8) (fun i u =>
      if bit v (8 + i) && !(u.pin 128 i).stuck then
        (u.wr F.CC_FAULT_CTL_src 0 (setBits (u.rd F.CC_FAULT_CTL_src) i 1 0)).setPin 128 i
          { u.pin 128 i with latched := false, clearedAt := u.wt }
      else u) t
  else t
def execCcFaultClose (w : Writer) (v : Nat) (s : State) : Out := regWrite w .CC_FAULT_CTL 0 s <|
  .next (ccFaultWrite w v s)

/-- R272: FS_PIN_SEL captures FS_PIN_DATA and clears the edge count. -/
def pinSelWrite (w : Writer) (f v : Nat) (s : State) : State :=
  if notTenant w then
    let i := v % 256
    let p := s.pin f i
    let u := (pinUnit f i).getD 0
    let t := s.wr F.FS_PIN_SEL_index f i
    let t := t.setReg .FS_PIN_DATA f
      (b2n p.level + 2 * b2n p.latched + 4 * p.edges + 2 ^ 6 * b2n p.stuck + 2 ^ 8 * u)
    t.setPin f i { p with edges := 0 }
  else s
def execPinSelect (w : Writer) (f v : Nat) (s : State) : Out := regWrite w .FS_PIN_SEL f s <|
  onUnit (fieldOk f) (pinSelWrite w f v s)

/-- R272: FS_PIN_CLR clears a latch, whatever the input does. -/
def pinClrWrite (w : Writer) (f v : Nat) (s : State) : State :=
  if notTenant w then
    let p := s.pin f (v % 256)
    fswSync f (s.setPin f (v % 256) { p with latched := p.stuck && p.latched, clearedAt := s.wt })
  else s
def execPinClear (w : Writer) (f v : Nat) (s : State) : Out := regWrite w .FS_PIN_CLR f s <|
  onUnit (fieldOk f) (pinClrWrite w f v s)

/-- R272, Table 11-10: CT_ERR_CAP captures the host inputs' edge counts and clears them. -/
def ctErrCapWrite (w : Writer) (k v : Nat) (s : State) : State :=
  if notTenant w && bit v 0 then
    let e := (List.range 8).foldl (fun a i => a + 2 ^ (4 * i) * (s.hpin k i).edges) 0
    forAll (List.range 8) (fun i t => t.setHpin k i { t.hpin k i with edges := 0 }) (s.wr F.CT_ERR_edges k e)
  else s
def execCtErrCapture (w : Writer) (k v : Nat) (s : State) : Out := regWrite w .CT_ERR_CAP k s <|
  onUnit (ctOk k) (ctErrCapWrite w k v s)

/-- Table 11-10: writing ones to CT_ERR clears host input latches and the CT's own fault latches. -/
def ctErrWrite (w : Writer) (k v : Nat) (s : State) : State :=
  if notTenant w then
    let t := forAll (List.range 8) (fun i u =>
      if bit v i && !(u.hpin k i).stuck then
        (u.wr F.CT_ERR_latched k (setBits (u.rd F.CT_ERR_latched k) i 1 0)).setHpin k i
          { u.hpin k i with latched := false, clearedAt := u.wt }
      else u) s
    ctPinSync k (forAll (List.range 8) (fun i u =>
      if bit v (48 + i) then u.wr F.CT_ERR_internal k (setBits (u.rd F.CT_ERR_internal k) i 1 0) else u) t)
  else s

/-! ### Injection (R277 to R280) -/

/-- The partition of a unit; an LT's is the one its arming names (Table 11-2). A unit of no partition has none. -/
def injPart (s : State) (u part : Nat) : Option Nat :=
  match unitKind u, unitType u with
  | 0, _ => some (s.partOf (engField u))
  | 1, 1 => some (s.partOf (unitInst u))
  | 1, 2 => some (s.partOf (ctField (unitInst u)))
  | 1, 3 => if s.chanFree (unitInst u) then none else some (s.partOfChan (unitInst u))
  | 1, 4 => some part
  | 1, 5 => some (s.partOf (unitInst u))
  | 2, _ => if s.chanFree (u % 2 ^ 10) then none else some (s.partOfChan (u % 2 ^ 10))
  | _, _ => none

/-- Whether a unit holds a checker (Table 11-2). -/
def holdsChecker (u c : Nat) : Bool :=
  unitKind u == 1 && unitPresent u &&
    (match c, unitType u with
     | 1, 2 => true | 1, 3 => true | 1, 4 => true
     | 2, 1 => true | 3, 2 => true
     | 4, 1 => true | 4, 0 => true
     | 5, 0 => true
     | _, _ => false)

/-- Whether a unit can be reached (Table 11-3 reason 4). -/
def injReach (s : State) (u : Nat) : Bool :=
  match unitField u with
  | some f => s.fieldLive f
  | none => true

/-- The first reason of Table 11-3 that holds, in its order. DEDUCED (log entry 28). -/
def injReason (s : State) (c u part : Nat) : Nat :=
  if (match injPart s u part with | some p => s.rb F.CC_PART_SEAL_sealed p | none => false) then 1
  else if !holdsChecker u c then 2
  else if s.scrapped then 3
  else if !injReach s u then 4 else 0

/-- The parameters INJECT_ARMED and INJECT_REFUSED share (Table 11-16). -/
def injParams (c n part : Nat) (w : Writer) : Nat := c + 2 ^ 3 * n + 2 ^ 11 * part + 2 ^ 17 * masterNum w

/-- A write of CC_INJ_CMD (R277, R279, R280): the owner arms, replaces or cancels. -/
def injWrite (w : Writer) (v : Nat) (s : State) : State :=
  if !s.isOwner w then s
  else
    let c := bits v 0 3
    let u := bits v 8 24
    let n := bits v 32 8
    let part := bits v 40 6
    let t := s.wr F.CC_INJ_STAT_checker 0 c
    if c = 0 ∨ n = 0 then
      raiseCc { code := Code.INJECT_ARMED, unit := u, params := injParams 0 n part w }
        { t with injs := t.injs.filter (fun j => !(j.unit == u && (c == 0 || j.checker == c))) }
    else if injReason s c u part ≠ 0 then
      raiseCc { code := Code.INJECT_REFUSED, unit := u,
                params := injParams c n part w + 2 ^ 19 * injReason s c u part }
        ((t.wr F.CC_INJ_STAT_refused 0 1).wr F.CC_INJ_STAT_reason 0 (injReason s c u part))
    else
      let others := (t.injs.filter (fun j => !(j.unit == u && j.checker == c))).map
        (fun j : Inj => { j with newest := false })
      let t := { t with injs := others ++ [Inj.mk c u n part n true] }
      let t := (t.wr F.CC_INJ_STAT_remaining 0 n).bumpWrap F.CC_INJ_STAT_armings
      raiseCc { code := Code.INJECT_ARMED, unit := u, params := injParams c n part w } t

/-- R277. -/
def execInjectArm (w : Writer) (v : Nat) (s : State) : Out := regWrite w .CC_INJ_CMD 0 s <|
  .next (injWrite w v s)
/-- R279: a write with N = 0 or checker 0 cancels; another write is not this command's case. -/
def execInjectCancel (w : Writer) (v : Nat) (s : State) : Out :=
  regWrite w .CC_INJ_CMD 0 s <|
  .next (if bits v 0 3 = 0 ∨ bits v 32 8 = 0 then injWrite w v s else s)

/-- R280: a key load into a partition cancels every arming at its units, with reason 1. DEDUCED (log entry 28). -/
def injCancelPart (p : Nat) (s : State) : State :=
  let hit := s.injs.filter (fun j => injPart s j.unit j.part == some p)
  let refusal (j : Inj) : Ev :=
    { code := Code.INJECT_REFUSED, unit := j.unit,
      params := j.checker + 2 ^ 3 * j.n + 2 ^ 11 * j.part + 2 ^ 17 * 3 + 2 ^ 19 }
  forAll hit (fun j t => raiseCc (refusal j) t)
    { s with injs := s.injs.filter (fun j => injPart s j.unit j.part != some p) }

/-! ### Recorders: forwarding, refill, loupe, clear, freeze -/

/-- R285: the oldest record forwarded by a field reaches the master copy; a skip in its sequence numbers is counted
and recorded as REC_GAP with cause 1. -/
def execRecordForwardArrive (f : Nat) (s : State) : Out :=
  onUnit (fieldOk f) (
    if s.aonOnly then s
    else match takeFirst (fun x => x.field == f) s.fwdQ with
      | none => s
      | some (x, l) =>
        let want := tget 0 s.fwdNext f
        let t := { s with fwdQ := l, fwdNext := tput 0 s.fwdNext f (x.seq + 1) }
        let t := if x.seq > want then
            raiseCc { code := Code.REC_GAP, unit := t.ccUnit, params := sat 16 (x.seq - want) + 2 ^ 24 + 2 ^ 25 * f }
              (t.bump F.CC_REC_STAT_fwd 0 (x.seq - want))
          else t
        let r := { x.rcd with fwd := true }
        standbyCopy r (recNumber ccRec r (notifyAt r.wt ccSeq r.code r.unit r.params t)))

/-- R286: while a bucket is below burst, it gains a token at the end of each period. -/
def execBucketRefill (r code : Nat) (s : State) : Out :=
  onUnit (fieldOk r || r == ccRec) (
    let c := s.rcdr r
    let b := c.bucket code
    match b.tokens with
    | none => s
    | some n =>
      let full := n + 1 ≥ recBurst s r
      let b' : Bucket :=
        { tokens := if full then none else some (n + 1), due := if full then 0 else b.due + recPeriod s r,
          supp := b.supp }
      (s.toWt b.due).setRcdr r (c.setBucket code b'))

/-- The recorder a loupe source names: an FS shard, or the master copy for 0xFF. -/
def loupeRec (src : Nat) : Option Nat :=
  if src = 0xFF then some ccRec else if fieldOk src then some src else none

/-- A source that works and can be reached (R289, Table 11-7a). -/
def loupeReach (s : State) (src : Nat) : Bool := src == 0xFF || s.fieldLive src

/-- The unit that holds a recorder (R294), and its raise. -/
def recUnit (s : State) (r : Nat) : Nat := if r < 128 then fsUnit r else s.ccUnit
def recRaise (r : Nat) (e : Ev) (s : State) : State := if r < 128 then raiseFs r e s else raiseCc e s

/-- The record at an index of an area, oldest first. -/
def areaAt (l : List (Nat × Rec)) (i : Nat) : Option (Nat × Rec) :=
  if i < l.length then l[l.length - 1 - i]? else none

/-- The record a sequence cursor captures (R289): the oldest one numbered `i` or more. -/
def seqAt (l : List (Nat × Rec)) (i : Nat) : Option (Nat × Rec) :=
  (l.filter (fun x => i ≤ x.1)).getLast?

/-- The 32 bytes of a slot of the saved area, read word by word (R287, R428). -/
def savedRead (slot : Nat) (s : State) : List Byte × State :=
  (List.range 4).foldl (fun a i =>
    let r := archWordRead (0x2000 + 4 * slot + i) a.2
    (a.1 ++ leBytes 8 r.1, r.2)) ([], s)

/-- What a cursor finds in an area of recorder `r` (R289): the cursor it moves to, the record's bytes and its side word;
a saved record has none. -/
def loupeFind (r area cur : Nat) (s : State) : Option (Nat × List Byte × Nat) × State :=
  let c := s.rcdr r
  if area = 0 then ((areaAt c.first cur).map (fun x => (cur, recBytes x.2, x.2.side)), s)
  else if area = 1 then ((seqAt c.last cur).map (fun x => (x.1, recBytes x.2, x.2.side)), s)
  else match s.savedSlots[cur]? with
    | some j => (some (cur, (savedRead j s).1, 0), (savedRead j s).2)
    | none => (none, s)

/-- Write the loupe's capture registers. -/
def loupeShow (data : List Byte) (side : Nat) (valid bad gone empty refused : Bool) (s : State) : State :=
  let t := forAll (List.range 4) (fun i u => u.setReg .CC_LOUPE_DATA i (leNat (slice data (8 * i) 8))) s
  t.setReg .CC_LOUPE_STAT 0
    (side + 2 ^ 32 * b2n valid + 2 ^ 33 * b2n bad + 2 ^ 34 * b2n gone + 2 ^ 35 * b2n empty + 2 ^ 36 * b2n refused)

/-- A capture at cursor `cur` (R289). A refused one leaves the cursor unchanged. -/
def loupeCapture (cur : Nat) (s : State) : State :=
  let src := s.rd F.CC_LOUPE_SEL_source
  let area := s.rd F.CC_LOUPE_SEL_area
  match loupeRec src with
  | none => loupeShow [] 0 false false false false true s
  | some r =>
    if area = 3 ∨ (area = 2 ∧ src ≠ 0xFF) ∨ !loupeReach s src then loupeShow [] 0 false false false false true s
    else
      match loupeFind r area cur s with
      | (none, t) => loupeShow [] 0 false false false true false (t.wr F.CC_LOUPE_CUR_cursor 0 cur)
      | (some (pos, d, side), t) =>
        let (hit, t) := injTake 4 (recUnit s r) 0 (t.wr F.CC_LOUPE_CUR_cursor 0 pos)
        let bad := checkBad hit 32 (crc32c (d.take 28)) (leNat (d.drop 28))
        let t := loupeShow d side true bad (pos != cur) false false t
        if bad then
          recRaise r { code := Code.REC_CRC, unit := recUnit s r, params := pos + 2 ^ 32 * area, inj := hit } t
        else t

/-- Release a frozen recorder (R291): the held records in arrival order with held set, then REC_GAP with cause 0 when
anything was missed or dropped. -/
def recRelease (r : Nat) (s : State) : State :=
  let c := s.rcdr r
  if c.frozen then
    let t := s.setRcdr r { c with frozen := false, holdq := [], missed := 0, dropped := 0 }
    let t := if r < 128 then t.wr F.FS_REC_STAT_frozen r 0 else t.wr F.CC_REC_STAT_frozen 0 0
    let t := forAll c.holdq (fun x u => recStore r x.1 { x.2 with held := true } u) t
    if c.missed + c.dropped > 0 then
      recRaise r { code := Code.REC_GAP, unit := recUnit s r,
                   params := sat 16 c.missed + 2 ^ 16 * sat 8 c.dropped } t
    else t
  else s

/-- R289: CC_LOUPE_SEL; the old source is released first (R291). -/
def loupeSelWrite (w : Writer) (v : Nat) (s : State) : State :=
  if s.isOwner w then
    let t := match loupeRec (s.rd F.CC_LOUPE_SEL_source) with
      | some r => recRelease r s
      | none => s
    ((t.wr F.CC_LOUPE_FRZ_freeze 0 0).wr F.CC_LOUPE_SEL_source 0 (bits v 0 8)).wr F.CC_LOUPE_SEL_area 0 (bits v 8 2)
  else s
def execLoupeSelect (w : Writer) (v : Nat) (s : State) : Out := regWrite w .CC_LOUPE_SEL 0 s <|
  .next (loupeSelWrite w v s)

/-- R289: CC_LOUPE_CUR captures one record. -/
def loupeCurWrite (w : Writer) (v : Nat) (s : State) : State :=
  if s.isOwner w then loupeCapture (bits v 0 32) s else s
def execLoupeCapture (w : Writer) (v : Nat) (s : State) : Out := regWrite w .CC_LOUPE_CUR 0 s <|
  .next (loupeCurWrite w v s)

/-- R289, R466: a read of CC_LOUPE_DATA3 advances the cursor and captures; a read that R391 refuses has no side
effect. -/
def loupeAdvance (w : Writer) (s : State) : State :=
  if notTenant w then loupeCapture ((s.rd F.CC_LOUPE_CUR_cursor + 1) % 2 ^ 32) s else s.denied
def execLoupeAdvance (w : Writer) (s : State) : Out :=
  .next (if s.regReach w .CC_LOUPE_DATA 3 then ownerSeen w (loupeAdvance w s) else s)

/-- R290: the owner clears the first or last area of a recorder; REC_CLEARED is the first record after it. -/
def recClrWrite (w : Writer) (v : Nat) (s : State) : State :=
  if s.isOwner w && (bit v 0 || bit v 1) then
    match loupeRec (bits v 2 8) with
    | none => s
    | some r =>
      if loupeReach s (bits v 2 8) then
        let c := s.rcdr r
        let t := s.setRcdr r { c with first := if bit v 0 then [] else c.first, last := if bit v 1 then [] else c.last }
        let t := if bit v 0 then
            (if r < 128 then t.wr F.FS_REC_STAT_first_used r 0 else t.wr F.CC_REC_STAT_first_used 0 0) else t
        recRaise r { code := Code.REC_CLEARED, unit := recUnit s r,
                     params := b2n (bit v 0) + 2 * b2n (bit v 1) + 4 * masterNum w } t
      else s
  else s
def execRecClear (w : Writer) (v : Nat) (s : State) : Out := regWrite w .CC_REC_CLR 0 s <|
  .next (recClrWrite w v s)

/-- CC_LOUPE_FRZ (R291): max_ms is stored; freeze = 1 freezes the selected recorder or is refused, and restarts
max_ms when it is frozen already; freeze = 0 releases it. -/
def loupeFrzWrite (w : Writer) (v : Nat) (s : State) : State :=
  if s.isOwner w then
    let s := s.wr F.CC_LOUPE_FRZ_max_ms 0 (bits v 16 16)
    let src := s.rd F.CC_LOUPE_SEL_source
    match loupeRec src with
    | none => if bit v 0 then s.wr F.CC_LOUPE_STAT_refused 0 1 else s
    | some r =>
      if bit v 0 then
        if loupeReach s src then
          let t := s.setRcdr r { s.rcdr r with frozen := true, frzEnd := s.wt + ms * max 1 (bits v 16 16) }
          let t := if r < 128 then t.wr F.FS_REC_STAT_frozen r 1 else t.wr F.CC_REC_STAT_frozen 0 1
          t.wr F.CC_LOUPE_FRZ_freeze 0 1
        else s.wr F.CC_LOUPE_STAT_refused 0 1
      else recRelease r (s.wr F.CC_LOUPE_FRZ_freeze 0 0)
  else s
/-- R291: a write of freeze = 1. -/
def execRecorderFreeze (w : Writer) (v : Nat) (s : State) : Out :=
  regWrite w .CC_LOUPE_FRZ 0 s <|
  .next (if bit v 0 then loupeFrzWrite w v s else s)
/-- R291: a write of freeze = 0. -/
def execRecorderRelease (w : Writer) (v : Nat) (s : State) : Out :=
  regWrite w .CC_LOUPE_FRZ 0 s <|
  .next (if bit v 0 then s else loupeFrzWrite w v s)

/-- R291: a freeze reaches max_ms of WT. -/
def execFreezeMaxExpire (r : Nat) (s : State) : Out :=
  onUnit (fieldOk r || r == ccRec) (
    if (s.rcdr r).frozen then
      recRelease r ((s.toWt (s.rcdr r).frzEnd).wr F.CC_LOUPE_FRZ_freeze 0 0)
    else s)

end Sys2Proof.Machine
end

