-- ==== Sys2Proof/Machine/SeqCore.lean ====
section
/-!
DEFINITION. The sequencer's common operations: registers, local memory, traps, starts (R233, R234, R259 to R262).
-/
namespace Sys2Proof.Machine

/-! ### Registers and pairs -/

/-- A general register; g0 reads zero (R233). -/
def Seq.gr (x : Seq) (r : Nat) : W32 := if r = 0 then 0 else tget 0 x.g r
/-- Write a general register; writes to g0 are discarded (R233). -/
def Seq.setGr (x : Seq) (r : Nat) (v : W32) : Seq := if r = 0 then x else { x with g := tput 0 x.g r v }
/-- A register pair as a 64-bit value (R236). DEDUCED (log entry 22). -/
def Seq.pair (x : Seq) (r : Nat) : Nat := (x.gr r).toNat + 2 ^ 32 * (x.gr (r + 1)).toNat
/-- Write a register pair (R236). -/
def Seq.setPair (x : Seq) (r v : Nat) : Seq :=
  (x.setGr r (BitVec.ofNat 32 v)).setGr (r + 1) (BitVec.ofNat 32 (v / 2 ^ 32))
/-- The next instruction follows. -/
def Seq.adv (x : Seq) : Seq := { x with pc := x.pc + 4 }
/-- A sign-extended 16-bit immediate (R238, R239). -/
def sext16 (i : Nat) : W32 := BitVec.ofInt 32 (sext 16 i)
/-- A sign-extended 22-bit offset (R240). -/
def sext22 (i : Nat) : W32 := BitVec.ofInt 32 (sext 22 i)

/-! ### Local memory (Table 10-1) -/

/-- Bytes of local SRAM. -/
def sramSize (q : Nat) : Nat := if q < 128 then 0x10000 else 0x40000
/-- The reference program ROM. -/
def romBase : Nat := 0x80000
def inSram (q a : Nat) : Bool := decide (a < sramSize q)
def inRom (q a : Nat) : Bool := decide (romBase ≤ a) && decide (a < romBase + sramSize q)
/-- A byte of local memory; SRAM nothing has written reads 0 (log entry 6). -/
def Seq.byte (x : Seq) (q a : Nat) : Byte :=
  if inRom q a then Config.refRom (q == 128) (a - romBase) else tget 0 x.sram a
/-- `n` bytes from `a`, little-endian (R234). -/
def Seq.load (x : Seq) (q a n : Nat) : Nat := leNat ((List.range n).map (fun i => x.byte q (a + i)))
/-- Store bytes from `a` up. -/
def sramStore : List Byte → Nat → Tbl Byte → Tbl Byte
  | [], _, m => m
  | b :: bs, a, m => sramStore bs (a + 1) (tput 0 m a b)
def Seq.store (x : Seq) (a : Nat) (bs : List Byte) : Seq := { x with sram := sramStore bs a x.sram }

/-! ### Trap causes (Table 10-11) -/

/-- DEDUCED (log entry 22). -/
def trapIllegal : Nat := 1
def trapAlign : Nat := 2
def trapAddr : Nat := 3
def trapAccess : Nat := 4
def trapLimit : Nat := 5
def trapBus : Nat := 6
def trapMemUe : Nat := 7
def trapUnit : Nat := 8
def trapSemUnder : Nat := 9
def trapSemOver : Nat := 10
def trapWdog : Nat := 11

/-- The unit and the recorder of a sequencer (R258, R269). -/
def seqUnit (s : State) (q : Nat) : Nat := if q < 128 then fsUnit q else s.ccUnit
def seqRaise (q : Nat) (e : Ev) (s : State) : State := if q < 128 then raiseFs q e s else raiseCc e s

/-- Counters and flags of SEQ_STAT, FS or CC. -/
def seqStat (q : Nat) (ff cf : Fld) (v : Nat) (s : State) : State :=
  if q < 128 then s.wr ff q v else s.wr cf 0 v
def seqCount (q : Nat) (ff cf : Fld) (s : State) : State :=
  if q < 128 then s.bump ff q else s.bump cf

/-- The pin of a sequencer's internal fault (R270): FS pin 144, CC source 0. An uncorrectable SRAM error holds it until its trap
handler returns or the sequencer starts anew. DEDUCED (log entry 99). -/
def seqPin (q : Nat) (on : Bool) (s : State) : State :=
  if q < 128 then fsPinDrive q 144 on s else if q = 128 then ccPinDrive 0 on s else s

/-- A start of a sequencer (R262): registers and CSRs to their start values, semaphores zero, timer disarmed, edge
events and the send queue cleared; the notification and receive queues are kept, and an answer to a FENCE of the program
that was ends nowhere (R268). `prog` is 0 for the reference
program, 1 or 2 for the image of bank A or B with its entry point and code. -/
def seqStart (q prog entry : Nat) (code : List Byte) (s : State) : State :=
  let x := s.seq q
  let y : Seq :=
    { mode := .run, pc := BitVec.ofNat 32 (if prog = 0 then romBase else entry), notes := x.notes, rx := x.rx,
      running := prog, sram := if prog = 0 then x.sram else sramStore code 0 [], sigSeq := x.sigSeq }
  let t := { s.setSeq q y with confQ := s.confQ.map (fun m => if m.src = q then { m with src := 255 } else m)
                               ansQ := s.ansQ.filter (fun m => m.dst != q) }
  let t := seqStat q F.FS_SEQ_STAT_running F.CC_SEQ_STAT_running prog t
  let t := seqStat q F.FS_SEQ_STAT_halted F.CC_SEQ_STAT_halted 0 t
  if x.trapCause = trapMemUe then seqPin q false t else t

/-- A double trap (R261): a replacement image gives way to the reference program, which halts on its own.
DEDUCED (log entry 19). -/
def seqDoubleTrap (q cause : Nat) (s : State) : State :=
  let x := s.seq q
  let halted := x.running == 0
  let t := seqRaise q { code := Code.SEQ_FALLBACK, unit := seqUnit s q,
                        params := cause + 2 ^ 8 * (x.pc.toNat % 2 ^ 20) + 2 ^ 28 * b2n halted } s
  if halted then
    seqStat q F.FS_SEQ_STAT_halted F.CC_SEQ_STAT_halted 1 (t.setSeq q { t.seq q with mode := .halted })
  else seqStart q 0 0 [] t

/-- Taking a trap (R259): the instruction has no effect; TRAP_PC, TRAP_CAUSE with in_trap and TRAP_INFO are written,
SEQ_TRAP is recorded, and execution continues at TRAP_VEC
(with bits 1:0 clear, since the pc always holds a multiple of 4, R233); a trap in a handler or without one is a double trap. -/
def seqTrap (q cause info : Nat) (s : State) : State :=
  let x := s.seq q
  let t := seqCount q F.FS_SEQ_STAT_traps F.CC_SEQ_STAT_traps
    (seqStat q F.FS_SEQ_STAT_cause F.CC_SEQ_STAT_cause cause s)
  let t := seqRaise q { code := Code.SEQ_TRAP, unit := seqUnit s q,
                        params := cause + 2 ^ 8 * (x.pc.toNat % 2 ^ 20) + 2 ^ 28 * (info % 2 ^ 20) } t
  let t := if cause = trapMemUe then seqPin q true t else t
  if x.inTrap || x.trapVec == 0 then seqDoubleTrap q cause t
  else
    let y := t.seq q
    t.setSeq q { y with trapPc := x.pc, trapCause := cause, inTrap := true,
                        trapInfo := BitVec.ofNat 32 info, pc := x.trapVec &&& 0xFFFFFFFC }

/-! ### One instruction -/

/-- What an instruction does: it completes, or traps with a cause and TRAP_INFO. -/
inductive SeqEff where
  | done (t : State)
  | trap (cause info : Nat)

/-- The sequencer executes: it is awake, and its unit works (R213, R215, R235, R261). -/
def State.seqRuns (s : State) (q : Nat) : Bool :=
  (s.seq q).mode == .run && (if q = 128 then !s.ccLost else s.fsWorks q)

/-- The pc lies in memory that can be fetched (Table 10-1, R240). -/
def fetchOk (q : Nat) (pc : W32) : Bool := inSram q pc.toNat || inRom q pc.toNat

/-- Execute one instruction on sequencer `q` (R235, R259, R260): nothing while it does not run; an ADDR trap when
its pc cannot be fetched; else its effect or its trap. -/
def seqInstr (q : Nat) (f : Seq → State → SeqEff) (s : State) : State :=
  if s.seqRuns q then
    let x := s.seq q
    if fetchOk q x.pc then
      let y := { x with icount := x.icount + 1 }
      match f y (s.setSeq q y) with
      | .done t => t
      | .trap c i => seqTrap q c i (s.setSeq q y)
    else seqTrap q trapAddr x.pc.toNat s
  else s

/-- An instruction that changes the sequencer alone and falls through to the next one. -/
def seqPure (q : Nat) (f : Seq → Seq) (s : State) : State :=
  seqInstr q (fun x t => .done (t.setSeq q (f x).adv)) s

/-- Write a result register and go on. DESIGN CHOICE (log entry 17). -/
def seqRet (q rd : Nat) (v : W32) (s : State) : State :=
  s.setSeq q ((s.seq q).setGr rd v).adv

end Sys2Proof.Machine
end

