-- ==== Sys2Proof/Machine/SeqMem.lean ====
section
/-!
DEFINITION. Loads and stores (R239), branches and jumps (R240), CSR access (R233, Table 10-2) and TRET (R259).
-/
namespace Sys2Proof.Machine

/-! ### Loads and stores -/

/-- The address of a load or store: ra + sext(imm16) (R239). -/
def memAddr (x : Seq) (ra imm : Nat) : Nat := (x.gr ra + sext16 imm).toNat

/-- A load of `n` bytes: ALIGN when misaligned, ADDR outside Table 10-1, MEM_UE on an uncorrectable SRAM error. -/
def loadN (q rd ra imm n : Nat) (ue : Bool) (ext : Nat → W32) (s : State) : Out :=
  onUnit (seqOk q) (seqInstr q (fun x t =>
    let a := memAddr x ra imm
    if a % n ≠ 0 then .trap trapAlign a
    else if !(inSram q a || inRom q a) then .trap trapAddr a
    else if ue && inSram q a then .trap trapMemUe a
    else .done (t.setSeq q (x.setGr rd (ext (x.load q a n))).adv)) s)

/-- A store of `n` bytes; a store to ROM traps with ADDR and changes no memory (R239). -/
def storeN (q rs ra imm n : Nat) (s : State) : Out :=
  onUnit (seqOk q) (seqInstr q (fun x t =>
    let a := memAddr x ra imm
    if a % n ≠ 0 then .trap trapAlign a
    else if !inSram q a then .trap trapAddr a
    else .done (t.setSeq q (x.store a (leBytes n (x.gr rs).toNat)).adv)) s)

def execLw (q rd ra imm : Nat) (ue : Bool) (s : State) : Out := loadN q rd ra imm 4 ue (fun v => BitVec.ofNat 32 v) s
def execLh (q rd ra imm : Nat) (ue : Bool) (s : State) : Out :=
  loadN q rd ra imm 2 ue (fun v => BitVec.ofInt 32 (sext 16 v)) s
def execLhu (q rd ra imm : Nat) (ue : Bool) (s : State) : Out := loadN q rd ra imm 2 ue (fun v => BitVec.ofNat 32 v) s
def execLb (q rd ra imm : Nat) (ue : Bool) (s : State) : Out :=
  loadN q rd ra imm 1 ue (fun v => BitVec.ofInt 32 (sext 8 v)) s
def execLbu (q rd ra imm : Nat) (ue : Bool) (s : State) : Out := loadN q rd ra imm 1 ue (fun v => BitVec.ofNat 32 v) s
def execSw (q rs ra imm : Nat) (s : State) : Out := storeN q rs ra imm 4 s
def execSh (q rs ra imm : Nat) (s : State) : Out := storeN q rs ra imm 2 s
def execSb (q rs ra imm : Nat) (s : State) : Out := storeN q rs ra imm 1 s

/-! ### Branches and jumps -/

/-- A branch to its own address plus 4 × sext(off16) (R240). -/
def branch (q ra rb off : Nat) (c : W32 → W32 → Bool) (s : State) : Out :=
  onUnit (seqOk q) (seqInstr q (fun x t =>
    .done (t.setSeq q (if c (x.gr ra) (x.gr rb) then { x with pc := x.pc + sext16 off * 4 } else x.adv))) s)

def execBeq (q ra rb off : Nat) (s : State) : Out := branch q ra rb off (fun a b => a == b) s
def execBne (q ra rb off : Nat) (s : State) : Out := branch q ra rb off (fun a b => a != b) s
def execBlt (q ra rb off : Nat) (s : State) : Out := branch q ra rb off (fun a b => a.slt b) s
def execBge (q ra rb off : Nat) (s : State) : Out := branch q ra rb off (fun a b => !a.slt b) s
def execBltu (q ra rb off : Nat) (s : State) : Out := branch q ra rb off (fun a b => a.ult b) s
def execBgeu (q ra rb off : Nat) (s : State) : Out := branch q ra rb off (fun a b => !a.ult b) s

/-- JAL: link, then its own address plus 4 × sext(off22) (R240). -/
def execJal (q rd off : Nat) (s : State) : Out :=
  onUnit (seqOk q) (seqInstr q (fun x t =>
    .done (t.setSeq q { (x.setGr rd (x.pc + 4)) with pc := x.pc + sext22 off * 4 })) s)

/-- JALR: link, then (ra + sext(imm16)) with bits 1:0 cleared (R240). -/
def execJalr (q rd ra imm : Nat) (s : State) : Out :=
  onUnit (seqOk q) (seqInstr q (fun x t =>
    .done (t.setSeq q { (x.setGr rd (x.pc + 4)) with pc := (x.gr ra + sext16 imm) &&& 0xFFFFFFFC })) s)

/-- TRET: clear in_trap and continue at TRAP_PC; ILLEGAL outside a trap (R259). The pc holds a multiple of 4 (R233). -/
def execTret (q : Nat) (s : State) : Out :=
  onUnit (seqOk q) (seqInstr q (fun x t =>
    if x.inTrap then
      let t := t.setSeq q { x with inTrap := false, pc := x.trapPc &&& 0xFFFFFFFC }
      .done (if x.trapCause = trapMemUe then seqPin q false t else t)
    else .trap trapIllegal 0) s)

/-! ### CSRs (Table 10-2) -/

/-- The event bits pending now (Table 10-7): the level bits NOTE and MSG, and the latched edge bits. -/
def Seq.pend (x : Seq) : Nat :=
  b2n (!x.notes.isEmpty) + 4 * b2n (!x.rx.isEmpty) + (x.edges - x.edges % 2 - 4 * (x.edges / 4 % 2))

/-- A word of a notification entry (Table 10-8). -/
def noteWord (n : Note) (i : Nat) : Nat :=
  match i with
  | 0 => n.code + 2 ^ 16 * (n.unit % 2 ^ 16)
  | 1 => n.unit / 2 ^ 16 % 2 ^ 8 + 2 ^ 16 * (n.params % 2 ^ 16)
  | 2 => n.params / 2 ^ 16 % 2 ^ 32
  | _ => n.wt % 2 ^ 32

/-- The value of a CSR; none for an unlisted number. -/
def csrRead (s : State) (q : Nat) (x : Seq) (n : Nat) : Option Nat :=
  if n = 0x000 then some (seqUnit s q)
  else if n = 0x001 then some x.pend
  else if n = 0x002 then some x.trapVec.toNat
  else if n = 0x003 then some x.trapPc.toNat
  else if n = 0x004 then some (x.trapCause + 2 ^ 31 * b2n x.inTrap)
  else if n = 0x005 then some x.trapInfo.toNat
  else if n = 0x006 then some x.noteMask.toNat
  else if n = 0x007 then some x.notes.length
  else if 0x008 ≤ n ∧ n ≤ 0x00B then
    some (match x.notes with | [] => 0 | e :: _ => noteWord e (n - 8))
  else if n = 0x00C then some 0
  else if 0x010 ≤ n ∧ n ≤ 0x013 then some (tget 0xFFFFFFFF x.watch (n - 0x10)).toNat
  else if n = 0x014 then some x.wdog.toNat
  else if n = 0x015 then some x.mbox.toNat
  else if n = 0x018 then some s.lifecycle
  else if n = 0x019 then some (if q < 128 then s.partOf q else 0)
  else if n = 0x01A then
    some (Config.nCore + 2 ^ 8 * Config.nCluster + 2 ^ 15 * Config.nEngine + 2 ^ 18 * Config.nField)
  else if n = 0x01B then some (b2n s.aonOnly + 2 * b2n (x.running == 0))
  else none

/-- A write of a listed CSR; a write to an RO CSR is ignored, and any write of NOTE_POP removes the head entry.
DEDUCED (log entry 23). -/
def csrWrite (x : Seq) (n : Nat) (v : W32) : Seq :=
  if n = 0x002 then { x with trapVec := v }
  else if n = 0x003 then { x with trapPc := v }
  else if n = 0x006 then { x with noteMask := v }
  else if n = 0x00C then { x with notes := x.notes.drop 1 }
  else if 0x010 ≤ n ∧ n ≤ 0x013 then { x with watch := tput 0xFFFFFFFF x.watch (n - 0x10) v }
  else if n = 0x014 then { x with wdog := v }
  else x

/-- CSRR (R233): the CSR number is imm16; an unlisted one traps with ILLEGAL. -/
def execCsrr (q rd n : Nat) (s : State) : Out :=
  onUnit (seqOk q) (seqInstr q (fun x t =>
    match csrRead t q x n with
    | some v => .done (t.setSeq q (x.setGr rd (BitVec.ofNat 32 v)).adv)
    | none => .trap trapIllegal n) s)

/-- CSRW (R233). DEDUCED (log entry 23). -/
def execCsrw (q n ra : Nat) (s : State) : Out :=
  onUnit (seqOk q) (seqInstr q (fun x t =>
    match csrRead t q x n with
    | some _ => .done (t.setSeq q (csrWrite x n (x.gr ra)).adv)
    | none => .trap trapIllegal n) s)

end Sys2Proof.Machine
end

