-- ==== Sys2Proof/Machine/SeqEvent.lean ====
section
/-!
DEFINITION. Waiting, timer, semaphores, messages, LOG, the instruction watchdog and the owner's mailbox
(R244 to R254, R258, R260).
-/
namespace Sys2Proof.Machine

/-! ### Waiting (R245) -/

/-- The edge bits of a mask: all but the level bits NOTE and MSG. -/
def edgeBits (m : Nat) : Nat := m - m % 2 - 4 * (m / 4 % 2)

/-- When a timeout given in µs ends; none waits for ever. -/
def waitEnd (s : State) (v : W32) : Option Nat :=
  if v = 0xFFFFFFFF then none else some (s.wt + us * v.toNat)

/-- The pending bits a mask shares; their edge bits are cleared as WAIT returns them. -/
def Seq.takeEvents (x : Seq) (mask : Nat) : Nat × Seq :=
  let hit := Nat.land x.pend mask
  (hit, { x with edges := Nat.xor x.edges (Nat.land x.edges (edgeBits hit)) })

/-- WAIT rd, ra, rb (R245). A WAIT that sleeps restarts the instruction watchdog (R260). -/
def execWait (q rd ra rb : Nat) (s : State) : Out :=
  onUnit (seqOk q) (seqInstr q (fun x t =>
    let (hit, y) := x.takeEvents (x.gr ra).toNat
    if hit ≠ 0 then .done (t.setSeq q (y.setGr rd (BitVec.ofNat 32 hit)).adv)
    else if x.gr rb = 0 then .done (t.setSeq q (x.setGr rd 0).adv)
    else .done (t.setSeq q { x with mode := .wait rd (x.gr ra).toNat (waitEnd t (x.gr rb)), icount := 0 })) s)

/-- R245: a sleeping WAIT resumes on a masked event, or on its timeout, which writes 0; the event wins. -/
def execWaitWake (q : Nat) (s : State) : Out :=
  onUnit (seqOk q) (
    let x := s.seq q
    match x.mode with
    | .wait rd mask dl =>
      let (hit, y) := x.takeEvents mask
      if hit ≠ 0 then s.setSeq q ({ y with mode := .run }.setGr rd (BitVec.ofNat 32 hit)).adv
      else match dl with
        | some d => (s.toWt d).setSeq q ({ x with mode := .run }.setGr rd 0).adv
        | none => s
    | _ => s)

/-! ### Timer (R248) -/

/-- TIME func 0: WT to the pair rd. -/
def execTimeRead (q rd : Nat) (s : State) : Out :=
  onUnit (seqOk q) (seqInstr q (fun x t =>
    if rd % 2 = 1 then .trap trapIllegal rd else .done (t.setSeq q (x.setPair rd (wtRead t)).adv)) s)

/-- TIME func 1: arm ra µs from now, or disarm for 0. -/
def execTimeArmRel (q ra : Nat) (s : State) : Out :=
  onUnit (seqOk q) (seqInstr q (fun x t =>
    .done (t.setSeq q { x with timer := if x.gr ra = 0 then none else some (t.wt + us * (x.gr ra).toNat) }.adv)) s)

/-- TIME func 2: arm at the WT held in the pair ra; a time already past makes TIMER pending at once. -/
def execTimeArmAbs (q ra : Nat) (s : State) : Out :=
  onUnit (seqOk q) (seqInstr q (fun x t =>
    if ra % 2 = 1 then .trap trapIllegal ra
    else if x.pair ra ≤ t.wt then .done (seqEdge q 3 (t.setSeq q { x with timer := none }.adv))
    else .done (t.setSeq q { x with timer := some (x.pair ra) }.adv)) s)

/-- R248: the timer reaches its time. -/
def execTimerExpire (q : Nat) (s : State) : Out :=
  onUnit (seqOk q) (
    match (s.seq q).timer with
    | some d => seqEdge q 3 ((s.toWt d).setSeq q { s.seq q with timer := none })
    | none => s)

/-! ### Semaphores (R249 to R252) -/

/-- Add to a semaphore (R251): beyond 255 it stays at 255 and SEM_OVERFLOW is recorded with its source. -/
def semAdd (q sem n source srcUnit : Nat) (s : State) : State :=
  let x := s.seq q
  let c := tget 0 x.sems sem + n
  let t := s.setSeq q { x with sems := tput 0 x.sems sem (min c 255) }
  if c > 255 then
    seqRaise q { code := Code.SEM_OVERFLOW, unit := seqUnit s q,
                 params := sem + 2 ^ 6 * source + 2 ^ 8 * srcUnit } t
  else t

/-- The operand rule of SIG: n from imm16 bits 3:0, 1 to 15, bits 15:4 zero. -/
def sigN (imm : Nat) : Option Nat := if 1 ≤ imm ∧ imm ≤ 15 then some imm else none

/-- SIG sub 0: a local add; an overflow traps as well (R251). -/
def execSigLocalAdd (q ra imm : Nat) (s : State) : Out :=
  onUnit (seqOk q) (seqInstr q (fun x t =>
    match sigN imm with
    | none => .trap trapIllegal imm
    | some n =>
      let sem := (x.gr ra).toNat % 64
      let u := semAdd q sem n 0 (seqUnit t q) t
      if tget 0 x.sems sem + n > 255 then .done (seqTrap q trapSemOver sem u)
      else .done (u.setSeq q (u.seq q).adv)) s)

/-- SIG sub 2: subtract without waiting; a subtraction of more than the count changes nothing, is recorded and
traps (R251). -/
def execSigLocalSub (q ra imm : Nat) (s : State) : Out :=
  onUnit (seqOk q) (seqInstr q (fun x t =>
    match sigN imm with
    | none => .trap trapIllegal imm
    | some n =>
      let sem := (x.gr ra).toNat % 64
      let c := tget 0 x.sems sem
      if c < n then
        .done (seqTrap q trapSemUnder sem
          (seqRaise q { code := Code.SEM_UNDERFLOW, unit := seqUnit t q,
                        params := sem + 2 ^ 8 * n + 2 ^ 12 * c } t))
      else .done (t.setSeq q { x with sems := tput 0 x.sems sem (c - n) }.adv)) s)

/-- The sequencer a unit ID names (R249): either CC instance is the active CC's, an FS of the build its own. -/
def seqOfUnit (u : Nat) : Option Nat :=
  if unitKind u = 1 ∧ unitType u = 0 ∧ unitInst u < 2 then some 128
  else if unitKind u = 1 ∧ unitType u = 1 ∧ fieldOk (unitInst u) then some (unitInst u)
  else none

/-- SIG sub 1: a remote add, sent as a control packet; BUS in AON-only operation. -/
def execSigRemoteAdd (q rt ra imm : Nat) (s : State) : Out :=
  onUnit (seqOk q) (seqInstr q (fun x t =>
    match sigN imm, seqOfUnit (x.gr rt).toNat with
    | some n, some d =>
      if t.aonOnly then .trap trapBus (x.gr rt).toNat
      else .done { (t.setSeq q x.adv) with semQ := t.semQ ++ [⟨q, d, (x.gr ra).toNat % 64, n⟩] }
    | none, _ => .trap trapIllegal imm
    | _, none => .trap trapIllegal (x.gr rt).toNat) s)

/-- A remote add as the standby CC applies it to its own copy: it receives every packet addressed to the CC and records
nothing (R18, R22, R263). -/
def sbSemAdd (sem n : Nat) (s : State) : State :=
  let x := s.seq sbSeq
  seqEdge sbSeq 6 (s.setSeq sbSeq { x with sems := tput 0 x.sems sem (min (tget 0 x.sems sem + n) 255) })

/-- R249: the oldest remote add for `q` arrives and is applied exactly once; SEMA becomes pending.
DEDUCED (log entry 30). -/
def execSemSignalArrive (q : Nat) (s : State) : Out :=
  onUnit (seqOk q) (
    if s.aonOnly then s
    else match takeFirst (fun g => g.dst == q) s.semQ with
      | some (g, l) =>
        let t := seqEdge q 6 (semAdd q g.sem g.n 1 (seqUnit s g.src) { s with semQ := l })
        if q = ccSeq then sbSemAdd g.sem g.n t else t
      | none => s)

/-- WAITS rd, ra, rb, n (R250). -/
def execWaits (q rd ra rb n : Nat) (s : State) : Out :=
  onUnit (seqOk q) (seqInstr q (fun x t =>
    if n = 0 ∨ n > 15 then .trap trapIllegal n
    else
      let sem := (x.gr ra).toNat % 64
      let c := tget 0 x.sems sem
      if c ≥ n then .done (t.setSeq q ({ x with sems := tput 0 x.sems sem (c - n) }.setGr rd 1).adv)
      else if x.gr rb = 0 then .done (t.setSeq q (x.setGr rd 0).adv)
      else .done (t.setSeq q { x with mode := .waits rd sem n (waitEnd t (x.gr rb)), icount := 0 })) s)

/-- R250: a sleeping WAITS takes n once the count reaches it, or times out and writes 0; the signal wins. -/
def execWaitsWake (q : Nat) (s : State) : Out :=
  onUnit (seqOk q) (
    let x := s.seq q
    match x.mode with
    | .waits rd sem n dl =>
      let c := tget 0 x.sems sem
      if c ≥ n then s.setSeq q ({ x with sems := tput 0 x.sems sem (c - n), mode := .run }.setGr rd 1).adv
      else match dl with
        | some d => (s.toWt d).setSeq q ({ x with mode := .run }.setGr rd 0).adv
        | none => s
    | _ => s)

/-- A write of FS_SEM_SIG or CC_SEM_SIG (R252): owner only; an amount of 0 is ignored. -/
def semSigWrite (w : Writer) (q v : Nat) (s : State) : State :=
  if s.isOwner w && bits v 8 4 != 0 then seqEdge q 6 (semAdd q (bits v 0 6) (bits v 8 4) 2 0 s) else s

def execOwnerSemSig (w : Writer) (q v : Nat) (s : State) : Out := regWrite w (if q < 128 then .FS_SEM_SIG else .CC_SEM_SIG) (if q < 128 then q else 0) s <|
  onUnit (seqOk q) (semSigWrite w q v s)

/-- A write of FS_SEQ_MBOX or CC_SEQ_MBOX (R244): owner only; MBOX becomes pending. -/
def mboxWrite (w : Writer) (q v : Nat) (s : State) : State :=
  if s.isOwner w then
    let t := if q < 128 then s.wr F.FS_SEQ_MBOX_value q v else s.wr F.CC_SEQ_MBOX_value 0 v
    seqEdge q 4 (t.setSeq q { t.seq q with mbox := BitVec.ofNat 32 v })
  else s

def execMboxWrite (w : Writer) (q v : Nat) (s : State) : Out := regWrite w (if q < 128 then .FS_SEQ_MBOX else .CC_SEQ_MBOX) (if q < 128 then q else 0) s <|
  onUnit (seqOk q) (mboxWrite w q v s)

/-! ### Program messages (R253, R254) -/

/-- SEND rd, ra, rb with func: len in bits 3:0, class in bits 5:4 (R253); MEM_UE when its buffer reads uncorrectable (R234).
DEDUCED (log entry 22). DEDUCED (log entry 108). -/
def execSend (q rd ra rb fn : Nat) (s : State) : Out :=
  let ue := bit fn 14
  let fn := fn % 2 ^ 14
  onUnit (seqOk q) (seqInstr q (fun x t =>
    let len := fn % 16
    let cls := fn / 16 % 4
    let a := (x.gr rb).toNat
    if fn ≥ 64 ∨ cls = 3 ∨ len > 8 ∨ (cls = 0 ∧ len ≠ 0) then .trap trapIllegal fn
    else match seqOfUnit (x.gr ra).toNat with
      | none => .trap trapIllegal (x.gr ra).toNat
      | some d =>
        if a % 32 ≠ 0 then .trap trapAlign a
        else if !(inSram q a && inSram q (a + 31 + 32 * len)) then .trap trapAddr a
        else if ue then .trap trapMemUe a
        else if x.load q a 2 < 0x8000 then .trap trapIllegal (x.load q a 2)
        else if t.aonOnly then .done (t.setSeq q (x.setGr rd 5).adv)
        else if x.tx.length ≥ 8 then .done (t.setSeq q (x.setGr rd 1).adv)
        else
          let m : Msg :=
            { src := seqUnit t q, dst := d, typ := x.load q a 2, cls := cls, len := len,
              inl := (List.range 16).map (fun i => x.byte q (a + 16 + i)),
              data := (List.range (32 * len)).map (fun i => x.byte q (a + 32 + i)) }
          .done (t.setSeq q ({ x with tx := x.tx ++ [m] }.setGr rd 0).adv)) s)

/-- Deliver a message to one receive queue; a full queue drops and counts it (R254). -/
def rxOne (q : Nat) (m : Msg) (s : State) : State :=
  let x := s.seq q
  if x.rx.length < 16 then s.setSeq q { x with rx := x.rx ++ [m] }
  else if q < 128 then s.bump F.FS_SEQ_STAT_rx_drop q
  else if q = 128 then s.bump F.CC_SEQ_STAT_rx_drop else s

/-- Deliver a message to a sequencer; the standby CC receives what is addressed to the CC (R18). -/
def rxAt (q : Nat) (m : Msg) (s : State) : State :=
  if q = 128 then rxOne sbSeq m (rxOne q m s) else rxOne q m s

/-- R254: the oldest message of `src` to `dst` arrives; one of class 1 or 2 may be lost on the way (R36).
DEDUCED (log entry 31). -/
def execMessageArrive (src dst : Nat) (lost : Bool) (s : State) : Out :=
  onUnit (seqOk src && seqOk dst) (
    if s.aonOnly then s
    else match takeFirst (fun m => m.dst == dst) (s.seq src).tx with
      | none => s
      | some (m, l) =>
        let t := s.setSeq src { s.seq src with tx := l }
        if lost && m.cls != 0 then t
        else rxAt dst m t)

/-- The bytes RECV lays out (R254). -/
def msgBytes (m : Msg) : List Byte :=
  leBytes 2 m.typ ++ leBytes 3 m.src ++ leBytes 1 m.len ++ List.replicate 10 0 ++ m.inl ++ m.data

/-- RECV rd, rb (R254). -/
def execRecv (q rd rb : Nat) (s : State) : Out :=
  onUnit (seqOk q) (seqInstr q (fun x t =>
    let a := (x.gr rb).toNat
    if a % 32 ≠ 0 then .trap trapAlign a
    else match x.rx with
      | [] => .done (t.setSeq q (x.setGr rd 0).adv)
      | m :: l =>
        if !(inSram q a && inSram q (a + 31 + 32 * m.len)) then .trap trapAddr a
        else .done (t.setSeq q (({ x with rx := l }.store a (msgBytes m)).setGr rd 1).adv)) s)

/-! ### LOG, watchdog, undefined opcodes -/

/-- LOG rd, ra, imm16 (R258): a record with the given code, unit and parameters, and the readings of the
sequencer's own unit. -/
def execLog (q rs ra imm : Nat) (s : State) : Out :=
  onUnit (seqOk q) (seqInstr q (fun x t =>
    if ra % 2 = 1 then .trap trapIllegal ra
    else if imm < 0x0800 ∨ imm > 0x0FFF then .trap trapIllegal imm
    else
      let e : Ev :=
        { code := imm, unit := (x.gr rs).toNat % 2 ^ 24, params := x.pair ra % 2 ^ 48, src := some (seqUnit t q) }
      .done (seqRaise q e (t.setSeq q x.adv))) s)

/-- R260: the instruction count has reached WDOG × 65,536; a limit of 0 disables the watchdog. The count starts
again (log entry 7). -/
def execWdogTrap (q : Nat) (s : State) : Out :=
  onUnit (seqOk q) (
    let x := s.seq q
    if s.seqRuns q && x.wdog != 0 && decide (x.wdog.toNat * 65536 ≤ x.icount) then
      seqTrap q trapWdog x.pc.toNat (s.setSeq q { x with icount := 0 })
    else s)

/-- R237: an instruction word that no row of Tables 10-4 and 10-5 defines traps with ILLEGAL; TRAP_INFO holds the
word (log entry 8). A word that is defined is not this command's case. A fetch from SRAM that meets an uncorrectable error
(bit 32) traps with MEM_UE, whatever the word (R234). DEDUCED (log entry 108). -/
def execUndefinedOpcode (q word : Nat) (s : State) : Out :=
  let ue := bit word 32
  let word := word % 2 ^ 32
  onUnit (seqOk q) (
    if ue then seqInstr q (fun x t =>
      if inSram q x.pc.toNat then .trap trapMemUe x.pc.toNat
      else if decodeSeq q word = none then .trap trapIllegal word else .done t) s
    else if decodeSeq q word = none then seqInstr q (fun _ _ => .trap trapIllegal word) s else s)

end Sys2Proof.Machine
end

