-- ==== Sys2Proof/Machine/Block.lean ====
section
/-!
DEFINITION. The CC pair, the buffer pools, Trogirum's links and the proof arrays' wake (chapter 1).
-/
namespace Sys2Proof.Machine

/-! ### The CC pair (R18 to R22, R263) -/

/-- The checkpoint of the CC sequencer to the standby (R20, R263). -/
def ccCheckpoint (s : State) : State := s.setSeq sbSeq (s.seq ccSeq)
/-- A FENCE or RESET of sequencer `q` has completed: a checkpoint moment of the CC's (R20, R263). -/
def seqCheckpoint (q : Nat) (s : State) : State := if q = ccSeq then ccCheckpoint s else s

/-- R19: the active CC's heartbeat. -/
def execHeartbeatSend (s : State) : Out := .next { s with hbAt := s.wt }

/-- Begin a takeover, if the standby can take over and none is running (R19). -/
def beginSwap (trigger : Nat) (s : State) : State :=
  if s.rb F.CC_ROLE_standby_ok && s.swapping.isNone then { s with swapping := some trigger } else s

/-- Both CCs have failed: service level 0, out_of_service high, everything else holds its value (R22, R215). -/
def bothCcLost (s : State) : State := ({ s with ccLost := true }.wr F.CC_SERVICE_level 0 0).wr F.CC_SERVICE_oos 0 1
/-- The active CC has failed (R19): the standby takes over if it is ready; without it both have failed. -/
def ccFailed (trigger : Nat) (s : State) : State :=
  if s.rb F.CC_ROLE_standby_ok || s.swapping.isSome then beginSwap trigger s else bothCcLost s

/-- R19: no heartbeat for 100 µs. -/
def execHeartbeatLoss (s : State) : Out :=
  .next (ccFailed 0 (s.toWt (s.hbAt + 100 * us)))

/-- R19: the active CC's error pin signals a fatal fault. -/
def execActiveCcFatal (s : State) : Out := .next (ccFailed 1 s)

/-- R19, Table 1-2: an owner's CC_ROLE.swap_req, ignored without a ready standby. -/
def execSwapReq (w : Writer) (s : State) : Out :=
  regWrite w .CC_ROLE 0 s <|
  .next (if s.isOwner w then beginSwap 2 s else s)

/-- R20: a checkpoint. -/
def execCcCheckpoint (s : State) : Out := .next (ccCheckpoint s)

/-- R21: a difference of more than 2 ns counts as a fault of the standby, which can then not take over.
DEDUCED (log entry 20). -/
def execWtCompare (diff : Nat) (s : State) : Out :=
  .next (if diff > 2 then s.wr F.CC_ROLE_standby_ok 0 0 else s)

/-! ### Buffer pools (R28 to R30) -/

/-- The taps of a pool: the MTs of one stack (R30). -/
def poolTaps (m : Nat) : List Nat :=
  (List.range Config.nMt).filter (fun j => Config.mtStack j == Config.mtStack m)

/-- The sum of reserved_min over a pool. -/
def poolReserved (s : State) (m : Nat) : Nat :=
  (poolTaps m).foldl (fun a j => a + s.rd F.MT_POOL_CFG_reserved_min j) 0

/-- Buffers of a tap taken from the shared part. -/
def sharedHeld (s : State) (j : Nat) : Nat := s.rd F.MT_POOL_STAT_held j - s.rd F.MT_POOL_CFG_reserved_min j

/-- Whether a tap finds a buffer (R28): its own minimum, or the shared rest within shared_cap. -/
def poolFree (s : State) (m : Nat) : Bool :=
  if s.rd F.MT_POOL_STAT_held m < s.rd F.MT_POOL_CFG_reserved_min m then true
  else
    decide (sharedHeld s m < s.rd F.MT_POOL_CFG_shared_cap m)
      && decide ((poolTaps m).foldl (fun a j => a + sharedHeld s j) 0 < 256 - poolReserved s m)

/-- Take and return a buffer. -/
def poolTake (m : Nat) (s : State) : State := s.wr F.MT_POOL_STAT_held m (s.rd F.MT_POOL_STAT_held m + 1)
def poolGive (m : Nat) (s : State) : State := s.wr F.MT_POOL_STAT_held m (s.rd F.MT_POOL_STAT_held m - 1)

/-- R29: a host-path operation found no buffer. DEDUCED (log entry 42). -/
def poolMiss (m : Nat) (s : State) : State :=
  raiseMt m { code := Code.MT_POOL_MISS, unit := mtUnit m } (s.bump F.MT_POOL_STAT_misses m)

/-- R28: a write that would take the pool's reserved sum above 256 is ignored. DESIGN CHOICE (log entry 96). -/
def poolCfgWrite (w : Writer) (m v : Nat) (s : State) : State :=
  let t := (s.wr F.MT_POOL_CFG_reserved_min m (bits v 0 4)).wr F.MT_POOL_CFG_shared_cap m (bits v 8 8)
  match w with
  | .tenant _ => s
  | _ => if poolReserved t m ≤ 256 then t else s
def execMtPoolCfgWrite (w : Writer) (m v : Nat) (s : State) : Out :=
  regWrite w .MT_POOL_CFG m s <|
  onUnit (mtOk m) (poolCfgWrite w m v s)

/-! ### Trogirum (R34 to R38) -/

/-- The control class of a header flit (Table 1-6, Table 1-7). -/
def trogClass (h : List Byte) : Nat := bits (leNat (h.take 32)) 48 2
def trogLen (h : List Byte) : Nat := bits (leNat (h.take 32)) 50 4
def trogSrc (h : List Byte) : Nat := bits (leNat (h.take 32)) 24 24
def trogDst (h : List Byte) : Nat := bits (leNat (h.take 32)) 0 24
def trogSeqNo (h : List Byte) : Nat := bits (leNat (h.take 32)) 64 16
def trogCrc (h : List Byte) : Nat := bits (leNat (h.take 32)) 96 32

/-- The CRC-32C a packet must carry: header with crc zero, then its data flits (Table 1-6). -/
def trogCrcOf (p : List Byte) : Nat :=
  crc32c (slice p 0 12 ++ List.replicate 4 0 ++ slice p 16 16 ++ slice p 32 (32 * trogLen p))

/-- Fields a mesh path visits: a line of the grid from `a` to `b`, both ends included. -/
def lineTo (a b : Nat) : List Nat :=
  if a ≤ b then (List.range (b - a + 1)).map (fun i => a + i)
  else (List.range (a - b + 1)).map (fun i => a - i)

/-- The fields of the path from `f` to `g` (R35): along the row first, or along the column first. -/
def meshPath (rowFirst : Bool) (f g : Nat) : List Nat :=
  let c0 := f % Config.gridX
  let r0 := f / Config.gridX
  let c1 := g % Config.gridX
  let r1 := g / Config.gridX
  if rowFirst then
    (lineTo c0 c1).map (fun c => r0 * Config.gridX + c) ++ ((lineTo r0 r1).drop 1).map (fun r => r * Config.gridX + c1)
  else
    (lineTo r0 r1).map (fun r => r * Config.gridX + c0) ++ ((lineTo c0 c1).drop 1).map (fun c => r1 * Config.gridX + c)

/-- A router that can be crossed: it holds a field and is not marked down (R35, R449). -/
def routerUp (s : State) (f : Nat) : Bool := fieldOk f && !(tget {} s.fsHw f).routerDown

/-- The path a packet takes between two fields (R35): row first, column first when a router on that path is down. -/
def trogPath (s : State) (f g : Nat) : List Nat :=
  if (meshPath true f g).all (routerUp s) then meshPath true f g else meshPath false f g

/-- The control-class delivery bound in ns between two fields (R37). -/
def controlNs (s : State) (f g : Nat) : Nat := 90 * ((trogPath s f g).length - 1) + 180

/-- The field at which a unit attaches to the mesh (R37). -/
def attachField (u : Nat) : Nat :=
  match unitField u with
  | some f => f
  | none => if unitInst u = 0 then Config.ccAField else Config.ccBField

/-- The unit a dropped packet is recorded against, at the recorder of its destination (R36).
DESIGN CHOICE (log entry 21). -/
def trogRecord (u : Nat) (s : State) : State :=
  match unitField u with
  | some f => raiseTap f { code := Code.TROG_LINK_REPLAY, unit := u } s
  | none => raiseCc { code := Code.TROG_LINK_REPLAY, unit := s.ccUnit } s

/-- A router is marked down (R35). -/
def trogDown (f : Nat) (s : State) : State := raiseCc { code := Code.TROG_ROUTER_DOWN, unit := routerUnit f } s

/-- Message type and inline payload of a header flit (Table 1-6). -/
def trogType (h : List Byte) : Nat := bits (leNat (h.take 32)) 80 16
def trogInline (h : List Byte) : List Byte := slice h 16 16
/-- The data flits of a packet. -/
def trogData (p : List Byte) : List Byte := slice p 32 (32 * trogLen p)

/-- The units a destination names (Table 1-6, R38): the all-ones instance every unit of the type, either CC instance the
active CC (R249). -/
def trogTargets (s : State) (u : Nat) : List Nat :=
  if unitKind u = 1 ∧ unitInst u = 2 ^ 19 - 1 then
    match unitType u with
    | 0 => [s.ccUnit]
    | 1 => (List.range Config.nField).map fsUnit
    | 2 => ((List.range (64 * Config.nField)).filter ctOk).map ctUnit
    | 3 => (List.range Config.nMt).map mtUnit
    | 4 => (List.range Config.nLt).map ltUnit
    | 5 => (List.range Config.nField).map routerUnit
    | _ => []
  else if unitKind u = 1 then (if seqOfUnit u = some ccSeq then [s.ccUnit] else [u]) else []

/-- Whether a unit takes packets: the CC, and the units of a field whose FS works (R212, R213). -/
def trogAlive (s : State) (u : Nat) : Bool :=
  unitPresent u && (match unitField u with | some f => s.fieldLive f | none => true)

/-- A packet reaches one unit: it takes the payload, and a program message enters its receive queue (R253, R254). What
the block's own message types do comes with commands of their own. DESIGN CHOICE (log entry 113). -/
def trogTake (m : TrogMsg) (u : Nat) (s : State) : State :=
  if !trogAlive s u then s
  else
    let t := { s with trogIn := tins (tdel s.trogIn u) u m }
    match seqOfUnit u with
    | some q =>
      if m.typ < 0x8000 then t
      else rxAt q { src := m.src, dst := q, typ := m.typ, cls := m.cls, len := m.data.length / 32, inl := m.inl, data := m.data } t
    | none => t

/-- R36, Table 1-7: check the packet at its destinations. A failing packet is dropped, counted and recorded at each; one
of class 3, or of more than 8 data flits, is dropped and counted; a dropped control packet waits to be resent. A repeat of
a control packet is discarded (R249). DEDUCED (log entry 98). -/
def execTrogPacketDeliver (flits : List Byte) (s : State) : Out :=
  .next (
    let us := trogTargets s (trogDst flits)
    let n := max 1 us.length
    let src := trogSrc flits
    let sq := trogSeqNo flits
    if s.aonOnly then s
    else if trogCrcOf flits ≠ trogCrc flits then
      let t := forAll us trogRecord { s with trogDrops := s.trogDrops + n }
      if trogClass flits = 0 then { t with trogUnacked := t.trogUnacked ++ [⟨src, sq, trogDst flits, t.wt, 0⟩] } else t
    else if trogClass flits = 3 ∨ 8 < trogLen flits then { s with trogDrops := s.trogDrops + n }
    else
      let m : TrogMsg := ⟨src, trogType flits, trogClass flits, trogInline flits, trogData flits⟩
      if trogClass flits = 0 then
        if tget 0 s.trogSeen src = sq + 1 then s
        else forAll us (trogTake m)
          { s with trogSeen := tput 0 s.trogSeen src (sq + 1),
                   trogUnacked := s.trogUnacked.filter (fun x => !(x.src == src && x.sq == sq)) }
      else forAll us (trogTake m) s)

/-- R36: a control packet without acknowledgement for 4 µs is resent by its source, and waits again until it arrives.
DEDUCED (log entry 98). -/
def execControlResend (src sq : Nat) (s : State) : Out :=
  .next (match takeFirst (fun x : Unacked => x.src == src && x.sq == sq) s.trogUnacked with
    | some (x, l) =>
      if s.aonOnly then s
      else
        let t := s.toWt (x.sentAt + 4 * us)
        { t with trogUnacked := l ++ [{ x with sentAt := t.wt, resent := x.resent + 1 }] }
    | none => s)

/-! ### Wired-AND trees (R39, Table 1-8) -/

/-- Tree 32: every FS sequencer stands at the wafer-wide rendezvous point. DEDUCED (log entry 98). -/
def tree32 (s : State) : Bool := (List.range Config.nField).all (fun f => s.rendezvous.contains f)
/-- Tokens an FS holds or has not yet returned (R190, R191). -/
def fsTokens (s : State) (f : Nat) : Nat :=
  (match tfind s.sessions f with | some x => x.tokens | none => 0)
    + ((s.tokRet.filter (fun x => x.field == f)).map (·.n)).foldl (· + ·) 0
/-- Tree 35: every FS has returned its test power tokens (R191). -/
def tree35 (s : State) : Bool := (List.range Config.nField).all (fun f => fsTokens s f == 0)

end Sys2Proof.Machine
end

