-- ==== Sys2Proof/Machine/Cbor.lean ====
section
/-!
DEFINITION. CBOR (RFC 8949) as the spec uses it: deterministic encoding (R220) and decoding of definite-length items.
-/
namespace Sys2Proof.Machine

/-! ### Encoding -/

/-- The head of an item: major type and argument in its shortest form. -/
def cborHead (major n : Nat) : List Byte :=
  let b := fun (x : Nat) => BitVec.ofNat 8 (32 * major + x)
  if n < 24 then [b n]
  else if n < 2 ^ 8 then b 24 :: beBytes 1 n
  else if n < 2 ^ 16 then b 25 :: beBytes 2 n
  else if n < 2 ^ 32 then b 26 :: beBytes 4 n
  else b 27 :: beBytes 8 n
def cUint (n : Nat) : List Byte := cborHead 0 n
def cInt (x : Int) : List Byte := if x < 0 then cborHead 1 (x.natAbs - 1) else cborHead 0 x.natAbs
def cBytes (l : List Byte) : List Byte := cborHead 2 l.length ++ l
def cText (l : List Byte) : List Byte := cborHead 3 l.length ++ l
def cArray (l : List (List Byte)) : List Byte := cborHead 4 l.length ++ l.flatten
/-- A map from rising integer keys. -/
def cMap (l : List (Nat × List Byte)) : List Byte :=
  cborHead 5 l.length ++ (l.map (fun e => cUint e.1 ++ e.2)).flatten
def cBool (b : Bool) : List Byte := cborHead 7 (if b then 21 else 20)
def cNull : List Byte := cborHead 7 22

/-! ### Decoding -/

/-- A decoded item; a map lists keys and values in turn; `simple n` is a simple value, 256 and up a float. -/
inductive Cbor where
  | uint (n : Nat)
  | nint (n : Nat)
  | bstr (l : List Byte)
  | text (l : List Byte)
  | arr (l : List Cbor)
  | map (l : List Cbor)
  | tag (n : Nat) (x : Cbor)
  | simple (n : Nat)

/-- Major type, additional information and argument. -/
def cborArg : List Byte → Option (Nat × Nat × Nat × List Byte)
  | [] => none
  | b :: l =>
    let mj := b.toNat / 32
    let x := b.toNat % 32
    if x < 24 then some (mj, x, x, l)
    else if x > 27 then none
    else
      let n := 2 ^ (x - 24)
      if l.length < n then none else some (mj, x, beNat (l.take n), l.drop n)

/-- The next `n` items; the first argument bounds the number of items in all. -/
def cborSeq : Nat → Nat → List Byte → Option (List Cbor × List Byte)
  | _, 0, l => some ([], l)
  | 0, _ + 1, _ => none
  | f + 1, n + 1, l =>
    match cborArg l with
    | none => none
    | some (mj, x, a, r) =>
      let item : Option (Cbor × List Byte) :=
        match mj with
        | 0 => some (.uint a, r)
        | 1 => some (.nint a, r)
        | 2 => if r.length < a then none else some (.bstr (r.take a), r.drop a)
        | 3 => if r.length < a then none else some (.text (r.take a), r.drop a)
        | 4 => (cborSeq f a r).map (fun t => (.arr t.1, t.2))
        | 5 => (cborSeq f (2 * a) r).map (fun t => (.map t.1, t.2))
        | 6 => match cborSeq f 1 r with
          | some ([y], t) => some (.tag a y, t)
          | _ => none
        | _ => some (.simple (if x < 24 then a else 256 + a), r)
      match item with
      | none => none
      | some (y, t) => (cborSeq f n t).map (fun u => (y :: u.1, u.2))

/-- One item that fills the bytes. DEDUCED (log entry 50). -/
def cborDecode (l : List Byte) : Option Cbor :=
  match cborSeq (l.length + 1) 1 l with
  | some ([x], []) => some x
  | _ => none

/-- The value of an unsigned key in a map's list. -/
def cborKey : List Cbor → Nat → Option Cbor
  | .uint k :: v :: l, n => if k = n then some v else cborKey l n
  | _ :: _ :: l, n => cborKey l n
  | _, _ => none
/-- The value of a negative key −1 − k. -/
def cborNeg : List Cbor → Nat → Option Cbor
  | .nint k :: v :: l, n => if k = n then some v else cborNeg l n
  | _ :: _ :: l, n => cborNeg l n
  | _, _ => none
def Cbor.uint? : Cbor → Option Nat
  | .uint n => some n
  | _ => none
def Cbor.arr? : Cbor → Option (List Cbor)
  | .arr l => some l
  | _ => none
def Cbor.map? : Cbor → Option (List Cbor)
  | .map l => some l
  | _ => none
def Cbor.bstr? : Cbor → Option (List Byte)
  | .bstr l => some l
  | _ => none
/-- Unsigned integers of a list, all of them. -/
def uints (l : List Cbor) : Option (List Nat) := l.mapM Cbor.uint?

end Sys2Proof.Machine
end

