-- ==== Sys2Proof/Machine/Crc48.lean ====
section
/-!
DEFINITION. The CRC-48 of the sleeve (R50 to R52), the sleeve's fields (R48, Table 2-1), and the digest
arithmetic of GF(2¹²⁸) (R332).
-/
namespace Sys2Proof.Machine

/-- One message bit of the register-level algorithm (R51). -/
def crc48Bit (r : Nat) (b : Nat) : Nat :=
  let top := (r / 2 ^ 47 + b) % 2
  let r' := r * 2 % 2 ^ 48
  if top = 1 then Nat.xor r' 0xA3D50C97E2B9 else r'

/-- Eight message bits, most significant first. -/
def crc48Byte : Nat → Nat → Nat → Nat
  | 0, r, _ => r
  | n + 1, r, b => crc48Byte n (crc48Bit r (b / 2 ^ n % 2)) b

/-- CRC-48 of a message (R50, R51). -/
def crc48 (l : List Byte) : Nat :=
  Nat.xor (l.foldl (fun r b => crc48Byte 8 r b.toNat) 0xFFFFFFFFFFFF) 0xFFFFFFFFFFFF

/-! ### Sleeve fields (Table 2-1) -/

def slvCrc (v : Nat) : Nat := v / 2 ^ 16 % 2 ^ 48
def slvFog (v : Nat) : Bool := bit v 10
def slvVerdict (v : Nat) : Nat := bits v 8 2
def slvVersion (v : Nat) : Nat := v % 4
/-- A sleeve is one only with version 01 (R49). -/
def slvOk (v : Nat) : Bool := slvVersion v == 1
def mkSlv (crc fmt : Nat) (fog : Bool) (verdict origin : Nat) : Nat :=
  crc * 2 ^ 16 + fmt % 32 * 2 ^ 11 + b2n fog * 2 ^ 10 + verdict % 4 * 2 ^ 8 + origin % 64 * 4 + 1
def slvSetFog (v : Nat) : Nat := setBits v 10 1 1
/-- Whether Table 2-5 allows a verdict change. -/
def verdictOk (from_ new : Nat) : Bool :=
  match from_ with
  | 0 => decide (1 ≤ new)
  | 3 => false
  | _ => new == 3
/-- Write a verdict under R54. -/
def slvSetVerdict (v new : Nat) : Nat := if verdictOk (slvVerdict v) (new % 4) then setBits v 8 2 new else v

/-! ### GF(2¹²⁸) in GHASH's bit order (R332) -/

/-- The field element of 16 bytes: bit 0 is the most significant bit of byte 0. -/
def gfOf (l : List Byte) : Nat := beNat (slice l 0 16)

/-- Multiplication as in NIST SP 800-38D: x is scanned from its first bit, y is shifted toward the last. -/
def gfMulGo : Nat → Nat → Nat → Nat → Nat
  | 0, _, _, z => z
  | n + 1, x, y, z =>
    let z' := if x / 2 ^ n % 2 = 1 then Nat.xor z y else z
    let y' := if y % 2 = 1 then Nat.xor (y / 2) (0xE1 * 2 ^ 120) else y / 2
    gfMulGo n x y' z'
def gfMul (x y : Nat) : Nat := gfMulGo 128 x y 0

/-- Block digest of block `j` of sub-stream `k` under key `h` (R332). -/
def blockDigest (h k j : Nat) (data : List Byte) : Nat :=
  let y := (List.range 128).foldl (fun y i => gfMul (Nat.xor y (gfOf (slice data (16 * i) 16))) h) 0
  gfMul (Nat.xor y (gfOf (leBytes 4 k ++ leBytes 8 j ++ [0, 0, 0, 0]))) h

/-- One level of the digest tree. -/
def combineLevel (h : Nat) : List Nat → List Nat
  | a :: b :: l => gfMul (Nat.xor (gfMul a h) b) h :: combineLevel h l
  | l => l
/-- The digest tree (R332), with the list's length as fuel. -/
def combineGo (h : Nat) : Nat → List Nat → Nat
  | 0, l => l.headD 0
  | n + 1, l => match l with
    | [] => 0
    | [a] => a
    | _ => combineGo h n (combineLevel h l)
def combine (h : Nat) (l : List Nat) : Nat := combineGo h l.length l

end Sys2Proof.Machine
end

