-- ==== Sys2Proof/Machine/Epoch.lean ====
section
/-!
DEFINITION. What the measurements of a partition rest on (Tables 15-2 and 15-3), eligibility (R372) and epochs (R373).
-/
namespace Sys2Proof.Machine

/-- An MT of the partition is orphaned (R214). -/
def partOrphan (s : State) (p : Nat) : Bool := (s.chansOf p).any (fun m => !s.fsWorks (Config.mtHome m))
/-- A scrub of the partition runs. -/
def scrubbing (s : State) (p : Nat) : Bool := (tfind s.scrubs p).isSome
/-- Phase 1 to 3, or a scrub (Table 15-3). -/
def inTransition (s : State) (p : Nat) : Bool :=
  scrubbing s p || (decide (1 ≤ s.rd F.CC_PART_STAT_phase p) && decide (s.rd F.CC_PART_STAT_phase p ≤ 3))

/-- R372. -/
def eligible15 (s : State) (p : Nat) : Bool :=
  !(s.fieldsOf p).isEmpty && s.rd F.CC_PART_STAT_phase p == 0 && !inTransition s p
    && !s.rb F.CC_PART_SEAL_debug p && !s.rb F.CC_PART_SEAL_tainted p && !partOrphan s p
    && (s.lifecycle == 1 || s.lifecycle == 2)

/-- Byte 0 of a partition entry (Table 15-3). -/
def entryByte0 (s : State) (p : Nat) : Nat :=
  let fs := s.fieldsOf p
  b2n (!fs.isEmpty) + 2 * s.rd F.CC_PART_SEAL_sealed p + 4 * s.rd F.CC_PART_SEAL_debug p
    + 8 * s.rd F.CC_PART_SEAL_tainted p + 16 * b2n (inTransition s p)
    + 32 * b2n (s.rd F.CC_PART_STAT_phase p == 4 || s.rd F.CC_PART_STAT_phase p == 5)
    + 64 * b2n (partOrphan s p) + 128 * b2n (fs.any (fun f => s.released f && !s.fsWorks f))
/-- Bytes 0 to 3 of a partition entry. -/
def entryHead (s : State) (p : Nat) : Nat :=
  entryByte0 s p + 2 ^ 8 * s.rd F.CC_PART_STAT_gen p + 2 ^ 16 * s.rd F.CC_CHECK_MODE_mode p
    + 2 ^ 24 * b2n (eligible15 s p)

/-- Write counts of the banks whose content a report shows: the CC image that runs, both FS banks, the active pack bank, and a
staged image or pack. -/
def bankMarks (s : State) : List Nat :=
  let img (i : Nat) : Nat :=
    let t := s.rd F.CC_IMG_STAT_target
    let shown := decide (2 ≤ i) || (tget {} s.seqs 128).running == i + 1
      || (s.rd F.CC_IMG_STAT_state == 3 && 2 * t + s.imgAt == i)
    b2n shown * (1 + tget 0 s.imgWear i)
  let pack (i : Nat) : Nat := b2n (i == s.bankAct || s.rd F.CC_PACK_STAT_state == 3) * (1 + tget 0 s.bankWear i)
  (List.range 4).map img ++ (List.range 2).map pack

/-- What indices 1 to 5 and 9 report, as the state they are computed from: an image or a pack by its bank and that
bank's write count. DESIGN CHOICE (log entry 68). -/
def epochGlobal (s : State) : List Nat :=
  [ (tget {} s.seqs 128).running, s.lifecycle, s.rd F.CC_SERVICE_level, s.rd F.CC_FIX_POLICY_unmon_release
  , s.rd F.CC_TRUST_GROUP_group, s.bankAct, s.rd F.CC_PACK_VER_active
  , (if s.rd F.CC_IMG_STAT_state = 3 then 1 + s.rd F.CC_IMG_STAT_target else 0)
  , b2n (s.rd F.CC_PACK_STAT_state == 3), b2n s.packSw.isSome ]
  ++ bankMarks s
  ++ (List.range Config.nField).map (fun f => (tget {} s.seqs f).running + 4 * b2n (s.released f && !s.fsWorks f))

/-- What indices 6 to 8 report of a partition, but for its epoch. DESIGN CHOICE (log entry 68). -/
def epochPart (s : State) (p : Nat) : List Nat :=
  [ entryHead s p, s.rd F.CC_SCRUB_STAT_state p, s.rd F.CC_SCRUB_STAT_count p, tget 0 s.scrubWt p ]
  ++ s.fieldsOf p ++ (s.chansOf p).map (· + 128)

/-- R373: a partition whose measured state has changed since it was last compared gains an epoch.
DESIGN CHOICE (log entry 68). -/
def epochSync (s : State) : State :=
  let g := epochGlobal s
  let now := (List.range Config.nPart).map (fun p => g ++ epochPart s p)
  let old := s.epochSeen
  let t := forAll (List.range Config.nPart) (fun p t =>
    let t := if t.rd F.CC_PART_SEAL_eligible p = b2n (eligible15 t p) then t
      else t.wr F.CC_PART_SEAL_eligible p (b2n (eligible15 t p))
    match old[p]? with
    | some x => if x = now.getD p [] then t else t.bumpWrap F.CC_PART_SEAL_epoch p
    | none => t) s
  { t with epochSeen := now }

end Sys2Proof.Machine
end

