-- ==== Sys2Proof/Machine/Count.lean ====
section
/-!
DEFINITION. Safelight counters, programmable counters and trace (chapter 16).
-/
namespace Sys2Proof.Machine

/-! ### Channel regions (R60, R326, R354, R375, R392) -/

/-- Two block ranges meet. -/
def meets (a n b m : Nat) : Bool := decide (a < b + m) && decide (b < a + n)

/-- Capacity of a channel in blocks, and its sleeve region as first block and length (R60). -/
def chanBlocks (s : State) (m : Nat) : Nat := 2 ^ s.rd F.MT_SLEEVE_CFG_cap_log2 m / 2048
def slvRgnBase (s : State) (m : Nat) : Nat := s.rd F.MT_SLEEVE_CFG_region_base m * 32
def slvRgnLen (s : State) (m : Nat) : Nat := if s.rb F.MT_SLEEVE_CFG_enable m then chanBlocks s m / 256 else 0
def hitsSlvRgn (s : State) (m a n : Nat) : Bool := meets a n (slvRgnBase s m) (slvRgnLen s m)

/-- Key of a block of a channel. -/
def blkKey (m b : Nat) : Nat := m * 2 ^ 29 + b
/-- What an unlisted entry reads: zero, or what the scrub of the channel has left (R57, R382). -/
def slvDflt (s : State) (m b : Nat) : Nat :=
  match tget 0 s.slvRand m with
  | 0 => 0
  | k + 1 => Config.scrubEntry k m b % 2 ^ 64
/-- Store a sleeve-region entry; nothing while sleeves are not kept (R61). -/
def putSlv (m b v : Nat) (s : State) : State :=
  if s.rb F.MT_SLEEVE_CFG_enable m then { s with slv := tput (slvDflt s m b) s.slv (blkKey m b) v } else s
def getSlv (s : State) (m b : Nat) : Nat := tget (slvDflt s m b) s.slv (blkKey m b)

/-- Sealed-region entry `i` of a channel (R375): valid, base, length, tag base, tag blocks, region ID. -/
def rgnValid (s : State) (m i : Nat) : Bool := s.rb F.MT_SEAL_RGN_A_valid (8 * m + i)
def rgnBase (s : State) (m i : Nat) : Nat := s.rd F.MT_SEAL_RGN_A_base (8 * m + i)
def rgnLen (s : State) (m i : Nat) : Nat := s.rd F.MT_SEAL_RGN_B_length (8 * m + i)
def rgnTag (s : State) (m i : Nat) : Nat := s.rd F.MT_SEAL_RGN_B_tag_base (8 * m + i)
def rgnTags (s : State) (m i : Nat) : Nat := ceilDiv (rgnLen s m i) 128
def hitsSealed (s : State) (m a n : Nat) : Bool :=
  (List.range 8).any (fun i => rgnValid s m i &&
    (meets a n (rgnBase s m i) (rgnLen s m i) || meets a n (rgnTag s m i) (rgnTags s m i)))

/-- Channels of a group's mask (R326). -/
def maskChans (group mask : Nat) : List Nat := ((List.range 32).filter (bit mask)).map (fun i => 32 * group + i)
/-- A shard entry (Table 13-1). -/
def State.shard (s : State) (i : Nat) : Words4 := tget {} s.shards i
def Words4.sPart (x : Words4) : Nat := bits x.w0 0 6
def Words4.sValid (x : Words4) : Bool := bit x.w0 6
def Words4.sGroup (x : Words4) : Nat := bits x.w0 8 5
def Words4.sLen (x : Words4) : Nat := bits x.w0 16 24
def Words4.sMask (x : Words4) : Nat := bits x.w1 0 32
def Words4.sBase (x : Words4) (b : Nat) : Nat := bits x.w2 (32 * b) 29
def Words4.sChans (x : Words4) : List Nat := maskChans x.sGroup x.sMask
def hitsShard (s : State) (m a n : Nat) : Bool :=
  s.shards.any (fun e => e.2.sValid && e.2.sChans.contains m &&
    (meets a n (e.2.sBase 0) e.2.sLen || meets a n (e.2.sBase 1) e.2.sLen))
/-- The sheet region (R354). -/
def sheetChans (s : State) : List Nat := maskChans (s.rd F.CC_SHEET_REGION0_group) (s.rd F.CC_SHEET_REGION0_mask)
def hitsSheet (s : State) (m a n : Nat) : Bool :=
  (sheetChans s).contains m && meets a n (s.rd F.CC_SHEET_REGION1_base) (s.rd F.CC_SHEET_REGION1_length)

/-! ### Trace (R392 to R395) -/

/-- Record bytes (Table 16-4). -/
def TRec.bytes (r : TRec) : List Byte :=
  leBytes 16 (r.wt % 2 ^ 48 + r.typ % 16 * 2 ^ 48 + r.eng % 2 ^ 22 * 2 ^ 52 + r.pay % 2 ^ 48 * 2 ^ 80)

def State.trQ (s : State) (k : Nat) : List TRec := tget [] s.traceQ k
/-- A loss record (Table 16-5). -/
def lossRec (s : State) (eng n : Nat) (writer : Bool) : TRec :=
  ⟨s.wt, 14, eng, min n (2 ^ 32 - 1) + 2 ^ 32 * b2n writer⟩
/-- Store a CT's trace queue, a waiting loss record first when there is room (R395). -/
def setTrQ (k : Nat) (q : List TRec) (s : State) : State :=
  let n := tget 0 s.traceLoss k
  let s := if n > 0 ∧ q.length < 64 then { s with traceLoss := tdel s.traceLoss k } else s
  let q := if n > 0 ∧ q.length < 64 then q ++ [lossRec s (k * 2 ^ 9) n false] else q
  ({ s with traceQ := tput [] s.traceQ k q }).wr F.CT_TRACE_STAT_queued k q.length
/-- A trace event is lost (R395). -/
def trLost (k : Nat) (s : State) : State :=
  { s with traceLoss := tput 0 s.traceLoss k (tget 0 s.traceLoss k + 1) }.bump F.CT_TRACE_STAT_lost k

/-- An event of CT `k` for trace type `typ` (R393, Table 16-5): queued when its bit is enabled for the partition, lost
without Trogirum (Table 16-6) or with a full queue. -/
def traceEv (k typ eng pay : Nat) (s : State) : State :=
  let p := s.partOf (ctField k)
  if s.rb F.CC_TRACE_CFG_enable p && bit (s.rd F.CC_TRACE_CFG_events p) typ then
    if !s.fieldLive (ctField k) then trLost k s
    else if (s.trQ k).length < 64 then
      let t := setTrQ k (s.trQ k) s
      if (t.trQ k).length < 64 then setTrQ k (t.trQ k ++ [⟨s.wt, typ, eng, pay⟩]) t else trLost k t
    else trLost k s
  else s

/-- Channels of a partition's ring, and its capacity in records (R392). -/
def ringChans (s : State) (p : Nat) : List Nat := maskChans (s.rd F.CC_TRACE_RING0_group p) (s.rd F.CC_TRACE_RING0_mask p)
def ringCap (s : State) (p : Nat) : Nat := 128 * (ringChans s p).length * s.rd F.CC_TRACE_RING1_length p
/-- Channel and block of ring block `i` (R392, R355). -/
def ringBlock (s : State) (p i : Nat) : Nat × Nat :=
  let c := ringChans s p
  let j := i % (c.length * s.rd F.CC_TRACE_RING1_length p)
  (c.getD (j % c.length) 0, s.rd F.CC_TRACE_RING1_base p + j / c.length)

/-- TRACE_DISABLED (R398). -/
def traceDisable (p cause : Nat) (s : State) : State :=
  raiseCc { code := Code.TRACE_DISABLED, unit := s.ccUnit, params := p + 2 ^ 6 * cause }
    ((s.wr F.CC_TRACE_CFG_enable p 0).wr F.CC_TRACE_STAT_cause p cause)

/-! ### Safelight (R387 to R389) -/

/-- Count in a CT's safelight counter and in the increments it has to report. -/
def safeInc (k i n : Nat) (s : State) : State :=
  { s with safe := tput 0 s.safe (16 * k + i) ((tget 0 s.safe (16 * k + i) + n) % 2 ^ 48),
           safeCt := tput 0 s.safeCt (16 * k + i) (tget 0 s.safeCt (16 * k + i) + n) }

/-- A sleeve error of MT `m` (key m) or LT `l` (key 1024 + l), to be reported (R389). -/
def safeTapInc (key : Nat) (s : State) : State :=
  { s with safeTap := tput 0 s.safeTap key (tget 0 s.safeTap key + 1) }

/-! ### Programmable counters (R390) -/

/-- What an event says of itself for the filters: engine within the CT, class, fmt_a, layer, operator; none where the
filter does not apply (Table 16-2). -/
structure PInfo where
  eng : Option Nat := none
  cls : Option Nat := none
  fmt : Option Nat := none
  layer : Option Nat := none
  op : Option Nat := none

def optEq (o : Option Nat) (v : Nat) : Bool := match o with | some x => x == v | none => false

/-- The filters of a configuration: each is off, or applies and matches. -/
def pMatch (cfg : Nat) (i : PInfo) : Bool :=
  (bits cfg 8 5 == 31 || (match i.cls with | some c => decide (c < 5) && bit cfg (8 + c) | none => false))
  && (!bit cfg 18 || optEq i.fmt (bits cfg 13 5))
  && (!bit cfg 28 || optEq i.eng (bits cfg 19 9))
  && (!bit cfg 29 || optEq i.layer (bits cfg 32 16))
  && (!bit cfg 30 || optEq i.op (bits cfg 48 16))

/-- Add to a counter; the 48-bit wrap sets its flag. -/
def PCnt.add (c : PCnt) (n : Nat) : PCnt :=
  { c with value := (c.value + n) % 2 ^ 48, wrapped := c.wrapped || decide (2 ^ 48 ≤ c.value + n) }

/-- An event counts in every counter of the CT that is set to it (R390), unless the counters are frozen. -/
def pcntEv (k ev n : Nat) (i : PInfo) (s : State) : State :=
  if s.rb F.CT_PCNT_CTL_freeze k || n == 0 then s
  else forAll (List.range 32) (fun j t =>
    let c := tget {} t.pcnt (32 * k + j)
    if bits c.cfg 0 8 == ev && pMatch c.cfg i then
      { t with pcnt := tput {} t.pcnt (32 * k + j) (c.add n) }
    else t) s

/-! ### Tile fields (Table 3-1) and host cycles -/

def Tile.tid (t : Tile) : Nat := bits t.d0 0 48
def Tile.tag (t : Tile) : Nat := bits t.d0 0 8
def Tile.layer (t : Tile) : Nat := bits t.d0 48 16
def Tile.op (t : Tile) : Nat := bits t.d1 0 16
def Tile.engId (t : Tile) : Nat := bits t.d1 16 22
def Tile.cls (t : Tile) : Nat := bits t.d1 38 4
def Tile.fmtA (t : Tile) : Nat := bits t.d1 42 5
def Tile.fmtB (t : Tile) : Nat := bits t.d1 47 5
def Tile.fmtC (t : Tile) : Nat := bits t.d1 52 5
def Tile.fmtAcc (t : Tile) : Nat := bits t.d1 57 5
def Tile.rnd (t : Tile) : Nat := bits t.d1 62 2
def Tile.m (t : Tile) : Nat := bits t.d3 0 16
def Tile.n (t : Tile) : Nat := bits t.d3 16 16
def Tile.k (t : Tile) : Nat := bits t.d3 32 24
def Tile.order (t : Tile) : Nat := bits t.d3 56 3
def Tile.opar (t : Tile) : Nat := bits t.d3 59 3
def Tile.accRtz (t : Tile) : Bool := bit t.d3 62
def Tile.satOn (t : Tile) : Bool := bit t.d3 63
/-- D1 has come, so class and formats are known. -/
def Tile.known (t : Tile) : Bool := decide (2 ≤ t.got)
def Tile.running (t : Tile) : Bool := !t.retired
/-- A live tile of a counted class (R157, R387). -/
def Tile.counted (t : Tile) : Bool := !t.strip && t.known && decide (t.cls ≤ 4)
/-- Filter data of a tile of engine `e`. -/
def Tile.info (t : Tile) (e : Nat) : PInfo :=
  { eng := some (engInCt e), cls := some t.cls, fmt := some t.fmtA, layer := some t.layer, op := some t.op }
/-- Multiply-accumulates of a retiring tile (Table 16-2 event 6). -/
def Tile.macs (t : Tile) : Nat := if t.cls ≤ 1 then t.m * t.n * t.k else t.m * t.n

def State.tilesOf (s : State) (e : Nat) : List Tile := tget [] s.tiles e
def State.setTiles (s : State) (e : Nat) (l : List Tile) : State := { s with tiles := tput [] s.tiles e l }

/-- The engine's oldest running live tile. -/
def busyTile (l : List Tile) : Option Tile := l.find? (fun t => t.running && !t.strip)

/-- Engines of a CT that are neither confirmed nor fenced. -/
def availEngines (s : State) (k : Nat) : Nat :=
  ((List.range (Config.nCore * Config.nEngine)).filter (fun i =>
    !blocked s (4 * (128 * k + i / Config.nEngine) + i % Config.nEngine))).length

/-- The host clock of CT `k` reaches cycle `c` (R425): busy and avail (R387) and the cycle events 9 and 10 count the
cycles that passed; a gated cluster's clock stands (R346). DESIGN CHOICE (log entry 14). -/
def advCyc (k c : Nat) (s : State) : State :=
  let d := c - s.cycOf k
  if d = 0 ∨ s.ctGated k then s
  else
    let mine := s.tiles.filter (fun e => engCt e.1 == k)
    let busy := (mine.filter (fun e => (busyTile e.2).isSome)).length
    let t := safeInc k 9 (d * availEngines s k) (safeInc k 8 (d * busy) (s.toCyc k c))
    let t := forAll mine (fun e u => match busyTile e.2 with
      | some x => pcntEv k 9 d (x.info e.1) u
      | none => u) t
    forAll (s.ctxSig.filter (fun e => engCt e.1 == k && bit e.2 16 && (busyTile (s.tilesOf e.1)).isNone))
      (fun e u => pcntEv k 10 d { eng := some (engInCt e.1) } u) t

/-- What happens on the cluster-clock side of CT `k` in host cycle `cyc` (R425): nothing while its cluster is gated
(R105, R346). DEDUCED (log entry 101). -/
def hostSide (k cyc : Nat) (g : State → State) (s : State) : State := if s.ctGated k then s else g (advCyc k cyc s)

/-! ### Rows of chapter 16 -/

/-- R391: the owner, a sequencer, or the tenant of the partition. -/
def obsOk (s : State) (w : Writer) (p : Nat) : Bool :=
  s.ownerOrTenant w p || (match w with | .seq _ => true | _ => false)

/-- R389: a CT's increments reach its FS, when they can travel. -/
def execSafelightCtReport (k : Nat) (s : State) : Out :=
  onUnit (ctOk k) (
    if !s.fieldLive (ctField k) || ctQuiet s k then s
    else forAll (List.range 10) (fun i t =>
      let n := tget 0 t.safeCt (16 * k + i)
      let f := 16 * ctField k + i
      { t with safeCt := tdel t.safeCt (16 * k + i), safeFs := tput 0 t.safeFs f (tget 0 t.safeFs f + n) }) s)

/-- Credit a sum of the CC (R389). -/
def safeCredit (scope i n : Nat) (s : State) : State :=
  { s with safeSum := tput 0 s.safeSum (16 * scope + i) ((tget 0 s.safeSum (16 * scope + i) + n) % 2 ^ 48) }

/-- R389: a field's increments, with those of its homed MTs and LTs, reach the CC. -/
def execSafelightFsReport (f : Nat) (s : State) : Out :=
  onUnit (fieldOk f) (
    if !s.fieldLive f then s
    else
      let t := forAll (List.range 10) (fun i t =>
        let n := tget 0 t.safeFs (16 * f + i)
        safeCredit 64 i n (safeCredit (s.partOf f) i n { t with safeFs := tdel t.safeFs (16 * f + i) })) s
      let t := forAll (mtsOf f) (fun m t =>
        let n := tget 0 t.safeTap m
        let u := safeCredit 64 4 n { t with safeTap := tdel t.safeTap m }
        if s.chanFree m then u else safeCredit (s.partOfChan m) 4 n u) t
      let t := forAll (ltsOf f) (fun l t =>
        safeCredit 64 4 (tget 0 t.safeTap (1024 + l)) { t with safeTap := tdel t.safeTap (1024 + l) }) t
      let t := { t with safeAt := tput 0 t.safeAt f s.wt }
      let live := (List.range Config.nField).filter t.fsWorks
      t.setReg .CC_SAFE_AT 0 (live.foldl (fun a g => min a (tget 0 t.safeAt g)) s.wt))

/-- R387: capture a safelight counter. -/
def ctSafeSelWrite (w : Writer) (k v : Nat) (s : State) : State :=
  if obsOk s w (s.partOf (ctField k)) then
    (s.wr F.CT_SAFE_SEL_index k (bits v 0 4)).wr F.CT_SAFE_VAL_value k (tget 0 s.safe (16 * k + bits v 0 4))
  else s.denied
def execSafeSelect (w : Writer) (k v : Nat) (s : State) : Out := regWrite w .CT_SAFE_SEL k s <|
  onUnit (ctOk k) (ctSafeSelWrite w k v s)

/-- R389, R391: capture a sum; a tenant names its own scope only. A scope that is no partition and not the wafer has
no sum: a free value (log entry 3). DESIGN CHOICE (log entry 32). -/
def ccSafeSelWrite (w : Writer) (v : Nat) (s : State) : State :=
  let sc := bits v 8 7
  if s.isOwner w || (match w with | .tenant q => q == sc | .seq _ => true | _ => false) then
    let t := (s.wr F.CC_SAFE_SEL_index 0 (bits v 0 4)).wr F.CC_SAFE_SEL_scope 0 sc
    if sc = 127 then t.wr F.CC_SAFE_VAL_value 0 (tget 0 s.safeSum (16 * 64 + bits v 0 4))
    else if sc < 64 then t.wr F.CC_SAFE_VAL_value 0 (tget 0 s.safeSum (16 * sc + bits v 0 4))
    else (t.drawFree 48).2.wr F.CC_SAFE_VAL_value 0 (t.drawFree 48).1
  else s.denied
def execCcSafeSelect (w : Writer) (v : Nat) (s : State) : Out := regWrite w .CC_SAFE_SEL 0 s <|
  .next (ccSafeSelWrite w v s)

/-- Show counter `j` of CT `k` in CT_PCNT_CFG and CT_PCNT_VAL. -/
def pcntShow (k j : Nat) (s : State) : State :=
  let c := tget {} s.pcnt (32 * k + j)
  ((s.setReg .CT_PCNT_CFG k c.cfg).wr F.CT_PCNT_VAL_value k c.value).wr F.CT_PCNT_VAL_wrapped k (b2n c.wrapped)

/-- R390: capture a programmable counter. -/
def pcntSelWrite (w : Writer) (k v : Nat) (s : State) : State :=
  if obsOk s w (s.partOf (ctField k)) then pcntShow k (bits v 0 5) (s.wr F.CT_PCNT_SEL_counter k (bits v 0 5))
  else s.denied
def execPcntSelect (w : Writer) (k v : Nat) (s : State) : Out := regWrite w .CT_PCNT_SEL k s <|
  onUnit (ctOk k) (pcntSelWrite w k v s)

/-- R390: configure the selected counter, which clears it, also where the value written is the old one. DESIGN CHOICE
(log entry 112). -/
def pcntCfgWrite (w : Writer) (k v : Nat) (s : State) : State :=
  if obsOk s w (s.partOf (ctField k)) then
    let c := setBits v 31 1 0
    { s with pcnt := tput {} s.pcnt (32 * k + s.rd F.CT_PCNT_SEL_counter k) ⟨c % 2 ^ 64, 0, false⟩ }.setReg
      .CT_PCNT_CFG k (c % 2 ^ 64)
  else s.denied
def execPcntCfgWrite (w : Writer) (k v : Nat) (s : State) : Out := regWrite w .CT_PCNT_CFG k s <|
  onUnit (ctOk k) (pcntCfgWrite w k v s)

/-- R390: CT_PCNT_CTL: clear all counters and flags, and set freeze. -/
def pcntCtlWrite (w : Writer) (k v : Nat) (s : State) : State :=
  if obsOk s w (s.partOf (ctField k)) then
    let t := s.wr F.CT_PCNT_CTL_freeze k (bits v 1 1)
    if bit v 0 then forAll (List.range 32) (fun j t =>
      let c := tget {} t.pcnt (32 * k + j)
      { t with pcnt := tput {} t.pcnt (32 * k + j) { c with value := 0, wrapped := false } }) t
    else t
  else s.denied
def execPcntClear (w : Writer) (k v : Nat) (s : State) : Out := regWrite w .CT_PCNT_CTL k s <|
  onUnit (ctOk k) (pcntCtlWrite w k v s)

/-- R392: whether the ring of partition `p` may be enabled. -/
def ringOk (s : State) (p : Nat) : Bool :=
  (ringChans s p).all (fun m => mtOk m && !s.chanFree m && s.partOfChan m == p
    && !hitsSlvRgn s m (s.rd F.CC_TRACE_RING1_base p) (s.rd F.CC_TRACE_RING1_length p)
    && !hitsSealed s m (s.rd F.CC_TRACE_RING1_base p) (s.rd F.CC_TRACE_RING1_length p)
    && !hitsShard s m (s.rd F.CC_TRACE_RING1_base p) (s.rd F.CC_TRACE_RING1_length p)
    && !hitsSheet s m (s.rd F.CC_TRACE_RING1_base p) (s.rd F.CC_TRACE_RING1_length p))

/-- R392, Table 16-8: a write of CC_TRACE_CFG; enabling zeroes head and tail, or is refused, which leaves a trace that is on as it
is. DESIGN CHOICE (log entry 112). -/
def traceCfgWrite (w : Writer) (p v : Nat) (s : State) : State :=
  if s.isOwner w then
    let t := (s.wr F.CC_TRACE_CFG_stop_mode p (bits v 1 1)).wr F.CC_TRACE_CFG_events p (bits v 8 7)
    if !bit v 0 then t.wr F.CC_TRACE_CFG_enable p 0
    else if ringOk s p then
      (({ t with traceW := tdel t.traceW p }.wr F.CC_TRACE_CFG_enable p 1).wr F.CC_TRACE_HEAD_head p 0).wr
        F.CC_TRACE_TAIL_tail p 0
    else
      (traceDisable p 2 t).wr F.CC_TRACE_CFG_enable p
        (s.rd F.CC_TRACE_CFG_enable p)
  else s.denied
def execTraceEnable (w : Writer) (p v : Nat) (s : State) : Out := regWrite w .CC_TRACE_CFG p s <|
  onUnit (partOk p) (traceCfgWrite w p v s)

/-! ### The trace writer (R393, R395) -/

def State.trW (s : State) (p : Nat) : TWriter := tget {} s.traceW p

/-- The writer of `p` can place a block: ring, home FS, no reset or scrub of the partition, and in stop mode room. A record that
comes while it cannot is dropped. DESIGN CHOICE (log entry 112). -/
def writerOk (s : State) (p : Nat) : Bool :=
  s.rb F.CC_TRACE_CFG_enable p
  && (match ringChans s p with | [] => false | m :: _ => s.fieldLive (Config.mtHome m))
  && s.rd F.CC_TRACE_RING1_length p != 0
  && s.rd F.CC_PART_STAT_phase p == 0
  && (!s.rb F.CC_TRACE_CFG_stop_mode p
      || decide ((s.rd F.CC_TRACE_HEAD_head p + 2 ^ 40 - s.rd F.CC_TRACE_TAIL_tail p) % 2 ^ 40 + 128 ≤ ringCap s p))

/-- Write the writer's block (R393): pads fill it, head advances by 128, and the MT stores a created sleeve: format 30, clean,
origin p. -/
def traceFlush (p : Nat) (s : State) : State :=
  let x := s.trW p
  if x.recs.isEmpty then s
  else if writerOk s p then
    let pads := List.replicate (128 - x.recs.length) (TRec.mk s.wt 15 0 0)
    let bytes := ((x.recs ++ pads).map TRec.bytes).flatten
    let head := s.rd F.CC_TRACE_HEAD_head p
    let at_ := ringBlock s p (head / 128)
    putSlv at_.1 at_.2 (mkSlv (crc48 bytes) 30 false 1 p)
      ({ s with traceW := tput {} s.traceW p ({ lost := x.lost } : TWriter),
                traceOut := tput [] s.traceOut p bytes }.wr F.CC_TRACE_HEAD_head p (head + 128))
  else
    { s with traceW := tput {} s.traceW p ({ lost := x.lost + x.recs.length } : TWriter) }.bump
      F.CC_TRACE_STAT_lost p x.recs.length

/-- A record reaches the writer of `p` (R393): a waiting loss record goes in ahead of it, and a full block is written. -/
def writerTake (p : Nat) (r : TRec) (s : State) : State :=
  if writerOk s p then
    let x := s.trW p
    let loss := if x.lost > 0 then [lossRec s 0 x.lost true] else []
    let y : TWriter :=
      { recs := x.recs ++ loss, firstWt := if x.recs.isEmpty then s.wt else x.firstWt, lost := 0 }
    let t := { s with traceW := tput {} s.traceW p y }
    let t := if y.recs.length ≥ 128 then traceFlush p t else t
    let z := t.trW p
    let y : TWriter := { z with recs := z.recs ++ [r], firstWt := if z.recs.isEmpty then s.wt else z.firstWt }
    let t := { t with traceW := tput {} t.traceW p y }
    if (t.trW p).recs.length ≥ 128 then traceFlush p t else t
  else
    let x := s.trW p
    { s with traceW := tput {} s.traceW p ({ x with lost := x.lost + 1 } : TWriter) }.bump F.CC_TRACE_STAT_lost p

/-- R394: a host marker, WT and value, goes to the writer of `p`. -/
def traceMarkWrite (w : Writer) (p v : Nat) (s : State) : State :=
  if s.ownerOrTenant w p then
    if s.rb F.CC_TRACE_CFG_enable p then writerTake p ⟨s.wt, 7, 0, v % 2 ^ 48⟩ s else s
  else s.denied
def execTraceMark (w : Writer) (p v : Nat) (s : State) : Out := regWrite w .CC_TRACE_MARK p s <|
  onUnit (partOk p) (traceMarkWrite w p v s)

/-- R393: 50 µs after the block's first record the writer writes it, padded. -/
def execTraceBlockWrite (p : Nat) (s : State) : Out :=
  onUnit (partOk p) (
    if (s.trW p).recs.isEmpty then s else traceFlush p (s.toWt ((s.trW p).firstWt + 50 * us)))

/-- R393: the oldest record of a CT's queue reaches the writer of its partition. -/
def execTraceRecordArrive (k : Nat) (s : State) : Out :=
  onUnit (ctOk k) (
    match s.trQ k with
    | r :: q => if s.fieldLive (ctField k) && !ctQuiet s k then writerTake (s.partOf (ctField k)) r (setTrQ k q s) else s
    | [] => s)

end Sys2Proof.Machine
end

