-- ==== Sys2Proof/Machine/Fp.lean ====
section
/-!
DEFINITION. Number formats and exact arithmetic (R82 to R90), and the counter generator G (R91).
-/
namespace Sys2Proof.Machine

/-- A number of one of the formats, exactly: NaN, an infinity, or ±m · 2^e with the sign of zero kept. -/
inductive Val where
  | nan
  | inf (neg : Bool)
  | fin (neg : Bool) (m : Nat) (e : Int)
deriving DecidableEq, Repr

/-- Binary formats: exponent bits, mantissa bits, bias, and 0 for IEEE specials, 1 for E4M3 (all ones is NaN,
no infinity), 2 for formats without specials. -/
structure FFmt where
  eb : Nat
  mb : Nat
  bias : Nat
  kind : Nat
deriving DecidableEq, Repr

/-- The floating formats of Table 2-4 (R82). -/
def floatFmt : Nat → Option FFmt
  | 1 => some ⟨8, 23, 127, 0⟩
  | 2 => some ⟨8, 7, 127, 0⟩
  | 3 => some ⟨5, 10, 15, 0⟩
  | 4 => some ⟨4, 3, 7, 1⟩
  | 5 => some ⟨5, 2, 15, 0⟩
  | 6 => some ⟨4, 3, 7, 1⟩
  | 7 => some ⟨5, 2, 15, 0⟩
  | 8 => some ⟨3, 2, 3, 2⟩
  | 9 => some ⟨2, 3, 1, 2⟩
  | 10 => some ⟨2, 1, 1, 2⟩
  | _ => none

/-- Element width in bits of a format code (R83). -/
def fmtBits : Nat → Nat
  | 1 => 32 | 14 => 32 | 2 => 16 | 3 => 16 | 8 => 6 | 9 => 6 | 10 => 4 | 13 => 4 | _ => 8

/-- Elements per tensor block of a format (R118). -/
def fmtPerBlock (f : Nat) : Nat :=
  match fmtBits f with
  | 32 => 512 | 16 => 1024 | 6 => 2720 | 4 => 4096 | _ => 2048

/-- MX element formats (R80). -/
def isMx (f : Nat) : Bool := decide (6 ≤ f) && decide (f ≤ 11)

/-- The smallest exponent step of a float format. -/
def FFmt.q0 (f : FFmt) : Int := 1 - (f.bias : Int) - (f.mb : Int)
/-- Code of the largest finite magnitude. -/
def FFmt.maxCode (f : FFmt) : Nat :=
  match f.kind with
  | 0 => (2 ^ f.eb - 1) * 2 ^ f.mb - 1
  | 1 => 2 ^ (f.eb + f.mb) - 2
  | _ => 2 ^ (f.eb + f.mb) - 1
/-- Canonical NaN (R86). -/
def FFmt.nanCode (f : FFmt) : Nat :=
  match f.kind with
  | 0 => (2 ^ f.eb - 1) * 2 ^ f.mb + 2 ^ (f.mb - 1)
  | _ => 2 ^ (f.eb + f.mb) - 1

/-- Value of a bit pattern of a float format. -/
def FFmt.dec (f : FFmt) (v : Nat) : Val :=
  let neg := bit v (f.eb + f.mb)
  let c := v % 2 ^ (f.eb + f.mb)
  if f.kind = 0 ∧ c ≥ (2 ^ f.eb - 1) * 2 ^ f.mb then
    if c = (2 ^ f.eb - 1) * 2 ^ f.mb then .inf neg else .nan
  else if f.kind = 1 ∧ c = 2 ^ (f.eb + f.mb) - 1 then .nan
  else
    let x := c / 2 ^ f.mb
    if x = 0 then .fin neg c f.q0
    else .fin neg (c % 2 ^ f.mb + 2 ^ f.mb) (f.q0 + (x : Int) - 1)

/-- An integer as a value. -/
def intVal (x : Int) (e : Int) : Val := .fin (decide (x < 0)) x.natAbs e

/-- Value of an element of a format code (R82): floats, MXINT8 with factor 2⁻⁶, INT8, INT4, INT32. -/
def elemVal (code v : Nat) : Val :=
  match floatFmt code with
  | some f => f.dec v
  | none =>
    match code with
    | 11 => intVal (sext 8 v) (-6)
    | 12 => intVal (sext 8 v) 0
    | 13 => intVal (sext 4 v) 0
    | 14 => intVal (sext 32 v) 0
    | _ => .fin false v 0

/-! ### Exact sums and products (R86) -/

def Val.neg? : Val → Bool
  | .nan => false
  | .inf n => n
  | .fin n _ _ => n
def Val.isNan : Val → Bool
  | .nan => true
  | _ => false
def Val.isFin : Val → Bool
  | .fin _ _ _ => true
  | _ => false

/-- The signed integer of a finite value at exponent `e0`, which is at most its own. -/
def scaleTo (n : Bool) (m : Nat) (e e0 : Int) : Int :=
  let x : Int := (m * 2 ^ (e - e0).toNat : Nat)
  if n then -x else x

/-- Exact sum; an exact zero of opposite signs is +0. -/
def Val.add : Val → Val → Val
  | .nan, _ => .nan
  | _, .nan => .nan
  | .inf a, .inf b => if a = b then .inf a else .nan
  | .inf a, _ => .inf a
  | _, .inf b => .inf b
  | .fin n m e, .fin n' m' e' =>
    let e0 := min e e'
    let x := scaleTo n m e e0 + scaleTo n' m' e' e0
    if x = 0 then .fin (n && n') 0 e0 else intVal x e0

/-- Sign change. -/
def Val.negate : Val → Val
  | .nan => .nan
  | .inf n => .inf (!n)
  | .fin n m e => .fin (!n) m e
/-- Magnitude. -/
def Val.abs : Val → Val
  | .nan => .nan
  | .inf _ => .inf false
  | .fin _ m e => .fin false m e
/-- Zero of either sign. -/
def Val.isZero : Val → Bool
  | .fin _ 0 _ => true
  | _ => false

/-- Exact product; zero times infinity is NaN. -/
def Val.mul : Val → Val → Val
  | .nan, _ => .nan
  | _, .nan => .nan
  | .inf a, .inf b => .inf (a != b)
  | .inf a, .fin n m _ => if m = 0 then .nan else .inf (a != n)
  | .fin n m _, .inf b => if m = 0 then .nan else .inf (n != b)
  | .fin n m e, .fin n' m' e' => .fin (n != n') (m * m') (e + e')

/-- `a < b` of numbers that are not NaN; zeros are equal. -/
def Val.lt : Val → Val → Bool
  | .inf a, .inf b => a && !b
  | .inf a, .fin _ _ _ => a
  | .fin _ _ _, .inf b => !b
  | .fin n m e, .fin n' m' e' =>
    let e0 := min e e'
    decide (scaleTo n m e e0 < scaleTo n' m' e' e0)
  | _, _ => false

/-! ### Rounding (R88 to R90, R138, R142) -/

/-- Rounding modes: nearest even, toward zero, toward +∞, stochastic with 16 random bits. -/
inductive Rnd where
  | rne
  | rtz
  | up
  | sto (r : Nat)
deriving DecidableEq, Repr

/-- Bits of a natural number. -/
def bitLen (m : Nat) : Nat := if m = 0 then 0 else Nat.log2 m + 1

/-- Whether a magnitude with the integer part `lo` and the rest `rem` of `2^sh` rounds away from zero. -/
def roundsUp (mode : Rnd) (neg : Bool) (lo rem sh : Nat) : Bool :=
  match mode with
  | .rne => decide (rem * 2 > 2 ^ sh) || (rem * 2 == 2 ^ sh && lo % 2 == 1)
  | .rtz => false
  | .up => !neg && decide (0 < rem)
  | .sto r => decide (65536 ≤ rem * 65536 / 2 ^ sh + r)

/-- `m · 2^e` as a multiple of `2^q`, rounded: the multiple. -/
def roundAt (mode : Rnd) (neg : Bool) (m : Nat) (e q : Int) : Nat :=
  if q ≤ e then m * 2 ^ (e - q).toNat
  else
    let sh := (q - e).toNat
    let lo := m / 2 ^ sh
    lo + b2n (roundsUp mode neg lo (m % 2 ^ sh) sh)

/-- Rounding of a magnitude to `p` bits with least step `q0`: the multiple and its exponent. -/
def roundMag (p : Nat) (q0 : Int) (mode : Rnd) (neg : Bool) (m : Nat) (e : Int) : Nat × Int :=
  let q := max (e + (bitLen m : Int) - (p : Int)) q0
  (roundAt mode neg m e q, q)

/-- The code of a rounded magnitude in a float format; beyond maxCode it overflows. -/
def FFmt.magCode (f : FFmt) (r : Nat × Int) : Nat :=
  if r.1 = 0 then 0 else (r.2 - f.q0).toNat * 2 ^ f.mb + r.1

/-- Rounding into a float format as IEEE 754 does (accumulators, fold): toward zero and a downward overflow stop at
the largest finite value. Any other overflow is infinite, in E4M3 too, which has no code for it: a value that only an
accumulator can hold. DESIGN CHOICE (log entry 102). -/
def FFmt.racc (f : FFmt) (mode : Rnd) (v : Val) : Val :=
  match v with
  | .nan => .nan
  | .inf n => .inf n
  | .fin n m e =>
    let r := roundMag (f.mb + 1) f.q0 mode n m e
    if f.magCode r > f.maxCode then
      if mode = .rtz ∨ (mode = .up ∧ n = true) then (f.dec (f.maxCode + b2n n * 2 ^ (f.eb + f.mb)))
      else .inf n
    else .fin n r.1 r.2

/-- Bits of a value that a float format holds. -/
def FFmt.enc (f : FFmt) (v : Val) : Nat :=
  match v with
  | .nan => f.nanCode
  | .inf n => (2 ^ f.eb - 1) * 2 ^ f.mb + b2n n * 2 ^ (f.eb + f.mb)
  | .fin n m e => f.magCode (roundMag (f.mb + 1) f.q0 .rtz n m e) + b2n n * 2 ^ (f.eb + f.mb)

/-- The final rounding into a float format (R89, R90). -/
def FFmt.rout (f : FFmt) (mode : Rnd) (satOn : Bool) (v : Val) : Nat :=
  let sgn := fun (n : Bool) => b2n n * 2 ^ (f.eb + f.mb)
  let infCode := fun (n : Bool) => if f.kind = 0 then (2 ^ f.eb - 1) * 2 ^ f.mb + sgn n else f.nanCode
  match v with
  | .nan => f.nanCode
  | .inf n => infCode n
  | .fin n m e =>
    let c := f.magCode (roundMag (f.mb + 1) f.q0 mode n m e)
    if c > f.maxCode then
      if mode = .rtz ∨ satOn = true then f.maxCode + sgn n else infCode n
    else c + sgn n

/-- Width of an integer format code. -/
def intBits (code : Nat) : Nat := match code with | 12 => 8 | 13 => 4 | _ => 32

/-- Rounding and saturation into an integer format, for classes 2 and 3 (R126). -/
def toInt (code : Nat) (mode : Rnd) (v : Val) : Int :=
  let w := intBits code
  let hi : Int := 2 ^ (w - 1) - 1
  let lo : Int := -(2 ^ (w - 1))
  match v with
  | .nan => 0
  | .inf n => if n then lo else hi
  | .fin n m e =>
    let k : Int := (roundAt mode n m e 0 : Nat)
    max lo (min hi (if n then -k else k))

/-- The final rounding to a format code: R89 and R90 for floats, R126 for integers. -/
def routCode (code : Nat) (mode : Rnd) (satOn : Bool) (v : Val) : Nat :=
  match floatFmt code with
  | some f => f.rout mode satOn v
  | none => toField (intBits code) (toInt code mode v)

/-- Rounding into an accumulator of a format code (R88, R126). -/
def raccCode (code : Nat) (rtz : Bool) (v : Val) : Val :=
  let mode := if rtz then Rnd.rtz else Rnd.rne
  match floatFmt code with
  | some f => f.racc mode v
  | none => intVal (toInt code mode v) 0

def fp32 : FFmt := ⟨8, 23, 127, 0⟩

/-! ### The counter generator (R91) -/

/-- Exclusive or and product on 32 bits. -/
def x32 (a b : Nat) : Nat := Nat.xor a b % 2 ^ 32
def mix32 (x : Nat) : Nat :=
  let a := x32 x (x / 2 ^ 16)
  let b := a * 0x4F1BB5A7 % 2 ^ 32
  x32 b (b / 2 ^ 12)

/-- G(key, T, d, c). -/
def genG (key tid d c : Nat) : Nat :=
  let x := x32 (key % 2 ^ 32) (c % 2 ^ 32)
  let y := x32 (x32 (bits key 32 32) (tid % 2 ^ 32)) 0x6A5D39C1
  let z := (bits tid 32 16 + d * 2 ^ 16) % 2 ^ 32
  mix32 ((mix32 (x32 x z) + y) % 2 ^ 32)

end Sys2Proof.Machine
end

