-- ==== Sys2Proof/Machine/Cert.lean ====
section
/-!
DEFINITION. The fold and the certified tolerance (R138, R140 to R143).
-/
namespace Sys2Proof.Machine

/-- An FP32 operation rounded toward +∞ (R142). -/
def up32 (v : Val) : Val := fp32.racc .up v
def addU (a b : Val) : Val := up32 (a.add b)
def mulU (a b : Val) : Val := up32 (a.mul b)
/-- A count, converted upward. -/
def cntU (n : Nat) : Val := up32 (intVal n 0)
def oneV : Val := .fin false 1 0
def pow2V (e : Int) : Val := .fin false 1 e
/-- 16/15 rounded upward. -/
def c1615 : Val := .fin false 8947849 (-23)

/-- Precision p of Table 5-2. -/
def precOf : Nat → Nat
  | 1 => 24 | 2 => 8 | 3 => 11 | 4 => 4 | 5 => 3 | _ => 24
/-- λ of Table 5-2, zero for INT32. -/
def lamOf : Nat → Val
  | 1 => pow2V (-149) | 2 => pow2V (-133) | 3 => pow2V (-24) | 4 => pow2V (-9) | 5 => pow2V (-16)
  | _ => .fin false 0 0
/-- The exponent of 1/u: u = 2^−p to nearest even, 2^(1−p) otherwise (R140). -/
def uExp (code : Nat) (rne : Bool) : Nat := if rne then precOf code else precOf code - 1

/-- γ̃_n(2^−k) (R140): none where it is not defined, zero for no rounding. -/
def gam (n k : Nat) : Option Val :=
  if n = 0 then some (.fin false 0 0)
  else if n * 16 > 2 ^ k then none
  else some (mulU (mulU (cntU n) (pow2V (-(k : Int)))) c1615)

/-- Integer tiles (R80). -/
def Tile.isInt (t : Tile) : Bool := t.fmtC == 14
/-- Chunk or group size of an order (Table 3-5). -/
def Tile.chunk (t : Tile) : Nat := if t.order = 2 then 2 ^ (t.opar + 3) else 4 * 2 ^ t.opar
/-- Rounding counts d_acc and d_32 (Table 5-3). -/
def Tile.dAcc (t : Tile) : Nat :=
  if t.isInt then 0
  else match t.order with
    | 0 => t.k
    | 1 => (if t.k ≤ 1 then 0 else Nat.log2 (t.k - 1) + 1) + 1
    | 2 => min t.chunk t.k
    | 3 => ceilDiv t.k t.chunk
    | _ => 0
def Tile.d32 (t : Tile) : Nat := if !t.isInt && t.order == 2 then ceilDiv t.k t.chunk - 1 else 0

/-- The tile's coefficients at D3 (R141, R142): c and 1 + θ; none when a γ̃ is undefined (reason 1). -/
def certCoef (t : Tile) : Option (Val × Val) := do
  let gA ← gam t.dAcc (uExp t.fmtAcc (!t.accRtz))
  let g3 ← gam t.d32 (uExp 1 (!t.accRtz))
  let gM ← gam t.m 24
  let gN ← gam t.n 24
  let gK ← gam t.k 24
  let gMN ← gam (t.m * t.n) 24
  let gMN2 ← gam (t.m * t.n) 23
  let aO := addU gA (mulU g3 (addU oneV gA))
  let uOut := pow2V (-((if t.isInt then 24 else uExp t.fmtC (t.rnd == 0)) : Nat))
  let th := mulU (mulU (addU oneV aO) (addU oneV uOut)) (addU oneV gMN2)
  let c := addU aO (mulU uOut (addU oneV aO))
  let c := addU (addU c gM) gN
  let c := addU c (mulU gM gN)
  let c := addU c (mulU (mulU gK (addU oneV gM)) (addU oneV gN))
  some (addU c (mulU gMN th), th)

/-- τ_abs (R142) from Q̂ and R̂. -/
def tauAbs (t : Tile) (q r : Val) : Val :=
  let two := cntU 2
  let mn := cntU (t.m * t.n)
  let lam := addU (addU (lamOf t.fmtC) (mulU (cntU t.dAcc) (lamOf t.fmtAcc)))
    (mulU (cntU t.d32) (lamOf 1))
  let sums := addU (addU (addU (mulU (mulU two (cntU t.m)) r) (mulU (mulU two (cntU t.n)) q)) (cntU t.k)) mn
  mulU two (addU (mulU mn lam) (mulU (lamOf 1) sums))

/-- The largest finite value L of fmt_c (Table 5-2). -/
def maxFin (code : Nat) : Val :=
  match floatFmt code with
  | some f => f.dec f.maxCode
  | none => intVal (2 ^ 31 - 1) 0

/-- ⌊log₂(x / y)⌋ kept within 0 to 254 (Tables 5-17, 6-19). -/
def ratioClass (x y : Val) : Nat :=
  match x, y with
  | .fin _ 0 _, _ => 0
  | .fin _ m e, .fin _ n g =>
    if n = 0 then 254
    else
      let e0 := min e g
      let a := m * 2 ^ (e - e0).toNat
      let b := n * 2 ^ (g - e0).toNat
      if a < b then 0 else min 254 (let d := bitLen a - bitLen b; if b * 2 ^ d ≤ a then d else d - 1)
  | _, _ => 0

/-- What the procedure of R143 gives: the outcome, ratio class, guard, and whether the band test decided. -/
structure ChkOut where
  chk : Chk
  ratio : Nat := 0
  guard : Bool := false
  band : Bool := false

/-- The checksum verdict after the tile's last beat (R143). -/
def chkVerdict (t : Tile) : ChkOut :=
  let p := fp32.dec t.fP
  let s := fp32.dec t.fS
  let q := fp32.dec t.fQ
  let r := fp32.dec t.fR
  let h := fp32.dec t.fH
  let e := fp32.dec t.fE
  match certCoef t with
  | none => { chk := .uncert 1 }
  | some (c, th) =>
    let tabs := tauAbs t q r
    let g := addU (mulU th s) tabs
    let tau := addU (mulU c s) tabs
    let l := maxFin t.fmtC
    if !(q.isFin && r.isFin && s.isFin && p.isFin) then { chk := .uncert 2 }
    else if t.fmtC = 14 ∧ l.lt g then { chk := .uncert 5 }
    else if !(h.isFin && e.isFin) then
      if l.lt g then { chk := .uncert 3 } else { chk := .failed, ratio := 255 }
    else if t.satOn && l.lt g then { chk := .uncert 4 }
    else
      let out := h.lt (p.add tau.negate) || (p.add tau).lt h
      let rc := if out then ratioClass (h.add p.negate).abs tau else 0
      if g.lt e then { chk := .failed, ratio := rc, guard := true }
      else if out then { chk := .failed, ratio := rc, band := true }
      else { chk := .clean, band := true }

/-- One beat into the accumulators (Table 5-1). -/
def foldBeat (t : Tile) (kind data : Nat) : Tile :=
  let lo := fp32.dec (data % 2 ^ 32)
  let hi := fp32.dec (bits data 32 32)
  let t := { t with nF := t.nF + 1 }
  match kind with
  | 1 => { t with fP := fp32.enc (fp32.racc .rne ((fp32.dec t.fP).add (lo.mul hi))) }
  | 2 => { t with fS := fp32.enc (up32 ((fp32.dec t.fS).add (lo.mul hi))),
                  fQ := fp32.enc (addU (fp32.dec t.fQ) lo), fR := fp32.enc (addU (fp32.dec t.fR) hi) }
  | _ => { t with fH := data % 2 ^ 32, fE := bits data 32 32 }

end Sys2Proof.Machine
end

