-- ==== Sys2Proof/Machine/StripCore.lean ====
section
/-!
DEFINITION. What the checks share in an FS: force bits (R116), latent entries (R196), the strip state of cores (R166),
bracketing aborts (R192) and the suspect array (R124, R472).
-/
namespace Sys2Proof.Machine

/-! ### Force bits (R116) -/

/-- The force register and bit of a core. -/
def forceReg (c : Nat) : Reg := if c % 128 < 64 then .CT_PROOF_FORCE0 else .CT_PROOF_FORCE1
def forceBit (s : State) (c : Nat) : Bool := bit (s.regVal (forceReg c) (coreCt c)) (c % 64)

/-- Forced cores of a field: FS_PROOF_STAT.forced. -/
def forcedOf (s : State) (f : Nat) : Nat := s.rd F.FS_PROOF_STAT_forced f

/-- Set or clear a core's bit, with the field's count. -/
def putForce (c : Nat) (b : Bool) (s : State) : State :=
  if forceBit s c == b then s
  else
    let f := coreField c
    (s.setReg (forceReg c) (coreCt c) (setBits (s.regVal (forceReg c) (coreCt c)) (c % 64) 1 (b2n b))).wr
      F.FS_PROOF_STAT_forced f (if b then forcedOf s f + 1 else forcedOf s f - 1)

/-- Ask for a force bit: refused, and counted, when the field would exceed shadow_max (R116).
DEDUCED (log entry 39). -/
def tryForce (c : Nat) (s : State) : Bool × State :=
  let f := coreField c
  if forceBit s c then (true, s)
  else if forcedOf s f + 1 > s.rd F.FS_PROOF_CFG_shadow_max f then (false, s.bump F.FS_PROOF_STAT_force_refused f)
  else (true, putForce c true s)

/-! ### Per-partition settings at the CTs (R115, R150) -/

/-- Settings: 0 rate exponent, 1 checking mode, 2 rotation period, 3 watchdog interval. -/
def settingReg : Nat → Fld
  | 0 => F.CC_PROOF_RATE_rate_exp
  | 1 => F.CC_CHECK_MODE_mode
  | 2 => F.CC_HORIZON_CFG_period_s
  | _ => F.CC_WDOG_CFG_interval

/-- The setting as field `f` holds it: the value forwarded last, else what the register of its partition resets to.
DEDUCED (log entry 37). -/
def State.setting (s : State) (f i : Nat) : Nat :=
  match tfind s.ctSet (4 * f + i) with
  | some (v + 1) => v
  | _ => (settingReg i).rst

/-- Forward a setting of the partition to one of its fields; without Trogirum it waits there for its resend (R36).
DESIGN CHOICE (log entry 17). DEDUCED (log entry 37). -/
def forwardTo (i f : Nat) (s : State) : State :=
  if s.fieldLive f then
    { s with ctSet := tput 0 s.ctSet (4 * f + i) (s.rd (settingReg i) (s.partOf f) + 1) } else s
/-- Forward every setting to a field: after its partition changes, or when Trogirum returns to it. -/
def forwardField (f : Nat) (s : State) : State := forAll [0, 1, 2, 3] (fun i t => forwardTo i f t) s

/-! ### Fenced engines (R194) -/

/-- The engines of a core that are not fenced (Table 8-1): a confirmed engine runs strips until its acknowledgement. -/
def liveEngines (s : State) (c : Nat) : List Nat :=
  ((List.range Config.nEngine).map (fun i => 4 * c + i)).filter (fun e => !engFenced s e)
/-- Cores of a field and of a cluster that the build holds. -/
def coresOfCt (k : Nat) : List Nat := (List.range Config.nCore).map (fun i => 128 * k + i)
def coresOfField (f : Nat) : List Nat :=
  ((List.range Config.nCluster).map (fun c => coresOfCt (64 * f + c))).flatten

/-! ### Latent entries (R196) -/

def latentSlots (s : State) (f : Nat) : List (Nat × Latent) := s.latent.filter (fun e => e.1 / 64 == f)
def latentAt (s : State) (e : Nat) : Option (Nat × Latent) := s.latent.find? (fun x => x.2.eng == e)
/-- A latent engine of a core. -/
def coreLatent (s : State) (c : Nat) : Bool := s.latent.any (fun x => engCore x.2.eng == c && !x.2.confirmed)
/-- FS_FIX_STAT.latent follows the table. -/
def latentSync (f : Nat) (s : State) : State := s.wr F.FS_FIX_STAT_latent f (latentSlots s f).length

def emptyLatent : Latent := { eng := 0 }
def setLatent (k : Nat) (l : Latent) (s : State) : State := { s with latent := tins (tdel s.latent k) k l }

/-- Make an engine latent (R196): an entry, the core's force bit, UNIT_LATENT; a full table is counted and recorded.
The Bool tells whether an entry was made. -/
def makeLatent (e code cause slot : Nat) (s : State) : Bool × State :=
  let f := engField e
  match (List.range 64).find? (fun i => (tfind s.latent (64 * f + i)).isNone) with
  | none => (false, raiseFs f { code := Code.LATENT_FULL, unit := e, params := code } (s.bump F.FS_FIX_STAT_latent_full f))
  | some i =>
    match tryForce (engCore e) s with
    | (ok, t) =>
      let x : Latent := { eng := e, forced := ok, slot := slot, cause := cause, entered := s.wt, window := s.wt }
      (true, raiseFs f { code := Code.UNIT_LATENT, unit := e, params := cause + 2 ^ 3 * slot + 2 ^ 6 * b2n ok }
        (latentSync f (setLatent (64 * f + i) x t)))

/-- A running context replay takes note of a detection event against its quarantine core (Table 12-4). -/
def replayHit (e : Nat) (s : State) : State :=
  match tfind s.crep (engField e) with
  | some x => if x.running && x.core == engCore e then
      { s with crep := tins (tdel s.crep (engField e)) (engField e) { x with hit := true } } else s
  | none => s
/-- A detection event against an engine (Table 8-2); without a working FS nothing happens. -/
def detect (e code cause slot : Nat) (s : State) : State :=
  let s := replayHit e s
  if !s.fsWorks (engField e) || blocked s e then s
  else match latentAt s e with
    | some (k, x) => if x.confirmed then s else setLatent k { x with failures := min 15 (x.failures + 1) } s
    | none => if s.rb F.FS_FIX_CFG_latent_auto (engField e) then (makeLatent e code cause slot s).2 else s

/-! ### Core states (Table 6-4) -/

def State.core (s : State) (c : Nat) : Core := tget {} s.cores c
def fieldCores (s : State) (f : Nat) : List (Nat × Core) := s.cores.filter (fun e => coreField e.1 == f)
/-- An engine of the core is overdue (R169). -/
def coreOverdue (s : State) (c : Nat) : Bool :=
  (List.range 4).any (fun i => (tget {} s.ledger (4 * c + i)).overdue)
/-- A strip request of the core is outstanding: asserted, waiting for a grant to fall, or a replay that waits for the core
(R166, R198). -/
def Core.outstanding (x : Core) : Bool := ((x.req || x.again) && x.kind == 0) || x.next.isSome
/-- When the grace of a core that becomes due or requested now ends (Table 6-4). -/
def graceEndOf (s : State) (f : Nat) : Nat := s.wt + max 1 (s.rd F.FS_STRIP_CFG_grace_ms f) * ms
/-- FS_STRIP_STAT follows the cores (Table 6-9). -/
def stripSync (f : Nat) (s : State) : State :=
  let l := fieldCores s f
  let late := (coresOfField f).filter (fun c => s.ledger.any (fun e => engCore e.1 == c && e.2.overdue))
  (((s.wr F.FS_STRIP_STAT_active f (min 63 (l.filter (fun e => e.2.outstanding)).length)).wr
    F.FS_STRIP_STAT_due f (l.filter (fun e => e.2.st == 1)).length).wr
    F.FS_STRIP_STAT_shielded f (l.filter (fun e => e.2.st == 3)).length).wr
    F.FS_STRIP_STAT_overdue f (if s.ledger.any (fun e => engField e.1 == f && e.2.overdue) then late.length else 0)
def State.setCore (s : State) (c : Nat) (x : Core) : State :=
  stripSync (coreField c) { s with cores := tput {} s.cores c x }

/-- In strip mode: granted and not released (R158). -/
def stripMode (s : State) (c : Nat) : Bool := (s.core c).st == 5 || (s.core c).st == 6

/-- Raise a yield request (R442): while the last grant is still high it waits. -/
def raiseReq (x : Core) (kind recipe : Nat) (force : Bool) : Core :=
  if x.granted && !x.req then { x with again := true, kind := kind, recipe := recipe, force := force }
  else { x with req := true, kind := kind, recipe := recipe, force := x.force || force }
/-- Drop the request and release the core; a replay, with grace until `g`, or a hold that waited for it is then requested. -/
def dropReq (g : Nat) (x : Core) : Core :=
  let y := { x with req := false, force := false, again := false, graceEnd := none, forceEnd := none, pairEnd := none,
                    strip := none, suspect := none, witness := none, next := none, holdNext := false, st := 0,
                    cause := 0 }
  if x.holdNext then raiseReq y 1 0 false
  else match x.next with
    | some e => { raiseReq y 0 0 false with suspect := some e, st := 2, graceEnd := some g }
    | none => y
/-- Release a core. -/
def releaseCore (c : Nat) (s : State) : State := s.setCore c (dropReq (graceEndOf s (coreField c)) (s.core c))

/-- End a shadow (R167): the force bit clears unless the core is latent. -/
def endShadow (c : Nat) (s : State) : State :=
  let x := s.core c
  if x.shadow then
    let t := s.setCore c { x with shadow := false }
    if coreLatent t c then t else putForce c false t
  else s

/-- Notification-only codes of the strip logic (Table 10-9). -/
def noteCore (code c extra : Nat) (s : State) : State :=
  notifyFs (coreField c) code (coreEng c) (coreIdx c + extra) s

/-- Store a replay outcome in the suspect's entry and tell the sequencer (Table 8-2, Table 8-3). -/
def replayOutcome (e outcome : Nat) (s : State) : State :=
  match latentAt s e with
  | some (k, x) => notifyFs (engField e) Code.REPLAY_OUTCOME e outcome (setLatent k { x with replay := outcome } s)
  | none => s

/-- FS_PACK_VER.switching: strips of the previous pack still run (Table 9-13). -/
def packSync (f : Nat) (s : State) : State :=
  let cur := tget 0 s.fsPack f
  s.wr F.FS_PACK_VER_switching f (b2n ((tget [] s.strips f).any (fun x => match x.bank with
    | some b => b + 1 != cur
    | none => false)))

/-- Take a core out of the strips of its field, with the results it has not sent; a strip without cores is gone. -/
def leaveStrip (c : Nat) (s : State) : State :=
  let f := coreField c
  let l := (tget [] s.strips f).map (fun (x : Strip) => { x with cores := x.cores.filter (· != c) })
  packSync f { s with strips := tput [] s.strips f (l.filter (fun x => !x.cores.isEmpty)), stripOut := tdel s.stripOut c }
/-- A core that runs a strip aborts it: counted, and told to the sequencer (Tables 6-10, 10-9). -/
def stopStrip (c : Nat) (s : State) : State :=
  if (s.core c).strip.isSome then
    noteCore Code.STRIP_ABORTED c 0 ((leaveStrip c s).bump F.FS_STRIP_CNT_aborts (coreField c))
  else leaveStrip c s

/-- Replays that a core's request was for, or waited for, end as aborted (Table 8-3). -/
def replaysEnd (x : Core) (s : State) : State :=
  let t := match x.next with | some e => replayOutcome e 6 s | none => s
  match x.suspect with | some e => replayOutcome e 6 t | none => t

/-- Abort a core's request or strip (Table 6-4): idle, grant released, shadow ended; a suspect replay ends as aborted
and lets its witness go. A held core that runs no strip is released without STRIP_ABORTED; a hold that waits for the core is
then requested. -/
def abortOne (c : Nat) (s : State) : State :=
  let x := s.core c
  if x.st == 0 && !x.req && !x.again then s
  else
    let t := leaveStrip c (endShadow c s)
    let t := replaysEnd x (releaseCore c (t.setCore c { t.core c with next := none }))
    if x.kind != 0 && x.strip.isNone then t
    else
      let t := noteCore Code.STRIP_ABORTED c 0 t
      if x.st == 5 || x.st == 6 then t.bump F.FS_STRIP_CNT_aborts (coreField c) else t

/-- Drop a core's request and keep its due, grace and shadow state (Table 6-18); a forcing core keeps its request, and only
the replay it served ends. -/
def dropOnlyReq (c : Nat) (s : State) : State :=
  let x := s.core c
  if x.kind != 0 && x.next.isNone then s
  else
    let keep := x.st == 7 || x.kind != 0
    let y := { x with suspect := none, witness := none, next := none, req := keep && x.req, again := keep && x.again,
                      force := keep && x.force, st := if x.st = 2 then 1 else x.st }
    let t := replaysEnd x (s.setCore c y)
    if !keep && (x.req || x.again) then noteCore Code.STRIP_ABORTED c 0 t else t

/-- Abort a core, and the witness of its replay (R198). -/
def abortCore (c : Nat) (s : State) : State :=
  let w := (fieldCores s (coreField c)).filter (fun e => e.2.witness == some c)
  forAll w (fun e t => abortOne e.1 t) (abortOne c s)

/-! ### Bracketing aborts (R192) -/

def State.sess (s : State) (f : Nat) : Option Session := tfind s.sessions f
def State.setSess (s : State) (f : Nat) (x : Session) : State :=
  ({ s with sessions := tins (tdel s.sessions f) f x }.wr F.FS_BRK_STAT_phase f x.phase).wr F.FS_BRK_STAT_step f x.applied

/-- Cores of a field with a hold (R181): a request of kind hold, asserted or waiting. -/
def heldCores (s : State) (f : Nat) : List Nat :=
  ((fieldCores s f).filter (fun e => (e.2.kind == 1 && (e.2.req || e.2.again)) || e.2.holdNext)).map (·.1)
/-- Release the hold of the field's cores but those to keep (R181): a strip a held core runs aborts. -/
def releaseHold (keep : List Nat) (f : Nat) (s : State) : State :=
  forAll ((heldCores s f).filter (fun c => !keep.contains c)) (fun c t =>
    let t := t.setCore c { t.core c with holdNext := false }
    if (t.core c).kind == 1 then releaseCore c (stopStrip c (endShadow c t)) else t) s
/-- A maintenance window of the field is open or opening (R181). -/
def windowOn (s : State) (f : Nat) : Bool := s.rb F.FS_MAINT_is_open f || (tfind s.maintHold f).isSome
/-- The window ends, open or opening. -/
def windowEnd (f : Nat) (s : State) : State :=
  { s with maintEnd := tdel s.maintEnd f, maintHold := tdel s.maintHold f }.wr F.FS_MAINT_is_open f 0

/-- The request at the head of the queue is on the power-management port, with its answer limit (R184, R446). -/
def pmSync (s : State) : State :=
  match s.pmQ with
  | h :: l => if h.limit.isNone then { s with pmQ := { h with limit := some (s.wt + ms) } :: l } else s
  | [] => s

/-- Withdraw stress (R185): the level falls and step 0 is requested; a request on the port stays until it is
answered. DEDUCED (log entry 89). -/
def withdraw (f : Nat) (x : Session) (s : State) : State :=
  let onPort := match s.pmQ with | h :: _ => h.field == f && h.step != 0 | [] => false
  let q := match s.pmQ with | h :: l => h :: l.filter (fun r => r.field != f) | [] => []
  let t := { s with stressEn := s.stressEn.filter (· != f), pmQ := q }
  if (x.applied != 0 || onPort) && x.kind != 2 then pmSync { t with pmQ := q ++ [PmReq.mk f x.kind x.cluster 0 none] }
  else t

/-- Temperature of a session's target: the cluster, or the field's sensor for kind 1. -/
def sessTemp (s : State) (f : Nat) (x : Session) : Nat :=
  if x.kind = 1 then s.rd F.FS_VMON_temp f else tget 0x80 s.ctTemp (64 * f + x.cluster)

/-- BRACKET_RESULT (Table 7-4). -/
def brkResult (f result : Nat) (x : Session) (s : State) : State :=
  raiseFs f { code := Code.BRACKET_RESULT, unit := fsUnit f,
              params := x.kind + 2 ^ 2 * result + 2 ^ 5 * x.lastPass + 2 ^ 10 * x.firstFail + 2 ^ 15 * b2n x.fromNeg
                + 2 ^ 16 * (if x.kind = 1 then 0 else x.cluster) + 2 ^ 23 * min 63 x.fails.length + 2 ^ 29 * x.peak } s

/-- End a session: hold released (a voltage session's window stays open), tokens on their way back (R191). -/
def endSession (f : Nat) (x : Session) (s : State) : State :=
  let t := if x.kind = 1 || windowOn s f then s else releaseHold [] f s
  let t := { t with sessions := tdel t.sessions f,
                    stressEn := t.stressEn.filter (· != f),
                    tokQ := t.tokQ.filter (fun r => r.field != f),
                    tokRet := if x.tokens > 0 then t.tokRet ++ [TokReq.mk f x.tokens] else t.tokRet }
  let t := t.wr F.CC_TEST_BUDGET_waiting 0 t.tokQ.length
  ((t.wr F.FS_BRK_STAT_phase f 0).wr F.FS_BRK_STAT_step f 0).bumpWrap F.FS_BRK_STAT_sessions f

/-- Abort a session (R192, Table 7-5): stress withdrawn, its running step strip aborted, the hold released and with it a
maintenance window of the field, and the tokens returned. DEDUCED (log entry 55). -/
def brkAbort (f reason : Nat) (s : State) : State :=
  match s.sess f with
  | none => s
  | some x =>
    let t := releaseHold [] f (withdraw f x s)
    let t := if windowOn t f then windowEnd f t else t
    let t := brkResult f (if x.firstFail != 0 then 3 else 0) x t
    let t := raiseFs f { code := Code.BRACKET_ABORT, unit := fsUnit f,
                         params := x.kind + 2 ^ 5 * x.applied + 2 ^ 10 * x.firstFail
                           + 2 ^ 16 * (if x.kind = 1 then 0 else x.cluster) + 2 ^ 23 * reason
                           + 2 ^ 29 * sessTemp s f x } t
    (endSession f x t).bump F.FS_BRK_STAT_aborts f

/-- Close a maintenance window, or its opening (R181): its held cores are released, but those of a cluster that a session
holds. A voltage session ends with it. DEDUCED (log entry 55). -/
def closeWindow (f : Nat) (s : State) : State :=
  if !windowOn s f then s
  else match s.sess f with
    | none => windowEnd f (releaseHold [] f s)
    | some x =>
      if x.kind = 1 then brkAbort f 10 s
      else windowEnd f (releaseHold (if x.phase = 1 then [] else coresOfCt (64 * f + x.cluster)) f s)
/-- An event of Table 7-5: the session aborts, and a maintenance window ends with it or without a session (R181). -/
def brkEvent (f reason : Nat) (s : State) : State := closeWindow f (brkAbort f reason s)

/-! ### The FS store and the suspect array (R120, R124) -/

def State.entries (s : State) (f : Nat) : List PEnt := tget [] s.store f
/-- Blocks of pinned negatives. -/
def pinnedBlocks (s : State) (f : Nat) : Nat :=
  ((tget [] s.negs f).filter (fun n => n.slot.isSome)).foldl (fun a n => a + n.size) 0
/-- FS_PROOF_STAT and FS_NEG_STAT follow the store and the negatives (Tables 4-11, 4-14). -/
def storeSync (f : Nat) (s : State) : State :=
  let l := s.entries f
  let ns := tget [] s.negs f
  let held := (List.range 4).foldl (fun a i => a + 2 ^ i * b2n (ns.any (fun n => n.slot == some i))) 0
  let seald := (List.range 4).foldl (fun a i => a + 2 ^ i * b2n (ns.any (fun n => n.slot == some i && n.sealed))) 0
  (((((s.wr F.FS_PROOF_STAT_queued f l.length).wr F.FS_PROOF_STAT_busy f (b2n (l.any (·.started)))).wr
    F.FS_PROOF_STAT_store_used f (l.foldl (fun a x => a + x.rsv.size) 0 + pinnedBlocks s f)).wr
    F.FS_NEG_STAT_held f held).wr F.FS_NEG_STAT_sealed f seald).wr
    F.FS_NEG_STAT_summaries f ns.length |>.wr F.FS_NEG_STAT_pinned f (ceilDiv (pinnedBlocks s f) 32)
def State.setEntries (s : State) (f : Nat) (l : List PEnt) : State :=
  storeSync f { s with store := tput [] s.store f l }

/-- Remember when the array fell idle (R43). -/
def arrJobEnd (f : Nat) (s : State) : State := { s with arrIdle := tput 0 s.arrIdle f s.wt }

/-- Send a proof verdict to the CT (R129); for a gated cluster it waits in the FS (Table 4-9). -/
def sendVerdict (f : Nat) (r : TRef) (code : Nat) (led : Bool) (s : State) : State :=
  { s with vrdQ := tput [] s.vrdQ f (tget [] s.vrdQ f ++ [PMsg.mk r code led]) }

/-- Abandon every tile entry of the field, counted in `c`, with verdict unchecked (R124, R136). -/
def dropEntries (f : Nat) (c : Fld) (s : State) : State :=
  let l := s.entries f
  let t := forAll l (fun x t => sendVerdict f x.rsv.ref 2 false t) s
  arrJobEnd f ((t.setEntries f []).bump c f l.length)

/-- What a CT and its FS have of live tiles on their way is gone (R44, R213): reservations, blocks ahead of them and in the
mirror buffers. -/
def fieldCut (f : Nat) (s : State) : State :=
  { s with rsvQ := tdel s.rsvQ f, early := tdel s.early f, mirBuf := s.mirBuf.filter (fun e => ctField e.1 != f) }

/-- The array becomes suspect (R124, R472, Table 7-5): tiles abandoned, requests and strips of the field aborted, any
bracketing session aborted; the FS's array fault holds its pin (R270). -/
def arraySuspect (f : Nat) (s : State) : State :=
  let t := dropEntries f F.FS_PROOF_DROP_suspect (fsPinDrive f 145 true (s.wr F.FS_PROOF_STAT_array_suspect f 1))
  let cs := (fieldCores t f).filter (fun e => e.2.outstanding || (e.2.kind == 0 && decide (5 ≤ e.2.st)))
  brkEvent f 11 (forAll cs (fun e u => if e.2.kind == 0 then abortCore e.1 u else dropOnlyReq e.1 u) t)

end Sys2Proof.Machine
end

