-- ==== Sys2Proof/Machine/Tile.lean ====
section
/-!
DEFINITION. The tile contract and signature port (chapter 3), selection (R112 to R116, R127), and stamps (R145 to R149).
-/
namespace Sys2Proof.Machine

/-! ### Watchdogs (R298) -/

/-- A step of scope 3 or 4 in progress covers a partition (R301, R314, R315). -/
def widerStep (s : State) (p : Nat) : Bool :=
  s.pwrCycleReq || (match s.wstep with | some x => x.parts.contains p | none => false)
/-- The watchdog of an engine stands still (R298). -/
def wdogStill (s : State) (e : Nat) : Bool :=
  let p := s.partOf (engField e)
  !bit (tget 0 s.ctxSig e) 16 || stripMode s (engCore e) || blocked s e || s.ctGated (engCt e)
    || s.rsteps.any (fun r => r.eng == e) || widerStep s p || s.rd F.CC_PART_STAT_phase p != 0
/-- Bring one watchdog's pause up to date. -/
def wdogSync (e : Nat) (s : State) : State :=
  let w := tget {} s.wdogs e
  match w.paused, wdogStill s e with
  | none, true => { s with wdogs := tput {} s.wdogs e { w with paused := some s.wt } }
  | some p, false => { s with wdogs := tput {} s.wdogs e { w with paused := none, base := w.base + (s.wt - p) } }
  | _, _ => s
/-- After anything that may start or stop watchdogs. -/
def wdogSyncAll (s : State) : State := forAll s.ctxSig (fun e t => wdogSync e.1 t) s
/-- Restart a watchdog. -/
def wdogRestart (e : Nat) (s : State) : State :=
  wdogSync e { s with wdogs := tput {} s.wdogs e { base := s.wt, at_ := s.wt } }

/-! ### Tile lists -/

/-- An engine of a CT that cannot reach its FS checks nothing (R44, R213). -/
def ctCut (s : State) (e : Nat) : Bool := !s.fieldLive (engField e)
/-- Replace the tile at place `q` of engine `e`. -/
def modTile (e q : Nat) (f : Tile → Tile) (s : State) : State :=
  s.setTiles e ((s.tilesOf e).map (fun t => if t.sq = q then f t else t))
def findTile (s : State) (e q : Nat) : Option Tile := (s.tilesOf e).find? (fun t => t.sq == q)
/-- The engine's oldest running tile (R97, R98). -/
def oldest (s : State) (e : Nat) : Option Tile := (s.tilesOf e).find? (·.running)
/-- The tile whose descriptor is being announced. -/
def announced (s : State) (e : Nat) : Option Tile := (s.tilesOf e).find? (fun t => t.running && decide (t.got < 4))
/-- The open tile of a tag, among strip tiles or live ones (R103, R159). -/
def tagTile (s : State) (e tag : Nat) (strip : Bool) : Option Tile :=
  (s.tilesOf e).find? (fun t => t.tag == tag && t.strip == strip)

/-- A record about a tile (R111, R137, R152): engine, tile ID and upper parameters. -/
def raiseTile (code e : Nat) (t : Tile) (hi : Nat) (inj : Bool) (s : State) : State :=
  raiseCt (engCt e) { code := code, unit := e, params := t.tid % 2 ^ 32 + 2 ^ 32 * hi, layer := t.layer,
                      op := if t.known then t.op else 0, inj := inj } s

/-- UNCHECKED_BACKPRESSURE (R109); causes 0 to 2 count in event 8 (Table 16-2), but not for strip items (R390). A tile without a slot left no
descriptor: zero IDs (R111). -/
def raiseBp (e : Nat) (t : Tile) (cause : Nat) (s : State) : State :=
  let u := if t.slot then t else { t with d0 := t.tid, d1 := 0 }
  let s := raiseTile Code.UNCHECKED_BACKPRESSURE e u cause false s
  if cause ≤ 2 && !t.strip then pcntEv (engCt e) 8 1 (t.info e) s else s

/-- Tell the FS that a tile is abandoned (R130), by a reset or not. DEDUCED (log entry 36). -/
def tellAbandon (e q : Nat) (reset : Bool) (s : State) : State :=
  let r := TRef.mk e q
  abnSend (PMsg.mk r (b2n reset) false)
    { s with mirBuf := tput [] s.mirBuf (engCt e) ((tget [] s.mirBuf (engCt e)).filter (fun b => b.ref != r)) }

/-- A contract breach (R110): counted, captured, recorded; the tile is entirely unchecked, and a mirrored tile is
abandoned at the FS. A breach in a strip item ends the core's strip (R157). -/
def breachTile (e : Nat) (t : Option Tile) (reason : Nat) (s : State) : State :=
  let k := engCt e
  let tid := match t with | some x => x.tid | none => 0
  let s := ((((s.bump F.CT_SIG_STAT_contract k).wr F.CT_SIG_LAST_reason k reason).wr F.CT_SIG_LAST_engine k
    (engInCt e)).wr F.CT_SIG_LAST_tile k tid)
  let s := raiseCt k { code := Code.TILE_CONTRACT, unit := e, params := tid % 2 ^ 32 + 2 ^ 32 * reason,
                       layer := match t with | some x => x.layer | none => 0,
                       op := match t with | some x => (if x.known then x.op else 0) | none => 0 } s
  match t with
  | none => s
  | some x =>
    let s := if x.prf = .out then tellAbandon e x.sq false s else s
    let s := modTile e x.sq (fun y =>
      { y with breach := true, admitted := false, mirror := false,
               chk := if y.chk = .fold then .unchecked else y.chk,
               prf := if y.prf = .out then .unchecked else y.prf }) s
    if x.strip then abortCore (engCore e) s else s

/-! ### Contract and selection -/

/-- Reserved format codes (Table 2-4). -/
def fmtReserved (f : Nat) : Bool := (decide (16 ≤ f) && f != 30) || decide (32 ≤ f)

/-- The first of reasons 1 to 4 of Table 3-12 that a descriptor breaks, 0 for none (R78 to R80, R87); only that one is
counted and recorded. DESIGN CHOICE (log entry 102). -/
def contractReason (e : Nat) (t : Tile) : Nat :=
  let fs := [t.fmtA, t.fmtB, t.fmtC, t.fmtAcc]
  if t.engId ≠ e then 1
  else if t.cls = 4 then 0
  else if t.m = 0 ∨ t.n = 0 ∨ t.k = 0 then 2
  else if t.cls > 4 ∨ fs.any fmtReserved = true ∨ t.rnd = 3 ∨ t.order > 4
      ∨ (match t.order with | 2 => false | 3 => decide (t.opar > 4) | _ => t.opar != 0) = true then 3
  else if t.cls ≥ 2 then 0
  else
    let flt := fun (x : Nat) => decide (1 ≤ x) && decide (x ≤ 11)
    let int := fun (x : Nat) => x == 12 || x == 13
    let okF := flt t.fmtA && flt t.fmtB && (t.order == 4 || (decide (1 ≤ t.fmtAcc) && decide (t.fmtAcc ≤ 3)))
      && decide (1 ≤ t.fmtC) && decide (t.fmtC ≤ 5)
    let okI := int t.fmtA && int t.fmtB && (t.order == 4 || t.fmtAcc == 14) && t.fmtC == 14
    if !(okF || okI) then 4
    else if (isMx t.fmtA || isMx t.fmtB) && t.k % 32 != 0 then 4
    else 0

/-- Operations of Table 4-5 by class, and those with a second input or an accumulator (R126). -/
def vecOp (cls k : Nat) : Bool :=
  if cls = 2 then decide (1 ≤ k) && decide (k ≤ 8) else decide (0x101 ≤ k) && decide (k ≤ 0x105)
def opTwo (k : Nat) : Bool := k == 1 || k == 2 || k == 3 || k == 6 || k == 7
def opSum (k : Nat) : Bool := k == 0x101 || k == 0x102
def vecFmt (f : Nat) : Bool := (decide (1 ≤ f) && decide (f ≤ 5)) || (decide (12 ≤ f) && decide (f ≤ 14))

/-- Blocks of each kind of a tile (R118). -/
def Tile.blocks (t : Tile) (kind : Nat) : Nat :=
  let two := decide (t.cls ≤ 1)
  match kind with
  | 0 => ceilDiv (if two then t.m * t.k else t.m * t.n) (fmtPerBlock t.fmtA)
  | 1 => if two then ceilDiv (t.n * t.k) (fmtPerBlock t.fmtB)
         else if t.cls = 2 ∧ opTwo t.k = true then ceilDiv (t.m * t.n) (fmtPerBlock t.fmtB) else 0
  | 2 => if two && isMx t.fmtA then ceilDiv (t.m * (t.k / 32)) 2048 else 0
  | 3 => if two && isMx t.fmtB then ceilDiv (t.n * (t.k / 32)) 2048 else 0
  | 4 => ceilDiv (if t.cls = 3 then t.m else t.m * t.n) (fmtPerBlock t.fmtC)
  | _ => 0
/-- Mirror size S in blocks (R120). -/
def Tile.size (t : Tile) : Nat := t.blocks 0 + t.blocks 1 + t.blocks 2 + t.blocks 3 + t.blocks 4

/-- The first UNPROVABLE reason (Table 4-6), 0 for none. -/
def unprovReason (t : Tile) : Nat :=
  if t.cls > 3 then 0
  else if t.cls ≥ 2 ∧ vecOp t.cls t.k = false then 1
  else if t.cls ≥ 2 ∧ !(vecFmt t.fmtA && (!opTwo t.k || vecFmt t.fmtB) && vecFmt t.fmtC
      && (!opSum t.k || vecFmt t.fmtAcc)) then 2
  else if t.size > 2048 then 3 else 0

/-- Eligibility (R112, R157, R195): also no selection without Trogirum (Table 4-9). -/
def eligible (s : State) (e : Nat) (t : Tile) : Bool :=
  !t.strip && t.slot && !t.breach && decide (t.cls ≤ 3)
    && (t.mode == 2 || t.mode == 3 || (t.forced && t.mode != 0)) && !blocked s e && !ctCut s e

/-- The selection function (R113). -/
def selects (e : Nat) (t : Tile) : Bool :=
  let k := if t.forced then 0 else t.rate
  k == 0 || genG t.key t.tid 3 (e % 2 ^ 22 + t.cnt % 1024 * 2 ^ 22) % 2 ^ k == 0

/-- D3 (R110, R112, R113, R127, R128, R106, R143); a descriptor that breaks several of reasons 1 to 5 is one breach, with the
first of them. DESIGN CHOICE (log entry 102). -/
def tileD3 (e q : Nat) (s : State) : State :=
  match findTile s e q with
  | none => s
  | some t =>
    let k := engCt e
    if !t.slot then s
    else
      let r := contractReason e t
      let r := if r = 0 ∧ (s.tilesOf e).any (fun o => o.sq != q && o.strip == t.strip && o.tag == t.tag) = true then 5 else r
      let s := if r ≠ 0 then breachTile e (some t) r s else s
      let t := { t with breach := t.breach || r != 0 }
      if t.breach || t.strip then s
      else
        let ur := unprovReason t
        let s := if ur ≠ 0 then (modTile e q (fun y => { y with unprov := true }) s).bump F.CT_PROOF_STAT_unprovable k else s
        let sel := eligible s e t && selects e t
        let s := if sel then pcntEv k 7 1 (t.info e) (s.bump F.CT_PROOF_STAT_selected k) else s
        let s := if sel then
            if ur ≠ 0 then
              raiseTile Code.UNPROVABLE e t (ur + 2 ^ 8 * t.cls) false (modTile e q (fun y => { y with prf := .unchecked }) s)
            else
              let u := modTile e q (fun y => { y with prf := .out, mirror := true }) s
              rsvSend (Rsv.mk ⟨e, q⟩ t.d0 t.d1 t.d2 t.d3 t.size none) u
          else s
        if t.cls ≤ 1 ∧ (t.mode = 1 ∨ t.mode = 3 ∨ (t.mode = 2 ∧ ur ≠ 0)) then
          if !t.room then
            raiseBp e t 0 ((modTile e q (fun y => { y with chk := .unchecked }) s).bump F.CT_SIG_STAT_refused k)
          else match certCoef t with
            | none => modTile e q (fun y => { y with chk := .uncert 1 }) s
            | some _ => modTile e q (fun y => { y with chk := .fold, admitted := true }) s
        else s

/-- D0 (R100 to R104, R106, R108, R113). DEDUCED (log entry 35). -/
def tileD0 (e data : Nat) (s : State) : State :=
  let k := engCt e
  let f := engField e
  let strip := stripMode s (engCore e)
  let q := tget 0 s.tileSq k
  let used := ((s.tilesOf e).filter (fun t => t.running && t.slot && t.strip == strip)).length
  let slot := decide (used < if s.rb F.CT_SIG_CFG_one_open k then 1 else 2)
  let n := tget 0 s.descCnt e
  let t : Tile :=
    { sq := q, d0 := data % 2 ^ 64, slot := slot, strip := strip, mode := s.setting f 1, key := tget 0 s.selKey f,
      rate := s.setting f 0, forced := forceBit s (engCore e), cnt := n,
      room := decide ((tget [] s.fifo e).length ≤ s.rd F.CT_SIG_CFG_admit_level k) }
  let s := ({ s with tileSq := tput 0 s.tileSq k (q + 1), descCnt := tput 0 s.descCnt e ((n + 1) % 1024) }).setTiles e
    (s.tilesOf e ++ [t])
  if slot then s else raiseBp e t 2 (s.bump F.CT_SIG_STAT_slot_full k)

/-- A DESC beat (R78): D0 opens a tile; D1 to D3 complete the announced one. Event 1 and trace type 0 name class and
format, so they are taken when D1 has come. DEDUCED (log entry 35). -/
def descBeat (e data : Nat) (s : State) : State :=
  match announced s e with
  | none => tileD0 e data s
  | some t =>
    let u := match t.got with
      | 1 => { t with d1 := data % 2 ^ 64, got := 2 }
      | 2 => { t with d2 := data % 2 ^ 64, got := 3 }
      | _ => { t with d3 := data % 2 ^ 64, got := 4 }
    let s := modTile e t.sq (fun _ => u) s
    let s := if t.got = 1 ∧ t.strip = false then
        traceEv (engCt e) 0 e (u.layer + u.op * 2 ^ 16 + u.tag * 2 ^ 32 + u.cls % 8 * 2 ^ 40 + u.fmtA * 2 ^ 43)
          (pcntEv (engCt e) 1 1 (u.info e) s)
      else s
    if t.got = 3 then tileD3 e t.sq s else s

/-- R78, R98, R99: a DESC beat in host cycle `cyc`. -/
def execDescBeat (e cyc data : Nat) (s : State) : Out :=
  onUnit (engOk e) (hostSide (engCt e) cyc (fun s =>
    if tget true s.engRst e then s
    else if tget 0 s.skip e > 0 then { s with skip := tput 0 s.skip e (tget 0 s.skip e - 1) }
    else descBeat e data s) s)

/-- A SIGS, SIGQ or RES beat of the oldest running tile (R97, R104, R106 to R108). A beat of another kind concerns the oldest
running tile too, and is dropped without a breach when that has no slot. DESIGN CHOICE (log entry 33). DEDUCED (log
entry 34). DESIGN CHOICE (log entry 102). -/
def sigBeat (e kind data : Nat) (s : State) : State :=
  match announced s e with
  | some t => if t.slot then breachTile e (some t) 6 s else s
  | none =>
    if kind ≠ 1 ∧ kind ≠ 2 ∧ kind ≠ 3 then
      match oldest s e with
      | some t => if t.slot then breachTile e (some t) 10 s else s
      | none => breachTile e none 10 s
    else match oldest s e with
      | none => breachTile e none 8 s
      | some t =>
        if !t.slot then s
        else
          let bad := t.bad || (kind == 2 && decide (t.nS ≤ t.nQ))
          let s := modTile e t.sq (fun y => match kind with
            | 1 => { y with nS := y.nS + 1, bad := bad }
            | 2 => { y with nQ := y.nQ + 1, bad := bad }
            | _ => { y with nR := y.nR + 1, bad := bad }) s
          if t.admitted && t.chk = .fold then
            let q := tget [] s.fifo e
            if q.length < 64 then { s with fifo := tput [] s.fifo e (q ++ [FBeat.mk t.sq kind (data % 2 ^ 64)]) }
            else raiseBp e t 1 ((modTile e t.sq (fun y => { y with chk := .unchecked, admitted := false }) s).bump
              F.CT_SIG_STAT_overflow (engCt e))
          else s

/-- R96, R97: a beat of a kind other than DESC and ABORT. -/
def execSigBeat (e cyc kind data : Nat) (s : State) : Out :=
  onUnit (engOk e) (hostSide (engCt e) cyc (fun s =>
    if tget true s.engRst e then s else sigBeat e kind data s) s)

/-! ### Closing (R149, R171, R387) -/

def prfDone (p : Prf) : Bool := p == .clean || p == .failed
def chkDone (c : Chk) : Bool := c == .clean || c == .failed
/-- The combined verdict (R147), as Table 2-1 codes it. -/
def combined (c : Chk) (p : Prf) : Nat :=
  if c == .failed || p == .failed then 3 else if c == .clean || p == .clean then 1 else 2

/-- Close a tile: safelight (R387), counters, ledger (R171, held while the CT is quiet, R344) and the shadow-loss log (R168).
`plain` closes it unchecked (R100, R105), and so do a confirmed engine (R195) and a retirement out of the FS's reach, which
leaves the ledger as it is (R44). DEDUCED (log entry 36). -/
def closeTile (e q : Nat) (plain : Bool) (s : State) : State :=
  match findTile s e q with
  | none => s
  | some t =>
    let k := engCt e
    let s := s.setTiles e ((s.tilesOf e).filter (fun x => x.sq != q))
    if t.strip then s
    else
      let none_ := plain || blocked s e || t.cut
      let c := if none_ then Chk.unchecked else t.chk
      let p := if none_ then Prf.unchecked else t.prf
      let v := combined c p
      let s := if t.counted then
          pcntEv k (match v with | 1 => 3 | 3 => 4 | _ => 5) 1 (t.info e)
            (safeInc k 3 (b2n (v == 2)) (safeInc k 2 (b2n (chkDone c)) (safeInc k 1 (b2n (prfDone p)) (safeInc k 0 1 s))))
        else s
      if t.known && decide (t.cls ≤ 3) then
        let pr := b2n (prfDone p && !t.prfLed)
        let s := if t.cut then s
          else ledSend { eng := e, retired := 1, proved := pr, checked := b2n (chkDone c), unchecked := b2n (v == 2),
                         epochProved := pr } s
        if t.retired && !plain then
          let x := s.core (engCore e)
          let lost := t.prf == .unchecked && !t.unprov
          let win := (x.win ++ [(s.wt, lost)]).filter (fun w => decide (s.wt ≤ w.1 + ms))
          { s with cores := tput {} s.cores (engCore e) ({ x with win := win } : Core) }
        else s
      else s

/-- Queue a stamp (R146). -/
def pushStamp (e : Nat) (x : Stamp) (s : State) : State :=
  { s with stampQ := tput [] s.stampQ e (tget [] s.stampQ e ++ [x]) }

/-- Abandon an open tile (R105): no stamp any more, closed unchecked. DEDUCED (log entry 36). -/
def abandonTile (e : Nat) (t : Tile) (s : State) : State :=
  let s := if t.prf = .out then tellAbandon e t.sq true s else s
  closeTile e t.sq true { s with stampQ := tput [] s.stampQ e ((tget [] s.stampQ e).filter (fun x => x.sq != t.sq)) }

/-- Abandon every open tile of an engine and empty its FIFO (R105). -/
def abandonEngine (e : Nat) (s : State) : State :=
  forAll (s.tilesOf e) (fun t u => abandonTile e t u)
    { s with fifo := tdel s.fifo e, skip := tdel s.skip e }

/-- R96, R100, R151: ABORT abandons the oldest running tile, also one without a slot, with an unchecked first stamp due in the
next cycle; a retire pulse in the same cycle retires nothing else (R99). DESIGN CHOICE (log entry 102). -/
def abortBeat (e cyc : Nat) (s : State) : State :=
  match announced s e with
  | some t => if t.slot then breachTile e (some t) 6 s else s
  | none => match oldest s e with
    | none => breachTile e none 8 s
    | some t =>
      let s := if t.prf = .out then tellAbandon e t.sq false s else s
      let s := if t.strip then s
        else pushStamp e ⟨cyc + 1, false, t.sq, t.tag, if blocked s e then 3 else 2⟩ s
      closeTile e t.sq true s

/-- Operand and scale blocks that a mirrored tile still misses (R119). -/
def missing (t : Tile) : Bool :=
  [0, 1, 2, 3].any (fun kd => (List.range (t.blocks kd)).any (fun o => !t.seen.contains (kd * 2 ^ 16 + o)))

/-- Stop mirroring with a lost proof (R119): counted and recorded with cause 4. -/
def loseMirror (e : Nat) (t : Tile) (s : State) : State :=
  let s := tellAbandon e t.sq false (modTile e t.sq (fun y => { y with prf := .unchecked, mirror := false }) s)
  raiseBp e t 4 (s.bump F.CT_PROOF_STAT_mirror_ovf (engCt e))

/-- Issue a first or final stamp's effects when a proof is given up or arrives after the deadline (Table 5-8, R149); the final
stamp falls due in the CT's next cycle. DESIGN CHOICE (log entry 102). -/
def settleLate (e : Nat) (t : Tile) (v : Prf) (s : State) : State :=
  let s := modTile e t.sq (fun y => { y with prf := v }) s
  let code := match v with | .clean => 1 | .failed => 3 | _ => 2
  let s := if blocked s e || t.strip then s
    else if t.chk = .clean then
      (if v = .failed then pushStamp e ⟨s.cycOf (engCt e) + 1, true, t.sq, t.tag, 3⟩ s else s)
    else if t.chk = .failed then s
    else pushStamp e ⟨s.cycOf (engCt e) + 1, true, t.sq, t.tag, code⟩ s
  if t.first.isSome then closeTile e t.sq false s else s

/-- Give up a retired tile's proof (R149): before the deadline the tile keeps it, after it the tile closes. -/
def giveUp (e : Nat) (t : Tile) (s : State) : State :=
  if t.dlDone then settleLate e t .unchecked s
  else modTile e t.sq (fun y => { y with prf := .unchecked, mirror := false }) s

/-- Beat counts of a retiring tile (R97, Table 3-12 reason 7). DEDUCED (log entry 34). -/
def countsOk (t : Tile) : Bool :=
  if t.cls ≤ 1 then t.nS == t.k && t.nQ == t.k && t.nR == 1 && !t.bad
  else if t.cls ≤ 4 then t.nS + t.nQ + t.nR == 0
  else true

/-- The FS learns when a tile it proves retired (R131). -/
def Rsv.retire (x : Rsv) (r : TRef) (wt : Nat) : Rsv := if x.ref = r then { x with retWt := some wt } else x
def noteRetire (r : TRef) (s : State) : State :=
  let f := engField r.eng
  { s with rsvQ := tput [] s.rsvQ f ((tget [] s.rsvQ f).map (fun x => x.retire r s.wt))
           store := tput [] s.store f ((tget [] s.store f).map (fun x => { x with rsv := x.rsv.retire r s.wt })) }

/-- A tile that retires out of its FS's reach is unchecked, whatever comes later (R44, R213). -/
def cutTile (e q : Nat) (s : State) : State :=
  match findTile s e q with
  | some t =>
    if ctCut s e && !t.strip then
      let s := if t.prf = .out then tellAbandon e q false s else s
      modTile e q (fun y => { y with cut := true, mirror := false, prf := if y.prf = .none then .none else .unchecked }) s
    else s
  | none => s

/-- A retire pulse (R98, R119, R145, R149). DESIGN CHOICE (log entry 33). -/
def retire (e cyc : Nat) (s : State) : State :=
  let k := engCt e
  let s := wdogRestart e s
  match oldest s e with
  | none => breachTile e none 9 s
  | some t =>
    let dl := cyc + 48 + (if t.got = 4 ∧ t.cls ≤ 1 then ceilDiv t.k 64 else 0)
    let s := modTile e t.sq (fun y =>
      { y with retired := true, retWt := s.wt, due := dl,
               waitEnd := cyc + 1024 * max 1 (s.rd F.CT_ABFT_CFG_proof_wait k) }) s
    let s := cutTile e t.sq s
    let s := if t.prf = .out then noteRetire ⟨e, t.sq⟩ s else s
    let s := if t.got < 4 then
        { (if t.slot then breachTile e (some t) 6 s else s) with skip := tput 0 s.skip e (4 - t.got) }
      else if t.slot ∧ countsOk t = false then breachTile e (some t) 7 s else s
    let s := if t.strip || !t.known then s
      else traceEv k 1 e (t.tag + 2 ^ 8 * min (2 ^ 40 - 1) t.macs)
        (pcntEv k 6 t.macs (t.info e) (pcntEv k 2 1 (t.info e) s))
    match findTile s e t.sq with
    | none => s
    | some u =>
      if u.strip then closeTile e u.sq true s
      else
        let s := if u.prf = .out ∧ u.mirror = true ∧ missing u = true then loseMirror e u s else s
        let held := (s.tilesOf e).filter (fun y => y.retired && y.prf == .out)
        if held.length > 8 then
          match held with
          | o :: _ => giveUp e o (s.bump F.CT_ABFT_STAT2_evicted k)
          | [] => s
        else s

/-- R98: a retire pulse in host cycle `cyc`. -/
def execRetirePulse (e cyc : Nat) (s : State) : Out :=
  onUnit (engOk e) (hostSide (engCt e) cyc (fun s =>
    if tget true s.engRst e then s else retire e cyc s) s)

/-- R100, R99: an ABORT beat, with or without a retire pulse in the same cycle. Without an abandoned tile the pulse
acts for itself; it restarts the watchdog in either case (R98, R298). -/
def execAbortBeat (e cyc : Nat) (pulse : Bool) (s : State) : Out :=
  onUnit (engOk e) (hostSide (engCt e) cyc (fun s =>
    if tget true s.engRst e then s
    else if pulse && ((announced s e).isSome || (oldest s e).isNone) then retire e cyc (abortBeat e cyc s)
    else abortBeat e cyc (if pulse then wdogRestart e s else s)) s)

/-! ### Fold drain (R138) -/

/-- One drained beat of engine `e` (R107: those of a tile no longer folding are ignored); the last one settles the
checksum, with the injected inversion of R277. -/
def drainOne (e : Nat) (s : State) : State :=
  match tget [] s.fifo e with
  | [] => s
  | b :: l =>
    let s := { s with fifo := tput [] s.fifo e l }
    match findTile s e b.sq with
    | none => s
    | some t =>
      if t.chk ≠ .fold ∨ t.dlDone = true then s
      else
        let u := foldBeat t b.kind b.data
        if u.nF = 2 * u.k + 1 then
          let o := chkVerdict u
          match (if o.band then injTake 3 (ctUnit (engCt e)) 0 s else (false, s)) with
          | (hit, s) =>
            modTile e t.sq (fun _ => { u with chk := if hit then .failed else o.chk, ratio := o.ratio,
                                              guard := o.guard, inj := hit }) s
        else modTile e t.sq (fun _ => u) s

/-- Up to `n` beats of a CT, one engine after the other after the one served last (R138). -/
def drainGo (k : Nat) : Nat → State → State
  | 0, s => s
  | n + 1, s =>
    let es := (s.fifo.filter (fun x => engCt x.1 == k && !x.2.isEmpty)).map (·.1)
    match es with
    | [] => s
    | e0 :: _ =>
      let e := (es.find? (fun e => decide (tget 0 s.foldRr k ≤ e))).getD e0
      drainGo k n (drainOne e { s with foldRr := tput 0 s.foldRr k (e + 1) })

/-- R138: one host cycle's drain of up to 64 beats. -/
def execFoldDrain (k cyc : Nat) (s : State) : Out :=
  onUnit (ctOk k) (hostSide k cyc (drainGo k 64) s)

/-! ### Stamps (R145 to R149) -/

/-- Proof state at the deadline (Table 5-17). -/
def prfCode : Prf → Nat
  | .none => 0 | .out => 1 | .clean => 2 | .failed => 3 | .unchecked => 4

/-- First stamp of Table 5-8. -/
def firstVerdict (c : Chk) (p : Prf) : Nat :=
  match c with
  | .failed => 3
  | .clean => if p == .failed then 3 else 1
  | _ => match p with
    | .none => 2 | .out => 0 | .clean => 1 | .failed => 3 | .unchecked => 2

/-- The checksum verdict is settled at the deadline (R145, R143): counted and recorded; without Trogirum it is
unchecked (R44). -/
def settleChk (e : Nat) (t : Tile) (s : State) : Chk × State :=
  let k := engCt e
  if t.breach || !t.slot then (.unchecked, s)
  else match t.chk with
    | .fold => (.unchecked, raiseBp e t 3 (s.bump F.CT_ABFT_STAT_saturated k))
    | .uncert r => (.unchecked, raiseTile Code.CHECKSUM_UNCERTIFIED e t r false (s.bump F.CT_ABFT_STAT_uncertified k))
    | .clean => if t.cut || ctCut s e then (.unchecked, s) else (.clean, s.bump F.CT_ABFT_STAT_clean k)
    | .failed =>
      if t.cut || ctCut s e then (.unchecked, s)
      else
        let s := ((((s.bump F.CT_ABFT_STAT_failed k).wr F.CT_ABFT_LAST_ratio k t.ratio).wr F.CT_ABFT_LAST_engine k
          (engInCt e)).wr F.CT_ABFT_LAST_guard k (b2n t.guard)).wr F.CT_ABFT_LAST_tile k t.tid
        let s := raiseTile Code.ABFT_EXCEED e t (t.ratio + 2 ^ 8 * b2n t.guard + 2 ^ 9 * prfCode t.prf) t.inj s
        (.failed, detect e Code.ABFT_EXCEED 3 7 s)
    | .none => (.unchecked, s)
    | .unchecked => (.unchecked, s)

/-- A tile reaches its deadline: its first stamp falls due (R145, R195). -/
def deadline (e : Nat) (t : Tile) (s : State) : State :=
  match settleChk e t s with
  | (c, s) =>
    let v := if blocked s e then 3 else firstVerdict c t.prf
    pushStamp e ⟨t.due, false, t.sq, t.tag, v⟩ (modTile e t.sq (fun y => { y with chk := c, dlDone := true }) s)

/-- The retired tile with the earliest deadline not yet passed. -/
def nextDue (l : List Tile) : Option Tile :=
  (l.filter (fun t => t.retired && !t.dlDone)).foldl (fun a t => match a with
    | none => some t
    | some b => if t.due < b.due then some t else some b) none

/-- R145: the engine's earliest deadline expires; in a gated cluster it pauses (Table 5-9). -/
def execFirstStampDeadline (e : Nat) (s : State) : Out :=
  onUnit (engOk e) (match nextDue (s.tilesOf e) with
    | some t => hostSide (engCt e) t.due (deadline e t) s
    | none => s)

/-- Order among due stamps (R146). -/
def stampBefore (a b : Stamp) : Bool :=
  decide (a.due < b.due) || (a.due == b.due && ((!a.fin && b.fin) || (a.fin == b.fin && decide (a.sq < b.sq))))
/-- The stamp that leaves next in cycle `cyc`. -/
def nextStamp (l : List Stamp) (cyc : Nat) : Option Stamp :=
  (l.filter (fun x => decide (x.due ≤ cyc))).foldl (fun a x => match a with
    | none => some x
    | some b => if stampBefore x b then some x else some b) none

/-- A stamp leaves (R146, R148, R149): a late first stamp is counted; a tile without an outstanding proof, or of a
confirmed engine, closes at its first stamp. -/
def emitStamp (e cyc : Nat) (x : Stamp) (s : State) : State :=
  let k := engCt e
  let l := tget [] s.stampQ e
  let s := { s with stampQ := tput [] s.stampQ e (l.erase x), stampCyc := tput 0 s.stampCyc e (cyc + 1),
                    stampOut := tput [] s.stampOut e [x] }
  let s := traceEv k 2 e (x.tag + 2 ^ 8 * x.verdict + 2 ^ 10 * b2n x.fin) s
  let late := !x.fin && decide (x.due < cyc)
  let s := if late then s.bump F.CT_ABFT_STAT2_stamps_late k else s
  match findTile s e x.sq with
  | none => s
  | some t =>
    let s := if late then pcntEv k 13 1 (t.info e) s else s
    let s := modTile e x.sq (fun y => if x.fin then { y with final := some x.verdict } else { y with first := some x.verdict }) s
    if !x.fin && (t.prf != .out || blocked s e) then closeTile e x.sq false s else s

/-- R146: the next stamp leaves in host cycle `cyc`, if that cycle has carried none. -/
def execStampSend (e cyc : Nat) (s : State) : Out :=
  onUnit (engOk e) (hostSide (engCt e) cyc (fun s =>
    if cyc < tget 0 s.stampCyc e then s
    else match nextStamp (tget [] s.stampQ e) cyc with
      | some x => emitStamp e cyc x s
      | none => s) s)

/-- The retired tile whose proof wait ends first. -/
def nextWait (l : List Tile) : Option Tile :=
  (l.filter (fun t => t.retired && t.prf == .out)).foldl (fun a t => match a with
    | none => some t
    | some b => if t.waitEnd < b.waitEnd then some t else some b) none

/-- R149: the earliest proof wait of the engine ends. -/
def execProofTimeout (e : Nat) (s : State) : Out :=
  onUnit (engOk e) (match nextWait (s.tilesOf e) with
    | some t => hostSide (engCt e) t.waitEnd (fun s => giveUp e t (s.bump F.CT_ABFT_STAT2_proof_timeout (engCt e))) s
    | none => s)

/-- R139: a fold self-check fires on the tile with this tag; no ABFT_EXCEED is raised for it. The fault latches internal
bit 0 of its CT (R270, R271). In a gated cluster the fold unit stands (R346). -/
def foldFault (e tag chk : Nat) (s : State) : State :=
    let k := engCt e
    let t := (tagTile s e tag false).filter (fun t => t.cls ≤ 1 && t.chk != .none && !t.dlDone)
    let s := ctIntLatch k 0 (s.bump F.CT_ABFT_STAT2_fold_fault k)
    let s := raiseCt k {
      code := Code.FOLD_FAULT, unit := ctUnit k,
      params := (t.map (fun x => x.tid % 2 ^ 32)).getD 0 + 2 ^ 32 * chk,
      layer := (t.map Tile.layer).getD 0, op := (t.map Tile.op).getD 0 } s
    match t with
    | some x => modTile e x.sq (fun y => { y with chk := .unchecked, admitted := false }) s
    | none => s
def execFoldFault (e tag chk : Nat) (s : State) : Out :=
  onUnit (engOk e) (if s.ctGated (engCt e) then s else foldFault e tag chk s)

/-- The CT sees eng_rst asserted (R105): the engine's tiles are abandoned and its core's strip aborts (Table 6-4). -/
def engResetSeen (e : Nat) (s : State) : State := abortCore (engCore e) (abandonEngine e s)
/-- R99, R105: the host asserts or drops eng_rst. The watchdog restarts when the reset ends. A CT that is gated sees the level
once it runs again. DEDUCED (log entry 101). -/
def execEngineResetInput (e : Nat) (on : Bool) (s : State) : Out :=
  onUnit (engOk e) (
    if on then
      if tget true s.engRst e then s
      else
        let t := { s with engRst := tput true s.engRst e true }
        if s.ctGated (engCt e) then t else engResetSeen e t
    else wdogRestart e { s with engRst := tput true s.engRst e false })

/-! ### Settings (R114 to R116, R150) -/

/-- Draw and send a new selection key (R114); the descriptor counts of its CTs begin anew (R113). -/
def rekey (f : Nat) (s : State) : State :=
  let k := s.drawKey
  let u := k.2
  { u with selKey := tput 0 u.selKey f (k.1 % 2 ^ 64)
           descCnt := u.descCnt.filter (fun e => engField e.1 != f) }

/-- A write of FS_PROOF_CFG; the rekey bit draws a key. -/
def proofCfgWrite (w : Writer) (f v : Nat) (s : State) : State :=
  if notTenant w then
    let t := ((s.wr F.FS_PROOF_CFG_enable f (bits v 0 1)).wr F.FS_PROOF_CFG_shadow_max f (bits v 8 6)).wr
      F.FS_PROOF_CFG_neg_cap f (bits v 16 6)
    if bit v 1 && t.fsWorks f then rekey f t else t
  else s
def execRekey (w : Writer) (f v : Nat) (s : State) : Out := regWrite w .FS_PROOF_CFG f s <|
  onUnit (fieldOk f) (proofCfgWrite w f v s)

/-- A write of a per-partition setting (R115, R150, R299, Table 6-12), forwarded to the partition's fields. -/
def settingWrite (w : Writer) (i p v : Nat) (s : State) : State :=
  if !notTenant w then s
  else
    let t := match i with
      | 0 => if bits v 0 5 ≤ 16 then s.wr F.CC_PROOF_RATE_rate_exp p (bits v 0 5) else s
      | 1 => epochSync (s.wr F.CC_CHECK_MODE_mode p (bits v 0 2))
      | 2 =>
        let a := if 1 ≤ bits v 0 17 ∧ bits v 0 17 ≤ 86400 then s.wr F.CC_HORIZON_CFG_period_s p (bits v 0 17) else s
        let a := if bits v 17 5 ≤ 20 then a.wr F.CC_HORIZON_CFG_q_exp p (bits v 17 5) else a
        if bits v 22 8 ≠ 0 then a.wr F.CC_HORIZON_CFG_epoch_steps p (bits v 22 8) else a
      | _ => s.wr F.CC_WDOG_CFG_interval p (bits v 0 16)
    forAll (s.fieldsOf p) (fun f u => forwardTo i f u) t
/-- R115: a setting is written at the CC, forwarded, and holds at the CTs from later D0s. -/
def execCcSettingForward (w : Writer) (i p v : Nat) (s : State) : Out := regWrite w (settingReg i).reg p s <|
  onUnit (partOk p) (settingWrite w i p v s)

/-- Bits of a force register for cores of the build (Table 4-2). -/
def forceMask (hi : Bool) : Nat := if hi then 2 ^ (Config.nCore - 64) - 1 else 2 ^ 64 - 1

/-- R116: a write of CT_PROOF_FORCE0 or 1, refused as a whole above shadow_max; a core in shadow whose bit is cleared
becomes unshielded with cause 1 (Table 6-4). Only the owner and the field's sequencer write it. DEDUCED (log entry 39). -/
def forceWrite (w : Writer) (k : Nat) (hi : Bool) (v : Nat) (s : State) : State :=
  if !(s.isOwner w || isSeq w (ctField k)) then s
  else
    let f := ctField k
    let r := if hi then Reg.CT_PROOF_FORCE1 else Reg.CT_PROOF_FORCE0
    let old := s.regVal r k
    let new := Nat.land v (forceMask hi)
    let cnt := forcedOf s f + popc 64 new - popc 64 old
    if cnt > s.rd F.FS_PROOF_CFG_shadow_max f ∧ popc 64 new > popc 64 old then s.bump F.FS_PROOF_STAT_force_refused f
    else
      let t := (s.setReg r k new).wr F.FS_PROOF_STAT_forced f cnt
      forAll (List.range 64) (fun i u =>
        let c := 128 * k + i + (if hi then 64 else 0)
        let x := u.core c
        if x.st == 3 && bit old i && !bit new i then u.setCore c { x with st := 4, cause := 1, shadow := false } else u) t
def execProofForceWrite (w : Writer) (k : Nat) (hi : Bool) (v : Nat) (s : State) : Out :=
  regWrite w (if hi then .CT_PROOF_FORCE1 else .CT_PROOF_FORCE0) k s <|
  onUnit (ctOk k) (forceWrite w k hi v s)

end Sys2Proof.Machine
end

