-- ==== Sys2Proof/Machine/Array.lean ====
section
/-!
DEFINITION. The proof array and the proof vector unit: elements of tensor blocks (R83, R118), results (R88 to R93,
R126), and comparison (R123).
-/
namespace Sys2Proof.Machine

/-! ### Elements and blocks -/

/-- Byte `i` of a block. -/
def blkByte (d : List Byte) (i : Nat) : Nat := (d.getD i 0).toNat

/-- Element `i` of a block whose elements are `b` bits wide (R83). -/
def blockElem (d : List Byte) (b i : Nat) : Nat :=
  match b with
  | 32 => leNat (slice d (4 * i) 4)
  | 16 => leNat (slice d (2 * i) 2)
  | 6 => bits (leNat (slice d (3 * (i / 4)) 3)) (6 * (i % 4)) 6
  | 4 => bits (blkByte d (i / 2)) (4 * (i % 2)) 4
  | _ => blkByte d i

/-- Four-bit elements, two per byte. -/
def pack4 : List Nat → List Byte
  | x :: y :: l => BitVec.ofNat 8 (x % 16 + 16 * (y % 16)) :: pack4 l
  | [x] => [BitVec.ofNat 8 (x % 16)]
  | [] => []
/-- Six-bit elements, four per three bytes. -/
def pack6 : List Nat → List Byte
  | a :: b :: c :: d :: l => leBytes 3 (a % 64 + 2 ^ 6 * (b % 64) + 2 ^ 12 * (c % 64) + 2 ^ 18 * (d % 64)) ++ pack6 l
  | _ => []

/-- A block of elements, zero-filled to 2048 bytes (R83, R118). -/
def packBlock (b : Nat) (l : List Nat) : List Byte :=
  let d := match b with
    | 32 => (l.map (leBytes 4)).flatten
    | 16 => (l.map (leBytes 2)).flatten
    | 6 => pack6 l
    | 4 => pack4 l
    | _ => l.map (BitVec.ofNat 8)
  d ++ List.replicate (2048 - d.length) 0

/-- Block `j` of a stream of `total` elements of a format. -/
def streamBlock (fmt total j : Nat) (op : Nat → Nat) : List Byte :=
  let n := fmtPerBlock fmt
  packBlock (fmtBits fmt) ((List.range n).map (fun i => if j * n + i < total then op (j * n + i) else 0))

/-- Element `i` of a stream of which these blocks are held. -/
def streamElem (l : List PBlk) (kind fmt i : Nat) : Option Nat :=
  let n := fmtPerBlock fmt
  (l.find? (fun b => b.kind == kind && b.ord == i / n)).map (fun b => blockElem b.data (fmtBits fmt) (i % n))

/-- A tile as its descriptor alone gives it. -/
def descTile (d0 d1 d2 d3 : Nat) : Tile :=
  { sq := 0, d0 := d0, d1 := d1, d2 := d2, d3 := d3, got := 4, slot := true, mode := 0, key := 0, rate := 0,
    forced := false, cnt := 0, room := true }

/-- Format of a stream (Table 4-3). -/
def Tile.kindFmt (t : Tile) (kind : Nat) : Nat :=
  match kind with | 0 => t.fmtA | 1 => t.fmtB | 4 => t.fmtC | _ => 15
/-- Elements of a stream (Table 4-3). -/
def Tile.kindElems (t : Tile) (kind : Nat) : Nat :=
  let two := decide (t.cls ≤ 1)
  match kind with
  | 0 => if two then t.m * t.k else t.m * t.n
  | 1 => if two then t.n * t.k else if t.cls = 2 ∧ opTwo t.k = true then t.m * t.n else 0
  | 2 => if two && isMx t.fmtA then t.m * (t.k / 32) else 0
  | 3 => if two && isMx t.fmtB then t.n * (t.k / 32) else 0
  | _ => if t.cls = 3 then t.m else t.m * t.n

/-- The operands of a tile: kind and stream index to bits. -/
abbrev Opnd := Nat → Nat → Nat
/-- Operands that the store holds. -/
def storedOpnd (t : Tile) (l : List PBlk) : Opnd := fun kind i => (streamElem l kind (t.kindFmt kind) i).getD 0

/-! ### Accumulation orders (R88) -/

/-- Split into groups of `c`; `n` bounds the number of groups. -/
def groupsOf (c : Nat) : Nat → List Val → List (List Val)
  | 0, _ => []
  | _, [] => []
  | n + 1, l => l.take c :: groupsOf c n (l.drop c)

/-- Order 0 in a rounding. -/
def seqSum (r : Val → Val) : List Val → Val
  | [] => .fin false 0 0
  | p :: l => l.foldl (fun s x => r (s.add x)) (r p)
/-- Exact sum; the zero of no terms is +0. -/
def exactSum : List Val → Val
  | [] => .fin false 0 0
  | p :: l => l.foldl Val.add p
/-- One level of the pairwise tree. -/
def pairUp (r : Val → Val) : List Val → List Val
  | x :: y :: l => r (x.add y) :: pairUp r l
  | l => l
/-- The pairwise tree: `n` bounds the levels. -/
def treeSum (r : Val → Val) : Nat → List Val → Val
  | 0, l => l.headD (.fin false 0 0)
  | n + 1, l => if l.length ≤ 1 then l.headD (.fin false 0 0) else treeSum r n (pairUp r l)

/-- The accumulator value before the final rounding (R88). DEDUCED (log entry 48). -/
def orderSum (t : Tile) (ps : List Val) : Val :=
  let r := raccCode t.fmtAcc t.accRtz
  let r32 := fp32.racc (if t.accRtz then .rtz else .rne)
  match t.order with
  | 0 => seqSum r ps
  | 1 => treeSum r ps.length (ps.map r)
  | 2 =>
    match (groupsOf t.chunk ps.length ps).map (seqSum r) with
    | [] => .fin false 0 0
    | h :: l => l.foldl (fun s x => r32 (s.add x)) (r32 h)
  | 3 =>
    match groupsOf t.chunk ps.length ps with
    | [] => .fin false 0 0
    | g :: l => l.foldl (fun s x => r (s.add (exactSum x))) (r (exactSum g))
  | _ => exactSum ps

/-! ### Result elements (R85, R86, R122, R126) -/

/-- An E8M0 scale (R85). -/
def scaleVal (v : Nat) : Val := if v % 256 = 255 then .nan else .fin false 1 ((v % 256 : Nat) - 127)
/-- The integer of an exact integer value. -/
def Val.int : Val → Int
  | .fin n m e => scaleTo n m e (min e 0)
  | _ => 0

/-- Rounding mode of result element `i` (R89, R93). -/
def Tile.mode' (t : Tile) (i : Nat) : Rnd :=
  match t.rnd with
  | 0 => .rne
  | 1 => .rtz
  | _ => .sto (genG t.d2 t.tid 0 i % 2 ^ 16)

/-- The exact products of element (m, n). -/
def products (t : Tile) (op : Opnd) (m n : Nat) : List Val :=
  (List.range t.k).map (fun k =>
    let a := elemVal t.fmtA (op 0 (m * t.k + k))
    let a := if isMx t.fmtA then a.mul (scaleVal (op 2 ((m * t.k + k) / 32))) else a
    let b := elemVal t.fmtB (op 1 (n * t.k + k))
    let b := if isMx t.fmtB then b.mul (scaleVal (op 3 ((n * t.k + k) / 32))) else b
    a.mul b)

/-- The larger of two inputs: +0 over −0, NaN when either is (Table 4-5). -/
def maxVal (a b : Val) : Val :=
  if a.isNan || b.isNan then .nan
  else if a.isZero && b.isZero then .fin (a.neg? && b.neg?) 0 0
  else if a.lt b then b else a
def minVal (a b : Val) : Val :=
  if a.isNan || b.isNan then .nan
  else if a.isZero && b.isZero then .fin (a.neg? || b.neg?) 0 0
  else if b.lt a then b else a
/-- Fold of a row that is not empty. -/
def rowFold (f : Val → Val → Val) : List Val → Val
  | [] => .fin false 0 0
  | a :: l => l.foldl f a

/-- The value of a class 2 element before rout. -/
def elemOp (num : Nat) (a b : Val) : Val :=
  match num with
  | 1 => a.add b
  | 2 => a.add b.negate
  | 3 => a.mul b
  | 5 => if a.isNan then .nan else if (Val.fin false 0 0).lt a then a else .fin false 0 0
  | 6 => maxVal a b
  | 7 => minVal a b
  | 8 => a.abs
  | _ => a
/-- The value of a class 3 row before rout. -/
def rowOp (t : Tile) (l : List Val) : Val :=
  match t.k with
  | 0x101 => orderSum t l
  | 0x102 => orderSum t (l.map (fun x => x.mul x))
  | 0x103 => rowFold maxVal l
  | 0x104 => rowFold minVal l
  | _ => rowFold maxVal (l.map Val.abs)

/-- Result element `i` of a tile on these operands, as bits of fmt_c. -/
def resElem (t : Tile) (op : Opnd) (i : Nat) : Nat :=
  if t.cls ≤ 1 then
    if t.fmtC = 14 then toField 32 (exactSum (products t op (i / t.n) (i % t.n))).int
    else routCode t.fmtC (t.mode' i) t.satOn (orderSum t (products t op (i / t.n) (i % t.n)))
  else if t.cls = 2 then
    routCode t.fmtC (t.mode' i) t.satOn (elemOp t.k (elemVal t.fmtA (op 0 i)) (elemVal t.fmtB (op 1 i)))
  else
    routCode t.fmtC (t.mode' i) t.satOn
      (rowOp t ((List.range t.n).map (fun j => elemVal t.fmtA (op 0 (i * t.n + j)))))

/-- The array's whole result. -/
def arrayResult (t : Tile) (op : Opnd) : List Nat := (List.range (t.kindElems 4)).map (resElem t op)
/-- Indices at which an engine's result differs from the array's; an element that never came differs (R123). -/
def diffIdx (t : Tile) (arr : List Nat) (l : List PBlk) : List Nat :=
  (List.range (t.kindElems 4)).filter (fun i => streamElem l 4 t.fmtC i != some (arr.getD i 0))

/-! ### Array time (R121, R126) -/

/-- Four times ρ (Table 4-4). -/
def rho4 (f : Nat) : Nat :=
  match f with | 1 => 1 | 2 => 2 | 3 => 2 | 10 => 8 | 13 => 8 | _ => 4
/-- TAPCLK cycles of a tile on the array or the vector unit. -/
def Tile.arrayCycles (t : Tile) : Nat :=
  if t.cls ≤ 1 then
    let wide := fun (f : Nat) => decide (1 ≤ f) && decide (f ≤ 3)
    let fo2 := if t.order = 4 ∧ (wide t.fmtA || wide t.fmtB) = true then 1 else 2
    ceilDiv (t.m * t.n * t.k * 8) (8192 * min (rho4 t.fmtA) (rho4 t.fmtB) * fo2)
  else ceilDiv (t.m * t.n) 64

end Sys2Proof.Machine
end

