-- ==== Sys2Proof/Machine/Proof.lean ====
section
/-!
DEFINITION. Proof at the FS (R43, R117 to R137, R218, R219): mirroring, reservations, the array's queue, comparison,
verdicts and negatives.
-/
namespace Sys2Proof.Machine

/-! ### Negatives (R131 to R133, R218, R219) -/

/-- The header of a negative's serialisation (Table 9-1). DESIGN CHOICE (log entry 46). -/
def negHeader (t : Tile) : List Byte :=
  leBytes 8 (t.d0 % 2 ^ 48) ++ leBytes 8 (t.d1 / 2 ^ 38 * 2 ^ 38) ++ leBytes 8 t.d2 ++ leBytes 8 t.d3
    ++ ((List.range 5).map (fun k => leBytes 2 (t.blocks k))).flatten ++ List.replicate 6 0
/-- Blocks of one kind in ascending ordinal; a missing one is filled with 0xFF (Table 9-1). -/
def negKind (t : Tile) (l : List PBlk) (k : Nat) : List Byte :=
  ((List.range (t.blocks k)).map (fun o =>
    match l.find? (fun b => b.kind == k && b.ord == o) with
    | some b => b.data
    | none => List.replicate 2048 0xFF)).flatten
/-- The array's result blocks. -/
def negArray (t : Tile) (arr : List Nat) : List Byte :=
  ((List.range (t.blocks 4)).map (fun o => streamBlock t.fmtC (t.kindElems 4) o (fun i => arr.getD i 0))).flatten
/-- What the digest covers, and the whole payload (R218). -/
def negCovered (t : Tile) (l : List PBlk) (arr : List Nat) : List Byte :=
  negHeader t ++ negKind t l 0 ++ negKind t l 1 ++ negKind t l 2 ++ negKind t l 3 ++ negArray t arr
def Neg.tile (n : Neg) : Tile := descTile n.d0 n.d1 n.d2 n.d3
/-- DEDUCED (log entry 48). -/
def Neg.payload (n : Neg) : List Byte := negCovered n.tile n.blocks n.array ++ negKind n.tile n.blocks 4

/-- A slot that can take a payload of this size (R132). DESIGN CHOICE (log entry 49). -/
def negSlot (s : State) (f size : Nat) : Option Nat :=
  if pinnedBlocks s f + size > 32 * s.rd F.FS_PROOF_CFG_neg_cap f then none
  else (List.range 4).find? (fun i => (tget [] s.negs f).all (fun n => n.slot != some i))

/-- A free summary entry, and the negatives without the one that gives way: the oldest whose slot was released or
never held a payload (R132). DESIGN CHOICE (log entry 49). -/
def makeRoom (l : List Neg) : Nat × List Neg :=
  match (List.range 16).find? (fun i => l.all (fun n => n.entry != i)) with
  | some i => (i, l)
  | none =>
    match takeFirst (fun (n : Neg) => n.slot.isNone) l with
    | some (x, r) => (x.entry, r)
    | none => (0, l)

/-- The stress in force in a field (R219): the session's kind and step, 1 for a heated one. -/
def stressOf (s : State) (f : Nat) : Option (Nat × Nat) :=
  match s.sess f with
  | some x =>
    if x.kind = 2 then (if x.phase = 3 ∨ x.phase = 4 then some (2, 1) else none)
    else if x.applied = 0 then none else some (x.kind, x.applied)
  | none => none

/-- Capture a negative (R131, R132, R219): its digest first, then a slot or a summary only. Answers the slot, 7 for
none. DESIGN CHOICE (log entry 46). DESIGN CHOICE (log entry 49). -/
def captureNeg (f : Nat) (n : Neg) (s : State) : Nat × State :=
  let n := { n with
    digest := Config.sha384 (negCovered n.tile n.blocks n.array)
    temp := s.rd F.FS_VMON_temp f
    vdd := s.rd F.FS_VMON_mv f
    brk := stressOf s f
    pack := s.rd F.FS_PACK_VER_version f }
  let r := makeRoom (tget [] s.negs f)
  let n := { n with entry := r.1 }
  match negSlot s f n.size with
  | some i =>
    let l := r.2.map (fun m : Neg => if m.was = some i then { m with was := none } else m)
    (i, storeSync f { s with negs := tput [] s.negs f (l ++ [{ n with slot := some i }]) })
  | none => (7, storeSync f ({ s with negs := tput [] s.negs f (r.2 ++ [{ n with blocks := [], array := [], other := [] }]) }.bump
      F.FS_NEG_STAT_payload_lost f))

/-- Take the payload out of a slot (R133): zeroised, its blocks back in the store; the summary stays. -/
def freeSlot (f i : Nat) (s : State) : State :=
  storeSync f { s with negs := tput [] s.negs f ((tget [] s.negs f).map (fun n =>
    if n.slot = some i then { n with slot := none, was := some i, blocks := [], array := [], other := [] } else n)) }
/-- Zeroise the sealed payloads of a partition at FS `f` (R133). -/
def zeroSealedAt (p f : Nat) (s : State) : State :=
  forAll ((tget [] s.negs f).filter (fun n => n.sealed && n.part == p)) (fun n u =>
    match n.slot with
    | some i => freeSlot f i u
    | none => u) s
/-- Zeroise the sealed payloads of a partition. -/
def zeroSealed (p : Nat) (s : State) : State := forAll (s.negs.map (·.1)) (zeroSealedAt p) s

/-- A slot under export (R223). -/
def exporting (s : State) (f i : Nat) : Bool :=
  match s.lsp with
  | some x => !x.ended && x.field == f && !x.summary && x.index == i
  | none => false
/-- A write of FS_NEG_RELEASE. -/
def negReleaseWrite (w : Writer) (f v : Nat) (s : State) : State :=
  if !notTenant w then s
  else forAll ((List.range 4).filter (bit v)) (fun i t =>
    if exporting t f i then { t with negWait := tput 0 t.negWait f (Nat.lor (tget 0 t.negWait f) (2 ^ i)) }
    else freeSlot f i t) s
def execNegRelease (w : Writer) (f v : Nat) (s : State) : Out := regWrite w .FS_NEG_RELEASE f s <|
  onUnit (fieldOk f) (negReleaseWrite w f v s)
/-- The export ends: releases that waited take effect (R223). -/
def endExport (s : State) : State :=
  match s.lsp with
  | none => s
  | some x =>
    let t := { s with lsp := some { x with ended := true } }
    let m := tget 0 t.negWait x.field
    forAll ((List.range 4).filter (bit m)) (freeSlot x.field) { t with negWait := tdel t.negWait x.field }

/-! ### Mirroring (R117 to R119) -/

/-- R117, R119: a block on a core's operand tap in host cycle `cyc`. -/
def tapBlock (e tag kind ord : Nat) (data : List Byte) (s : State) : State :=
  match tagTile s e tag false with
  | none => s
  | some t =>
    if t.retired || !t.mirror || decide (t.blocks kind ≤ ord) || t.seen.contains (kind * 2 ^ 16 + ord) then s
    else
      let k := engCt e
      let q := tget [] s.mirBuf k
      if q.length ≥ 8 then loseMirror e t s
      else modTile e t.sq (fun y => { y with seen := (kind * 2 ^ 16 + ord) :: y.seen })
        { s with mirBuf := tput [] s.mirBuf k (q ++ [MBlk.mk ⟨e, t.sq⟩ ⟨kind, ord, data⟩]) }
def execTapBlock (e cyc tag kind ord : Nat) (data : List Byte) (s : State) : Out :=
  onUnit (engOk e) (hostSide (engCt e) cyc (tapBlock e tag kind ord data) s)

/-! ### Reservations (R120) -/

/-- A self-test requested or running (R404). -/
def selfTesting (s : State) (f : Nat) : Bool := (tget false s.selfReq f) || (tfind s.selfEnd f).isSome

/-- Every operand and scale block is in the store (R125). -/
def opndComplete (x : PEnt) : Bool :=
  let t := descTile x.rsv.d0 x.rsv.d1 x.rsv.d2 x.rsv.d3
  [0, 1, 2, 3].all (fun k => (List.range (t.blocks k)).all (fun o => x.blocks.any (fun b => b.kind == k && b.ord == o)))

/-- Put back an entry, in the queue once its operands are complete. -/
def putEntry (f : Nat) (x : PEnt) (s : State) : State :=
  let n := tget 0 s.rdySeq f
  let done := x.ready.isNone && opndComplete x
  let x := if done then { x with ready := some n } else x
  let s := if done then { s with rdySeq := tput 0 s.rdySeq f (n + 1) } else s
  s.setEntries f ((s.entries f).map (fun y => if y.rsv.ref = x.rsv.ref then x else y))

/-- Why a reservation is refused, and the counter it takes: `suspect` while the array is suspect, whatever else is lacking.
DEDUCED (log entry 45). -/
def rsvRefusal (s : State) (f : Nat) (r : Rsv) : Option Fld :=
  if s.rb F.FS_PROOF_STAT_array_suspect f then some F.FS_PROOF_DROP_suspect
  else if !s.rb F.FS_PROOF_CFG_enable f || selfTesting s f || decide (32 ≤ (s.entries f).length)
      || decide (4096 < s.rd F.FS_PROOF_STAT_store_used f + r.size) then some F.FS_PROOF_DROP_refused
  else none

/-- R120: the FS takes its oldest reservation. DEDUCED (log entry 45). -/
def proofReserve (f : Nat) (s : State) : State :=
  match tget [] s.rsvQ f with
  | [] => s
  | r :: l =>
    let s := { s with rsvQ := tput [] s.rsvQ f l }
    let mine := (tget [] s.early f).filter (fun b => b.ref == r.ref)
    let s := { s with early := tput [] s.early f ((tget [] s.early f).filter (fun b => b.ref != r.ref)) }
    let reply := fun (c : Nat) (u : State) =>
      { u with rplQ := tput [] u.rplQ f (tget [] u.rplQ f ++ [PMsg.mk r.ref c false]) }
    match rsvRefusal s f r with
    | some c => reply 0 (s.bump c f)
    | none =>
      let p := s.partOf f
      let x : PEnt := { rsv := r, part := p, sealed := s.rb F.CC_PART_SEAL_sealed p, blocks := mine.map MBlk.blk }
      reply 1 (putEntry f x (s.setEntries f (s.entries f ++ [x])))
def execProofReserve (f : Nat) (s : State) : Out :=
  onUnit (fieldOk f) (if s.fieldLive f then proofReserve f s else s)

/-- R120: the oldest reply reaches its CT. -/
def execReservationReply (f : Nat) (s : State) : Out :=
  onUnit (fieldOk f) (
    if !s.fieldLive f then s
    else match tget [] s.rplQ f with
      | [] => s
      | m :: l =>
        let s := { s with rplQ := tput [] s.rplQ f l }
        if m.code = 1 then s
        else
          let k := engCt m.ref.eng
          let s := { s with mirBuf := tput [] s.mirBuf k ((tget [] s.mirBuf k).filter (fun b => b.ref != m.ref)) }
          let s := s.bump F.CT_PROOF_STAT_dropped k
          match findTile s m.ref.eng m.ref.sq with
          | some t => if t.prf = .out then raiseBp m.ref.eng t 4 (giveUp m.ref.eng { t with mirror := false }
              (modTile m.ref.eng t.sq (fun y => { y with mirror := false }) s)) else s
          | none => s)

/-! ### The array's power (R43) -/

/-- Start to wake. -/
def startWake (f : Nat) (s : State) : State :=
  if s.rb F.FS_WAKE_STAT_awake f || (tfind s.arrWake f).isSome then s
  else { s with arrWake := tput 0 s.arrWake f (s.wt + 1500) }
/-- R43: the array is ready. -/
def execProofArrayReady (f : Nat) (s : State) : Out :=
  onUnit (fieldOk f) (match tfind s.arrWake f with
    | none => s
    | some w =>
      let s := (s.toWt w)
      let s := { s with arrWake := tdel s.arrWake f, arrIdle := tput 0 s.arrIdle f s.wt }
      (s.wr F.FS_WAKE_STAT_awake f 1).bumpWrap F.FS_WAKE_STAT_wakes f)
/-- R43: the hold after the last job, tile, strip segment (R125) or self-test, has passed. -/
def execProofArraySleep (f : Nat) (s : State) : Out :=
  onUnit (fieldOk f) (
    if s.rb F.FS_WAKE_STAT_awake f && !s.rb F.FS_WAKE_CFG_pin_awake f && (s.entries f).isEmpty
        && tget 0 s.segLeft f == 0 && !selfTesting s f then
      (s.toWt (max (tget 0 s.arrIdle f) (tget 0 s.segEnd f) + s.rd F.FS_WAKE_CFG_hold_us f * us)).wr
        F.FS_WAKE_STAT_awake f 0
    else s)

/-- R119, R120, R43: the oldest block of a CT's mirror buffer reaches the store. -/
def execMirrorBlockArrive (k : Nat) (s : State) : Out :=
  let f := ctField k
  onUnit (ctOk k) (
    if !s.fieldLive f || ctQuiet s k then s
    else match tget [] s.mirBuf k with
      | [] => s
      | b :: l =>
        let s := startWake f { s with mirBuf := tput [] s.mirBuf k l }
        match (s.entries f).find? (fun x => x.rsv.ref == b.ref) with
        | some x => putEntry f { x with blocks := x.blocks ++ [b.blk] } s
        | none =>
          if (tget [] s.rsvQ f).any (fun r => r.ref == b.ref) then
            { s with early := tput [] s.early f (tget [] s.early f ++ [b]) }
          else s)

/-! ### The queue (R125) -/

/-- The entry whose operands became complete first and which has not started. -/
def nextReady (l : List PEnt) : Option PEnt :=
  (l.filter (fun x => x.ready.isSome && !x.started)).foldl (fun a x => match a with
    | none => some x
    | some b => if x.ready.getD 0 < b.ready.getD 0 then some x else some b) none
/-- R125: the array, awake and free, starts the next tile. -/
def execProofStart (f : Nat) (s : State) : Out :=
  onUnit (fieldOk f) (
    if s.fieldLive f && s.rb F.FS_WAKE_STAT_awake f && (s.entries f).all (fun x => !x.started) then
      match nextReady (s.entries f) with
      | some x => putEntry f { x with started := true } (s.toWt (tget 0 s.segEnd f))
      | none => s
    else s)
/-- R125: a segment of strip work starts on the awake array when no live tile is ready. DEDUCED (log entry 47). -/
def stripSegment (f : Nat) (s : State) : State :=
    let n := tget 0 s.segLeft f
    if s.fieldLive f && s.rb F.FS_WAKE_STAT_awake f && decide (0 < n) && (s.entries f).all (fun x => !x.started && x.ready.isNone) then
      let t := s.toWt (tget 0 s.segEnd f)
      { t with segLeft := tput 0 t.segLeft f (n - min n 4096)
               segEnd := tput 0 t.segEnd f (t.wt + ceilDiv (4 * min n 4096) 5) }
    else s
/-- R125. While a strip runs on a pack, a segment fetches stored blocks; whether the fetch meets an uncorrectable pack-store error is
a free value, and then the strip is aborted for its cores instead (Table 9-6). DESIGN CHOICE (log entry 105).
DEDUCED (log entry 47). -/
def execStripSegmentStart (f : Nat) (s : State) : Out :=
  onUnit (fieldOk f) (
    match (tget [] s.strips f).find? (fun x => x.bank.isSome) with
    | none => stripSegment f s
    | some x =>
      let d := s.drawFree 1
      if s.fieldLive f && d.1 == 1 then forAll x.cores abortOne d.2 else stripSegment f d.2)

/-! ### Comparison and verdicts (R123, R129 to R132) -/

/-- PROOF_MISMATCH with its negative, and the detection event (R129, R131, R137). -/
def proofMismatch (f : Nat) (x : PEnt) (arr diffs : List Nat) (abandoned inj : Bool) (s : State) : State :=
  let t := descTile x.rsv.d0 x.rsv.d1 x.rsv.d2 x.rsv.d3
  let e := x.rsv.ref.eng
  match (match x.rsv.retWt with | some w => (w, s) | none => s.drawFree 64) with
  | (w, s) =>
    let n : Neg := { d0 := t.d0, d1 := t.d1, d2 := t.d2, d3 := t.d3, eng := e, wt := w, blocks := x.blocks, array := arr,
                     diffs := diffs.length, idx := diffs.take 16, part := x.part, sealed := x.sealed,
                     size := x.rsv.size, source := 0 }
    match captureNeg f n s with
    | (i, s) =>
      let s := raiseFs f {
        code := Code.PROOF_MISMATCH, unit := e, layer := t.layer, op := t.op, inj := inj,
        params := t.tid % 2 ^ 32 + 2 ^ 32 * min 255 diffs.length + 2 ^ 40 * i + 2 ^ 43 * b2n abandoned
          + 2 ^ 44 * b2n x.sealed } s
      detect e Code.PROOF_MISMATCH 1 i s

/-- Whether the result of an entry's tile can still come: its CT has blocks of it, or the tile has not retired.
DEDUCED (log entry 47). -/
def resultPending (s : State) (r : TRef) : Bool :=
  (tget [] s.mirBuf (engCt r.eng)).any (fun b => b.ref == r)
    || (match findTile s r.eng r.sq with | some t => !t.retired && t.prf == .out | none => false)

/-- R122, R123: the running tile's last element is compared. DEDUCED (log entry 47). -/
def proofDone (f : Nat) (x : PEnt) (s : State) : State :=
  let t := descTile x.rsv.d0 x.rsv.d1 x.rsv.d2 x.rsv.d3
  let e := x.rsv.ref.eng
  let arr := arrayResult t (storedOpnd t x.blocks)
  match injTake 2 (fsUnit f) 0 s with
  | (hit, s) =>
    let diffs := if hit then List.range (t.kindElems 4) else diffIdx t arr x.blocks
    let s := arrJobEnd f (s.setEntries f ((s.entries f).filter (fun y => y.rsv.ref != x.rsv.ref)))
    let s := s.bumpWrap F.FS_PROOF_CNT_proved f
    let gated := s.ctGated (engCt e) && !blocked s e
    let s := if gated then ledApply { eng := e, proved := 1, epochProved := 1 } s else s
    if diffs.isEmpty then sendVerdict f x.rsv.ref 1 gated s
    else sendVerdict f x.rsv.ref 3 gated
      (proofMismatch f x arr diffs false hit (s.bump F.FS_PROOF_CNT_mismatches f))
def execProofCompareDone (f : Nat) (s : State) : Out :=
  onUnit (fieldOk f) (match (s.entries f).find? (·.started) with
    | some x => if s.fieldLive f && !resultPending s x.rsv.ref then proofDone f x s else s
    | none => s)

/-- R124: a check of the array fires. -/
def execProofArrayFault (f chk : Nat) (s : State) : Out :=
  onUnit (fieldOk f) (
    if !s.fieldLive f then s
    else
      let t := ((s.entries f).find? (·.started)).map (fun x => descTile x.rsv.d0 x.rsv.d1 x.rsv.d2 x.rsv.d3)
      let s := raiseFs f {
        code := Code.PROOF_ARRAY_FAULT, unit := fsUnit f,
        params := (t.map (fun x => x.tid % 2 ^ 32)).getD 0 + 2 ^ 32 * chk,
        layer := (t.map Tile.layer).getD 0, op := (t.map Tile.op).getD 0 } (s.bump F.FS_PROOF_CNT_array_faults f)
      arraySuspect f s)

/-- A write of FS_PROOF_STAT: array_suspect is cleared by the owner or the field's sequencer (R124), which lets
the fault's pin fall (R270). -/
def proofStatWrite (w : Writer) (f v : Nat) (s : State) : State :=
  let s := if bit v 7 && (s.isOwner w || isSeq w f) then
      fsPinDrive f 145 false (s.wr F.FS_PROOF_STAT_array_suspect f 0) else s
  if notTenant w then
    s.wr F.FS_PROOF_STAT_force_refused f
      (s.rd F.FS_PROOF_STAT_force_refused f - Nat.land (s.rd F.FS_PROOF_STAT_force_refused f) (bits v 48 16))
  else s
def execArraySuspectClear (w : Writer) (f v : Nat) (s : State) : Out := regWrite w .FS_PROOF_STAT f s <|
  onUnit (fieldOk f) (proofStatWrite w f v s)

/-- R130: the oldest abandonment reaches the FS, which had compared the first `compared` elements.
DEDUCED (log entry 45). -/
def proofAbandon (f compared : Nat) (s : State) : State :=
  match tget [] s.abnQ f with
  | [] => s
  | m :: l =>
    if (tget [] s.rsvQ f).any (fun r => r.ref == m.ref) then s
    else
      let s := { s with abnQ := tput [] s.abnQ f l, early := tput [] s.early f
                          ((tget [] s.early f).filter (fun b => b.ref != m.ref)) }
      match (s.entries f).find? (fun x => x.rsv.ref == m.ref) with
      | none => s
      | some x =>
        let t := descTile x.rsv.d0 x.rsv.d1 x.rsv.d2 x.rsv.d3
        let s := s.setEntries f ((s.entries f).filter (fun y => y.rsv.ref != m.ref))
        let s := if m.code = 1 then s.bump F.FS_PROOF_DROP_abandoned f else s
        if !x.started then s
        else
          let s := arrJobEnd f s
          let arr := arrayResult t (storedOpnd t x.blocks)
          let diffs := (diffIdx t arr x.blocks).filter (fun i =>
            decide (i < compared) && (streamElem x.blocks 4 t.fmtC i).isSome)
          if diffs.isEmpty then s else proofMismatch f x arr diffs true false s
def execProofAbandon (f compared : Nat) (s : State) : Out :=
  onUnit (fieldOk f) (if s.fieldLive f then proofAbandon f compared s else s)

/-- R129, R130, R149: the oldest verdict whose cluster runs reaches its CT. -/
def verdictArrive (m : PMsg) (s : State) : State :=
  match findTile s m.ref.eng m.ref.sq with
  | none => s
  | some t =>
    if t.prf ≠ .out then s
    else
      let v := match m.code with | 1 => Prf.clean | 3 => Prf.failed | _ => Prf.unchecked
      let e := m.ref.eng
      let s := modTile e t.sq (fun y => { y with prfLed := m.led, mirror := false }) s
      let t := { t with prfLed := m.led, mirror := false }
      if t.dlDone then settleLate e t v s else modTile e t.sq (fun y => { y with prf := v }) s
def execProofVerdictArrive (f : Nat) (s : State) : Out :=
  onUnit (fieldOk f) (
    if !s.fieldLive f then s
    else match takeFirst (fun (m : PMsg) => !s.ctGated (engCt m.ref.eng)) (tget [] s.vrdQ f) with
      | none => s
      | some (m, l) => verdictArrive m { s with vrdQ := tput [] s.vrdQ f l })

end Sys2Proof.Machine
end

