-- ==== Sys2Proof/Machine/Pack.lean ====
section
/-!
DEFINITION. Fleet exchange (chapter 9): Listapor records (R220 to R223), pattern packs and the pack store (R224 to
R232), and the reference recipe (Table 6-2).
-/
namespace Sys2Proof.Machine

/-! ### Recipes -/

/-- An item from its fields, in the order of Table 9-4 keys 1 to 6. DEDUCED (log entry 50). -/
def mkItem (cls m n k : Nat) (fmts ords : List Nat) (src : List (Option (Nat × Nat))) : PItem :=
  let f := fun i => fmts.getD i 0
  let o := fun i => ords.getD i 0
  { d1 := cls * 2 ^ 38 + f 0 * 2 ^ 42 + f 1 * 2 ^ 47 + f 3 * 2 ^ 52 + f 2 * 2 ^ 57 + o 3 * 2 ^ 62
    d3 := m + n * 2 ^ 16 + k * 2 ^ 32 + o 0 * 2 ^ 56 + o 1 * 2 ^ 59 + o 2 * 2 ^ 62 + o 4 * 2 ^ 63
    src := src }
def genSrc : List (Option (Nat × Nat)) := [none, none, none, none]

/-- Recipe 0 (Table 6-2). -/
def refRecipe : List PItem :=
  [ mkItem 0 32 32 1024 [4, 4, 3, 2] [2, 2, 0, 0, 0] genSrc
  , mkItem 0 32 32 384 [2, 2, 1, 2] [1, 0, 0, 2, 0] genSrc
  , mkItem 0 32 32 1024 [10, 10, 1, 3] [3, 3, 0, 1, 0] genSrc
  , mkItem 0 32 32 256 [12, 12, 14, 14] [0, 0, 0, 0, 0] genSrc
  , mkItem 2 32 512 1 [2, 2, 0, 2] [0, 0, 0, 0, 0] genSrc
  , mkItem 3 32 512 0x101 [1, 0, 1, 1] [1, 0, 0, 0, 0] genSrc ]

/-! ### Packs (R224, R225) -/

/-- A pack: version, recipes and operand blocks (Table 9-3). -/
structure Pack where
  version : Nat
  recipes : List (Nat × List PItem)
  blocks : List Byte

/-- A stored-kind entry (Table 9-4 key 7). -/
def srcOf : Cbor → Option (Option (Nat × Nat))
  | .simple 22 => some none
  | .arr [.uint a, .uint n] => some (some (a, n))
  | _ => none

/-- An item map; every number fits its descriptor field, else the marker false says that the item breaks R225. -/
def itemOf (c : Cbor) : Option (PItem × Bool) := do
  let l ← c.map?
  let cls ← (← cborKey l 1).uint?
  let m ← (← cborKey l 2).uint?
  let n ← (← cborKey l 3).uint?
  let k ← (← cborKey l 4).uint?
  let fs ← uints (← (← cborKey l 5).arr?)
  let os ← uints (← (← cborKey l 6).arr?)
  let ss ← (← (← cborKey l 7).arr?).mapM srcOf
  if fs.length = 4 ∧ os.length = 5 ∧ ss.length = 4 ∧ cls ≤ 3 then
    let ok := decide (m < 2 ^ 16) && decide (n < 2 ^ 16) && decide (k < 2 ^ 24) && fs.all (fun x => decide (x < 32))
      && decide (os.getD 0 0 < 8) && decide (os.getD 1 0 < 8) && decide (os.getD 2 0 < 2) && decide (os.getD 3 0 < 4)
      && decide (os.getD 4 0 < 2)
    some (mkItem cls m n k fs os ss, ok)
  else none

/-- A recipe map: number, items, and whether every item's numbers fit. -/
def recipeMap (c : Cbor) : Option ((Nat × List PItem) × Bool) := do
  let l ← c.map?
  let n ← (← cborKey l 1).uint?
  let is ← (← (← cborKey l 2).arr?).mapM itemOf
  if 1 ≤ n ∧ n ≤ 255 ∧ 1 ≤ is.length ∧ is.length ≤ 16 then some ((n, is.map (·.1)), is.all (·.2)) else none

/-- Numbers that occur once. -/
def distinct : List Nat → Bool
  | [] => true
  | a :: l => !l.contains a && distinct l

/-- A provable item whose stored kinds fit; stored MX operands come with their stored scales (R225). DEDUCED (log
entry 50). -/
def itemOk (nblk : Nat) (x : PItem) : Bool :=
  let t := descTile 0 x.d1 0 x.d3
  contractReason 0 t == 0 && unprovReason t == 0
    && (List.range 4).all (fun k => match x.src.getD k none with
      | none => true
      | some (a, n) => decide (0 < t.blocks k) && n == t.blocks k && decide (a + n ≤ nblk))
    && [0, 1].all (fun k => (x.src.getD k none).isNone || t.blocks (k + 2) == 0 || (x.src.getD (k + 2) none).isSome)

/-- The parts of a tagged COSE_Sign1: protected header, unprotected header, payload, signature. -/
def coseParts : Option Cbor → Option (List Byte × List Cbor × List Byte × List Byte)
  | some (.tag 18 (.arr [.bstr p, .map u, .bstr y, .bstr g])) => some (p, u, y, g)
  | _ => none

/-- The alg value −35 and the kid of a protected header. -/
def coseAlg (p : List Byte) : Bool × Option Nat :=
  match cborDecode p with
  | some (.map l) =>
    ((match cborKey l 1 with | some (.nint 34) => true | _ => false),
     match cborKey l 4 with | some (.bstr [k]) => some k.toNat | _ => none)
  | _ => (false, none)

/-- Sig_structure of a COSE_Sign1 with empty external data. -/
def sigStructure (p y : List Byte) : List Byte :=
  cArray [cText [0x53, 0x69, 0x67, 0x6E, 0x61, 0x74, 0x75, 0x72, 0x65, 0x31], cBytes p, cBytes [], cBytes y]

/-- What the checks of commit find (R227): a version when readable, kid, and a reason of Table 9-5 or the pack. -/
structure PackRes where
  version : Nat
  kid : Nat := 0
  res : Except Nat Pack

/-- Checks 5 to 8 on the pack map (R224, R225, R227, R229). -/
def packMap (floor kid : Nat) (y : List Byte) : PackRes :=
  match (cborDecode y).bind Cbor.map? with
  | none => { version := 0, kid := kid, res := .error 7 }
  | some l =>
    let ver := ((cborKey l 1).bind Cbor.uint?).getD 0
    match (cborKey l 1).bind Cbor.uint?, (cborKey l 2).bind Cbor.arr? with
    | none, some [.uint major, .uint minor] =>
      { version := 0, kid := kid, res := .error (if major ≠ 4 ∨ minor > 2 then 5 else 7) }
    | some v, some [.uint major, .uint minor] =>
      let bad := fun r => { version := v % 2 ^ 32, kid := kid, res := .error r }
      if major ≠ 4 ∨ minor > 2 then bad 5
      else if v < floor then bad 6
      else
        match (cborKey l 3).bind Cbor.arr? |>.bind (·.mapM recipeMap), (cborKey l 4).bind Cbor.bstr? with
        | some rs, some b =>
          let ns := rs.map (fun r => r.1.1)
          let its := (rs.map (fun r => r.1.2)).flatten
          if v = 0 ∨ v ≥ 2 ^ 32 ∨ ns.length = 0 ∨ ns.length > 255 ∨ distinct ns = false ∨ b.length % 2048 ≠ 0 then bad 7
          else if its.length > 1024 ∨ rs.all (·.2) = false ∨ its.all (itemOk (b.length / 2048)) = false then bad 8
          else { version := v, kid := kid, res := .ok ⟨v, rs.map (·.1), b⟩ }
        | _, _ => bad 7
    | _, _ => { version := ver % 2 ^ 32, kid := kid, res := .error 7 }

/-- Checks 2 to 8 (R224, R225, R227, R229). DESIGN CHOICE (log entry 51). -/
def checkPack (floor : Nat) (l : List Byte) : PackRes :=
  match coseParts (cborDecode l) with
  | none => { version := 0, res := .error 2 }
  | some (p, u, y, g) =>
    match coseAlg p with
    | (false, _) => { version := 0, res := .error 2 }
    | (true, kid) =>
      match kid, (cborNeg u 69999).bind Cbor.bstr? with
      | some k, some pk =>
        let a := Config.fuseAnchor k
        if k > 1 ∨ pk.length ≠ 97 ∨ a = 0 ∨ Config.sha384 pk ≠ a then { version := 0, res := .error 3 }
        else if !Config.ecdsaVerify a (sigStructure p y) g then { version := 0, kid := k, res := .error 4 }
        else packMap floor k y
      | _, _ => { version := 0, res := .error 3 }

/-! ### The pack store (R226) -/

def State.bank (s : State) (b : Nat) : List Byte := if b = 0 then s.bank0 else s.bank1
def State.setBank (s : State) (b : Nat) (l : List Byte) : State :=
  if b = 0 then { s with bank0 := l } else { s with bank1 := l }
/-- The pack of a bank, as the field's recipe table was loaded from it. -/
def bankPack (s : State) (b : Nat) : Option Pack :=
  match (checkPack 0 (s.bank b)).res with
  | .ok p => some p
  | .error _ => none

/-- The items of a recipe at field `f` (R156), with the bank a pack recipe comes from, that of the field's table unless the
request was made under another (`pb`, plus one); none when it is not available. A negative recipe has the item of its tile,
with the captured operands. -/
def recipeItems (s : State) (f r : Nat) (pb : Option Nat := none) : Option (List PItem × Option Nat) :=
  if r = 0 then some (refRecipe, none)
  else if r ≤ 255 then
    match pb.getD (tget 0 s.fsPack f) with
    | b + 1 => (bankPack s b).bind (fun p => (p.recipes.find? (fun x => x.1 == r)).map (fun x => (x.2, some b)))
    | 0 => none
  else if r ≤ 259 then
    ((tget [] s.negs f).find? (fun n => n.slot == some (r - 256))).map (fun n =>
      ([{ d1 := n.d1 / 2 ^ 38 * 2 ^ 38, d3 := n.d3 }], none))
  else none

/-- The bank, plus one, that a request of recipe `r` made now names; 0 where the recipe is in no pack (R228). -/
def reqBank (s : State) (f r : Nat) : Nat := if 1 ≤ r ∧ r ≤ 255 then tget 0 s.fsPack f else 0
/-- Whether a strip still runs on a bank, or a request or session made under it is still to run (R228). DEDUCED (log
entry 50). -/
def bankInUse (s : State) (b : Nat) : Bool :=
  s.strips.any (fun e => e.2.any (fun x => x.bank == some b))
    || s.cores.any (fun e => e.2.outstanding && e.2.bank == b + 1) || s.sessions.any (fun e => e.2.bank == b + 1)
/-- Load the recipe table of field `f` from bank `b` (R228). -/
def loadTable (f b v : Nat) (s : State) : State :=
  packSync f ({ s with fsPack := tput 0 s.fsPack f (b + 1) }.wr F.FS_PACK_VER_version f v)

/-- CC_PACK_VER, CC_PACK_DIG of the active pack. -/
def packActive (b v : Nat) (s : State) : State :=
  let d := beBytes 48 (Config.sha384 (s.bank b))
  forAll (List.range 6) (fun i t => t.wr F.CC_PACK_DIG_dig i (leNat (slice d (8 * i) 8)))
    (s.wr F.CC_PACK_VER_active 0 v)

/-- PACK_REJECTED (Table 9-14). -/
def packReject (v reason : Nat) (boot : Bool) (s : State) : State :=
  raiseCc { code := Code.PACK_REJECTED, unit := s.ccUnit, params := v + 2 ^ 32 * reason + 2 ^ 36 * b2n boot }
    ((s.wr F.CC_PACK_STAT_reason 0 reason))

/-! ### Loading a pack (R227) -/

/-- The bank that is not active. -/
def idleBank (s : State) : Nat := 1 - s.bankAct

/-- R227: op begin. DESIGN CHOICE (log entry 51). -/
def packBegin (len : Nat) (s : State) : State :=
  if s.scrapped then packReject 0 10 false (s.wr F.CC_PACK_STAT_state 0 5)
  else if bankInUse s (idleBank s) || s.packSw.isSome then s.wr F.CC_PACK_STAT_reason 0 12
  else
    let b := idleBank s
    let t := { s with packRecv := some (len, []), bankWear := tput 0 s.bankWear b (tget 0 s.bankWear b + 1) }.setBank b []
    ((t.wr F.CC_PACK_STAT_state 0 1).wr F.CC_PACK_STAT_received 0 0).wr F.CC_PACK_VER_staged 0 0

/-- The checks of op commit. Loading is refused in SCRAPPED (R227). Whether a write of the bank fails is a free value (reason 9).
DESIGN CHOICE (log entry 117). -/
def packVerify (s : State) : State :=
  match s.packRecv with
  | none => s
  | some (len, l) =>
    let b := idleBank s
    let s := { s with packRecv := none }
    let l := if s.rd F.CC_PACK_STAT_received = (len + 7) / 8 * 8 ∧ len ≤ 4 * 2 ^ 20 then some (l.take len) else none
    let rej := fun (v r : Nat) => packReject v r false (s.wr F.CC_PACK_STAT_state 0 5)
    match (if s.scrapped then none else l) with
    | none => rej 0 (if s.scrapped then 10 else 1)
    | some l =>
      let c := checkPack (s.rd F.CC_PACK_FLOOR_floor) l
      match c.res with
      | .error r => rej c.version r
      | .ok p =>
        let d := s.drawFree 1
        let s := d.2
        if d.1 = 1 ∨ 10000 < tget 0 s.bankWear b then packReject p.version 9 false (s.wr F.CC_PACK_STAT_state 0 5)
        else raiseCc { code := Code.PACK_STAGED, unit := s.ccUnit,
                       params := p.version + 2 ^ 32 * p.recipes.length + 2 ^ 40 * c.kid }
          (((s.setBank b l).wr F.CC_PACK_STAT_state 0 3).wr F.CC_PACK_VER_staged 0 p.version)
/-- R227: op commit; without TAPCLK it waits (Table 9-6). -/
def packCommit (s : State) : State :=
  if s.rd F.CC_PACK_STAT_state ≠ 1 then s
  else
    let t := s.wr F.CC_PACK_STAT_state 0 2
    if t.aonOnly then t else packVerify t
/-- TAPCLK returns: a commit that waited runs. -/
def packResume (s : State) : State := if s.rd F.CC_PACK_STAT_state = 2 then epochSync (packVerify s) else s

/-- End staging: op abort, or a CC swap while a pack is received (Table 9-6). -/
def packEnd (s : State) : State :=
  let t := { s with packRecv := none }.setBank (idleBank s) []
  ((t.wr F.CC_PACK_STAT_state 0 0).wr F.CC_PACK_STAT_received 0 0).wr F.CC_PACK_VER_staged 0 0
def packAbort (s : State) : State := if s.packSw.isSome || s.rd F.CC_PACK_STAT_state == 0 then s else packEnd s

/-! ### The field switch (R228) -/

/-- Skip fields that do not work; after the last field PACK_ACTIVE is recorded. -/
def swAdvance : List Nat → Bool → State → State
  | [], rv, s =>
    raiseCc { code := Code.PACK_ACTIVE, unit := s.ccUnit,
              params := s.rd F.CC_PACK_VER_active + 2 ^ 32 * s.rd F.CC_PACK_STAT_switched + 2 ^ 40 * b2n rv }
      ({ s with packSw := none }.wr F.CC_PACK_STAT_state 0 0)
  | f :: l, rv, s =>
    if s.fsWorks f then { s with packSw := some ⟨f :: l, rv⟩ }
    else swAdvance l rv (raiseCc { code := Code.PACK_FIELD_SKIPPED, unit := fsUnit f,
                                   params := s.rd F.CC_PACK_VER_active } s)

/-- Make a bank active and begin the switch. -/
def packSwitch (b v : Nat) (rv : Bool) (s : State) : State :=
  let t := packActive b v { s with bankAct := b }
  swAdvance (List.range Config.nField) rv
    (((t.wr F.CC_PACK_STAT_state 0 4).wr F.CC_PACK_STAT_switched 0 0).wr F.CC_PACK_VER_staged 0 0)

/-- R228: op swap. -/
def packSwap (s : State) : State :=
  if s.rd F.CC_PACK_STAT_state ≠ 3 then s.wr F.CC_PACK_STAT_reason 0 11
  else packSwitch (idleBank s) (s.rd F.CC_PACK_VER_staged) false s
/-- R228: op revert. DESIGN CHOICE (log entry 51). -/
def packRevert (s : State) : State :=
  if s.packSw.isSome || s.packRecv.isSome then s
  else
    let c := checkPack (s.rd F.CC_PACK_FLOOR_floor) (s.bank (idleBank s))
    match c.res with
    | .error r => s.wr F.CC_PACK_STAT_reason 0 r
    | .ok p => packSwitch (idleBank s) p.version true s

/-- A write of CC_PACK_CMD. -/
def packCmdWrite (w : Writer) (v : Nat) (s : State) : State :=
  if !s.isOwner w then s
  else epochSync <| match bits v 0 3 with
    | 1 => packBegin (bits v 32 32) s
    | 2 => packCommit s
    | 3 => packAbort s
    | 4 => packSwap s
    | 5 => packRevert s
    | _ => s
/-- A write of CC_PACK_DATA. -/
def packDataWrite (w : Writer) (v : Nat) (s : State) : State :=
  match s.packRecv with
  | some (len, l) =>
    if s.isOwner w && s.rd F.CC_PACK_STAT_state == 1 && !s.scrapped then
      { s with packRecv := some (len, if l.length < 4 * 2 ^ 20 then l ++ leBytes 8 v else l) }.bump
        F.CC_PACK_STAT_received 0 8
    else s
  | none => s
def execPackBegin (w : Writer) (len : Nat) (s : State) : Out := regWrite w .CC_PACK_CMD 0 s <|
  .next (packCmdWrite w (1 + 2 ^ 32 * len) s)
def execPackData (w : Writer) (v : Nat) (s : State) : Out := regWrite w .CC_PACK_DATA 0 s <|
  .next (packDataWrite w v s)
def execPackCommit (w : Writer) (s : State) : Out := regWrite w .CC_PACK_CMD 0 s <|
  .next (if s.isOwner w then epochSync (packCommit s) else s)
def execPackAbort (w : Writer) (s : State) : Out := regWrite w .CC_PACK_CMD 0 s <|
  .next (packCmdWrite w 3 s)
def execPackSwap (w : Writer) (s : State) : Out := regWrite w .CC_PACK_CMD 0 s <|
  .next (packCmdWrite w 4 s)
def execPackRevert (w : Writer) (s : State) : Out := regWrite w .CC_PACK_CMD 0 s <|
  .next (packCmdWrite w 5 s)

/-- R228: the next field of the switch has loaded its table and answers. -/
def execPackFieldAnswer (s : State) : Out :=
  .next (match s.packSw with
    | some ⟨f :: l, rv⟩ =>
      if s.aonOnly then s
      else epochSync (
        if s.fsWorks f then
          swAdvance l rv ((loadTable f s.bankAct (s.rd F.CC_PACK_VER_active) s).bump F.CC_PACK_STAT_switched)
        else swAdvance (f :: l) rv s)
    | _ => s)

/-- A write of CC_PACK_FLOOR (R229). -/
def packFloorWrite (w : Writer) (v : Nat) (s : State) : State :=
  let v := v % 2 ^ 32
  if s.isOwner w && (decide (s.rd F.CC_PACK_FLOOR_floor ≤ v) || s.factory) then wrPersist F.CC_PACK_FLOOR_floor 0 v s
  else s
def execPackFloorWrite (w : Writer) (v : Nat) (s : State) : Out := regWrite w .CC_PACK_FLOOR 0 s <|
  .next (packFloorWrite w v s)

/-- R230: after the firmware broadcast; the FSs' tables are loaded from the bank that passes. -/
def packBoot (fs : List Nat) (s : State) : State :=
  let fl := s.rd F.CC_PACK_FLOOR_floor
  let load := fun (b v : Nat) (t : State) =>
    forAll fs (fun f u => loadTable f b v u) (packActive b v { t with bankAct := b })
  let c := checkPack fl (s.bank s.bankAct)
  match c.res with
  | .ok p => load s.bankAct p.version s
  | .error r =>
    match (checkPack fl (s.bank (idleBank s))).res with
    | .ok p => load (idleBank s) p.version s
    | .error _ => packReject c.version r true s

/-! ### Listapor export (R220 to R223) -/

/-- The bytes of a record (Table 9-2). -/
def lspRecord (s : State) (x : Lsp) (payload : Bool) : List Byte :=
  let n := x.neg
  let t := n.tile
  cMap ([ (1, cUint 1)
        , (2, cText [0x57, 0x79, 0x78, 0x69, 0x61, 0x20, 0x34, 0x2E, 0x32])
        , (3, cArray [cBytes (beBytes 48 Config.identityDigest), cUint (s.rd F.CC_BUILD1_wafer_id)])
        , (4, cUint n.eng)
        , (5, cUint (if n.source = 0 then Code.PROOF_MISMATCH else Code.STRIP_FAIL))
        , (6, cUint n.wt)
        , (7, cUint n.source)
        , (8, cArray ([t.cls, t.m, t.n, t.k, t.layer, t.op].map cUint))
        , (9, cArray ([t.fmtA, t.fmtB, t.fmtAcc, t.fmtC].map cUint))
        , (10, cArray ([t.order, t.opar, b2n t.accRtz, t.rnd, b2n t.satOn].map cUint))
        , (11, cBytes (beBytes 48 n.digest))
        , (12, cArray [cUint n.diffs, cArray (n.idx.map cUint)])
        , (13, cInt (sext 8 n.temp))
        , (14, cUint n.vdd)
        , (15, match n.brk with | none => cNull | some (k, i) => cArray [cUint k, cUint i])
        , (16, cUint n.pack)
        , (17, cBool n.sealed) ] ++ (if payload then [(18, cBytes n.payload)] else []))

/-- CC_LSP_DATA shows the 8 bytes at the offset (Table 9-9). -/
def lspSync (s : State) : State :=
  let d := (s.lsp.bind Lsp.data).getD []
  s.wr F.CC_LSP_DATA_data 0 (leNat (slice d (s.rd F.CC_LSP_PTR_offset) 8))

/-- The export under way is cancelled and the registers begin anew. -/
def lspReset (s : State) : State :=
  ((({ endExport s with lsp := none } : State).wr F.CC_LSP_PTR_offset 0 0).wr F.CC_LSP_STAT_length 0 0).wr F.CC_LSP_STAT_no_payload 0 0
/-- The negative a write of CC_LSP_CMD names: a summary entry, or a slot's, one that has been released included (R222). -/
def lspNamed (v : Nat) (s : State) : Option Neg :=
  let l := tget [] s.negs (bits v 0 7)
  let i := bits v 8 4
  if !s.fieldLive (bits v 0 7) then none
  else if bit v 7 then l.find? (fun n => n.entry == i)
  else (l.find? (fun n => n.slot == some i)).orElse (fun _ => l.find? (fun n => n.was == some i))
/-- A write of CC_LSP_CMD (R221): cancels any export and starts one; a slot whose payload was released still names its
negative, without payload (R222). -/
def lspCmdWrite (w : Writer) (v : Nat) (s : State) : State :=
  if !s.isOwner w then s
  else
    let t := lspReset s
    match lspNamed v t with
    | none => lspSync (t.wr F.CC_LSP_STAT_state 0 3)
    | some n =>
      lspSync (({ t with lsp := some ⟨bits v 0 7, bit v 7, bits v 8 4, bit v 12, n, none, false⟩ } : State).wr F.CC_LSP_STAT_state 0 1)
def execLspExport (w : Writer) (v : Nat) (s : State) : Out := regWrite w .CC_LSP_CMD 0 s <|
  .next (lspCmdWrite w v s)

/-- R221, R222: the record is built; for AON-only operation, or a field that stops working, it waits (Table 9-6). -/
def execLspRecordReady (s : State) : Out :=
  .next (match s.lsp with
    | some x =>
      if x.data.isSome || x.ended || !s.fieldLive x.field then s
      else
        let give := x.payload && !x.summary && x.neg.slot.isSome && !x.neg.sealed
        let d := lspRecord s x give
        let t := { s with lsp := some { x with data := some d, payload := give } }
        lspSync (((t.wr F.CC_LSP_STAT_state 0 2).wr F.CC_LSP_STAT_length 0 d.length).wr F.CC_LSP_STAT_no_payload 0
          (b2n (x.payload && !give)))
    | none => s)

/-- R221, R466: a read of CC_LSP_DATA advances the offset, whoever reads; the read that covers the record's last byte
ends the export. A read that R391 refuses has no side effect. -/
def lspDataRead (w : Writer) (s : State) : State :=
  if !notTenant w then s.denied
  else
    let o := s.rd F.CC_LSP_PTR_offset
    let t := lspSync (s.wr F.CC_LSP_PTR_offset 0 (o + 8))
    match s.lsp with
    | some x =>
      match x.data with
      | some d =>
        if !x.ended && decide (o < d.length) && decide (d.length ≤ o + 8) then
          endExport (raiseCc { code := Code.NEG_EXPORTED, unit := t.ccUnit,
                               params := x.field + 2 ^ 7 * b2n x.summary + 2 ^ 8 * x.index + 2 ^ 12 * b2n x.payload
                                 + 2 ^ 13 * b2n x.neg.sealed } t)
        else t
      | none => t
    | none => t
def execLspDataRead (w : Writer) (s : State) : Out :=
  .next (if s.regReach w .CC_LSP_DATA 0 then ownerSeen w (lspDataRead w s) else s)

/-- A write of CC_LSP_PTR. DESIGN CHOICE (log entry 51). -/
def lspPtrWrite (w : Writer) (v : Nat) (s : State) : State :=
  if s.isOwner w then lspSync (s.wr F.CC_LSP_PTR_offset 0 (v % 2 ^ 32 / 8 * 8)) else s

end Sys2Proof.Machine
end

