-- ==== Sys2Proof/Machine/Strip.lean ====
section
/-!
DEFINITION. Test strips (chapter 6): operands, requests, pairing, comparison and verdicts, rotation, and the detection
horizon.
-/
namespace Sys2Proof.Machine

/-! ### What a strip runs (R153 to R156) -/

/-- Tile ID and seed of an item (Table 6-1). -/
def stripTid (num item : Nat) : Nat := item % 2 ^ 8 + 2 ^ 8 * (num % 2 ^ 40)
def stripSeed (key tid : Nat) : Nat := genG key tid 4 (2 ^ 32 - 1) + 2 ^ 32 * genG key tid 4 (2 ^ 32 - 2)

/-- Item `i` of a strip as the descriptor engine `e` announces (R154, R158). -/
def stripTile (x : Strip) (i : Nat) (it : PItem) (e : Nat) : Tile :=
  let tid := stripTid x.num i
  descTile (tid + 2 ^ 48 * 0xFFFF) (it.d1 + x.recipe % 2 ^ 16 + 2 ^ 16 * e) (stripSeed x.key tid) it.d3

/-- A generated operand element (R155). -/
def genElem (key tid fmt kind i : Nat) : Nat :=
  let v := genG key tid 4 (kind * 2 ^ 28 + i % 2 ^ 28)
  if fmt = 15 then 120 + v % 16
  else
    let v := v % 2 ^ fmtBits fmt
    match floatFmt fmt with
    | some f => if (f.dec v).isFin then v else setBits v (f.eb + f.mb - 1) 1 0
    | none => v

/-- Operands of an item: stored blocks of the pack, blocks of the replayed negative, or generated (R155, R156, R225). -/
def stripOpnd (x : Strip) (pack : List Byte) (it : PItem) (t : Tile) : Opnd := fun kind i =>
  let fmt := t.kindFmt kind
  let n := fmtPerBlock fmt
  match it.src.getD kind none with
  | some (a, _) => blockElem (slice pack ((a + i / n) * 2048) 2048) (fmtBits fmt) (i % n)
  | none => if x.recipe ≥ 256 then storedOpnd t x.nblk kind i else genElem x.key t.tid fmt kind i

/-- The engines of a core that run (R153). -/
def stripEngines (s : State) (x : Strip) (c : Nat) : List Nat :=
  if x.startup then ((List.range Config.nEngine).map (fun i => 4 * c + i)).filter (fun e => x.only.isEmpty || x.only.contains e)
  else liveEngines s c

/-- Start a strip on cores of a field: a number, a key, its items, its array work, for which the array wakes; the cores are in
state running. A recipe that has gone with its pack aborts them (R228). DESIGN CHOICE (log entry 103). -/
def startStrip (f : Nat) (cores : List Nat) (recipe : Nat) (step rerun startup : Bool) (s : State)
    (only : List Nat := []) (pb : Option Nat := none) : State :=
  match recipeItems s f recipe pb with
  | none => forAll cores abortOne s
  | some (items, bank) =>
    let k := s.drawKey
    let s := k.2
    let n := tget 0 s.stripNo f
    let nb := match (tget [] s.negs f).find? (fun g => g.slot == some (recipe - 256)) with
      | some g => if recipe ≥ 256 then g.blocks else []
      | none => []
    let x : Strip := { num := n, key := k.1 % 2 ^ 64, recipe := recipe, cores := cores, runAt := s.wt, items := items,
                       nblk := nb, step := step, rerun := rerun, startup := startup, bank := bank, only := only }
    let cyc := (items.map (fun it => (descTile 0 it.d1 0 it.d3).arrayCycles)).foldl (· + ·) 0
    let s := { s with stripNo := tput 0 s.stripNo f ((n + 1) % 2 ^ 40)
                      strips := tput [] s.strips f (tget [] s.strips f ++ [x])
                      segLeft := tput 0 s.segLeft f (tget 0 s.segLeft f + cyc) }
    let s := startWake f s
    forAll cores (fun c t =>
      let y := t.core c
      t.setCore c { y with st := 6, pairEnd := none, strip := some n }) s

/-- The strip a core runs. -/
def stripOf (s : State) (c : Nat) : Option Strip := (tget [] s.strips (coreField c)).find? (fun x => x.cores.contains c)

/-- Header beat of a strip-feed transfer (R441): engine, tag, kind, ordinal, item. -/
def feedHeader (eng tag kind ord item : Nat) : Nat :=
  eng % 4 + 2 ^ 2 * (tag % 2 ^ 8) + 2 ^ 10 * kind + 2 ^ 16 * (ord % 2 ^ 16) + 2 ^ 32 * (item % 16)
/-- The operand blocks of an item, in order of kind and ordinal. -/
def itemBlocks (t : Tile) (op : Opnd) : List PBlk :=
  ([0, 1, 2, 3].map (fun k => (List.range (t.blocks k)).map (fun o =>
    PBlk.mk k o (streamBlock (t.kindFmt k) (t.kindElems k) o (op k))))).flatten
/-- The transfers of item `i` on a core's strip feed (R158, R441): the descriptor, kind 7, as engine 0 of the core announces it,
then the operand blocks. DESIGN CHOICE (log entry 104). -/
def feedItem (c : Nat) (x : Strip) (pack : List Byte) (i : Nat) (it : PItem) : List (Nat × List Byte) :=
  let t := stripTile x i it (coreEng c)
  (feedHeader 0 t.tag 7 0 i, leBytes 8 t.d0 ++ leBytes 8 t.d1 ++ leBytes 8 t.d2 ++ leBytes 8 t.d3)
    :: (itemBlocks t (stripOpnd x pack it t)).map (fun b => (feedHeader 0 t.tag b.kind b.ord i, b.data))

/-! ### Comparison and verdicts (R162, R163) -/

/-- Result blocks of an engine for an item. -/
def outBlocks (x : Strip) (e i : Nat) : List PBlk :=
  (x.outs.filter (fun o => o.eng == e && o.item == i)).map (fun o => ⟨4, o.ord, o.data⟩)

/-- The partner of the j-th engine of a core: the j-th of the other core, counted cyclically (R162). -/
def partner (s : State) (x : Strip) (c j : Nat) : Option Nat :=
  if x.step || x.rerun then none
  else
    let other := if x.startup then
        (let k := coreCt c
         let p := 128 * (64 * ctField k + Nat.xor (k % 64) 1) + c % 128
         if x.cores.contains p then some p else none)
      else x.cores.find? (· != c)
    match other with
    | none => none
    | some p =>
      let l := stripEngines s x p
      if l.isEmpty then none else l[j % l.length]?

/-- The verdict of an engine: outcome (0 pass), whether the array was outvoted, the item, and its partner. -/
structure Verdict where
  eng : Nat
  out : Nat := 0
  vote : Bool := false
  item : Nat := 0
  mate : Option Nat := none

/-- The three comparisons of one item: differs from the array, the partner differs from it, they differ (R162). -/
def threeWay (t : Tile) (arr : List Nat) (mine : List PBlk) (other : Option (List PBlk)) : Bool × Option (Bool × Bool) :=
  let bad := fun (l : List PBlk) => !(diffIdx t arr l).isEmpty
  (bad mine, other.map (fun l =>
    (bad l, (List.range (t.kindElems 4)).any (fun i =>
      let a := streamElem mine 4 t.fmtC i
      a.isNone || a != streamElem l 4 t.fmtC i))))

/-- Table 6-3 over the items, from the first in which a comparison differs. -/
def verdictFrom (x : Strip) (pack : List Byte) (e : Nat) (p : Option Nat) : Nat → List PItem → Verdict
  | _, [] => { eng := e }
  | i, it :: l =>
    let t := stripTile x i it e
    let arr := arrayResult t (stripOpnd x pack it t)
    match threeWay t arr (outBlocks x e i) (p.map (fun q => outBlocks x q i)) with
    | (false, none) => verdictFrom x pack e p (i + 1) l
    | (true, none) => { eng := e, out := 2, item := i }
    | (false, some (false, false)) => verdictFrom x pack e p (i + 1) l
    | (true, some (false, _)) => { eng := e, out := 1, item := i }
    | (false, some _) => { eng := e, item := i }
    | (true, some (true, false)) => { eng := e, vote := true, item := i }
    | (true, some (true, true)) => { eng := e, out := 3, item := i }

/-- The stored operand blocks of a strip's pack. -/
def stripPack (s : State) (x : Strip) : List Byte :=
  match x.bank with
  | some b => ((bankPack s b).map Pack.blocks).getD []
  | none => []
/-- The verdicts of a core's engines, in order. -/
def coreVerdicts (s : State) (x : Strip) (c : Nat) : List Verdict :=
  let l := stripEngines s x c
  (List.range l.length).map (fun j =>
    let v : Verdict := verdictFrom x (stripPack s x) (l.getD j 0) (partner s x c j) 0 x.items
    { v with mate := partner s x c j })

/-- What a core's strip feed presents while its strip runs (R158). -/
def stripFeed (s : State) (c : Nat) : List (Nat × List Byte) :=
  match stripOf s c with
  | some x => (((List.range x.items.length).zip x.items).map (fun e => feedItem c x (stripPack s x) e.1 e.2)).flatten
  | none => []

/-- Every result block of every engine has arrived. -/
def stripComplete (s : State) (x : Strip) : Bool :=
  x.cores.all (fun c => (stripEngines s x c).all (fun e =>
    (List.range x.items.length).all (fun i =>
      let t := stripTile x i (x.items.getD i ⟨0, 0, []⟩) e
      (List.range (t.blocks 4)).all (fun o => x.outs.any (fun b => b.eng == e && b.item == i && b.ord == o)))))

/-! ### Consequences (R164, R165, R199) -/

/-- A failing engine: counted, a negative captured with the partner's result (R164), STRIP_FAIL recorded, the session told of its
slot (R188), and the fixer told unless `quiet` (a suspect's own replay, or start-up). -/
def stripFail (f : Nat) (x : Strip) (v : Verdict) (replay quiet : Bool) (s : State) : State :=
  let it := x.items.getD v.item ⟨0, 0, []⟩
  let t := stripTile x v.item it v.eng
  let op := stripOpnd x (stripPack s x) it t
  let arr := arrayResult t op
  let mine := outBlocks x v.eng v.item
  let diffs := diffIdx t arr mine
  let brk := x.step && !x.rerun
  let other := match v.mate with | some p => outBlocks x p v.item | none => []
  let n : Neg := { d0 := t.d0, d1 := t.d1, d2 := t.d2, d3 := t.d3, eng := v.eng, wt := s.wt, other := other,
                   blocks := itemBlocks t op ++ mine,
                   array := arr, diffs := diffs.length, idx := diffs.take 16, part := s.partOf f, sealed := false,
                   size := t.size, source := if brk then 3 else if replay then 2 else 1 }
  let l := tget {} s.ledger v.eng
  let s := { s with ledger := tput {} s.ledger v.eng ({ l with fails := min 255 (l.fails + 1) } : Led) }
  match captureNeg f n (s.bump F.FS_STRIP_CNT_fails f) with
  | (i, s) =>
    let s := raiseFs f {
      code := Code.STRIP_FAIL, unit := v.eng, layer := 0xFFFF, op := x.recipe,
      params := x.num % 2 ^ 32 + 2 ^ 32 * v.item + 2 ^ 36 * v.out + 2 ^ 39 * b2n brk + 2 ^ 40 * i
        + 2 ^ 43 * b2n (x.recipe != 0) } s
    let s := match s.sess f with
      | some y => if brk && y.neg.isNone && decide (i < 4) then s.setSess f { y with neg := some i } else s
      | none => s
    if quiet then s else detect v.eng Code.STRIP_FAIL (if brk then 4 else 2) i s

/-- An engine's strip settles: its rotation clock starts anew and overdue clears (R165, R169). -/
def engSettled (e : Nat) (s : State) : State :=
  let l := tget {} s.ledger e
  { s with ledger := tput {} s.ledger e ({ l with lastWt := s.wt, overdue := false } : Led) }

/-- A core's strip settles: trace, notification, shadow ended, released; a held core waits for the next step. -/
def coreSettled (c : Nat) (x : Strip) (fails : Nat) (s : State) : State :=
  let s := traceEv (coreCt c) 6 (coreEng c) (1 + 2 * b2n x.step + 2 ^ 2 * min 255 fails) s
  let s := noteCore Code.STRIP_SETTLED c (2 ^ 16 * fails) s
  if x.step then
    let y := s.core c
    s.setCore c { y with st := 5, strip := none }
  else
    releaseCore c (endShadow c s)

/-- Replay outcome from the suspect engine's verdict (Table 8-3). -/
def outcomeOf (v : Verdict) : Nat :=
  match v.out with
  | 1 => 3 | 3 => 3 | 2 => 4 | _ => if v.vote then 5 else 2

/-- Settle a strip of field `f` (R162 to R165, R199). DEDUCED (log entry 56). -/
def settleStrip (f : Nat) (x : Strip) (s : State) : State :=
  let vs : List (Nat × List Verdict) := x.cores.map (fun c => (c, coreVerdicts s x c))
  let all : List Verdict := (vs.map Prod.snd).flatten
  let sus := x.cores.findSome? (fun c => (s.core c).suspect)
  let s := s.bumpWrap F.FS_STRIP_CNT_runs f
  let s := forAll vs (fun cv t =>
    forAll (cv.2.filter (fun v => v.out != 0)) (fun v u => stripFail f x v sus.isSome (sus == some v.eng) u)
      (forAll cv.2 (fun v u => engSettled v.eng u) t)) s
  let s := { s with strips := tput [] s.strips f ((tget [] s.strips f).filter (fun y => y.num != x.num))
                    stripOut := s.stripOut.filter (fun e => !x.cores.contains e.1) }
  let s := forAll vs (fun cv t => coreSettled cv.1 x (cv.2.filter (fun v => v.out != 0)).length t) s
  let s := match sus with
    | some e => (match all.find? (fun v => v.eng == e) with
      | some v => replayOutcome e (outcomeOf v) s
      | none => s)
    | none => s
  let s := if x.step then
      match s.sess f with
      | some y => s.setSess f { y with done := some ((all.filter (fun v => v.out != 0)).map (·.eng)) }
      | none => s
    else s
  let s := packSync f s
  match all.find? (·.vote) with
  | some v =>
    arraySuspect f (raiseFs f { code := Code.ARRAY_OUTVOTED, unit := fsUnit f,
                                params := x.num % 2 ^ 32 + 2 ^ 32 * v.item } s)
  | none => s

/-! ### Requests (R166, R472) -/

/-- Outstanding requests that count against max_active. -/
def activeReqs (s : State) (f : Nat) : Nat := ((fieldCores s f).filter (fun e => e.2.outstanding)).length
/-- Recipe 256 + slot of a sealed negative runs only on cores of its partition (R133, R156).
DEDUCED (log entry 52). -/
def recipeOk (s : State) (f r : Nat) : Bool :=
  (recipeItems s f r).isSome
    && (r < 256 || ((tget [] s.negs f).all (fun n => n.slot != some (r - 256) || !n.sealed || n.part == s.partOf f)))

/-- A strip request of core `c` (STRIP, FS_STRIP_CMD): its status (Table 10-10). Of the two next states that Table 6-4 gives a
request of a due core the model takes requested. DEDUCED (log entry 52). DESIGN CHOICE (log entry 103). -/
def stripRequest (f c recipe : Nat) (s : State) : Nat × State :=
  let x := s.core c
  if s.aonOnly then (5, s)
  else if s.rb F.FS_PROOF_STAT_array_suspect f then (1, s)
  else if coreField c ≠ f ∨ coreOk c = false ∨ (liveEngines s c).isEmpty = true then (2, s)
  else if !recipeOk s f recipe then (4, s)
  else if x.req || x.again then (3, s)
  else if activeReqs s f ≥ max 1 (s.rd F.FS_STRIP_CFG_max_active f) then (1, s)
  else
    let y := { raiseReq x 0 recipe false with bank := reqBank s f recipe }
    let y := match x.st with
      | 0 => { y with st := 2, graceEnd := some (graceEndOf s f) }
      | 1 => { y with st := 2 }
      | _ => y
    (0, s.setCore c y)

/-- A core index within a field (engine ID bits 14:2) as a core instance. -/
def coreOf (f i : Nat) : Nat := 2 ^ 13 * f + i % 2 ^ 13

/-- R166, R255: STRIP rd, ra, rb of an FS sequencer. -/
def execStrip (q rd ra rb : Nat) (s : State) : Out :=
  onUnit (seqOk q) (seqInstr q (fun x t =>
    if q ≥ 128 then .trap trapUnit 0
    else
      let i := (x.gr ra).toNat
      let r := if i ≥ 2 ^ 13 then (2, t) else stripRequest q (coreOf q i) (x.gr rb).toNat t
      .done (seqRet q rd (BitVec.ofNat 32 r.1) r.2)) s)

/-- A write of FS_STRIP_CMD (R166, Table 6-11). -/
def stripCmdWrite (w : Writer) (f v : Nat) (s : State) : State :=
  if !notTenant w then s
  else match stripRequest f (coreOf f (bits v 0 13)) (bits v 13 9) s with
    | (0, t) => t
    | (_, t) => t.wr F.FS_STRIP_STAT_cmd_refused f 1
def execStripCmd (w : Writer) (f v : Nat) (s : State) : Out := regWrite w .FS_STRIP_CMD f s <|
  onUnit (fieldOk f) (stripCmdWrite w f v s)

/-- Oldest last_wt of the core's engines that are not fenced (R165). -/
def oldestWt (s : State) (c : Nat) : Nat :=
  (liveEngines s c).foldl (fun a e => min a (tget {} s.ledger e).lastWt) (2 ^ 64)
/-- The rotation period of a field in ns. -/
def periodNs (s : State) (f : Nat) : Nat := s.setting f 2 * sec

/-- R165, Table 6-4: a core becomes due. -/
def execStripDue (c : Nat) (s : State) : Out :=
  let f := coreField c
  onUnit (coreOk c) (
    let x := s.core c
    if s.fieldLive f && s.released f && x.st == 0 && !x.req && !x.again && !(liveEngines s c).isEmpty
        && s.rd F.CC_PART_STAT_phase (s.partOf f) == 0 then
      let t := s.toWt (oldestWt s c + periodNs s f - s.rd F.FS_STRIP_CFG_lead_ms f * ms)
      noteCore Code.STRIP_DUE c 0 (t.setCore c { x with st := 1, graceEnd := some (graceEndOf t f) })
    else s)

/-- The field's strip logic asserts no yield request: the array is suspect (R472) or TAPCLK stands (Table 6-18). -/
def noRequests (s : State) (f : Nat) : Bool := s.rb F.FS_PROOF_STAT_array_suspect f || s.aonOnly
/-- Table 6-4: the grace timer of a core expires. A forced request of a core that was not requested runs the reference recipe, 0.
DESIGN CHOICE (log entry 103). -/
def execGraceExpire (c : Nat) (s : State) : Out :=
  let f := coreField c
  onUnit (coreOk c) (
    let x := s.core c
    match x.graceEnd with
    | none => s
    | some g =>
      if (x.st != 1 && x.st != 2) || s.ctGated (coreCt c) then s
      else
        let s := s.toWt g
        let x := { x with graceEnd := none }
        if s.rb F.FS_STRIP_CFG_force_preempt f then
          let asked := x.req || x.again
          let y := if noRequests s f then x else raiseReq x 0 (if asked then x.recipe else 0) true
          let y := if asked then y else { y with bank := 0 }
          s.setCore c { y with st := 7, forceEnd := some (s.wt + 10 * ms) }
        else if s.setting f 1 = 0 then s.setCore c { x with st := 4, cause := 0 }
        else match tryForce c s with
          | (true, t) => t.setCore c { x with st := 3, shadow := true }
          | (false, t) => t.setCore c { x with st := 4, cause := 0 })

/-- Table 6-4: the 10 ms deadline of a forcing core expires. -/
def execForceDeadlineExpire (c : Nat) (s : State) : Out :=
  onUnit (coreOk c) (
    let x := s.core c
    match x.forceEnd with
    | some d => if x.st == 7 && !s.ctGated (coreCt c) then
        (s.toWt d).setCore c { x with st := 4, cause := 2, forceEnd := none } else s
    | none => s)

/-- R168: the shadow of a core is lost when more than 1/16 of its tiles retired in the last ms lost their proof. -/
def execShadowLoss (c : Nat) (s : State) : Out :=
  onUnit (coreOk c) (
    let x := s.core c
    let win := x.win.filter (fun w => decide (s.wt ≤ w.1 + ms))
    if x.st == 3 && decide (win.length < 16 * (win.filter (·.2)).length) then
      s.setCore c { x with st := 4, cause := 1, shadow := true }
    else s)

/-- R169: an engine becomes overdue; the first of its core is recorded. -/
def execStripOverdue (e : Nat) (s : State) : Out :=
  let c := engCore e
  let f := engField e
  onUnit (engOk e) (
    let x := s.core c
    let l := tget {} s.ledger e
    if (x.st == 4 || x.st == 7) && !l.overdue && !engFenced s e && !s.ctGated (coreCt c)
        && s.rd F.CC_PART_STAT_phase (s.partOf f) == 0 && s.fieldLive f then
      let first := !coreOverdue s c
      let s := s.toWt (l.lastWt + periodNs s f + 1)
      let s := { s with ledger := tput {} s.ledger e ({ l with overdue := true, epochOverdue := true } : Led) }
      let s := stripSync f s
      if first then
        raiseFs f { code := Code.STRIP_OVERDUE, unit := coreEng c,
                    params := sat 32 ((s.wt - l.lastWt) / ms) + 2 ^ 32 * (if x.st == 7 then 3 else x.cause) } s
      else s
    else s)

/-! ### Grants and pairing (R160, R161, R198) -/

/-- Stop or restart the watchdogs of a core's engines. -/
def coreWdogs (c : Nat) (s : State) : State := forAll [0, 1, 2, 3] (fun i t => wdogSync (4 * c + i) t) s

/-- The recipe of a suspect replay: 256 + slot while the slot holds the payload of the suspect's negative, else 0 (R198). -/
def replayRecipe (s : State) (e : Nat) : Nat :=
  match latentAt s e with
  | some (_, l) => if l.slot < 4 ∧ (tget [] s.negs (engField e)).any (fun n => n.slot == some l.slot && n.eng == e) = true
      ∧ recipeOk s (engField e) (256 + l.slot) = true then 256 + l.slot else 0
  | none => 0

/-- The witness of a suspect core (R198): another cluster, not fenced, no latent engine, no request; earliest settled.
DEDUCED (log entry 56). -/
def witnessOf (s : State) (c : Nat) : Option Nat :=
  let l := (coresOfField (coreField c)).filter (fun w =>
    coreCt w != coreCt c && !(liveEngines s w).isEmpty && !coreLatent s w
      && !(s.core w).req && !(s.core w).again)
  l.foldl (fun a w => match a with
    | none => some w
    | some b => if oldestWt s w < oldestWt s b then some w else some b) none

/-- A core that another can be paired with: granted, waiting, in another cluster of the field, same recipe; the first
to be granted. -/
def pairWith (s : State) (c : Nat) : Option Nat :=
  let x := s.core c
  let l := (fieldCores s (coreField c)).filter (fun e =>
    e.1 != c && coreCt e.1 != coreCt c && e.2.st == 5 && e.2.kind == 0 && e.2.suspect.isNone && e.2.witness.isNone
      && e.2.pairEnd.isSome && e.2.recipe == x.recipe && e.2.bank == x.bank)
  (l.foldl (fun a e => match a with
    | none => some (e.1, e.2.ord)
    | some b => if e.2.ord < b.2 then some (e.1, e.2.ord) else some b) none).map (·.1)

/-- A strip request is granted (Table 6-4): a suspect asks for its witness, a witness joins its suspect, any other
core seeks a partner; with pair_wait_us = 0 every strip is two-way (R161). -/
def grantStrip (c : Nat) (s : State) : State :=
  let f := coreField c
  let x := s.core c
  let n := tget 0 s.grantNo f
  let s := { s with grantNo := tput 0 s.grantNo f (n + 1) }
  let s := coreWdogs c (s.setCore c { x with st := 5, granted := true, graceEnd := none, forceEnd := none, ord := n })
  let x := s.core c
  match x.suspect, x.witness with
  | some e, _ =>
    match witnessOf s c with
    | none => startStrip f [c] (replayRecipe s e) false false false s
    | some w =>
      let y := s.core w
      let z := raiseReq y 0 (replayRecipe s e) false
      let s := s.setCore w { z with st := if y.st ≤ 1 then 2 else y.st, witness := some c,
                                    graceEnd := if y.st = 0 then some (graceEndOf s f) else y.graceEnd }
      s.setCore c { x with pairEnd := some (s.wt + s.rd F.FS_FIX_CFG_replay_wait_ms f * ms) }
  | none, some c' =>
    let y := s.core c'
    match y.suspect with
    | some e => if y.st == 5 then startStrip f [c', c] (replayRecipe s e) false false false s else abortOne c s
    | none => abortOne c s
  | none, none =>
    if s.rd F.FS_STRIP_CFG_pair_wait_us f = 0 then startStrip f [c] x.recipe false false false s [] (some x.bank)
    else match pairWith s c with
      | some p => startStrip f [p, c] x.recipe false false false s [] (some x.bank)
      | none => s.setCore c { x with pairEnd := some (s.wt + s.rd F.FS_STRIP_CFG_pair_wait_us f * us) }

/-- R161: the pair wait of a granted core expires. -/
def execPairWaitExpire (c : Nat) (s : State) : Out :=
  onUnit (coreOk c) (
    let x := s.core c
    match x.pairEnd with
    | some d => if x.st == 5 && x.kind == 0 && x.suspect.isNone && !s.ctGated (coreCt c) then
        startStrip (coreField c) [c] x.recipe false false false (s.toWt d) [] (some x.bank) else s
    | none => s)

/-- R198: no witness has granted in time: its request is withdrawn and the suspect runs alone. -/
def execReplayWaitExpire (c : Nat) (s : State) : Out :=
  let f := coreField c
  onUnit (coreOk c) (
    let x := s.core c
    match x.pairEnd, x.suspect with
    | some d, some e => if x.st == 5 && !s.ctGated (coreCt c) then
        let s := forAll ((fieldCores s f).filter (fun w => w.2.witness == some c)) (fun w t => abortOne w.1 t) (s.toWt d)
        startStrip f [c] (replayRecipe s e) false false false s else s
    | _, _ => s)

/-- R442: the host drops the grant after a release; a waiting request is raised. -/
def execYieldGrantDrop (c : Nat) (s : State) : Out :=
  onUnit (coreOk c) (
    let x := s.core c
    if x.granted && !x.req then
      s.setCore c { x with granted := false, req := x.again, again := false, force := x.again && x.force }
    else s)

/-! ### Step marks and the horizon (R173, R175 to R177) -/

/-- The least epoch_proved over engines active in the epoch and not fenced, over the working fields of a partition. -/
def epochLeast (s : State) (p : Nat) : Option Nat :=
  (s.ledger.filter (fun e => s.partOf (engField e.1) == p && s.fieldLive (engField e.1) && e.2.epochActive
    && !engFenced s e.1)).foldl (fun a e => match a with
      | none => some e.2.epochProved
      | some b => some (min b e.2.epochProved)) none
def epochLate (s : State) (p : Nat) : Bool :=
  s.ledger.any (fun e => s.partOf (engField e.1) == p && s.fieldLive (engField e.1) && e.2.epochOverdue)
/-- Clear the epoch fields of a partition's entries; an overdue engine is overdue in the new epoch too. -/
def epochClear (p : Nat) (s : State) : State :=
  forAll (s.ledger.filter (fun e => s.partOf (engField e.1) == p)) (fun e t =>
    let l : Led := { e.2 with epochProved := 0, epochActive := false, epochOverdue := e.2.overdue }
    { t with ledger := tput {} t.ledger e.1 l }) s
/-- Shortest interval between consecutive marks of a list, newest first. -/
def shortest : List Nat → Option Nat
  | a :: b :: l => match shortest (b :: l) with
    | none => some (a - b)
    | some m => some (min (a - b) m)
  | _ => none

/-- Published form of a term: none is unbounded (R176). DEDUCED (log entry 53). -/
def capTerm : Option Nat → Nat
  | none => 0xFFFF
  | some v => min v 0xFFFE

/-- An epoch of `w` steps closes (R176); with no interval between marks d_rot has no stated value and is free.
DEDUCED (log entry 53). -/
def epochClose (p w : Nat) (x : StepSt) (s : State) : State :=
  let least := epochLeast s p
  let late := epochLate s p
  let samp : Option Nat := match least with
    | none => some 1
    | some 0 => none
    | some n => some (ceilDiv (138156 * 2 ^ s.rd F.CC_HORIZON_CFG_q_exp p * w) (10000 * n) + 1)
  let tmin := shortest (x.hist.take (w + 1))
  let r : Option Nat × State := match late, tmin with
    | true, _ => (none, s)
    | false, some (t + 1) => (some ((s.rd F.CC_HORIZON_CFG_period_s p * sec + ms) / (t + 1) + 2), s)
    | false, _ => (match s.drawFree 16 with | (v, t) => (some v, t))
  let d := match samp, r.1 with
    | some a, some b => some (max a b)
    | _, _ => none
  let t := epochClear p r.2
  let t := (((((t.wr F.CC_HORIZON_d p (capTerm d)).wr F.CC_HORIZON_d_samp p (capTerm samp)).wr F.CC_HORIZON_d_rot p
    (capTerm r.1)).wr F.CC_HORIZON_valid p 1).wr F.CC_HORIZON_overdue p (b2n late)).wr F.CC_HORIZON_unproved p
    (b2n (least == some 0))
  t.wr F.CC_STEP_STAT_t_min_us p (sat 32 ((tmin.getD 0) / us))

/-- An accepted step mark replaces the suspect lists of the partition (R320): by the context then active, or none. A
frozen list stays. -/
def suspMark (p : Nat) (s : State) : State :=
  { s with susp := s.susp.filterMap (fun e =>
      if s.partOf (engField e.1) != p || e.2.frozen then some e
      else
        let x := tget 0 s.ctxSig e.1
        if bit x 16 then some (e.1, { ids := [x % 2 ^ 16] }) else none) }

/-- A write of CC_STEP (R173); a changed W holds from the next epoch (Table 6-12). DEDUCED (log entry 53). -/
def stepWrite (w : Writer) (p v : Nat) (s : State) : State :=
  if !s.ownerOrTenant w p then s
  else
    let n := bits v 0 40
    let x := tget {} s.steps p
    if (match x.last with | some l => decide (n ≤ l) | none => false) then
      raiseCc { code := Code.STEP_REJECTED, unit := s.ccUnit, params := n + 2 ^ 40 * p } s
    else
      let next := s.rd F.CC_HORIZON_CFG_epoch_steps p
      let k := x.w.getD next
      let close := decide (k ≤ x.count + 1)
      let y := { x with last := some n, hist := (s.wt :: x.hist).take 257, count := if close then 0 else x.count + 1,
                        w := some (if close then next else k) }
      let t := { s with steps := tput {} s.steps p y }.wr F.CC_STEP_STAT_step p (n % 2 ^ 32)
      let t := suspMark p (notify 128 Code.STEP_MARK t.ccUnit (n + 2 ^ 40 * p) t)
      if close then epochClose p k y t else t
def execStepMark (w : Writer) (p v : Nat) (s : State) : Out := regWrite w .CC_STEP p s <|
  onUnit (partOk p) (stepWrite w p v s)

/-- A partition reset clears its epoch fields, mark history and the published horizon (R177). -/
def horizonReset (p : Nat) (s : State) : State :=
  let x := tget {} s.steps p
  (forAll (s.ledger.filter (fun e => s.partOf (engField e.1) == p)) (fun e t =>
    let l : Led := { e.2 with epochProved := 0, epochActive := false, epochOverdue := false }
    { t with ledger := tput {} t.ledger e.1 l })
    { s with steps := tput {} s.steps p { x with last := none, hist := [], count := 0, w := none } }).wr F.CC_HORIZON_valid p 0

/-! ### Losses (R174) -/

/-- FP32 arithmetic of the loss statistics. DEDUCED (log entry 54). -/
def f32 (v : Val) : Val := fp32.racc .rne v
/-- DEDUCED (log entry 54). -/
def sub32 (a b : Val) : Val := f32 (a.add b.negate)
/-- DEDUCED (log entry 54). -/
def sixteenth (a : Val) : Val := f32 (a.mul (.fin false 1 (-4)))

/-- A write of CC_LOSS (R174). DEDUCED (log entry 54). -/
def lossWrite (w : Writer) (p v : Nat) (s : State) : State :=
  if !s.ownerOrTenant w p then s
  else
    let x := tget {} s.steps p
    let l := fp32.dec (v % 2 ^ 32)
    let n := s.rd F.CC_LOSS_CFG_accepted p
    let mu := if n = 0 ∧ l.isFin = true then l else fp32.dec x.mu
    let de := fp32.dec x.delta
    let dist := (sub32 l mu).abs
    let k := s.rd F.CC_LOSS_CFG_k p
    let out := !l.isFin || (decide (16 ≤ n) && k != 0 && (f32 ((cntU k).mul de)).lt dist)
    if out then
      let cls := if !l.isFin || de.isZero then 255 else ratioClass dist de
      raiseCc { code := Code.LOSS_EXCURSION, unit := s.ccUnit,
                params := (x.last.getD 0) % 2 ^ 32 + 2 ^ 32 * cls + 2 ^ 40 * b2n (!l.isFin) + 2 ^ 41 * p } s
    else
      let de' := f32 (de.add (sixteenth (sub32 dist de)))
      let mu' := f32 (mu.add (sixteenth (sub32 l mu)))
      { s with steps := tput {} s.steps p { x with mu := fp32.enc mu', delta := fp32.enc de' } }.bump
        F.CC_LOSS_CFG_accepted p
def execLossPost (w : Writer) (p v : Nat) (s : State) : Out := regWrite w .CC_LOSS p s <|
  onUnit (partOk p) (lossWrite w p v s)

/-- A write of CC_LOSS_CFG. -/
def lossCfgWrite (w : Writer) (p v : Nat) (s : State) : State :=
  if !notTenant w then s
  else
    let t := s.wr F.CC_LOSS_CFG_k p (bits v 0 8)
    if bit v 8 then
      let x := tget {} t.steps p
      { t with steps := tput {} t.steps p { x with mu := 0, delta := 0 } }.wr F.CC_LOSS_CFG_accepted p 0
    else t
def execLossResetStats (w : Writer) (p v : Nat) (s : State) : Out := regWrite w .CC_LOSS_CFG p s <|
  onUnit (partOk p) (lossCfgWrite w p v s)

end Sys2Proof.Machine
end

