-- ==== Sys2Proof/Machine/Bracket.lean ====
section
/-!
DEFINITION. Bracketing (chapter 7): sessions, holds, maintenance windows, stress requests, heating and tokens.
-/
namespace Sys2Proof.Machine

/-! ### Holds (R181) -/

/-- The cores a hold takes: a cluster's, or the field's for kind 1; only those not fenced. -/
def holdSet (s : State) (f kind cluster : Nat) : List Nat :=
  (if kind = 1 then coresOfField f else coresOfCt (64 * f + cluster)).filter (fun c => !(liveEngines s c).isEmpty)
/-- A held core that has granted. -/
def coreHeld (s : State) (c : Nat) : Bool := (s.core c).kind == 1 && (s.core c).granted && decide (5 ≤ (s.core c).st)
def holdDone (s : State) (l : List Nat) : Bool := l.all (coreHeld s)
/-- Request the hold of a core: a strip request or a running strip comes first; none while the array is suspect. -/
def holdReq (c : Nat) (s : State) : State :=
  let x := s.core c
  if x.kind == 1 && (x.req || x.again) then s
  else if s.rb F.FS_PROOF_STAT_array_suspect (coreField c) then s
  else if x.req || x.again || decide (5 ≤ x.st) then s.setCore c { x with holdNext := true }
  else s.setCore c (raiseReq x 1 0 false)
/-- The held cores a session works on. -/
def sessCores (s : State) (f : Nat) (x : Session) : List Nat :=
  (holdSet s f x.kind x.cluster).filter (coreHeld s)

/-! ### Sessions (R186 to R189) -/

/-- The higher of two 8-bit temperatures. -/
def hotter (a b : Nat) : Nat := if sext 8 a < sext 8 b then b else a

/-- Record the result and end the session (R186, R188, Table 7-2). -/
def brkFinish (f result : Nat) (x : Session) (s : State) : State :=
  let x := { x with peak := hotter x.peak (sessTemp s f x) }
  endSession f x (brkResult f result x s)
def classify (f : Nat) (x : Session) (s : State) : State :=
  brkFinish f (if x.firstFail = 0 then 0 else if x.hard then 2 else 1) x s

/-- Ask the power manager for a step. -/
def pmAsk (f step : Nat) (x : Session) (s : State) : State :=
  pmSync { s with pmQ := s.pmQ ++ [PmReq.mk f x.kind x.cluster step none] }

/-- The nominal rerun (R188): from the negative this session captured, when its payload was kept and still is. -/
def brkRerun (f : Nat) (x : Session) (s : State) : State :=
  let cores := (sessCores s f x).filter (fun c => x.fails.any (fun e => engCore e == c))
  if cores.isEmpty then brkFinish f 3 x s
  else
    let slot := x.neg.filter (fun i => (tget [] s.negs f).any (fun n =>
      n.slot == some i && n.source == 3 && x.fails.contains n.eng))
    let r := match slot with | some i => 256 + i | none => x.recipe
    startStrip f cores r true true false (s.setSess f { x with phase := 6, fromNeg := slot.isSome, done := none }) []
      (some x.bank)

/-- Withdraw stress at the end of the ascent (R186). -/
def brkWithdraw (f : Nat) (x : Session) (s : State) : State :=
  if x.kind = 2 then
    if x.firstFail ≠ 0 then
      s.setSess f { x with phase := 5, coolEnd := s.wt + s.rd F.FS_BRK_CFG_cool_ms f * ms, done := none }
    else classify f x s
  else
    let t := { s with stressEn := s.stressEn.filter (· != f) }
    pmAsk f 0 x (t.setSess f { x with phase := 5, settling := false, done := none })

/-- Run the step strip, or a heating pass, on every held core (R187, R189). -/
def brkStrip (f : Nat) (x : Session) (s : State) : State :=
  let l := sessCores s f x
  if l.isEmpty then s.setSess f { x with done := some [] }
  else startStrip f l x.recipe true false false (s.setSess f { x with done := none }) [] (some x.bank)

/-- The next step of the ascent (R186). -/
def brkNext (f : Nat) (x : Session) (s : State) : State :=
  if x.step > x.smax then brkWithdraw f x s
  else if x.kind = 2 then
    brkStrip f { x with phase := 4, heatEnd := s.wt + s.rd F.FS_BRK_CFG_heat_max_ms f * ms } s
  else
    let t := { s with stressEn := if s.stressEn.contains f then s.stressEn else s.stressEn ++ [f] }
    pmAsk f x.step x (t.setSess f { x with phase := 3, settling := false })

/-- A hold that has become complete: the window opens, the session begins (R181, R186). -/
def holdCheck (f : Nat) (s : State) : State :=
  let s := if (tfind s.maintHold f).isSome && holdDone s (holdSet s f 1 0) then
      { s with maintHold := tdel s.maintHold f
               maintEnd := tput 0 s.maintEnd f (s.wt + s.rd F.FS_MAINT_win_max_ms f * ms) }.wr F.FS_MAINT_is_open f 1
    else s
  match s.sess f with
  | some x => if x.phase = 2 ∧ holdDone s (holdSet s f x.kind x.cluster) = true then brkNext f x s else s
  | none => s

/-- A held core grants. -/
def grantHold (c : Nat) (s : State) : State :=
  holdCheck (coreField c) (coreWdogs c (s.setCore c { s.core c with st := 5, granted := true, graceEnd := none }))

/-! ### Starts (R180, R182, R183) -/

/-- Signed value of CC_BRK_ENV.t_max. -/
def tMax (s : State) : Int := sext 8 (s.rd F.CC_BRK_ENV_t_max)
/-- The effective limit of a start, none when it is refused. -/
def brkLimit (f v : Nat) (s : State) : Option Nat :=
  let ms' := bits v 8 5
  match bits v 0 2 with
  | 0 => if s.rd F.CC_BRK_ENV_f_steps = 0 then none
         else some (min ms' (min (s.rd F.CC_BRK_ENV_f_steps) (s.rd F.FS_BRK_LIMIT_f_steps f)))
  | 1 => if s.rd F.CC_BRK_ENV_v_steps = 0 ∨ s.rb F.FS_MAINT_is_open f = false then none
         else some (min ms' (min (s.rd F.CC_BRK_ENV_v_steps) (s.rd F.FS_BRK_LIMIT_v_steps f)))
  | 2 => if tMax s ≤ 0 ∨ sext 8 (bits v 22 8) > tMax s - 5 then none else some 1
  | _ => none

/-- Start a session with an FS_BRK_CMD value: whether it is refused. DEDUCED (log entry 55). -/
def brkStart (f v : Nat) (s : State) : Bool × State :=
  let kind := bits v 0 2
  let cl := bits v 2 6
  match (if (s.sess f).isSome || s.aonOnly || !s.fsWorks f || (kind != 1 && decide (Config.nCluster ≤ cl))
      || !recipeOk s f (bits v 13 9) then none else brkLimit f v s) with
  | none => (true, s)
  | some smax =>
    let h := (holdSet s f kind cl).length
    let want := s.rd F.CC_TOKEN_COST_hold_tok * h
      + (if kind = 0 then s.rd F.CC_TOKEN_COST_push_tok * smax else 0)
      + (if kind = 2 then s.rd F.CC_TOKEN_COST_heat_tok * h else 0)
    let x : Session := { kind := kind, cluster := cl, smax := smax, recipe := bits v 13 9, tTarget := bits v 22 8,
                         bank := reqBank s f (bits v 13 9),
                         phase := 1, want := want, tokEnd := s.wt + max 1 (s.rd F.FS_BRK_CFG_token_wait_ms f) * ms }
    let t := s.setSess f x
    if want > s.rd F.CC_TEST_BUDGET_budget then (false, brkAbort f 9 t)
    else
      let t := { t with tokQ := t.tokQ ++ [TokReq.mk f want] }
      (false, t.wr F.CC_TEST_BUDGET_waiting 0 t.tokQ.length)

/-- R180, R255: BRACKET rd, ra of an FS sequencer. -/
def execBracket (q rd ra : Nat) (s : State) : Out :=
  onUnit (seqOk q) (seqInstr q (fun x t =>
    if q ≥ 128 then .trap trapUnit 0
    else
      if ra % 2 = 1 then .trap trapIllegal ra
      else
      let v := x.pair ra
      let r : Nat × State :=
        if t.aonOnly then (5, t)
        else if bit v 30 then (match t.sess q with | some _ => (0, brkAbort q 10 t) | none => (2, t))
        else match brkStart q v t with
          | (true, u) => (1, u.wr F.FS_BRK_STAT_cmd_refused q 1)
          | (false, u) => (0, u)
      .done (seqRet q rd (BitVec.ofNat 32 r.1) r.2)) s)

/-- A write of FS_BRK_CMD (R180, Table 7-11). -/
def brkCmdWrite (w : Writer) (f v : Nat) (s : State) : State :=
  if !notTenant w then s
  else if bit v 30 then brkAbort f 10 s
  else match brkStart f v s with
    | (true, t) => t.wr F.FS_BRK_STAT_cmd_refused f 1
    | (false, t) => t
def execBrkCmdStart (w : Writer) (f v : Nat) (s : State) : Out := regWrite w .FS_BRK_CMD f s <|
  onUnit (fieldOk f) (brkCmdWrite w f v s)
def execBrkCancel (w : Writer) (f : Nat) (s : State) : Out := regWrite w .FS_BRK_CMD f s <|
  onUnit (fieldOk f) (brkCmdWrite w f (2 ^ 30) s)

/-! ### Tokens (R190, R191) -/

/-- R190: the oldest waiting request is granted when the budget allows; its session requests its hold. -/
def execTokenGrant (s : State) : Out :=
  .next (match s.tokQ with
    | [] => s
    | r :: l =>
      let used := s.rd F.CC_TEST_BUDGET_in_use
      if s.aonOnly || decide (used + r.n > s.rd F.CC_TEST_BUDGET_budget) then s
      else
        let t := ({ s with tokQ := l }.wr F.CC_TEST_BUDGET_in_use 0 (used + r.n)).wr F.CC_TEST_BUDGET_waiting 0 l.length
        match t.sess r.field with
        | none => t
        | some x =>
          let y := { x with phase := 2, tokens := r.n, holdEnd := t.wt + max 1 (t.rd F.FS_BRK_CFG_hold_wait_ms r.field) * ms }
          let t := t.setSess r.field y
          holdCheck r.field (forAll (holdSet t r.field x.kind x.cluster) holdReq t))

/-- R190: a request waits no longer. -/
def execTokenWaitExpire (f : Nat) (s : State) : Out :=
  onUnit (fieldOk f) (match s.sess f with
    | some x => if x.phase = 1 then brkAbort f 9 (s.toWt x.tokEnd) else s
    | none => s)

/-- R191: the oldest return packet reaches the CC. -/
def execTokenReturn (s : State) : Out :=
  .next (match s.tokRet with
    | r :: l => if s.aonOnly then s
        else { s with tokRet := l }.wr F.CC_TEST_BUDGET_in_use 0 (s.rd F.CC_TEST_BUDGET_in_use - r.n)
    | [] => s)

/-- The CC reclaims the tokens of an FS (R191). -/
def tokReclaim (f : Nat) (s : State) : State :=
  let held := match s.sess f with | some x => x.tokens | none => 0
  let back := ((s.tokRet.filter (fun r => r.field == f)).map TokReq.n).foldl (· + ·) 0
  let t := { s with tokRet := s.tokRet.filter (fun r => r.field != f), tokQ := s.tokQ.filter (fun r => r.field != f) }
  let t := match t.sess f with
    | some x => t.setSess f { x with tokens := 0 }
    | none => t
  (t.wr F.CC_TEST_BUDGET_in_use 0 (t.rd F.CC_TEST_BUDGET_in_use - (held + back))).wr F.CC_TEST_BUDGET_waiting 0 t.tokQ.length

/-! ### Hold limits and maintenance windows (R181) -/

/-- R181: a hold is not complete in time. -/
def execHoldWaitExpire (f : Nat) (s : State) : Out :=
  onUnit (fieldOk f) (match s.sess f, tfind s.maintHold f with
    | some x, m => if x.phase = 2 then brkAbort f 8 (s.toWt x.holdEnd)
        else (match m with | some d => closeWindow f (s.toWt d) | none => s)
    | none, some d => closeWindow f (s.toWt d)
    | none, none => s)

/-- A write of FS_MAINT (Table 7-13); open and close, W1S, read 0 afterwards. DESIGN CHOICE (log entry 102). -/
def maintWrite (w : Writer) (f v : Nat) (s : State) : State :=
  if !notTenant w then s
  else
    let t := s.wr F.FS_MAINT_win_max_ms f (bits v 16 16)
    let t := if bit v 1 then closeWindow f t else t
    if bit v 0 && !bit v 1 && !t.rb F.FS_MAINT_is_open f && (tfind t.maintHold f).isNone && t.fieldLive f then
      let t := { t with maintHold := tput 0 t.maintHold f (t.wt + max 1 (t.rd F.FS_BRK_CFG_hold_wait_ms f) * ms) }
      holdCheck f (forAll (holdSet t f 1 0) holdReq t)
    else t
def execMaintOpen (w : Writer) (f v : Nat) (s : State) : Out := regWrite w .FS_MAINT f s <|
  onUnit (fieldOk f) (maintWrite w f v s)
def execMaintClose (w : Writer) (f v : Nat) (s : State) : Out := regWrite w .FS_MAINT f s <|
  onUnit (fieldOk f) (maintWrite w f v s)
/-- R181: the window reaches win_max_ms. -/
def execMaintWindowExpire (f : Nat) (s : State) : Out :=
  onUnit (fieldOk f) (match tfind s.maintEnd f with
    | some d => closeWindow f (s.toWt d)
    | none => s)

/-! ### The power-management port (R184, R446) -/

/-- Take the request off the port. -/
def pmPop (s : State) : State := pmSync { s with pmQ := s.pmQ.drop 1 }

/-- R184: the host accepts the request on the port; together with a refusal it is a refusal (Table 19-19). -/
def pmAccept (s : State) : State :=
  match s.pmQ with
  | [] => s
  | h :: _ =>
    let t := pmPop s
    let t := { t with pmSettle := t.pmSettle ++ [h.field] }
    match t.sess h.field with
    | none => t
    | some x =>
      if (x.phase = 3 ∧ h.step = x.step) ∨ (x.phase = 5 ∧ h.step = 0) then
        t.setSess h.field { x with
          settling := true
          applied := if h.step = 0 then x.applied else h.step
          setEnd := t.wt + max 1 (t.rd F.FS_BRK_CFG_settle_ms h.field) * ms }
      else t

/-- Stress is back at nominal: the rerun, or the result. -/
def atNominal (f : Nat) (x : Session) (s : State) : State :=
  let x := { x with settling := false, applied := 0 }
  let t := s.setSess f x
  if x.firstFail ≠ 0 then brkRerun f x t else classify f x t

/-- R186, R446: the host refuses the request on the port: the ascent ends. -/
def pmRefuse (s : State) : State :=
  match s.pmQ with
  | [] => s
  | h :: _ =>
    let t := pmPop s
    match t.sess h.field with
    | none => t
    | some x =>
      if x.phase = 3 ∧ h.step = x.step then brkWithdraw h.field x t
      else if x.phase = 5 ∧ h.step = 0 then atNominal h.field x t
      else t
def execPmAccept (refuseToo : Bool) (s : State) : Out := .next (if refuseToo then pmRefuse s else pmAccept s)
def execPmRefuse (s : State) : Out := .next (pmRefuse s)

/-- R184: no answer within 1 ms. -/
def execPmAnswerTimeout (s : State) : Out :=
  .next (match s.pmQ with
    | [] => s
    | h :: _ =>
      let t := pmPop (s.toWt (h.limit.getD s.wt))
      match t.sess h.field with
      | some x => if (x.phase = 3 ∧ h.step = x.step) ∨ (x.phase = 5 ∧ h.step = 0) then brkAbort h.field 1 t else t
      | none => t)

/-- A stop gates a cluster the session holds (Table 7-5): the session pauses. DEDUCED (log entry 101). -/
def sessGated (s : State) (f : Nat) (x : Session) : Bool :=
  if x.kind = 1 then (List.range Config.nCluster).any (fun i => s.ctGated (64 * f + i)) else s.ctGated (64 * f + x.cluster)
/-- The session of a field pauses. -/
def brkPaused (s : State) (f : Nat) : Bool := match s.sess f with | some x => sessGated s f x | none => false

/-- R186: the host signals settled for the oldest accepted request; a paused session takes the signal once it goes on.
DEDUCED (log entry 101). -/
def execPmSettled (s : State) : Out :=
  .next (match s.pmSettle with
    | [] => s
    | f :: l =>
      if brkPaused s f then s
      else
      let t := { s with pmSettle := l }
      match t.sess f with
      | some x =>
        if !x.settling then t
        else if x.phase = 5 then atNominal f x t
        else brkStrip f { x with settling := false } t
      | none => t)

/-- R184: settled is missing; the timer pauses while the cluster is gated (Table 7-5). -/
def execPmSettleTimeout (f : Nat) (s : State) : Out :=
  onUnit (fieldOk f) (match s.sess f with
    | some x => if x.settling && !sessGated s f x then
        brkAbort f 2 { s.toWt x.setEnd with pmSettle := s.pmSettle.erase f } else s
    | none => s)

/-! ### Steps and heating (R186, R188, R189, R183) -/

/-- R186: a step strip has settled and the session goes on. -/
def brkAdvance (f : Nat) (x : Session) (l : List Nat) (s : State) : State :=
  let x := { x with done := none, peak := hotter x.peak (sessTemp s f x) }
  match x.phase with
  | 6 => classify f { x with hard := l.any (fun e => x.fails.contains e) } s
  | 3 =>
    if l.isEmpty then brkNext f { x with lastPass := x.step, step := x.step + 1 } s
    else brkWithdraw f { x with firstFail := x.step, fails := l } s
  | 4 =>
    if !l.isEmpty then brkWithdraw f { x with firstFail := 1, fails := l } s
    else if x.hot then brkStrip f { x with phase := 3 } s
    else if tget 0x80 s.ctTemp (64 * f + x.cluster) = 0x80 then s.setSess f x
    else brkStrip f x s
  | _ => s.setSess f x
def execBrkStepDone (f : Nat) (s : State) : Out :=
  onUnit (fieldOk f) (match s.sess f with
    | some x => (match x.done with
      | some l => if sessGated s f x then s else brkAdvance f x l s
      | none => s)
    | none => s)

/-- The temperature for the heated step strip is reached: it runs at once, or after the pass that runs. -/
def brkHot (f : Nat) (x : Session) (s : State) : State :=
  if (tget [] s.strips f).any (fun y => y.step) || x.done.isSome then s.setSess f { x with hot := true }
  else brkStrip f { x with hot := true, phase := 3 } s

/-- R183, R189, R188: the FS reads the cluster temperatures of its field. -/
def execThermalSample (f : Nat) (temps : List Nat) (s : State) : Out :=
  onUnit (fieldOk f) (
    let s := forAll (List.range (min temps.length Config.nCluster)) (fun i t =>
      { t with ctTemp := tput 0x80 t.ctTemp (64 * f + i) (temps.getD i 0x80 % 256) }) s
    match s.sess f with
    | none => s
    | some x =>
      if x.kind ≠ 2 then s
      else
        let now := tget 0x80 s.ctTemp (64 * f + x.cluster)
        let x := { x with peak := hotter x.peak now }
        let s := s.setSess f x
        if x.phase = 4 then
          if (List.range Config.nCluster).any (fun i => decide (tMax s ≤ sext 8 (tget 0x80 s.ctTemp (64 * f + i)))) then
            brkAbort f 3 s
          else if sext 8 x.tTarget ≤ sext 8 now then brkHot f x s
          else s
        else if x.phase = 5 ∧ now ≠ 0x80 ∧ sext 8 now ≤ sext 8 x.tTarget - 10 then brkRerun f x s
        else s)

/-- R189: heat_max_ms has passed. -/
def execHeatMaxExpire (f : Nat) (s : State) : Out :=
  onUnit (fieldOk f) (match s.sess f with
    | some x => if x.phase = 4 ∧ s.ctGated (64 * f + x.cluster) = false then brkHot f x (s.toWt x.heatEnd) else s
    | none => s)

/-- R188: cool_ms has passed: the rerun is given up. -/
def execCoolExpire (f : Nat) (s : State) : Out :=
  onUnit (fieldOk f) (match s.sess f with
    | some x => if x.phase = 5 ∧ x.kind = 2 ∧ s.ctGated (64 * f + x.cluster) = false then
        brkFinish f 3 x (s.toWt x.coolEnd) else s
    | none => s)

end Sys2Proof.Machine
end

