-- ==== Sys2Proof/Machine/Fixer.lean ====
section
/-!
DEFINITION. The fixer (chapter 8): latent engines, the fence list, the fence port and degraded service.
-/
namespace Sys2Proof.Machine

/-! ### Service (R212 to R215) -/

/-- CC_SERVICE follows the released fields and their FSs (Table 8-7). -/
def serviceSync (s : State) : State :=
  let fs := List.range Config.nField
  let rel := fs.filter (fun f => s.released f)
  let unmon := rel.filter (fun f => !s.fsWorks f)
  let level := if s.ccLost then 0 else if rel.isEmpty then 1
    else if rel.length = Config.nField ∧ unmon.isEmpty = true then 3 else 2
  let oos := s.ccLost || rel.isEmpty || s.rb F.CC_BUDGET_STAT_wafer_oos
  (((s.wr F.CC_SERVICE_released 0 rel.length).wr F.CC_SERVICE_unmon 0 unmon.length).wr F.CC_SERVICE_level 0 level).wr
    F.CC_SERVICE_oos 0 (b2n oos)

/-- Drive or drop a field's release level (R212). -/
def setReleased (f : Nat) (b : Bool) (s : State) : State :=
  if f < 64 then s.wr F.CC_FIELD_REL0_rel 0 (setBits (s.rd F.CC_FIELD_REL0_rel) f 1 (b2n b))
  else s.wr F.CC_FIELD_REL1_rel 0 (setBits (s.rd F.CC_FIELD_REL1_rel) (f - 64) 1 (b2n b))

/-- The FS of a field stops working (R191, R213): its tokens are reclaimed, its stress level falls; a released field
stays released and is recorded with the cause of Table 8-19, unless its FS did not work before (`was`). -/
def fsStopped (f cause : Nat) (was : Bool) (s : State) : State :=
  let t := tokReclaim f { s with stressEn := s.stressEn.filter (· != f) }
  let t := if t.released f && was then
      raiseCc { code := Code.FIELD_UNMONITORED, unit := fsUnit f, params := f + 2 ^ 7 * cause + 2 ^ 9 } t
    else t
  let t := match t.packSw with
    | some ⟨g :: l, rv⟩ => if g = f then swAdvance (g :: l) rv t else t
    | _ => t
  wdogSyncAll (serviceSync t)

/-! ### The fence list (R201 to R204) -/

/-- First archive word of the fence list (Table 18-5). -/
def fenceWord : Nat := 0x1000
/-- Entry `i` of the log (R201). -/
def logEntry (s : State) (i : Nat) : Nat := bits (tget 0 s.arch (fenceWord + i / 2)).toNat (32 * (i % 2)) 32
/-- Store entry `i`; false when its word is worn (R427). DESIGN CHOICE (log entry 27). -/
def putEntryLog (i v : Nat) (s : State) : Bool × State :=
  let w := fenceWord + i / 2
  archWrite w (setBits (tget 0 s.arch w).toNat (32 * (i % 2)) 32 v) true s

/-- The log as a list of entries, oldest first. -/
def logList (s : State) : List Nat := (List.range s.flogUsed).map (logEntry s)
/-- The newest entry of a unit. -/
def newestOf (s : State) (u : Nat) : Option Nat := (List.range s.flogUsed).reverse.find? (fun i => logEntry s i % 2 ^ 24 == u)
/-- Where a unit is on the list (R202): its newest entry, when that is a fence. -/
def logFind (s : State) (u : Nat) : Option Nat := (newestOf s u).filter (fun i => logEntry s i / 2 ^ 24 != 0)

/-- Updates stored and not yet acknowledged (Table 8-15): those of a resend are not stored again. -/
def fencePending (s : State) : Nat :=
  (s.fenceQ.filter (fun u => !u.resend)).length + b2n (s.fencePort.any (fun p => !p.upd.resend))
/-- CC_FENCE_STAT follows the log and the port. -/
def fenceSync (s : State) : State :=
  ((s.wr F.CC_FENCE_STAT_used 0 s.flogUsed).wr F.CC_FENCE_STAT_pending 0 (fencePending s)).wr F.CC_FENCE_STAT_volatile 0
    (b2n (s.fset.any (fun x => x.idx == 0x3FFF && x.reason != 7)))

/-- Compact the log (R203): units whose newest entry is a removal go, and every duplicate; the order stays. A unit whose
removal still waits for the host keeps the index it had. DEDUCED (log entry 57). -/
def compactLog (s : State) : State :=
  let keep := ((List.range s.flogUsed).filter (fun i =>
    let v := logEntry s i
    v / 2 ^ 24 != 0 && newestOf s (v % 2 ^ 24) == some i)).map (logEntry s)
  let t := forAll (List.range keep.length) (fun i u => (putEntryLog i (keep.getD i 0) u).2) s
  let t := { t with flogUsed := keep.length }.bump F.CC_FENCE_STAT_compactions
  let place := fun (u i : Nat) => if i = 0x3FFF then i else (logFind t u).getD i
  let move := fun (u : FUpd) => if u.set then { u with idx := place u.unit u.idx } else u
  { t with
    fset := t.fset.map (fun x => { x with idx := place x.unit x.idx })
    fenceQ := t.fenceQ.map move
    fencePort := t.fencePort.map (fun p => { p with upd := move p.upd }) }

/-- Append an entry: its index, none when the log is full of distinct units or its next word is worn. -/
def logAppend (v : Nat) (s : State) : Option Nat × State :=
  let try' := fun (t : State) =>
    if t.flogUsed < 8192 then
      match putEntryLog t.flogUsed v t with
      | (true, u) => (some t.flogUsed, { u with flogUsed := t.flogUsed + 1 })
      | (false, u) => (none, u)
    else (none, t)
  match try' s with
  | (some i, t) => (some i, t)
  | (none, t) => try' (compactLog t)

/-! ### Engines and units that become confirmed (R194, R195, Table 6-4, Table 8-9) -/

/-- Cores a unit's fence reaches. -/
def unitCores (u : Nat) : List Nat :=
  match unitKind u, unitType u with
  | 0, _ => [engCore u]
  | 1, 2 => coresOfCt (unitInst u)
  | _, _ => []

/-- What a fence does to strips and holds once the host has acknowledged it (Table 8-1): a core without engines left is
aborted, one that is held or paired leaves the hold or the pair, and its partner, a witness too, goes on with the array alone
(Tables 6-18, 8-9); overdue flags of fenced engines clear (R169).
DEDUCED (log entry 58). -/
def fenceCore (c : Nat) (s : State) : State :=
  let s := forAll [0, 1, 2, 3] (fun i t =>
    let e := 4 * c + i
    let l := tget {} t.ledger e
    if engFenced t e && l.overdue then { t with ledger := tput {} t.ledger e ({ l with overdue := false } : Led) } else t) s
  let s := stripSync (coreField c) s
  let paired := (tget [] s.strips (coreField c)).any (fun x => x.cores.contains c && decide (1 < x.cores.length))
  let s := if (liveEngines s c).isEmpty || (s.core c).kind == 1 || paired then
      let w := (fieldCores s (coreField c)).filter (fun e => e.2.witness == some c && e.2.strip.isNone)
      forAll w (fun e t => abortOne e.1 t) (abortOne c s)
    else s
  holdCheck (coreField c) s

/-- Whether the FS of a field works but for the fence of a unit. -/
def worksBut (s : State) (f u : Nat) : Bool := State.fsWorks { s with fset := s.fset.filter (fun x => x.unit != u) } f

/-- The consequences of confirming a unit (R195, R298, Table 8-2). DEDUCED (log entry 58). -/
def confirmEffect (u : Nat) (s : State) : State :=
  let s := if unitKind u = 0 then
      let t := match latentAt s u with
        | some (k, x) => setLatent k { x with confirmed := true } s
        | none => s
      let t := t.bump F.FS_FIX_STAT_confirms (engField u)
      { t with susp := tput {} t.susp u ({ tget ({} : Susp) t.susp u with frozen := true } : Susp) }
    else s
  let s := forAll (unitCores u) coreWdogs s
  match unitKind u, unitType u with
  | 1, 0 => if s.rd F.CC_ROLE_active = unitInst u then beginSwap 2 s else s.wr F.CC_ROLE_standby_ok 0 0
  | 1, 1 => fsStopped (unitInst u) 3 (worksBut s (unitInst u) u) s
  | 1, 5 => fsStopped (unitInst u) 3 (worksBut s (unitInst u) u) s
  | _, _ => s

/-- Whether a fence of this unit is refused: the active CC without a ready standby (R208). -/
def ccFenceRefused (s : State) (u : Nat) : Bool :=
  unitKind u == 1 && unitType u == 0 && s.rd F.CC_ROLE_active == unitInst u && !s.rb F.CC_ROLE_standby_ok

/-- The index under which the CC holds a unit already (R202, R203): its entry, or 0x3FFF when in the AON set only. -/
def fenceHeld (s : State) (u : Nat) : Option Nat :=
  match logFind s u with
  | some i => some i
  | none => (s.fset.find? (fun x => x.unit == u && x.idx == 0x3FFF && x.reason != 7)).map (fun _ => 0x3FFF)

/-- The CC takes a confirmation (R202 to R204): status 3 with the index of a listed unit, else 0 with the new one. A
confirmation on its way to the CC has confirmed its engine already. DEDUCED (log entry 97). -/
def storeFence (u reason : Nat) (s : State) (known : Bool := false) : (Nat × Nat) × State :=
  match fenceHeld s u with
  | some i => ((3, i), s)
  | none =>
    match logAppend (u % 2 ^ 24 + 2 ^ 24 * reason) s with
    | (r, t) =>
      let i := r.getD 0x3FFF
      let t := match r with
        | some _ => t
        | none => raiseCc { code := Code.FENCE_LIST_FULL, unit := t.ccUnit, params := u % 2 ^ 24 + 2 ^ 24 * reason } t
      let t := { t with fset := t.fset.filter (fun x => x.unit != u) ++ [FUnit.mk u reason i false false]
                        fenceQ := t.fenceQ ++ [FUpd.mk u true reason i false] }
      ((0, i), fenceSync (if unitKind u = 0 ∧ (known || s.confQ.any (fun m => m.unit == u)) = true then t else confirmEffect u t))

/-- Reasons that no confirmation may carry (Table 8-5). -/
def reasonBad (r : Nat) : Bool := r == 7 || (decide (0x0D ≤ r) && decide (r ≤ 0x7F)) || decide (0xFF < r)

/-! ### FENCE (R255, R256, Table 10-10) -/

/-- An FS's confirmation goes to the CC (Table 8-2): its engine, if no fence holds it yet, is confirmed from here on;
a unit of the CC is when its entry is stored. DEDUCED (log entry 97). -/
def sendConfirm (m : Confirm) (s : State) : State :=
  let t := { s with confQ := s.confQ ++ [m] }
  if unitKind m.unit = 0 ∧ fenceHeld s m.unit = none ∧ s.confQ.any (fun x => x.unit == m.unit) = false then
    confirmEffect m.unit t
  else t

/-- R204: confirm. It blocks until the CC answers. -/
def execFenceConfirm (q rd ra rb : Nat) (s : State) : Out :=
  onUnit (seqOk q) (seqInstr q (fun x t =>
    let u := (x.gr ra).toNat
    let r := (x.gr rb).toNat
    if t.scrapped || r == 0 then .trap trapLimit r
    else if reasonBad r then .trap trapIllegal r
    else
      let reach := unitPresent u && (if q < 128 then unitKind u == 0 && engField u == q else unitKind u != 0)
      if !reach then .done (seqCheckpoint q (seqRet q rd 2 t))
      else if t.aonOnly then .done (seqCheckpoint q (seqRet q rd 5 t))
      else if ccFenceRefused t u then .done (seqCheckpoint q (seqRet q rd 2 t))
      else .done ((sendConfirm (Confirm.mk q u r) t).setSeq q { x with mode := .fence rd u r })) s)

/-- Clear the force bit of a core as a clear of its engine does (Table 8-2). -/
def dropForced (e : Nat) (x : Latent) (s : State) : State :=
  let c := engCore e
  if x.forced && !coreLatent s c && !(s.core c).shadow then putForce c false s else s

/-- Clear a latent engine (Table 8-2, R200); a clear after an outvoted array does not count toward recur_limit, and is not kept.
DEDUCED (log entry 57). -/
def clearLatent (k : Nat) (x : Latent) (s : State) : State :=
  let f := engField x.eng
  let l := tget [] s.clears f
  let s := latentSync f { s with latent := tdel s.latent k
                                 clears := if x.replay = 5 then s.clears
                                   else tput [] s.clears f (((s.wt, x.eng) :: l).take 64) }
  raiseFs f { code := Code.UNIT_CLEARED, unit := x.eng, params := x.cause + 2 ^ 3 * x.replay + 2 ^ 6 * x.failures }
    ((dropForced x.eng x s).bump F.FS_FIX_STAT_clears f)

/-- R196: clear. -/
def execFenceClear (q rd ra : Nat) (s : State) : Out :=
  onUnit (seqOk q) (seqInstr q (fun x t =>
    if t.scrapped then .trap trapLimit 0
    else if q ≥ 128 then .trap trapUnit 0
    else match (latentAt t (x.gr ra).toNat).filter (fun e => !e.2.confirmed && engField e.2.eng == q) with
      | some (k, l) => .done (seqRet q rd 0 (clearLatent k l t))
      | none => .done (seqRet q rd 2 t)) s)

/-- R196: make latent with a cause of Table 8-4. DEDUCED (log entry 57). -/
def execFenceMakeLatent (q rd ra rb : Nat) (s : State) : Out :=
  onUnit (seqOk q) (seqInstr q (fun x t =>
    let e := (x.gr ra).toNat
    let c := (x.gr rb).toNat
    if t.scrapped then .trap trapLimit 0
    else if q ≥ 128 then .trap trapUnit 0
    else if c = 0 ∨ c > 6 then .trap trapIllegal c
    else if engField e ≠ q ∨ engOk e = false then .done (seqRet q rd 2 t)
    else if blocked t e || (latentAt t e).isSome then .done (seqRet q rd 3 t)
    else if (latentSlots t q).length ≥ 64 then .done (seqRet q rd 1 t)
    else .done (seqRet q rd 0 (makeLatent e 0 c 7 t).2)) s)

/-- Request a suspect replay (R198): on a core that runs something it follows. DEDUCED (log entry 56). -/
def requestReplay (k : Nat) (l : Latent) (s : State) : State :=
  let e := l.eng
  let c := engCore e
  let f := engField e
  let s := setLatent k { l with replay := 1 } s
  let x := s.core c
  if x.st ≥ 5 ∨ x.kind = 1 ∧ x.req = true ∨ x.witness.isSome = true ∨ x.suspect.isSome = true then
    s.setCore c { x with next := some e }
  else
    let y := if x.req || x.again then x else raiseReq x 0 0 false
    s.setCore c { y with
      suspect := some e
      st := if x.st ≤ 1 then 2 else x.st
      graceEnd := if x.st = 0 then some (graceEndOf s f) else x.graceEnd }

/-- R198, R472: replay. In AON-only operation no replay runs (Table 8-9): status 5. DESIGN CHOICE (log entry 103). -/
def execFenceReplay (q rd ra : Nat) (s : State) : Out :=
  onUnit (seqOk q) (seqInstr q (fun x t =>
    if t.scrapped then .trap trapLimit 0
    else if q ≥ 128 then .trap trapUnit 0
    else match (latentAt t (x.gr ra).toNat).filter (fun e => !e.2.confirmed && engField e.2.eng == q) with
      | none => .done (seqRet q rd 2 t)
      | some (k, l) =>
        let c := t.core (engCore l.eng)
        if t.aonOnly then .done (seqRet q rd 5 t)
        else if t.rb F.FS_PROOF_STAT_array_suspect q then .done (seqRet q rd 1 t)
        else if c.suspect == some l.eng || c.next == some l.eng then .done (seqRet q rd 3 t)
        else .done (seqRet q rd 0 (requestReplay k l t))) s)

/-- R202 to R204: the oldest confirmation reaches the CC, which answers. -/
def confirmArrive (s : State) : State :=
  match s.confQ with
    | [] => s
    | m :: l =>
      if s.aonOnly then s
      else match storeFence m.unit m.reason { s with confQ := l } true with
        | (r, t) => { t with ansQ := t.ansQ ++ [FAnswer.mk m.src m.unit r.1 r.2] }

/-- The FENCE of a sequencer completes with a status, if it waits for this unit. -/
def fenceReturn (q unit v : Nat) (s : State) : State :=
  match (s.seq q).mode with
  | .fence rd u _ =>
    if u ≠ unit then s
    else
      let t := s.setSeq q { s.seq q with mode := .run, icount := 0 }
      seqCheckpoint q (seqRet q rd (BitVec.ofNat 32 v) t)
  | _ => s
/-- R204: the oldest answer reaches its sequencer; one that it no longer waits for ends there. -/
def execFenceAnswer (s : State) : Out :=
  .next (match s.ansQ with
    | [] => s
    | m :: l => if s.aonOnly then s else fenceReturn m.dst m.unit (m.status + 2 ^ 8 * m.idx) { s with ansQ := l })
/-- TAPCLK stops: waiting confirms return status 5 (R256). What is on its way to the CC is stored once TAPCLK runs, so
that a repeat finds the unit listed; its answer goes to nobody. DEDUCED (log entry 97). -/
def fenceAbandon (s : State) : State :=
  let qs := s.seqs.filterMap (fun e => match e.2.mode with
    | .fence _ u _ => if e.1 ≤ 128 then some (e.1, u) else none
    | _ => none)
  forAll qs (fun q t => fenceReturn q.1 q.2 5 t) { s with
    confQ := s.confQ.map (fun m => { m with src := 255 })
    ansQ := [] }

/-! ### The owner's commands (R205, R206) -/

/-- A write of CC_FENCE_CMD. -/
def fenceCmdWrite (w : Writer) (v : Nat) (s : State) : State :=
  if !s.isOwner w then s
  else
    let u := bits v 0 24
    let refuse := s.wr F.CC_FENCE_STAT_refused 0 1
    if bit v 32 then
      match logFind s u with
      | none => refuse
      | some _ =>
        if !s.factory || s.fuseBad.contains u then refuse
        else match logAppend (u % 2 ^ 24) s with
          | (none, t) => t.wr F.CC_FENCE_STAT_refused 0 1
          | (some i, t) => fenceSync { t with fenceQ := t.fenceQ ++ [FUpd.mk u false 0 i false] }
    else
      let r := if bits v 24 8 = 0 then 0x0A else bits v 24 8
      if s.scrapped || reasonBad r || !unitPresent u || ccFenceRefused s u then refuse
      else (storeFence u r s).2

/-! ### The fence port (R207, R209) -/

/-- R207: the next stored update is driven. -/
def execFenceUpdate (s : State) : Out :=
  .next (match s.fencePort, s.fenceQ with
    | none, u :: l => { s with fencePort := some { upd := u, since := s.wt }, fenceQ := l }
    | _, _ => s)

/-- Record an acknowledged update where R196 and R217 place it: an engine's at its FS, another unit's at the CC.
DEDUCED (log entry 57). -/
def raiseUnit (e : Ev) (s : State) : State := if unitKind e.unit = 0 then raiseFs (engField e.unit) e s else raiseCc e s

/-- A unit's fence is acknowledged (Table 8-2): the latent entry of an engine is freed with its force bit; strips and
holds follow. -/
def unitAcked (u : Nat) (s : State) : State :=
  let s := match latentAt s u with
    | some (k, x) => if unitKind u = 0 then
        dropForced u x (latentSync (engField u) { s with latent := tdel s.latent k }) else s
    | none => s
  forAll (unitCores u) fenceCore s

/-- R207, R211: the host acknowledges the update on the port. DEDUCED (log entry 57). DEDUCED (log entry 85). -/
def fenceAck (s : State) : State :=
  match s.fencePort with
  | none => s
  | some p =>
    let t := { s with fencePort := none }
    let u := p.upd.unit
    let t := if p.upd.set then
        (match t.fset.find? (fun x => x.unit == u) with
        | some x =>
          if x.acked then t
          else
            let t := { t with fset := t.fset.map (fun y => if y.unit = u then { y with acked := true } else y) }
            raiseUnit { code := Code.UNIT_FENCED, unit := u, params := p.upd.reason + 2 ^ 8 * p.upd.idx }
              (unitAcked u t)
        | none => t)
      else
        let left := t.fset.filter (fun x => x.unit != u || (logFind t u).isSome || s.fuseBad.contains u)
        let t := { t with fset := left.map (fun y => if y.unit = u then { y with acked := false } else y) }
        wdogSyncAll (serviceSync (raiseUnit { code := Code.UNIT_UNFENCED, unit := u, params := 2 ^ 8 * p.upd.idx } t))
    fenceSync t

/-- R207, Table 8-2: ack_ms passes without acknowledgement; recorded once for a unit, and not for one already fenced whose update
is driven again. -/
def execFenceAckTimeout (s : State) : Out :=
  .next (match s.fencePort with
    | some p =>
      if p.timedOut then s
      else
        let t := { s.toWt (p.since + max 1 (s.rd F.CC_FIX_POLICY_ack_ms) * ms) with
                   fencePort := some { p with timedOut := true } }
        if p.upd.set && t.fset.any (fun x => x.unit == p.upd.unit && (x.acked || x.late)) then t
        else raiseCc { code := Code.FENCE_ACK_TIMEOUT, unit := p.upd.unit, params := b2n p.upd.set }
          { t with fset := t.fset.map (fun x => if x.unit = p.upd.unit then { x with late := true } else x) }
    | none => s)

/-- The fence set in resend order (R209): fuse-marked units, then list order, then the volatile ones. -/
def resendList (s : State) : List FUpd :=
  let fuse := s.fset.filter (fun x => s.fuseBad.contains x.unit)
  let rest := s.fset.filter (fun x => !s.fuseBad.contains x.unit)
  let byIdx := ((List.range s.flogUsed).map (fun i => rest.filter (fun x => x.idx == i))).flatten
  (fuse ++ byIdx ++ rest.filter (fun x => decide (s.flogUsed ≤ x.idx))).map (fun x => FUpd.mk x.unit true x.reason x.idx true)

/-! ### The reference policies (R200) -/

/-- What a policy does about an engine: confirm it with a reason, clear it, request a replay, restart its window and request a
replay, or nothing yet. -/
inductive PolicyAct where
  | confirm (reason : Nat)
  | clear
  | replay
  | again
  | keep
deriving DecidableEq, Repr
/-- The reason of a cause, and that of a detection event by its record code. -/
def causeReason (cause : Nat) : Nat :=
  match cause with | 1 => 0x01 | 2 => 0x02 | 3 => 0x03 | 5 => 0x06 | _ => 0x0A
def eventReason (code : Nat) : Nat :=
  if code = Code.PROOF_MISMATCH then 0x01 else if code = Code.STRIP_FAIL then 0x02 else 0x03
/-- Clears of an engine in the last 24 hours. -/
def recentClears (s : State) (e : Nat) : Nat :=
  ((tget [] s.clears (engField e)).filter (fun c => c.2 == e && decide (s.wt ≤ c.1 + 86400 * sec))).length
/-- On entry into latent. -/
def policyEntry (s : State) (x : Latent) : PolicyAct :=
  let lim := s.rd F.FS_FIX_CFG_recur_limit (engField x.eng)
  if lim ≠ 0 ∧ lim ≤ recentClears s x.eng then .confirm 0x09 else if x.cause = 4 then .keep else .replay
/-- On a further detection event. -/
def policyEvent (code : Nat) : PolicyAct := .confirm (eventReason code)
/-- On a replay outcome (Table 8-3); `first` is the first reproduction without a witness. An aborted replay is requested again
at the time R200 gives. -/
def policyOutcome (x : Latent) (outcome : Nat) (first : Bool) : PolicyAct :=
  match outcome with
  | 2 => .keep
  | 3 => .confirm (causeReason x.cause)
  | 4 => if first then .replay else .confirm (causeReason x.cause)
  | 5 => .clear
  | _ => .replay
/-- On a bracketing result against an engine of cause 4 (Table 7-2). -/
def policyBracket (s : State) (x : Latent) (result : Nat) : PolicyAct :=
  match result with
  | 2 => .confirm 0x04
  | 1 => if s.rb F.FS_FIX_CFG_fence_marginal (engField x.eng) then .confirm 0x05 else .clear
  | 3 => .replay
  | _ => .keep
/-- At the end of the latent window. -/
def policyWindow (x : Latent) : PolicyAct := if x.replay = 2 ∧ x.failures = 0 then .clear else .again
/-- The reference CC policy: a CT with two FOLD_FAULTs within the hour, a Wyxia sub-unit that failed its power-up self-test, and
a router marked down are confirmed; channels and links never. -/
def policyCc (u : Nat) (foldFaults : List Nat) (failedTest routerDown : Bool) : Bool :=
  unitKind u == 1 && (failedTest || (unitType u == 5 && routerDown)
    || (unitType u == 2 && (match foldFaults with | a :: b :: _ => decide (a ≤ b + 3600 * sec) | _ => false)))

/-- R209: the host asserts fence_resync; an update on the port completes first, and a resend under way starts over from
the first unit. -/
def execFenceResync (s : State) : Out :=
  .next (fenceSync { s with fenceQ := resendList s ++ s.fenceQ.filter (fun u => !u.resend) })

/-- R196: the latent window of an engine ends. -/
def execLatentWindow (e : Nat) (s : State) : Out :=
  onUnit (engOk e) (match latentAt s e with
    | some (k, x) =>
      if x.confirmed || !s.fieldLive (engField e) then s
      else
        let t := s.toWt (x.window + max 1 (s.rd F.FS_FIX_CFG_latent_s (engField e)) * sec)
        notifyFs (engField e) Code.LATENT_WINDOW e 0 (setLatent k { x with window := t.wt } t)
    | none => s)

end Sys2Proof.Machine
end

