-- ==== Sys2Proof/Machine/MtSleeve.lean ====
section
/-!
DEFINITION. An MT's sleeve points (R57 to R67): the sleeve of a block as it is read or written, shared by host traffic,
shadow copies and the stream table.
-/
namespace Sys2Proof.Machine

/-- An MT or LT whose home FS does not work is orphaned (R214). -/
def mtOrphan (s : State) (m : Nat) : Bool := !s.fsWorks (Config.mtHome m)
def ltOrphan (s : State) (l : Nat) : Bool := !s.fsWorks (Config.ltHome l)

/-- Parameters of an MT's class 0x2 records (Table 2-11). -/
def mtSlvParams (slv point b : Nat) : Nat := slv % 2 ^ 16 + 2 ^ 16 * point + 2 ^ 20 * (b % 2 ^ 28)

/-- The sleeve an MT creates on a load (R55, R56). On an unassigned channel its origin is the partition field of the map
entry as it stands. DESIGN CHOICE (log entry 100). -/
def mtCreate (s : State) (m : Nat) (data : List Byte) (fog : Bool) (verdict : Nat) : Nat :=
  mkSlv (crc48 data) (s.rd F.MT_SLEEVE_CFG_dflt_fmt m) fog verdict (s.partOfChan m)

/-- FOG_SET of an uncorrectable read or a decryption failure (R59). -/
def fogSet (m b slv : Nat) (s : State) : State :=
  raiseMt m { code := Code.FOG_SET, unit := mtUnit m, params := mtSlvParams slv 0 b } s

/-- A CRC mismatch at an MT (R57, R73). -/
def mtMismatch (m b slv point : Nat) (inj : Bool) (s : State) : State :=
  raiseMt m { code := Code.SLEEVE_CRC, unit := mtUnit m, params := mtSlvParams slv point b, inj := inj }
    (safeTapInc m (s.bump F.MT_SLEEVE_STAT_crc_err m))

/-- How a load delivers its block: the verdict of a sleeve the MT creates for the bytes as stored, and the sleeve delivered
in place of the one for those bytes, with whether that is always a new one (a sealed region, Table 2-6, R378). -/
structure LoadAs where
  verdict : Nat := 1
  out : Nat → Nat := id
  fresh : Bool := false

/-- What a stored entry makes of a block that is read (Table 2-6, Table 2-8, R59, R67): the sleeve of the bytes as stored;
records carry the sleeve as delivered (Table 2-11). `ue` is an uncorrectable read of the data, `lineUe` of the sleeve
line. An entry of version 10 or 11 keeps its fog bit in the sleeve created. DESIGN CHOICE (log entry 100). -/
def mtReadSlv (m b entry : Nat) (data : List Byte) (ue lineUe : Bool) (d : LoadAs) (s : State) : Nat × State :=
  let stored := slvFog entry
  let s := if slvOk entry && !d.fresh then s else s.bump F.MT_SLEEVE_STAT_created m
  if ue then
    let v := if slvOk entry then slvSetFog entry else mtCreate s m data true d.verdict
    let s := if stored then s else s.bump F.MT_SLEEVE_STAT_fog_set m
    (v, fogSet m b (d.out v) s)
  else if slvOk entry then
    let (hit, s) := injTake 1 (mtUnit m) 0 s
    let bad := checkBad hit 48 (crc48 data) (slvCrc entry)
    let v := if bad || lineUe then slvSetFog entry else entry
    let s := if slvFog v && !stored then s.bump F.MT_SLEEVE_STAT_fog_set m else s
    (v, if bad then mtMismatch m b (d.out v) 0 hit s else s)
  else
    let v := mtCreate s m data (stored || lineUe) d.verdict
    (v, if lineUe && !stored then s.bump F.MT_SLEEVE_STAT_fog_set m else s)

/-- The stored entry of a block, and whether its line last read uncorrectable (R61, R67). -/
def mtEntry (s : State) (m b : Nat) : Nat := if s.rb F.MT_SLEEVE_CFG_enable m then getSlv s m b else 0
def mtLineBad (s : State) (m b : Nat) : Bool :=
  s.rb F.MT_SLEEVE_CFG_enable m && tget false s.slvBad (blkKey m (b / 8))

/-- A read by Wyxia's own streams (R330, R334, R339): the sleeve point of a load, with the entry as stored. Registers count
what its check finds (R73) as for a host load. -/
def mtRead (m b : Nat) (data : List Byte) (ue : Bool) (s : State) : Nat × State :=
  mtReadSlv m b (mtEntry s m b) data ue (mtLineBad s m b) {} s

/-! ### Gathered lines (R65) -/

/-- End the gather of a channel: the whole line is written, its errors cleared (R67), and the buffer returned.
DEDUCED (log entry 38). -/
def endGather (m : Nat) (s : State) : State :=
  match tget 0 s.slvGather m with
  | 0 => s
  | n + 1 => poolGive m { s with slvGather := tdel s.slvGather m, slvBad := tdel s.slvBad (blkKey m n) }

/-- Hold a buffer for the line of block `b`: whether one is held. DEDUCED (log entry 38). -/
def gatherLine (m b : Nat) (s : State) : Bool × State :=
  let n := b / 8
  if tget 0 s.slvGather m == n + 1 then (true, s)
  else
    let t := endGather m s
    if poolFree t m then (true, poolTake m { t with slvGather := tput 0 t.slvGather m (n + 1) })
    else (false, poolMiss m t)

/-- Hold a buffer for the line of a block that Wyxia's own work writes: it waits for one (R29) and counts no miss.
DESIGN CHOICE (log entry 110). -/
def gatherOwn (m b : Nat) (s : State) : Bool × State :=
  let n := b / 8
  if tget 0 s.slvGather m == n + 1 then (true, s)
  else
    let t := endGather m s
    (true, if poolFree t m then poolTake m { t with slvGather := tput 0 t.slvGather m (n + 1) } else t)

/-- A whole-block write (R57, R61, R64, R65): the sleeve is checked unless no buffer is free; with the region enabled the
entry is stored, and a line that becomes full is written. `own` is a write of Wyxia's own, which waits for its buffer. -/
def mtWriteAs (own : Bool) (m b slv : Nat) (data : List Byte) (s : State) : State :=
  let on := s.rb F.MT_SLEEVE_CFG_enable m
  let (held, s) := if on then (if own then gatherOwn m b s else gatherLine m b s) else (true, s)
  let store (v : Nat) (s : State) : State := if on then putSlv m b v s else s
  let s :=
    if !slvOk slv then store 0 s
    else if !held then store (slvSetVerdict slv 2) s
    else
      let (hit, s) := injTake 1 (mtUnit m) 0 s
      let bad := checkBad hit 48 (crc48 data) (slvCrc slv)
      let v := if bad then slvSetFog slv else slv
      store v (if bad then mtMismatch m b v 1 hit s else s)
  if on && held && b % 8 == 7 then endGather m s else s

/-- A host write of a whole block. -/
def mtWriteWhole (m b slv : Nat) (data : List Byte) (s : State) : State := mtWriteAs false m b slv data s

/-- Whether Wyxia's own work on a channel finds the buffer it stages one block in (R27, R29); it waits while it does not.
The buffer is held for the block and returned with it. DESIGN CHOICE (log entry 110). -/
def stageFree (s : State) (ms : List Nat) : Bool := ms.all (poolFree s)

/-- A write of less than a block (R64): byte 0 of the entry is cleared. -/
def mtWritePart (m b slv : Nat) (s : State) : State :=
  let s := if s.rb F.MT_SLEEVE_CFG_enable m then putSlv m b (getSlv s m b / 2 ^ 8 * 2 ^ 8) s else s
  if slvOk slv then
    raiseMt m { code := Code.SLEEVE_PARTIAL, unit := mtUnit m, params := mtSlvParams slv 1 b } s
  else s

end Sys2Proof.Machine
end

