-- ==== Sys2Proof/Machine/Ckpt.lean ====
section
/-!
DEFINITION. Shadow copies: tables, saves, hosting and restores (chapter 13).
-/
namespace Sys2Proof.Machine

/-! ### Tables (R326 to R329) -/

/-- Partner `i` of a shard entry: wafer, hosting entry, valid. -/
def Words4.partner (x : Words4) (i : Nat) : Nat × Nat × Bool :=
  let v := bits x.w3 (32 * i) 21
  (bits v 0 10, bits v 10 10, bit v 20)
/-- The partners an entry names. -/
def Words4.partners (x : Words4) : List Nat := [0, 1].filter (fun i => (x.partner i).2.2)

def State.host (s : State) (h : Nat) : Words4 := tget {} s.hosts h
def Words4.hWafer (x : Words4) : Nat := bits x.w0 0 10
def Words4.hPart (x : Words4) : Nat := bits x.w0 10 6
def Words4.hShard (x : Words4) : Nat := bits x.w0 16 10
def Words4.hValid (x : Words4) : Bool := bit x.w0 26
def Words4.hLen (x : Words4) : Nat := bits x.w0 40 24
def Words4.hChans (x : Words4) : List Nat := maskChans (bits x.w0 32 5) (bits x.w1 0 32)
def Words4.hSlot (x : Words4) (i : Nat) : Nat := bits x.w2 (32 * i) 29
def Words4.hCommitted (x : Words4) : Nat := bits x.w2 61 1
def Words4.hHeld (x : Words4) : Bool := bit x.w2 62

/-- The hosting entries with a slot that covers a block (R328): a slot's blocks and, on its lowest channel, its two
manifest blocks. -/
def slotAt (s : State) (m b : Nat) : Option Nat :=
  (s.hosts.find? (fun e =>
    e.2.hValid && e.2.hChans.contains m &&
      [0, 1].any (fun i => meets b 1 (e.2.hSlot i) (e.2.hLen + (if e.2.hChans.head? = some m then 2 else 0))))).map (·.1)

def ckptOpen (s : State) (p : Nat) : Bool := (tfind s.saves p).isSome || (tfind s.restores p).isSome

/-- Whether a shard entry names a hosting entry of this wafer. -/
def Words4.namesHere (x : Words4) (wafer h : Nat) : Bool :=
  x.partners.any (fun i => (x.partner i).1 == wafer && (x.partner i).2.1 == h)

/-- Whether a hosting entry is in use (R329): a save arrives in it, or a save or restore of this wafer names it.
DEDUCED (log entry 62). -/
def hostBusy (s : State) (h : Nat) : Bool :=
  let here := s.rd F.CC_BUILD1_wafer_id
  (tfind s.hosting h).isSome
    || s.saves.any (fun e => e.2.shards.any (fun y => y.ent.namesHere here h))
    || s.shards.any (fun e => e.2.sValid && (tfind s.restores e.2.sPart).isSome && e.2.namesHere here h)

/-- Whether a table entry is in use by an open save or restore (R329). -/
def shardBusy (s : State) (i : Nat) : Bool :=
  let x := s.shard i
  (match tfind s.saves x.sPart with | some v => v.shards.any (fun y => y.idx == i) | none => false)
    || ((tfind s.restores x.sPart).isSome && x.sValid)

/-- The writable bits of a hosting entry's words (Table 13-7). -/
def hostWord (word old v : Nat) : Nat :=
  match word with
  | 2 => setBits (setBits old 0 29 v) 32 29 (bits v 32 29)
  | 3 => old
  | 0 => bits v 0 27 + 2 ^ 32 * bits v 32 5 + 2 ^ 40 * bits v 40 24
  | _ => v % 2 ^ 32

/-- The writable bits of a shard entry's words. -/
def shardWord (word v : Nat) : Nat :=
  match word with
  | 0 => bits v 0 7 + 2 ^ 8 * bits v 8 5 + 2 ^ 16 * bits v 16 24
  | 1 => v % 2 ^ 32
  | 2 => bits v 0 29 + 2 ^ 32 * bits v 32 29
  | _ => bits v 0 21 + 2 ^ 32 * bits v 32 21

def Words4.word (x : Words4) (i : Nat) : Nat := match i with | 0 => x.w0 | 1 => x.w1 | 2 => x.w2 | _ => x.w3
def Words4.setWord (x : Words4) (i v : Nat) : Words4 :=
  match i with | 0 => { x with w0 := v } | 1 => { x with w1 := v } | 2 => { x with w2 := v } | _ => { x with w3 := v }

/-- The register of a word of the table entry selected. -/
def ckptReg (isHost : Bool) (word : Nat) : Reg :=
  match isHost, word with
  | true, 0 => .CC_CKPT_HOST0 | true, 1 => .CC_CKPT_HOST1 | true, 2 => .CC_CKPT_HOST2 | true, _ => .CC_CKPT_HOST3
  | false, 0 => .CC_CKPT_SHARD0 | false, 1 => .CC_CKPT_SHARD1 | false, 2 => .CC_CKPT_SHARD2
  | false, _ => .CC_CKPT_SHARD3

/-- Show an entry in the capture registers. -/
def showShard (s : State) : State :=
  let x := s.shard (s.rd F.CC_CKPT_SHARD_SEL_index)
  (((s.setReg .CC_CKPT_SHARD0 0 x.w0).setReg .CC_CKPT_SHARD1 0 x.w1).setReg .CC_CKPT_SHARD2 0 x.w2).setReg
    .CC_CKPT_SHARD3 0 x.w3
def showHost (s : State) : State :=
  let x := s.host (s.rd F.CC_CKPT_HOST_SEL_index)
  (((s.setReg .CC_CKPT_HOST0 0 x.w0).setReg .CC_CKPT_HOST1 0 x.w1).setReg .CC_CKPT_HOST2 0 x.w2).setReg
    .CC_CKPT_HOST3 0 x.w3

/-- A write of a table register: into the entry selected, unless it is in use or the state is SCRAPPED (R329).
DEDUCED (log entry 62). -/
def ckptTableWrite (w : Writer) (isHost : Bool) (word v : Nat) (s : State) : State :=
  if !s.isOwner w then s
  else if isHost then
    let i := s.rd F.CC_CKPT_HOST_SEL_index
    let x := s.host i
    if s.scrapped || hostBusy s i then s.wr F.CC_CKPT_STAT_refused x.hPart 1
    else showHost { s with hosts := tput {} s.hosts i (x.setWord word (hostWord word (x.word word) v)) }
  else
    let i := s.rd F.CC_CKPT_SHARD_SEL_index
    let x := s.shard i
    if s.scrapped || shardBusy s i then s.wr F.CC_CKPT_STAT_refused x.sPart 1
    else showShard { s with shards := tput {} s.shards i (x.setWord word (shardWord word v)) }

/-- R329. -/
def execCkptTableWrite (w : Writer) (host : Bool) (word v : Nat) (s : State) : Out :=
  regWrite w (ckptReg host word) 0 s <|
  .next (ckptTableWrite w host word v s)

/-! ### Ends of a save and of a restore -/

def putSave (p : Nat) (x : Save) (s : State) : State := { s with saves := tins (tdel s.saves p) p x }

/-- CC_CKPT_STAT at the end of an operation. -/
def ckptResult (p result cause : Nat) (s : State) : State :=
  ((s.wr F.CC_CKPT_STAT_state p 0).wr F.CC_CKPT_STAT_result p result).wr F.CC_CKPT_STAT_cause p cause

/-- The receiving slots that this wafer itself opened for a save are discarded with it (R335). DEDUCED (log entry 62). -/
def dropHosting (p : Nat) (s : State) : State :=
  match tfind s.saves p with
  | none => s
  | some x =>
    let here := s.rd F.CC_BUILD1_wafer_id
    { s with hosting := s.hosting.filter (fun e =>
        !(e.2.key == x.key && x.shards.any (fun y => y.ent.namesHere here e.1))) }

/-- A save fails (R335). DEDUCED (log entry 61). -/
def saveFail (p cause step : Nat) (s : State) : State :=
  let s := dropHosting p s
  raiseCc { code := Code.CKPT_FAILED, unit := s.ccUnit, params := step % 2 ^ 36 + 2 ^ 36 * cause + 2 ^ 40 * p }
    (ckptResult p 2 cause { s with saves := tdel s.saves p })

/-- A restore is refused (R339). -/
def restoreRefuse (p cause shard : Nat) (s : State) : State :=
  raiseCc { code := Code.RESTORE_REFUSED, unit := s.ccUnit,
            params := cause + 2 ^ 4 * shard + 2 ^ 14 * p + 2 ^ 20 * (s.rd F.CC_CKPT_ARG1_d p % 2 ^ 20) }
    (ckptResult p 4 cause { s with restores := tdel s.restores p })

/-- End what is open in a partition: a save with its cause, a restore with cause 7. -/
def ckptStop (p cause : Nat) (s : State) : State :=
  let s := match tfind s.saves p with
    | some x => saveFail p cause x.step s
    | none => s
  if (tfind s.restores p).isSome then restoreRefuse p 7 0 s else s

/-- AON-only operation ends every save and restore (Table 13-6). -/
def ckptAon (s : State) : State := forAll (List.range Config.nPart) (fun p t => ckptStop p 9 t) s

/-! ### Starting a save (R330, R334, R337) -/

/-- The shards of a partition that name a partner, in index order. -/
def partShards (s : State) (p : Nat) : List (Nat × Words4) :=
  s.shards.filter (fun e => e.2.sValid && e.2.sPart == p && !e.2.partners.isEmpty)

/-- An MT of the shards is orphaned (R214). -/
def shardOrphan (s : State) (l : List (Nat × Words4)) : Bool := l.any (fun e => e.2.sChans.any (mtOrphan s))

/-- Why a partition cannot save or restore at all: AON-only, an orphaned MT, or a partition reset. -/
def ckptBar (s : State) (p : Nat) (l : List (Nat × Words4)) : Option Nat :=
  if s.aonOnly || shardOrphan s l then some 9
  else if s.rd F.CC_PART_STAT_phase p != 0 && s.rd F.CC_PART_STAT_phase p != 4 then some 7 else none

/-- Why a partition cannot restore (R338): also one that is not in service. DEDUCED (log entry 61). -/
def restoreBar (s : State) (p : Nat) (l : List (Nat × Words4)) : Option Nat :=
  if s.rd F.CC_PART_STAT_phase p = 0 then ckptBar s p l else some 7

/-- R336: δ in 128-bit two's complement, saturated to 16 bits. -/
def streamDelta (c b r d : Nat) : Nat :=
  let x := sext 128 (toField 128 ((c : Int) - ((b : Int) + (r : Int) * (d : Int))))
  toField 16 (max (-32768) (min 32767 x))

/-- The streams of a table of `n` entries (Table 13-1). -/
def readStreams (tab : List Byte) (n d : Nat) : List Strm :=
  (List.range n).map (fun i =>
    let e := slice tab (32 * i) 32
    let rf := leNat (slice e 24 2)
    let b := leNat (slice e 16 8)
    { b := b, rf := rf, delta := if bit rf 15 then streamDelta (leNat (slice e 0 16)) b (rf % 2 ^ 14) d else 0 })

/-- Read the four blocks of the stream table: the bytes, none when one is fogged or unreadable (cause 1). -/
def readTable (m b : Nat) (tab : List MemRd) : List Nat → State → Option (List Byte) × State
  | [], s => (some [], s)
  | i :: l, s =>
    match tab.find? (fun x => x.m == m && x.blk == b + i && x.data.length == 2048) with
    | none => (none, s)
    | some x =>
      let (v, t) := mtRead m (b + i) x.data x.ue s
      let (r, u) := readTable m b tab l t
      (if slvFog v then none else r.map (x.data ++ ·), u)

def quorum (s : State) (p : Nat) : Nat := if s.rd F.CC_CKPT_CFG_quorum p ≤ 1 then 1 else 2

/-- A shard whose partners lie on one wafer (Table 13-6), or that names fewer than the quorum. -/
def shardShort (q : Nat) (x : Words4) : Bool :=
  x.partners.length < q || (x.partners.length == 2 && (x.partner 0).1 == (x.partner 1).1)

/-- The first stream with δ ≠ 0 and their number. -/
def skewed (l : List Strm) : List (Nat × Strm) :=
  ((List.range l.length).zip l).filter (fun e => bit e.2.rf 15 && e.2.delta != 0)

/-- op save (R330). DEDUCED (log entry 61). -/
def ckptSave (v : Nat) (outside : Bool) (tab : List MemRd) (s : State) : State :=
  let p := bits v 3 6
  let n := bits v 13 9
  let l := partShards s p
  let step := s.rd F.CC_CKPT_ARG1_d p % 2 ^ 40
  if s.scrapped then s
  else if ckptOpen s p || (tfind s.scrubs p).isSome then s.wr F.CC_CKPT_STAT_busy p 1
  else if l.length > 26 ∨ l.length = 0 ∨ n > 256 then
    (s.wr F.CC_CKPT_STAT_busy p 0).wr F.CC_CKPT_STAT_result p 11
  else
    let s := s.wr F.CC_CKPT_STAT_captured p 0
    match ckptBar s p l with
    | some c => saveFail p c step s
    | none =>
      if outside then saveFail p 10 step s
      else if l.any (fun e => shardShort (quorum s p) e.2) then saveFail p 4 step s
      else
        let a := s.rd F.CC_CKPT_ARG2_d p
        let m := bits a 0 10
        if !(s.chansOf p).contains m || decide (chanBlocks s m < bits a 16 29 + 4) then saveFail p 1 step s
        else match readTable m (bits a 16 29) tab [0, 1, 2, 3] s with
          | (none, s) => saveFail p 1 step s
          | (some b, s) =>
            let (k, s) := s.drawKey
            let x : Save :=
              { buf := bits v 9 1, step := step, d := s.rd F.CC_CKPT_ARG0_d p, wt := s.wt,
                gen := s.rd F.CC_PART_STAT_gen p, sealed := s.rb F.CC_PART_SEAL_sealed p,
                key := 1 + k % (2 ^ 128 - 1), streams := readStreams b n (s.rd F.CC_CKPT_ARG0_d p),
                shards := l.map (fun e => { idx := e.1, ent := e.2, wait := e.2.partners }) }
            ((putSave p x s).wr F.CC_CKPT_STAT_state p 1).wr F.CC_CKPT_STAT_captured p 1

/-- A write of CC_CKPT_CMD by the owner or the partition's tenant. -/
def execCkptSave (w : Writer) (v : Nat) (outside : Bool) (tab : List MemRd) (s : State) : Out :=
  regWrite w .CC_CKPT_CMD 0 s <|
  onUnit (partOk (bits v 3 6)) (if s.ownerOrTenant w (bits v 3 6) then ckptSave v outside tab s else s)

/-! ### The source's side (R334, R335) -/

/-- Update a shard of a save. -/
def Save.shard (x : Save) (i : Nat) (f : SavShard → SavShard) : Save :=
  { x with shards := x.shards.map (fun (y : SavShard) => if y.idx == i then f y else y) }

/-- The shard waits for this partner. -/
def Save.waits (x : Save) (i partner : Nat) : Bool := x.shards.any (fun y => y.idx == i && y.wait.contains partner)

/-- R334 open: a partner's answer; a refusal removes it (cause 4 below quorum), and the drain begins with the last
answer. -/
def execCkptOpenReply (p shard partner : Nat) (ok : Bool) (s : State) : Out :=
  onUnit (partOk p) (
    match tfind s.saves p with
    | some x =>
      if s.rd F.CC_CKPT_STAT_state p == 1 && x.waits shard partner then
        let y := x.shard shard (fun z =>
          { z with wait := z.wait.filter (· != partner), acc := if ok then z.acc ++ [partner] else z.acc })
        if y.shards.any (fun z => z.acc.length + z.wait.length < quorum s p) then saveFail p 4 x.step s
        else
          let t := putSave p y s
          if y.shards.all (fun z => z.wait.isEmpty) then t.wr F.CC_CKPT_STAT_state p 2 else t
      else s
    | none => s)

/-- Drain one sub-stream (R332, R334): its root, and whether every block was sound. -/
def drainSub (key k m base : Nat) (l : List MemRd) (js : List Nat) (s : State) : List Nat × Bool × State :=
  js.foldl (fun a j =>
    match l.find? (fun x => x.m == m && x.blk == base + j) with
    | none => (a.1, false, a.2.2)
    | some x =>
      let (v, t) := mtRead m (base + j) x.data x.ue a.2.2
      let t := t.bumpWrap F.MT_SHADOW_STAT_out m
      let t := if slvFog v then t.bump F.MT_SHADOW_ERR_bad_block m else t
      (a.1 ++ [blockDigest key k j x.data], a.2.1 && !slvFog v, t)) ([], true, s)

/-- Drain one shard: its root, soundness. -/
def drainShard (key buf : Nat) (x : Words4) (l : List MemRd) (s : State) : Nat × Bool × State :=
  let cs := x.sChans
  let (roots, ok, t) := ((List.range cs.length).zip cs).foldl (fun a e =>
    let (ds, ok, t) := drainSub key e.1 e.2 (x.sBase buf) l (List.range x.sLen) a.2.2
    (a.1 ++ [combine key ds], a.2.1 && ok, t)) (([] : List Nat), true, s)
  (combine key roots, ok, t)

/-- The cluster gates of a stop stall the drain (Table 13-6). -/
def drainStalls (s : State) : Bool := s.rd F.CC_STOP_STAT_state == 2 || s.rd F.CC_STOP_STAT_state == 3 || s.rd F.CC_STOP_STAT_state == 4

/-- The channels a save drains. -/
def Save.chans (x : Save) : List Nat := (x.shards.map (fun y => y.ent.sChans)).flatten

/-- R334 drain: every block is read, checked under R57 and digested; the shard roots go out for verification. The drain waits
for staging buffers (R29). -/
def execCkptDrainDone (p : Nat) (l : List MemRd) (s : State) : Out :=
  onUnit (partOk p) (
    match tfind s.saves p with
    | some x =>
      if s.rd F.CC_CKPT_STAT_state p == 2 && !drainStalls s && stageFree s x.chans then
        let (ys, ok, t) := x.shards.foldl (fun a y =>
          let (r, ok, t) := drainShard x.key x.buf y.ent l a.2.2
          (a.1 ++ [{ y with root := r, wait := y.acc }], a.2.1 && ok, t)) (([] : List SavShard), true, s)
        if !ok then saveFail p 3 x.step t
        else (putSave p { x with shards := ys, ackEnd := t.wt + max 1 (t.rd F.CC_CKPT_CFG_ack_ms p) * ms } t).wr
          F.CC_CKPT_STAT_state p 3
      else s
    | none => s)

/-! ### The manifest (R337) -/

/-- A shard entry of a manifest, with the partners that hold it. -/
def manShard (y : SavShard) : List Byte :=
  let wafer := fun (i : Nat) => if (y.ent.partner i).2.2 then (y.ent.partner i).1 else 0xFFFF
  leBytes 2 y.idx ++ leBytes 1 y.ent.sGroup ++ leBytes 1 (y.ack.foldl (fun a i => a + 2 ^ i) 0) ++ leBytes 4 y.ent.sMask
    ++ leBytes 4 y.ent.sLen ++ leBytes 2 (wafer 0) ++ leBytes 2 (wafer 1) ++ beBytes 16 y.root

/-- A stream entry of a manifest. -/
def manStrm (y : Strm) : List Byte := leBytes 8 y.b ++ leBytes 2 y.rf ++ leBytes 2 y.delta

/-- `l` filled up with zeros to `n` bytes. -/
def padTo (n : Nat) (l : List Byte) : List Byte := l ++ List.replicate (n - l.length) 0

/-- Bytes 0 to 4047 of a manifest (Table 13-4). -/
def manHead (wafer p : Nat) (x : Save) (realigned : Bool) : List Byte :=
  let head :=
    leBytes 4 0x57534D31 ++ [1] ++ leBytes 1 p ++ leBytes 1 x.shards.length
      ++ leBytes 1 (b2n (!(skewed x.streams).isEmpty) + 2 * b2n realigned + 4 * b2n x.sealed)
      ++ leBytes 2 x.streams.length ++ leBytes 2 wafer ++ leBytes 1 x.gen ++ [0, 0, 0]
      ++ leBytes 8 x.step ++ leBytes 8 x.d ++ leBytes 8 x.wt ++ beBytes 16 x.key
      ++ beBytes 16 (combine x.key (x.shards.map (·.root)))
  padTo 4048 (padTo 960 (padTo 128 head ++ (x.shards.map manShard).flatten) ++ (x.streams.map manStrm).flatten)

/-- A manifest: its bytes and their SHA-384. DEDUCED (log entry 61). -/
def manifest (wafer p : Nat) (x : Save) (realigned : Bool) : List Byte :=
  let h := manHead wafer p x realigned
  h ++ beBytes 48 (Config.sha384 h)

/-- R334 verify: a match counts, a mismatch leaves the partner out (cause 5 below quorum); with a quorum in every
shard the manifest is built and goes to the partners that matched. -/
def execCkptVerifyAnswer (p shard partner : Nat) (ok : Bool) (s : State) : Out :=
  onUnit (partOk p) (
    match tfind s.saves p with
    | some x =>
      if s.rd F.CC_CKPT_STAT_state p == 3 && x.waits shard partner then
        let y := x.shard shard (fun z =>
          { z with wait := z.wait.filter (· != partner), mat := if ok then z.mat ++ [partner] else z.mat })
        if y.shards.any (fun z => z.mat.length + z.wait.length < quorum s p) then saveFail p 5 x.step s
        else if y.shards.all (fun z => quorum s p ≤ z.mat.length) then
          let z : Save := { y with shards := y.shards.map (fun (u : SavShard) => { u with wait := u.mat }) }
          (putSave p { z with man := manifest (s.rd F.CC_BUILD1_wafer_id) p z false } s).wr F.CC_CKPT_STAT_state p 4
        else putSave p y s
      else s
    | none => s)

/-- R334 commit. -/
def saveCommit (p : Nat) (x : Save) (s : State) : State :=
  let sk := !(skewed x.streams).isEmpty
  let few := x.shards.any (fun z => z.ack.length < 2)
  let t := { s with saves := tdel s.saves p, ckptMan := tput [] s.ckptMan p (manifest (s.rd F.CC_BUILD1_wafer_id) p x false) }
  let t := (((ckptResult p 1 0 t).wr F.CC_CKPT_STAT_last_step p x.step).wr F.CC_CKPT_STAT_local_ok p 1).wr
    F.CC_CKPT_STAT_local_buf p x.buf
  raiseCc { code := Code.CKPT_COMMITTED, unit := t.ccUnit,
            params := x.step + 2 ^ 40 * p + 2 ^ 46 * b2n sk + 2 ^ 47 * b2n few } t

/-- R334: an acknowledgement of the manifest; a quorum in every shard commits the save. DEDUCED (log entry 61). -/
def execCkptManifestAck (p shard partner : Nat) (s : State) : Out :=
  onUnit (partOk p) (
    match tfind s.saves p with
    | some x =>
      if s.rd F.CC_CKPT_STAT_state p == 4 && x.waits shard partner then
        let y := x.shard shard (fun z => { z with wait := z.wait.filter (· != partner), ack := z.ack ++ [partner] })
        if y.shards.all (fun z => quorum s p ≤ z.ack.length) then saveCommit p y s else putSave p y s
      else s
    | none => s)

/-- Cause 6 (R335): no answer within ack_ms after the drain, which pauses while the source is stopped. -/
def execCkptAckTimeout (p : Nat) (s : State) : Out :=
  onUnit (partOk p) (
    match tfind s.saves p with
    | some x =>
      if 3 ≤ s.rd F.CC_CKPT_STAT_state p && !drainStalls s then saveFail p 6 x.step (s.toWt x.ackEnd) else s
    | none => s)

/-- A stop begins or ends: the acknowledgement waits pause (Table 13-6). -/
def ckptPause (on : Bool) (s : State) : State :=
  { s with saves := s.saves.map (fun e =>
      let x := e.2
      (e.1, if on then { x with paused := some (x.paused.getD s.wt) }
            else match x.paused with
              | some t => { x with paused := none, ackEnd := if x.ackEnd = 0 then 0 else x.ackEnd + (s.wt - t) }
              | none => x)) }

/-! ### The partner's side (R327, R334) -/

def hostSay (h : Nat) (ok : Bool) (s : State) : State := { s with hostAns := tins (tdel s.hostAns h) h ok }

/-- R334 open, at the partner: the entry is checked, the free slot chosen, the answer sent. A receiving slot of an
earlier save is given up for an accepted one. DEDUCED (log entry 62). -/
def execCkptOpenArrive (h wafer part shard count len key step : Nat) (s : State) : Out :=
  let x := s.host h
  let ok := x.hValid && x.hWafer == wafer && x.hPart == part && x.hShard == shard && x.hChans.length == count
    && decide (len ≤ x.hLen) && x.hChans.all (fun m => mtOk m && s.chanFree m && !mtOrphan s m) && !s.aonOnly && !s.scrapped
  .next (hostSay h ok (
    if ok then
      { s with hosting := tins (tdel s.hosting h) h
                 { slot := if x.hHeld then 1 - x.hCommitted else 0, len := len, key := key, step := step } }
    else s))

/-- R334 drain, at the partner: the block is written into the slot with its sleeve, checked on write and digested. It waits
for a staging buffer (R29). -/
def execShadowBlockArrive (h k j slv : Nat) (data : List Byte) (s : State) : Out :=
  .next (
    match tfind s.hosting h, (s.host h).hChans[k]? with
    | some x, some m =>
      if s.aonOnly || drainStalls s || mtOrphan s m || decide (x.len ≤ j) || !stageFree s [m] then s
      else
        let b := (s.host h).hSlot x.slot + j
        let t := mtWriteAs true m b slv data s
        let t := t.bumpWrap F.MT_SHADOW_STAT_in m
        let t := if slvFog (getSlv t m b) || !slvOk slv then t.bump F.MT_SHADOW_ERR_bad_block m else t
        let y : HSess := { x with digs := x.digs.filter (fun d => !(d.1 == k && d.2.1 == j)) ++ [(k, j, blockDigest x.key k j data)] }
        { t with hosting := tins (tdel t.hosting h) h y }
    | _, _ => s)

/-- The root a partner computed (R332), none while blocks are missing. -/
def hostRoot (n : Nat) (x : HSess) : Option Nat :=
  if x.digs.length = n * x.len then
    some (combine x.key ((List.range n).map (fun k =>
      combine x.key ((List.range x.len).map (fun j =>
        ((x.digs.find? (fun d => d.1 == k && d.2.1 == j)).map (·.2.2)).getD 0)))))
  else none

/-- R334 verify, at the partner. A mismatch takes the partner out of the save, and it discards its receiving slot (R335).
DEDUCED (log entry 62). -/
def execCkptRootArrive (h root : Nat) (s : State) : Out :=
  .next (
    match tfind s.hosting h with
    | some x =>
      let ok := hostRoot (s.host h).hChans.length x == some root
      hostSay h ok { s with
        hosting := if ok then tins (tdel s.hosting h) h { x with matched := true } else tdel s.hosting h }
    | none => s)

/-- R334 manifest, at the partner: written into the slot's two manifest blocks; once its SHA-384 checks, the slot is
the committed one. -/
def execCkptManifestArrive (h : Nat) (man : List Byte) (s : State) : Out :=
  .next (
    match tfind s.hosting h with
    | some x =>
      let y := s.host h
      if x.matched && beNat (man.drop 4048) == Config.sha384 (man.take 4048) then
        let m := y.hChans.headD 0
        let put := fun (i : Nat) (t : State) =>
          putSlv m (y.hSlot x.slot + y.hLen + i) (mkSlv (crc48 (slice man (2048 * i) 2048)) 30 false 1 y.hPart) t
        let w2 := setBits y.w2 61 2 (x.slot % 2 + 2)
        let t := { put 1 (put 0 s) with
          hosts := tput {} s.hosts h { y with w2 := w2, w3 := x.step }
          copyLen := tput 0 s.copyLen h x.len
          hosting := tdel s.hosting h }
        hostSay h true t
      else hostSay h false s
    | none => s)

/-- One block of a committed slot is read for a restore: its sleeve is checked under R57 and it is counted. What external memory
gives is free. DESIGN CHOICE (log entry 118). -/
def serveBlock (m b : Nat) (s : State) : State :=
  let d := (s.bumpWrap F.MT_SHADOW_STAT_out m).drawFree 16384
  let e := d.2.drawFree 1
  let r := mtRead m b (leBytes 2048 d.1) (e.1 == 1) e.2
  if slvFog r.1 then r.2.bump F.MT_SHADOW_ERR_bad_block m else r.2

/-- R338, R339, at the partner: the manifest and the committed slot are read and sent, every block with its sleeve. -/
def execRestoreServeRequest (h : Nat) (s : State) : Out :=
  let x := s.host h
  let ok := x.hValid && x.hHeld && !s.aonOnly && x.hChans.all (fun m => !mtOrphan s m)
  .next (hostSay h ok (
    if ok then
      forAll x.hChans (fun m t =>
        forAll (List.range (tget 0 s.copyLen h)) (fun j t => serveBlock m (x.hSlot x.hCommitted + j) t) t) s
    else s))

/-! ### Restore (R338 to R340) -/

/-- Show the selected stream of the last restore in CC_CKPT_SKEW. -/
def showSkew (s : State) : State :=
  let l := tget [] s.skews (s.rd F.CC_CKPT_SKEW_SEL_partition)
  match l[s.rd F.CC_CKPT_SKEW_SEL_stream]? with
  | some x => s.setReg .CC_CKPT_SKEW 0
      (x.delta + 2 ^ 16 * b2n (x.delta != 0) + 2 ^ 17 * b2n (bit x.rf 14) + 2 ^ 18 * b2n x.realigned)
  | none => s.setReg .CC_CKPT_SKEW 0 0

/-- What a manifest says: step, D, H, partition root, its shard entries (index, group, mask, length, root), streams. -/
structure ManInfo where
  step : Nat
  d : Nat
  key : Nat
  root : Nat
  shards : List (Nat × Nat × Nat × Nat × Nat)
  streams : List Strm

/-- Read a manifest: none when its SHA-384, magic or version is wrong (cause 1). -/
def readMan (l : List Byte) : Option ManInfo :=
  if l.length = 4096 ∧ leNat (slice l 0 4) = 0x57534D31 ∧ leNat (slice l 4 1) = 1
      ∧ beNat (l.drop 4048) = Config.sha384 (l.take 4048) then
    some
      { step := leNat (slice l 16 8), d := leNat (slice l 24 8), key := beNat (slice l 40 16),
        root := beNat (slice l 56 16),
        shards := (List.range (leNat (slice l 6 1))).map (fun i =>
          let e := slice l (128 + 32 * i) 32
          (leNat (slice e 0 2), leNat (slice e 2 1), leNat (slice e 4 4), leNat (slice e 8 4), beNat (slice e 16 16))),
        streams := (List.range (leNat (slice l 8 2))).map (fun i =>
          let e := slice l (960 + 12 * i) 12
          { b := leNat (slice e 0 8), rf := leNat (slice e 8 2), delta := leNat (slice e 10 2) }) }
  else none

/-- Whether the manifest's shards have the shape of the local table (R339): channel counts and lengths. -/
def shapeOk (l : List (Nat × Words4)) (x : ManInfo) : Bool :=
  l.length == x.shards.length && (l.zip x.shards).all (fun e =>
    e.1.2.sLen == e.2.2.2.2.1 && e.1.2.sChans.length == (maskChans e.2.2.1 e.2.2.2.1).length)

/-- Receive or read one sub-stream of a restore: its root, soundness; received blocks are stored with their sleeves. -/
def restoreSub (key k m base : Nat) (fromPartner : Bool) (l : List MemRd) (js : List Nat) (s : State) :
    List Nat × Bool × State :=
  js.foldl (fun a j =>
    match l.find? (fun x => x.m == m && x.blk == base + j) with
    | none => (a.1, false, a.2.2)
    | some x =>
      let (bad, t) :=
        if fromPartner then
          let t := mtWriteAs true m (base + j) x.slv x.data a.2.2
          (x.ue || slvFog x.slv || (slvOk x.slv && crc48 x.data != slvCrc x.slv), t)
        else
          let (v, t) := mtRead m (base + j) x.data x.ue a.2.2
          (slvFog v, t)
      let t := if bad then t.bump F.MT_SHADOW_ERR_bad_block m else t
      (a.1 ++ [blockDigest key k j x.data], a.2.1 && !bad, t)) ([], true, s)

/-- Digest every shard and compare: the index of the first shard that differs or is damaged. -/
def restoreShards (x : ManInfo) (buf : Nat) (fromPartner : Bool) (l : List MemRd) :
    List ((Nat × Words4) × (Nat × Nat × Nat × Nat × Nat)) → List Nat → State → Option Nat × List Nat × State
  | [], rs, s => (none, rs, s)
  | e :: es, rs, s =>
    let y := e.1.2
    let cs := y.sChans
    let (roots, ok, t) := ((List.range cs.length).zip cs).foldl (fun a c =>
      let (ds, ok, t) := restoreSub x.key c.1 c.2 (y.sBase buf) fromPartner l (List.range y.sLen) a.2.2
      (a.1 ++ [combine x.key ds], a.2.1 && ok, t)) (([] : List Nat), true, s)
    let r := combine x.key roots
    if ok && r == e.2.2.2.2.2 then restoreShards x buf fromPartner l es (rs ++ [r]) t
    else (some e.1.1, rs, t)

/-- RESTORE_SKEW (Table 13-9). -/
def skewRecord (p i : Nat) (x : Strm) (n : Nat) (realigned : Bool) (s : State) : State :=
  raiseCc { code := Code.RESTORE_SKEW, unit := s.ccUnit,
            params := i + 2 ^ 8 * x.delta + 2 ^ 24 * n + 2 ^ 33 * b2n realigned + 2 ^ 34 * b2n (!realigned) + 2 ^ 35 * p } s

/-- A restored stream table (Table 13-1): C = b + r·D. -/
def tableOf (l : List Strm) (d : Nat) : List Byte :=
  padTo 8192 ((l.map (fun x =>
    if bit x.rf 15 then leBytes 16 ((x.b + x.rf % 2 ^ 14 * d) % 2 ^ 128) ++ leBytes 8 x.b ++ leBytes 2 x.rf ++ List.replicate 6 0
    else List.replicate 32 0)).flatten)

/-- Step 4 of R339: write the stream table, CC_CKPT_ARG and the record. -/
def restoreFinish (p : Nat) (x : ManInfo) (streams : List Strm) (realigned local_ : Bool) (man : List Byte) (s : State) : State :=
  let a := s.rd F.CC_CKPT_ARG2_d p
  let tab := tableOf streams x.d
  let s := forAll (List.range 4) (fun i t =>
    let d := slice tab (2048 * i) 2048
    mtWriteAs true (bits a 0 10) (bits a 16 29 + i) (mkSlv (crc48 d) 30 false 1 p) d t) s
  let head := (man.take 7 ++ leBytes 1 (leNat (slice man 7 1) / 4 * 4 + leNat (slice man 7 1) % 2 + 2) ++ slice man 8 952
    ++ padTo 3072 ((streams.map manStrm).flatten) ++ slice man 4032 16)
  let s := { s with
    restores := tdel s.restores p
    ckptTab := tput [] s.ckptTab p tab
    ckptMan := if realigned then tput [] s.ckptMan p (head ++ beBytes 48 (Config.sha384 head)) else s.ckptMan }
  let s := (s.setReg .CC_CKPT_ARG0 p x.d).setReg .CC_CKPT_ARG1 p (x.step % 2 ^ 40)
  raiseCc { code := Code.RESTORE_DONE, unit := s.ccUnit,
            params := x.step % 2 ^ 40 + 2 ^ 40 * p + 2 ^ 46 * b2n realigned + 2 ^ 47 * b2n local_ }
    (ckptResult p 3 0 s)

/-- Step 3 of R339 (R340): every present stream passes, is realigned, or refuses the restore. -/
def restoreStreams (p : Nat) (realign local_ : Bool) (x : ManInfo) (man : List Byte) (s : State) : State :=
  let bad := skewed x.streams
  let stuck := bad.filter (fun e => !(realign && bit e.2.rf 14))
  let out := x.streams.map (fun (y : Strm) =>
    if bit y.rf 15 && y.delta != 0 && realign && bit y.rf 14 then { y with realigned := true } else y)
  let s := showSkew { s with skews := tput [] s.skews p out }
  match stuck.head? with
  | some e => restoreRefuse p 4 0 (skewRecord p e.1 e.2 bad.length false s)
  | none =>
    let s := match bad.head? with
      | some e => skewRecord p e.1 e.2 bad.length true s
      | none => s
    let fixed := out.map (fun (y : Strm) => if y.realigned then { y with delta := 0 } else y)
    restoreFinish p x fixed (!bad.isEmpty) local_ man s

/-- Step 1 of R339, and the whole course once the data is there. -/
def restoreRun (p : Nat) (r : Restore) (man : List Byte) (l : List MemRd) (s : State) : State :=
  let isLocal := r.src == 0
  let sh := partShards s p
  match readMan man with
  | none => restoreRefuse p 1 0 s
  | some x =>
    if !shapeOk sh x then restoreRefuse p 2 0 s
    else if isLocal && !s.rb F.CC_CKPT_STAT_local_ok p then restoreRefuse p 5 0 s
    else
      let buf := if isLocal then s.rd F.CC_CKPT_STAT_local_buf p else r.buf
      match restoreShards x buf (!isLocal) l (sh.zip x.shards) [] s with
      | (some i, _, t) => restoreRefuse p 3 i t
      | (none, rs, t) =>
        if combine x.key rs ≠ x.root then restoreRefuse p 3 0 t
        else restoreStreams p r.realign isLocal x man t

/-- op restore (R338): refused as busy, or begun; what can be refused without data is refused at once.
DEDUCED (log entry 61). -/
def ckptRestore (v : Nat) (s : State) : State :=
  let p := bits v 3 6
  let r : Restore := { buf := bits v 9 1, src := bits v 11 2, realign := bit v 10 }
  if s.scrapped then s
  else if ckptOpen s p || (tfind s.scrubs p).isSome then s.wr F.CC_CKPT_STAT_busy p 1
  else
    let t := ({ s with restores := tins s.restores p r }).wr F.CC_CKPT_STAT_state p 5
    if (restoreBar s p (partShards s p)).isSome then restoreRefuse p 7 0 t
    else if r.src == 0 then
      match readMan (tget [] s.ckptMan p) with
      | none => restoreRefuse p 1 0 t
      | some x =>
        if !shapeOk (partShards s p) x then restoreRefuse p 2 0 t
        else if !s.rb F.CC_CKPT_STAT_local_ok p then restoreRefuse p 5 0 t else t
    else t

def execCkptRestore (w : Writer) (v : Nat) (s : State) : Out :=
  regWrite w .CC_CKPT_CMD 0 s <|
  onUnit (partOk (bits v 3 6)) (if s.ownerOrTenant w (bits v 3 6) then ckptRestore v s else s)

/-- The manifest of a restore from newest (R338): the one of the highest step, partner 0's where both are the same; an empty
one is a partner that holds no copy. -/
def newestMan (a b : List Byte) : List Byte :=
  let stepOf := fun (l : List Byte) => leNat (slice l 16 8)
  if a.isEmpty || (!b.isEmpty && decide (stepOf a < stepOf b)) then b else a

/-- The channels a restore writes or reads. -/
def partShadowChans (s : State) (p : Nat) : List Nat := ((partShards s p).map (fun e => e.2.sChans)).flatten

/-- R339: the data has arrived and is digested. Without an answer of the source partner the cause is 6. The blocks wait for
staging buffers (R29). -/
def execRestoreDataComplete (p : Nat) (reach : Bool) (man : List Byte) (l : List MemRd) (s : State) : Out :=
  onUnit (partOk p) (
    match tfind s.restores p with
    | some r =>
      if drainStalls s || !stageFree s (partShadowChans s p) then s
      else if r.src == 0 then restoreRun p r (tget [] s.ckptMan p) l s
      else if !reach then restoreRefuse p 6 0 s
      else restoreRun p r (if r.src == 3 then newestMan (man.take 4096) (man.drop 4096) else man) l s
    | none => s)

/-- op abort (R335, R339). -/
def execCkptAbort (w : Writer) (v : Nat) (s : State) : Out :=
  regWrite w .CC_CKPT_CMD 0 s <|
  onUnit (partOk (bits v 3 6)) (if s.ownerOrTenant w (bits v 3 6) then ckptStop (bits v 3 6) 8 s else s)

/-- The stream table as the CC reads it when the save comes by the register path, which does not bring its bytes: free values,
as is whether a partner is outside (cause 10). DESIGN CHOICE (log entry 115). -/
def freeTable (m b : Nat) : List Nat → State → List MemRd × State
  | [], s => ([], s)
  | i :: l, s =>
    let (d, s) := s.drawFree 16384
    let (ue, s) := s.drawFree 1
    let (r, s) := freeTable m b l s
    ({ m := m, blk := b + i, data := leBytes 2048 d, ue := ue == 1, slv := 0 } :: r, s)
/-- DESIGN CHOICE (log entry 115). -/
def ckptSaveFree (v : Nat) (s : State) : State :=
  let a := s.rd F.CC_CKPT_ARG2_d (bits v 3 6)
  let (o, s) := s.drawFree 1
  let (tab, s) := freeTable (bits a 0 10) (bits a 16 29) [0, 1, 2, 3] s
  ckptSave v (o == 1) tab s

/-- A write of CC_CKPT_CMD through the register path. -/
def ckptCmdWrite (w : Writer) (v : Nat) (s : State) : State :=
  let p := bits v 3 6
  if !s.ownerOrTenant w p || !partOk p then s
  else match bits v 0 3 with
    | 1 => ckptSaveFree v s
    | 2 => ckptRestore v s
    | 3 => ckptStop p 8 s
    | _ => s

end Sys2Proof.Machine
end

