-- ==== Sys2Proof/Machine/Barrier.lean ====
section
/-!
DEFINITION. Host barrier channels (R356 to R359).
-/
namespace Sys2Proof.Machine

def barKey (e c : Nat) : Nat := 32 * e + c
def barOn (s : State) (c : Nat) : Bool := s.rb F.CC_BAR_CFG_enable c
def barPart (s : State) (c : Nat) : Nat := s.rd F.CC_BAR_CFG_partition c
/-- The participants of a channel. -/
def barMembers (s : State) (c : Nat) : List (Nat × BarPart) := s.bars.filter (fun e => e.1 % 32 == c)
def putBar (e c : Nat) (x : BarPart) (s : State) : State :=
  { s with bars := tins (tdel s.bars (barKey e c)) (barKey e c) x }

/-- A one-cycle pulse on an engine's bar_err (R356): State counts them. DESIGN CHOICE (log entry 116). -/
def barErrPulse (e : Nat) (s : State) : State := { s with barErr := tput 0 s.barErr e (tget 0 s.barErr e + 1) }

/-- BARRIER_MISUSE (Table 14-8). DEDUCED (log entry 64). -/
def barMisuse (e c cause : Nat) (s : State) : State :=
  raiseCt (engCt e) { code := Code.BARRIER_MISUSE, unit := e, params := c + 2 ^ 5 * cause } (barErrPulse e s)

/-- Why an operation is misuse: a disabled channel, or one of another partition (R356). -/
def barBad (s : State) (e c : Nat) : Option Nat :=
  if !barOn s c then some 0 else if barPart s c != s.partOf (engField e) then some 1 else none

/-- An operation on the barrier port: nothing while the cluster is gated (Table 14-5). DEDUCED (log entry 64). -/
def barOp (e cyc c : Nat) (f : State → State) (s : State) : Out :=
  onUnit (engOk e) (
    if s.ctGated (engCt e) then s
    else
      let t := advCyc (engCt e) cyc s
      match barBad t e c with
      | some r => barMisuse e c r t
      | none => f t)

/-- R356: a join takes effect at once; one that has joined stays as it is. -/
def execBarrierJoin (e cyc c : Nat) (s : State) : Out :=
  barOp e cyc c (fun t => if (tfind t.bars (barKey e c)).isSome then t else putBar e c {} t) s

/-- R357, Table 14-4: an entry counts, counts early for the next round, or overruns. An engine that has not joined enters
nothing. -/
def execBarrierEnter (e cyc c : Nat) (s : State) : Out :=
  barOp e cyc c (fun t =>
    let k := engCt e
    match tfind t.bars (barKey e c) with
    | none => t
    | some x =>
      let r := (x.round + 1) % 4
      if x.k = 0 then traceEv k 4 e c (putBar e c ⟨1, r⟩ t)
      else if x.k = 1 then
        raiseCt k { code := Code.BARRIER_EARLY, unit := e, params := c + 2 ^ 5 * r }
          (traceEv k 4 e c (putBar e c ⟨2, r⟩ (t.bump F.CT_BAR_STAT_early k)))
      else
        raiseCt k { code := Code.BARRIER_OVERRUN, unit := e, params := c + 2 ^ 5 * x.round }
          (barErrPulse e (t.bump F.CT_BAR_STAT_overrun k))) s

/-- R356: a leave discards pending entries; by an engine that has not joined it is misuse. -/
def execBarrierLeave (e cyc c : Nat) (s : State) : Out :=
  barOp e cyc c (fun t =>
    if (tfind t.bars (barKey e c)).isSome then { t with bars := tdel t.bars (barKey e c) } else barMisuse e c 2 t) s

/-- R359: a context switch leaves every channel the engine has joined. DEDUCED (log entry 64). -/
def barSwitch (e : Nat) (s : State) : State := { s with bars := s.bars.filter (fun x => x.1 / 32 != e) }

/-- R359: every participant is removed, sense and rounds return to 0, and no release is signalled. -/
def barClear (c : Nat) (s : State) : State :=
  { s with bars := s.bars.filter (fun x => x.1 % 32 != c)
           barCh := tdel s.barCh c
           barSense := tdel s.barSense c
           barWait := s.barWait.filter (fun x => x.1 % 32 != c) }
/-- The channels of a partition are cleared at its T_iso. -/
def barClearPart (p : Nat) (s : State) : State :=
  forAll (List.range 32) (fun c t => if barPart t c == p then barClear c t else t) s

/-- A release reaches the engines of one cluster (Table 14-4): each participant's k falls by one. -/
def barApply (k c : Nat) (s : State) : State :=
  let mine := (barMembers s c).filter (fun e => engCt (e.1 / 32) == k)
  let t := forAll mine (fun e u => putBar (e.1 / 32) c { e.2 with k := e.2.k - 1 } u) s
  let t := pcntEv k 15 1 {} t
  if mine.isEmpty then t else traceEv k 4 (512 * k) (c + 2 ^ 5) t

/-- Clusters that apply a release: those with a participant or with programmable counters. -/
def barClusters (s : State) (c : Nat) : List Nat :=
  (((barMembers s c).map (fun (e : Nat × BarPart) => engCt (e.1 / 32))) ++ s.pcnt.map (fun (e : Nat × PCnt) => e.1 / 32)).eraseDups

/-- R358: the tree is high when every participant has entered; the round is released at every CT, a gated cluster's at
its first cycle after the resume. -/
def execBarrierRelease (c : Nat) (s : State) : Out :=
  .next (
    let l := barMembers s c
    if s.aonOnly || !barOn s c || l.isEmpty || !l.all (fun e => decide (1 ≤ e.2.k)) || (tget {} s.barCh c).phase != 0
      || l.any (fun e => tget false s.barWait (32 * engCt (e.1 / 32) + c)) then s
    else
      let t := { s with
        barSense := tput false s.barSense c (!tget false s.barSense c)
        barCh := tput {} s.barCh c { phase := 1, at_ := s.wt } }
      forAll (barClusters s c) (fun k u =>
        if u.ctGated k then { u with barWait := tput false u.barWait (32 * k + c) true } else barApply k c u) t)

/-- R358: 600 ns after a release the CTs contribute 0, and 1.2 µs later the tree counts again. -/
def execBarrierReleaseTimer (c : Nat) (s : State) : Out :=
  .next (
    let x := tget {} s.barCh c
    match x.phase with
    | 0 => s
    | 1 => { s.toWt (x.at_ + 600) with barCh := tput {} s.barCh c { x with phase := 2 } }
    | _ => { s.toWt (x.at_ + 1800) with barCh := tdel s.barCh c })

/-- Releases that waited for a gate are applied after the resume (R358). -/
def barResume (s : State) : State :=
  forAll s.barWait (fun e t => barApply (e.1 / 32) (e.1 % 32) t) { s with barWait := [] }

/-- The sense bits of a CT's copy; a release that waits for its gate has not toggled them yet.
DEDUCED (log entry 64). -/
def ctSense (s : State) (k : Nat) : Nat :=
  (List.range 32).foldl (fun a c =>
    a + 2 ^ c * b2n (tget false s.barSense c != tget false s.barWait (32 * k + c))) 0

/-- R356, R359: a write of CC_BAR_CFG clears the channel. -/
def barCfgWrite (w : Writer) (c v : Nat) (s : State) : State :=
  if notTenant w then barClear c ((s.wr F.CC_BAR_CFG_enable c (v % 2)).wr F.CC_BAR_CFG_partition c (bits v 1 6)) else s
def execBarCfgWrite (w : Writer) (c v : Nat) (s : State) : Out := regWrite w .CC_BAR_CFG c s <|
  onUnit (decide (c < 32)) (barCfgWrite w c v s)

end Sys2Proof.Machine
end

