-- ==== Sys2Proof/Machine/Reset.lean ====
section
/-!
DEFINITION. Watchdogs, the reset ladder, partition resets, the reset budget, and context replays (chapter 12).
-/
namespace Sys2Proof.Machine

def State.phase (s : State) (p : Nat) : Nat := s.rd F.CC_PART_STAT_phase p
def State.setPhase (s : State) (p v : Nat) : State := s.wr F.CC_PART_STAT_phase p v
def State.gen (s : State) (p : Nat) : Nat := s.rd F.CC_PART_STAT_gen p
/-- A partition is present when at least one field names it (R295). -/
def partPresent (s : State) (p : Nat) : Bool := !(s.fieldsOf p).isEmpty
/-- The engines of a partition that hold tile state. -/
def partEngines (s : State) (p : Nat) : List Nat :=
  ((s.tiles.map (·.1)) ++ (s.fifo.map (·.1)) ++ (s.skip.map (·.1))).eraseDups.filter (fun e => s.partOf (engField e) == p)

/-! ### Context replays (R320 to R322) -/

/-- Unchecked tiles of a core's engines so far. -/
def coreUnchecked (s : State) (c : Nat) : Nat :=
  (List.range 4).foldl (fun a i => a + (tget {} s.ledger (4 * c + i)).unchecked) 0

/-- A replay ends (R322, Table 12-4): recorded, shown, the core's force bit cleared unless it is latent (R167), the
core released. DEDUCED (log entry 66). -/
def crepEnd (f outcome : Nat) (lim : Bool) (s : State) : State :=
  match tfind s.crep f with
  | none => s
  | some x =>
    let partly := outcome == 1 && coreUnchecked s x.core != x.unch
    let s := { s with crep := tdel s.crep f }
    let s := ((s.wr F.FS_CREPLAY_STAT_state f 0).wr F.FS_CREPLAY_STAT_outcome f outcome).bumpWrap F.FS_CREPLAY_STAT_replays f
    let s := if coreLatent s x.core then s else putForce x.core false s
    let s := if (s.core x.core).kind == 2 then releaseCore x.core s else s
    raiseFs f { code := Code.CTX_REPLAY, unit := x.eng,
                params := x.ctx + 2 ^ 16 * outcome + 2 ^ 19 * coreIdx x.core + 2 ^ 32 * b2n partly + 2 ^ 33 * b2n lim }
      (coreWdogs x.core s)

/-- A replay that never got a core ends at once. DEDUCED (log entry 66). -/
def crepRefuse (f e ctx outcome core : Nat) (s : State) : State :=
  raiseFs f { code := Code.CTX_REPLAY, unit := e, params := ctx + 2 ^ 16 * outcome + 2 ^ 19 * core }
    ((s.wr F.FS_CREPLAY_STAT_outcome f outcome).bumpWrap F.FS_CREPLAY_STAT_replays f)

/-- A write of FS_CREPLAY_CMD (R321). -/
def crepWrite (w : Writer) (f v : Nat) (s : State) : State :=
  if !notTenant w || !s.fsWorks f then s
  else if bit v 31 then crepEnd f 5 false s
  else if (tfind s.crep f).isSome then s.wr F.FS_CREPLAY_STAT_refused f 1
  else
    let e := f * 2 ^ 15 + v % 2 ^ 15
    let ctx := bits v 15 16
    if s.aonOnly then crepRefuse f e ctx 5 0 s
    else match witnessOf s (engCore e) with
      | none => crepRefuse f e ctx 6 0 s
      | some c =>
        match tryForce c s with
        | (false, t) => crepRefuse f e ctx 6 (coreIdx c) t
        | (true, t) =>
          let x : CRep := { eng := e, ctx := ctx, core := c, limit := t.wt + t.rd F.FS_CREPLAY_CFG_wait_ms f * ms }
          let t := (t.wr F.FS_CREPLAY_STAT_state f 1).wr F.FS_CREPLAY_STAT_core f (coreIdx c)
          ({ t with crep := tins t.crep f x }).setCore c (raiseReq (t.core c) 2 0 false)

def execCreplayStart (w : Writer) (f v : Nat) (s : State) : Out := regWrite w .FS_CREPLAY_CMD f s <|
  onUnit (fieldOk f) (crepWrite w f v s)
/-- R322: a cancel gives outcome 5. -/
def execCreplayCancel (w : Writer) (f v : Nat) (s : State) : Out := regWrite w .FS_CREPLAY_CMD f s <|
  onUnit (fieldOk f) (crepWrite w f v s)

/-- The quarantine core is granted: the replay request goes to the host and the limit runs (R321). -/
def grantQuarantine (c : Nat) (s : State) : State :=
  let f := coreField c
  match tfind s.crep f with
  | some x =>
    if x.core = c ∧ x.running = false then
      let y : CRep := { x with running := true, unch := coreUnchecked s c,
                               limit := s.wt + s.rd F.FS_CREPLAY_CFG_limit f * (10 * ms) }
      ({ s with crep := tins (tdel s.crep f) f y }.wr F.FS_CREPLAY_STAT_state f 2).setCore c
        { s.core c with granted := true }
    else s
  | none => s

/-- R321: no grant within wait_ms. -/
def execCreplayWaitExpire (f : Nat) (s : State) : Out :=
  onUnit (fieldOk f) (
    match tfind s.crep f with
    | some x => if x.running then s else crepEnd f 6 false (s.toWt x.limit)
    | none => s)

/-- The engine of a core whose watchdog counts towards the nearest expiry, with the WT of that expiry (R298).
DEDUCED (log entry 66). -/
def nextExpiry (s : State) (c : Nat) : Option (Nat × Nat) :=
  let iv := s.setting (coreField c) 3
  ((List.range 4).map (4 * c + ·)).foldl (fun a e =>
    let w : Wdog := tget {} s.wdogs e
    let at_ := w.base + iv * (100 * us)
    if wdogStill s e || w.fired || iv == 0 then a
    else match a with
      | some (_, b) => if at_ < b then some (e, at_) else a
      | none => some (e, at_)) none

/-- R321: the watchdog of the quarantine core reaches its interval: no HANG, and the replay ends. -/
def crepWatchdog (f : Nat) (x : CRep) (s : State) : State :=
  let s := coreWdogs x.core s
  match nextExpiry s x.core with
  | some (e, t) =>
    let w : Wdog := tget {} s.wdogs e
    crepEnd f 2 false { s.toWt t with wdogs := tput {} s.wdogs e { w with fired := true } }
  | none => s

/-- R321: the limit, or the quarantine core's watchdog, expires. -/
def execCreplayLimitExpire (f : Nat) (lim : Bool) (s : State) : Out :=
  onUnit (fieldOk f) (
    match tfind s.crep f with
    | some x =>
      if !x.running then s else if lim then crepEnd f 2 true (s.toWt x.limit) else crepWatchdog f x s
    | none => s)

/-- R322: replay-done or replay-unable. -/
def execReplayDone (f : Nat) (unable : Bool) (s : State) : Out :=
  onUnit (fieldOk f) (
    match tfind s.crep f with
    | some x => if x.running then crepEnd f (if unable then 4 else if x.hit || coreLatent s x.core then 3 else 1) false s else s
    | none => s)

/-- A running replay that a reset of an engine covers is aborted (Table 12-4). DEDUCED (log entry 66). -/
def crepAbortCore (c : Nat) (s : State) : State :=
  match tfind s.crep (coreField c) with
  | some x => if x.core = c ∨ engCore x.eng = c then crepEnd (coreField c) 5 false s else s
  | none => s

/-! ### Suspect lists (R320) -/

def State.suspOf (s : State) (e : Nat) : Susp := tget {} s.susp e
def State.setSusp (s : State) (e : Nat) (x : Susp) : State := { s with susp := tput {} s.susp e x }

/-- A context ID appears on an engine. -/
def suspAdd (e ctx : Nat) (s : State) : State :=
  let x := s.suspOf e
  if x.frozen || x.ids.contains ctx then s
  else if x.ids.length < 8 then s.setSusp e { x with ids := x.ids ++ [ctx] }
  else s.setSusp e { x with ovf := true }

def suspFreeze (e : Nat) (s : State) : State := s.setSusp e { s.suspOf e with frozen := true }

/-- A write of CT_SUSP_SEL: release, then capture (Table 12-14). -/
def suspSelWrite (w : Writer) (k v : Nat) (s : State) : State :=
  if !notTenant w then s
  else
    let e := 512 * k + v % 512
    let s := if bit v 9 then s.setSusp e { s.suspOf e with frozen := false } else s
    let x := s.suspOf e
    let s := s.setReg .CT_SUSP_SEL k
      (v % 512 + 2 ^ 10 * b2n x.frozen + 2 ^ 11 * x.ids.length + 2 ^ 15 * b2n x.ovf)
    let word := fun (l : List Nat) => leNat ((l.map (leBytes 2)).flatten)
    (s.setReg .CT_SUSP_DATA0 k (word (x.ids.take 4))).setReg .CT_SUSP_DATA1 k (word (x.ids.drop 4))

def execSuspectSelect (w : Writer) (k v : Nat) (s : State) : Out := regWrite w .CT_SUSP_SEL k s <|
  onUnit (ctOk k) (suspSelWrite w k v s)
def execSuspectListRelease (w : Writer) (k v : Nat) (s : State) : Out := regWrite w .CT_SUSP_SEL k s <|
  onUnit (ctOk k) (suspSelWrite w k v s)

/-! ### The progress watchdog (R297, R298) -/

/-- A running replay's quarantine core raises no HANG (R321). -/
def quarantined (s : State) (c : Nat) : Bool :=
  match tfind s.crep (coreField c) with
  | some x => x.running && x.core == c
  | none => false

/-- R298: the watchdog of an engine reaches its interval. -/
def hang (e : Nat) (s : State) : State :=
  let k := engCt e
  let iv := s.setting (engField e) 3
  let s := wdogSync e s
  let w := tget {} s.wdogs e
  if wdogStill s e || w.fired || iv == 0 || quarantined s (engCore e) then s
  else
    let s := s.toWt (w.base + iv * (100 * us))
    let ctx := tget 0 s.ctxSig e % 2 ^ 16
    let s := suspFreeze e { s with wdogs := tput {} s.wdogs e { w with fired := true } }
    let s := ((s.bump F.CT_WDOG_STAT_hangs k).wr F.CT_WDOG_STAT_engine k (engInCt e)).wr F.CT_WDOG_STAT_context k ctx
    let t := oldest s e
    raiseCt k { code := Code.HANG, unit := e,
                params := ctx + 2 ^ 16 * ((t.map Tile.tag).getD 0) + 2 ^ 24 * b2n t.isSome
                  + 2 ^ 25 * sat 16 ((s.wt - w.at_) / ms),
                layer := (t.map Tile.layer).getD 0,
                op := match t with | some x => if x.known then x.op else 0 | none => 0 } s
def execHang (e : Nat) (s : State) : Out := onUnit (engOk e) (hang e s)

/-- R297, R298, R320, R359: the context signals of an engine change. -/
def contextChange (e : Nat) (active : Bool) (ctx : Nat) (s : State) : State :=
  let old := tget 0 s.ctxSig e
  let was := bit old 16
  let new := ctx + 2 ^ 16 * b2n active
  if old == new then s
  else
    let s := wdogSync e s
    let s := { s with ctxSig := tput 0 s.ctxSig e new }
    let s := traceEv (engCt e) 3 e new s
    let s := if (active && !was) || old % 2 ^ 16 != ctx then wdogRestart e s else wdogSync e s
    let s := if active then suspAdd e ctx s else s
    if old % 2 ^ 16 != ctx || (was && !active) then barSwitch e s else s
def execContextChange (e cyc : Nat) (active : Bool) (ctx : Nat) (s : State) : Out :=
  onUnit (engOk e) (
    if s.ctGated (engCt e) then s else contextChange e active ctx (advCyc (engCt e) cyc s))

/-! ### Steps of scope 0 and 1 (R300 to R304) -/

/-- Post a reset notification or record to the CC sequencer and the FS sequencers concerned (R304). -/
def resetDone (scope p gen ctx unit : Nat) (fs : List Nat) (s : State) : State :=
  let params := scope + 2 ^ 3 * p + 2 ^ 9 * gen + 2 ^ 32 * ctx
  forAll fs (fun f t => notifyFs f Code.RESET_DONE unit params t) (notify ccSeq Code.RESET_DONE unit params s)

def resetLate (scope p phase ctx unit : Nat) (fs : List Nat) (s : State) : State :=
  let params := scope + 2 ^ 3 * p + 2 ^ 9 * phase + 2 ^ 16 * ctx
  raiseCc { code := Code.RESET_TIMEOUT, unit := unit, params := params }
    (forAll fs (fun f t => notifyFs f Code.RESET_TIMEOUT unit params t) s)

/-- RESET_STARTED (Table 12-17). DEDUCED (log entry 65). -/
def resetStarted (scope p gen req ctx unit : Nat) (s : State) : State :=
  raiseCc { code := Code.RESET_STARTED, unit := unit,
            params := scope + 2 ^ 3 * p + 2 ^ 9 * gen + 2 ^ 17 * req + 2 ^ 32 * ctx } s

/-- The next waiting step of a core goes onto its port (Table 19-2). -/
def portNext (c : Nat) (s : State) : State :=
  if s.rsteps.any (fun r => engCore r.eng == c && r.onPort) then s
  else match takeFirst (fun r => engCore r.eng == c) s.rsteps with
    | some (r, _) => { s with rsteps := s.rsteps.map (fun (x : RStep) => if x = r then { x with onPort := true } else x) }
    | none => s

/-- Why a context or engine reset is refused (R301): the status, none when it starts.
DESIGN CHOICE (log entry 21). DEDUCED (log entry 65). -/
def stepRefusal (s : State) (scope e ctx : Nat) : Option Nat :=
  if s.aonOnly then some 5
  else if !engOk e then some 2
  else
    let p := s.partOf (engField e)
    let x := tget 0 s.ctxSig e
    if engFenced s e || decide (4 ≤ s.phase p) then some 2
    else if scope = 0 ∧ x ≠ ctx + 2 ^ 16 then some 2
    else if s.phase p != 0 || widerStep s p || s.rsteps.any (fun r => r.eng == e && (scope < r.scope || (r.scope == scope && (scope == 1 || r.ctx == ctx))))
    then some 3 else none

/-- Start a context or engine reset: the wider one cancels the narrower (R301), and an engine reset aborts the strips
and replays of its core (R157, Table 12-4). DEDUCED (log entry 65). -/
def stepStart (scope e ctx req : Nat) (s : State) : Nat × State :=
  match stepRefusal s scope e ctx with
  | some r => (r, s)
  | none =>
    let c := engCore e
    let p := s.partOf (engField e)
    let s := if scope = 1 then { s with rsteps := s.rsteps.filter (fun r => r.eng != e) } else s
    let s := { s with rsteps := s.rsteps ++ [RStep.mk scope e ctx s.wt (if s.ctGated (engCt e) then some s.wt else none) false false] }
    let s := if scope = 1 then abortCore c (crepAbortCore c s) else s
    (0, resetStarted scope p (s.gen p) req (if scope = 0 then ctx else 0) e (wdogSync e (portNext c s)))

/-- R302: the acknowledgement of the reset on a core's port. -/
def resetAck (c : Nat) (s : State) : State :=
  match takeFirst (fun r => engCore r.eng == c && r.onPort) s.rsteps with
  | none => s
  | some (r, l) =>
    let e := r.eng
    let p := s.partOf (engField e)
    let s := abandonEngine e { s with rsteps := l }
    let s := portNext c (wdogRestart e s)
    resetDone r.scope p (s.gen p) (if r.scope = 0 then r.ctx else 0) e [engField e] s
def execResetAck (c : Nat) (s : State) : Out :=
  onUnit (coreOk c) (if s.ctGated (coreCt c) then s else resetAck c s)

/-! ### Partition resets (R305 to R309) -/

def State.preset? (s : State) (p : Nat) : Option PReset := tfind s.presets p
def State.setPreset (s : State) (p : Nat) (x : PReset) : State := { s with presets := tins (tdel s.presets p) p x }
def dropPreset (p : Nat) (s : State) : State := { s with presets := tdel s.presets p }

/-- Whether a stop gates clusters now. -/
def anyGated (s : State) : Bool := match s.stop with | some x => x.gated | none => false

/-- A cluster of the partition is gated: its step timers pause (R304), its host's acknowledgement waits (Table 12-5). -/
def partGated (s : State) (p : Nat) : Bool :=
  (s.fieldsOf p).any (fun f => (List.range Config.nCluster).any (fun k => s.ctGated (64 * f + k)))

/-- The isolating phase begins (R305): T_iso is announced, at least 2.5 µs away, and narrower steps are cancelled. -/
def isolateStart (p : Nat) (kind : PKind) (s : State) : State :=
  let shut := match s.preset? p with | some x => x.iso || x.shut | none => false
  let rel := match s.preset? p with | some x => if shut then x.rel else [] | none => []
  let x : PReset := { kind := kind, tIso := s.wt + 2500, base := s.wt,
                      paused := if partGated s p then some s.wt else none, rel := rel, shut := shut }
  wdogSyncAll (({ s with rsteps := s.rsteps.filter (fun r => s.partOf (engField r.eng) != p) }.setPreset p x).setPhase p 1)

/-- The starts inside the budget window (R316). -/
def budgetStarts (s : State) (p : Nat) : List Nat :=
  (tget [] s.partHist p).filter (fun t => s.wt < t + s.rd F.CC_BUDGET_CFG_part_window_s * sec)

/-- Outage-log entries (R317), as the model lays them out (log entry 5): partition or wafer, and the WT in s. -/
def outEntry (p : Nat) (wafer : Bool) (t : Nat) : Nat := p + 2 ^ 6 * b2n wafer + 2 ^ 8 * (t / sec)
/-- Entries within the wafer window; `wafer` selects partition or wafer outages. -/
def outsIn (s : State) (wafer : Bool) : List W64 :=
  s.outLog.filter (fun e => bit e.toNat 6 == wafer &&
    decide (s.wt / sec < e.toNat / 2 ^ 8 + 3600 * s.rd F.CC_BUDGET_CFG_wafer_window_h))

/-- Append to the outage log of 256 entries; an entry whose word is worn, or that finds it full, is not stored.
DEDUCED (log entry 67). -/
def outAppend (v : Nat) (s : State) : State :=
  if s.outLog.length < 256 then
    match archWrite (0x2100 + s.outLog.length) v true s with
    | (true, t) => { t with outLog := t.outLog ++ [BitVec.ofNat 64 v] }
    | (false, t) => t
  else s

/-- Copy the newest 64 records of the master copy into the saved area, word by word and oldest first (R287); a worn word keeps
what it held (R427). -/
def saveRecords (s : State) : State :=
  let l := ((s.rcdr ccRec).last.take 64).reverse
  forAll ((List.range l.length).zip l) (fun x t =>
      forAll ((List.range 4).zip (leWords 4 (recBytes x.2.2))) (fun y u =>
        (archWrite (0x2000 + 4 * x.1 + y.1) y.2 false u).2) t)
    { s with savedSlots := List.range l.length }

/-- R301, R315: the power-cycle request; it cancels every narrower step, and TRAY has it reported on the management port.
DESIGN CHOICE (log entry 106). -/
def powerCycle (cause : Nat) (s : State) : State :=
  let s := { saveRecords s with
    pwrCycleReq := true
    pwrReport := some cause
    rsteps := []
    wstep := none
    presets := s.presets.filter (fun e => e.2.kind != PKind.reset && e.2.kind != PKind.wafer) }
  wdogSyncAll (raiseCc { code := Code.PWR_CYCLE_REQ, unit := s.ccUnit, params := cause } (s.wr F.CC_BUDGET_STAT_pwr_req 0 1))

/-- Take a partition out of service (R316, R317): the log, and isolation without release. -/
def takeOut (p : Nat) (s : State) : State :=
  let s := outAppend (outEntry p false s.wt) s
  isolateStart p .outage s

/-- Partitions that can be taken out: present, and not yet out or withheld. -/
def inService (s : State) : List Nat :=
  (List.range Config.nPart).filter (fun p => partPresent s p && decide (s.phase p ≤ 3)
    && (match s.preset? p with | some x => x.kind != .outage | none => true))

/-- The budget is exhausted (R316, R317). -/
def budgetOut (p : Nat) (s : State) : State :=
  let n := (budgetStarts s p).length
  let s := takeOut p s
  let outs := (outsIn s false).length
  let lim := s.rd F.CC_BUDGET_CFG_wafer_limit
  if lim ≠ 0 ∧ lim ≤ outs ∧ s.rb F.CC_BUDGET_STAT_wafer_oos = false then
    let held := !(outsIn s true).isEmpty
    let s := forAll (inService s) takeOut s
    let s := outAppend (outEntry 0 true s.wt) s
    let s := if held then wrPersist F.CC_BUDGET_STAT_hold 0 1 s else s
    let s := serviceSync (s.wr F.CC_BUDGET_STAT_wafer_oos 0 1)
    let s := raiseCc { code := Code.BUDGET_EXHAUSTED, unit := s.ccUnit,
                       params := p + 2 ^ 6 + 2 ^ 7 * b2n held + 2 ^ 8 * sat 4 n
                         + 2 ^ 16 * sat 5 (outsIn s false).length } s
    powerCycle 1 s
  else
    raiseCc { code := Code.BUDGET_EXHAUSTED, unit := s.ccUnit,
              params := p + 2 ^ 7 * s.rd F.CC_BUDGET_STAT_hold + 2 ^ 8 * sat 4 n + 2 ^ 16 * sat 5 outs } s

/-- Start a scope-2 step (R301, R305, R316). DEDUCED (log entry 65). -/
def partStart (p req : Nat) (s : State) : Nat × State :=
  if s.aonOnly then (5, s)
  else if !partOk p || !partPresent s p || decide (4 ≤ s.phase p)
      || (match s.preset? p with | some x => x.kind == .outage | none => false) then (2, s)
  else if widerStep s p || (match s.preset? p with | some x => x.kind == .reset || x.kind == .wafer | none => false) then (3, s)
  else
    let lim := s.rd F.CC_BUDGET_CFG_part_limit
    if lim ≠ 0 ∧ lim - 1 ≤ (budgetStarts s p).length then (6, budgetOut p s)
    else
      let s := { s with partHist := tput [] s.partHist p (s.wt :: budgetStarts s p) }
      let s := s.bump F.CC_PART_STAT_resets p
      (0, resetStarted 2 p ((s.gen p + 1) % 256) req 0 s.ccUnit (isolateStart p .reset s))

/-- Start a scope-3 step (R314). DEDUCED (log entry 65). -/
def waferStart (req : Nat) (s : State) : Nat × State :=
  if s.aonOnly then (5, s)
  else if s.wstep.isSome || s.pwrCycleReq then (3, s)
  else
    let l := inService s
    if l.isEmpty then (2, s)
    else
      let s := forAll l (fun p t => isolateStart p .wafer (t.bump F.CC_PART_STAT_resets p)) s
      let s := { s with wstep := some { base := s.wt, ports := List.range Config.nLt, parts := l } }
      (0, resetStarted 3 0 0 req 0 s.ccUnit s)

/-- Start a scope-4 step (R315). -/
def powerStart (req : Nat) (s : State) : Nat × State :=
  if s.aonOnly then (5, s)
  else if s.pwrCycleReq then (3, s)
  else (0, powerCycle (if req = 2 then 2 else 0) (resetStarted 4 0 0 req 0 s.ccUnit s))

/-! ### Links during a reset (R312) -/

/-- Send a packet out of a link port. -/
def ltSend (l : Nat) (x : LtPkt) (s : State) : State := { s with ltOut := tins (tdel s.ltOut l) l x }
/-- A Wyxia control packet with flags 11 (R310): its kind, a 16-bit field and a 64-bit field, in this order. Kind 0 is a join
(stop ID, remaining lead in ns), 1 a resume, 2 STOP_MARK, 3 the trust group. DESIGN CHOICE (log entry 111). -/
def ltControl (l kind a b : Nat) (s : State) : State :=
  ltSend l { transit := false, sb := 3 * 2 ^ 14, field := 0, tag := 0, sleeved := false, blocks := [],
             data := leBytes 1 kind ++ leBytes 2 a ++ leBytes 8 b } s
/-- Trained ports. -/
def upPorts (s : State) : List Nat := (List.range Config.nLt).filter (fun l => tget false s.ltUp l)
/-- A control packet on every trained port but one. DESIGN CHOICE (log entry 111). -/
def ltControlAll (but : Option Nat) (kind a b : Nat) (s : State) : State :=
  forAll ((upPorts s).filter (fun l => but != some l)) (fun l t => ltControl l kind a b t) s

/-- A negative acknowledgement: flags 10, the request's sideband otherwise (R310, R312). -/
def ltNack (l field sb tag : Nat) (s : State) : State :=
  ltSend l { transit := false, sb := setBits sb 14 2 2, field := field, tag := tag, sleeved := false, blocks := [], data := [] }
    (s.bump F.LT_GEN_STAT_nacks l)
/-- An LT answers every entry that `sel` selects with a negative acknowledgement, the oldest first. -/
def nackEntries (l : Nat) (sel : LtReq → Bool) (s : State) : State :=
  let q := tget [] s.ltReq l
  let rest := q.filter (fun x => !sel x)
  forAll (q.filter sel) (fun x t => ltNack l x.field x.sb x.tag t)
    ({ s with ltReq := tput [] s.ltReq l rest }.wr F.LT_GEN_STAT_outstanding l rest.length)

/-- NACK_UNTRACKED, once per port and reset (R312). -/
def untracked (l p : Nat) (s : State) : State :=
  let n := tget 0 s.ltUntr (64 * l + p)
  if n = 0 then s
  else raiseLt l { code := Code.NACK_UNTRACKED, unit := ltUnit l, params := p + 2 ^ 6 * sat 16 n }
    { s with ltUntr := tdel s.ltUntr (64 * l + p) }

/-! ### T_iso (R305) -/

/-- Suspects of a field whose replay is requested or runs. -/
def replaying (s : State) (f : Nat) : List Nat :=
  (fieldCores s f).filterMap (fun e => match e.2.suspect with | some x => some x | none => e.2.next)

/-- At T_iso: darkslide closed, release levels lowered, generation incremented, work abandoned, negative
acknowledgements sent. -/
def isolate (p : Nat) (s : State) : State :=
  match s.preset? p with
  | none => s
  | some x =>
    let fs := s.fieldsOf p
    let cs := s.chansOf p
    let s := s.toWt x.tIso
    let rel := if x.shut then x.rel else fs.filter (fun f => s.released f)
    let reps := (fs.map (replaying s)).flatten
    let s := { s with
      dsFieldOpen := s.dsFieldOpen.filter (fun f => !fs.contains f)
      dsChanOpen := s.dsChanOpen.filter (fun m => !cs.contains m) }
    let s := forAll fs (fun f t => setReleased f false t) s
    let s := s.wr F.CC_PART_STAT_gen p ((s.gen p + 1) % 256)
    let s := forAll (partEngines s p) abandonEngine s
    let s := forAll fs (fun f t => crepEnd f 5 false t) s
    let s := forAll fs (fun f t => brkEvent f (if x.kind = .scrub then 12 else 5) t) s
    let s := forAll fs closeWindow s
    let s := forAll fs (fun f t => forAll ((fieldCores t f).map (·.1)) abortCore t) s
    let s := barClearPart p (horizonReset p s)
    let s := ckptStop p (if x.kind = .scrub then 8 else if x.kind = .wafer then 6 else 7) s
    let s := forAll cs endGather s
    let s := forAll (List.range Config.nLt) (fun l t =>
      untracked l p (nackEntries l (fun y => fs.contains y.field) t)) s
    let s := if x.kind = .wafer then
        forAll (List.range Config.nLt) (fun l t => nackEntries l (fun _ => true) t) { s with ltUp := [] } else s
    let s := match tfind s.scrubs p with
      | some y => if x.kind = PKind.scrub then s else { s with scrubs := tins (tdel s.scrubs p) p { y with stopped := true } }
      | none => s
    wdogSyncAll (serviceSync (s.setPreset p { x with iso := true, rel := rel, replays := reps }))

/-- R305: T_iso. -/
def execPartitionIsolate (p : Nat) (s : State) : Out :=
  onUnit (partOk p) (
    match s.preset? p with
    | some x => if s.phase p == 1 && !x.iso then isolate p s else s
    | none => s)

/-- R307: every MT has drained, or 20 µs have passed since T_iso; the compute reset is asserted. -/
def execResetDrained (p : Nat) (all : Bool) (s : State) : Out :=
  onUnit (partOk p) (
    match s.preset? p with
    | some x =>
      if s.phase p == 1 && x.iso then
        let t := if all then s else s.toWt (x.tIso + 20 * us)
        { t with
          prtReq := t.prtReq.filter (· != p) ++ [p]
          prtScrub := t.prtScrub.filter (· != p) ++ (if x.kind = PKind.scrub then [p] else []) }.setPhase p 2
      else s
    | none => s)

/-- prt_req of a partition falls. -/
def prtDrop (p : Nat) (s : State) : State :=
  { s with prtReq := s.prtReq.filter (· != p), prtScrub := s.prtScrub.filter (· != p) }

/-! ### Training records (R429) -/

/-- The newest valid record of each unit, in the original order. -/
def compactTrain (l : List TrainRec) : List TrainRec :=
  let rec go : List TrainRec → List TrainRec
    | [] => []
    | x :: t => if x.valid && !t.any (fun y => y.valid && y.unit == x.unit) then x :: go t else go t
  go l

/-- Whether a unit has a record in use. -/
def trained (s : State) (u : Nat) : Bool := s.trainRecs.any (fun x => x.valid && x.unit == u)

/-- Append a unit's training record: it supersedes the older ones; a full area is compacted first, and one that stays full
takes nothing (TRAIN_REC_FULL). `u` is a channel, or 1024 + a port. -/
def trainAppend (u : Nat) (data : List Byte) (s : State) : State :=
  let full := fun (t : State) =>
    raiseCc { code := Code.TRAIN_REC_FULL, unit := t.ccUnit, params := b2n (decide (1024 ≤ u)) + 2 * (u % 1024) }
      { t with trainRecs := t.trainRecs.map (fun (x : TrainRec) => if x.unit = u then { x with valid := false } else x) }
  let put := fun (i : Nat) (x : TrainRec) (t : State) => archWords (0x2400 + 24 * i) 24 x.data true t
  let s := if s.trainRecs.length < 960 then s
    else
      let l := compactTrain s.trainRecs
      forAll ((List.range l.length).zip l) (fun x t => (put x.1 x.2 t).2) { s with trainRecs := l }
  if s.trainRecs.length < 960 then
    match put s.trainRecs.length ⟨u, data, true⟩ s with
    | (true, t) => { t with trainRecs := t.trainRecs ++ [⟨u, data, true⟩] }
    | (false, t) => full t
  else full s

/-- The record of a unit is read for its training (R308, R428): one that reads uncorrectable, really or by an injection, is
absent, and the unit is trained in full. -/
def trainRead (u : Nat) (s : State) : State :=
  match (List.range s.trainRecs.length).reverse.find? (fun i =>
      match s.trainRecs[i]? with | some x => x.valid && x.unit == u | none => false) with
  | none => s
  | some i =>
    let r := (List.range 24).foldl (fun (a : Bool × State) j =>
      let q := archRead (0x2400 + 24 * i + j) false a.2
      (a.1 || q.1, q.2)) (false, s)
    if r.1 then { r.2 with trainRecs := r.2.trainRecs.map (fun (x : TrainRec) => if x.unit = u then { x with valid := false } else x) }
    else r.2

/-- The retraining phase begins (R308). -/
def retrainStart (p : Nat) (s : State) : State :=
  match s.preset? p with
  | some x =>
    let s := forAll (s.chansOf p) trainRead s
    wdogSyncAll (((prtDrop p s).setPreset p { x with ackAt := some s.wt, left := s.chansOf p }).setPhase p 3)
  | none => s

/-- The host's acknowledgement of a reset's compute reset: retraining, or staying out of service (R316). -/
def resetAcked (p : Nat) (s : State) : State :=
  match s.preset? p with
  | some x =>
    if x.kind = .outage then wdogSyncAll ((s.setPreset p { x with ackAt := some s.wt }).setPhase p 5) else retrainStart p s
  | none => s

/-- R308: retraining is complete: `recs` holds the record of each channel trained in full, which every channel without one in
use is; one trained from its record has none in `recs`. -/
def execRetrainDone (p : Nat) (recs : List TrainIn) (s : State) : Out :=
  onUnit (partOk p) (
    match s.preset? p with
    | some x =>
      let mine := recs.filter (fun r => x.left.contains r.m)
      if s.phase p == 3 && !x.releasing && !s.aonOnly && x.left.all (fun m => trained s m || recs.any (fun r => r.m == m)) then
        let t := forAll mine (fun r u => trainAppend r.m r.data u) s
        (t.setPreset p { x with left := [], full := !mine.isEmpty, releasing := true }).wr F.CC_PART_STAT_full p
          (b2n (!mine.isEmpty))
      else s
    | none => s)

/-- R308: 12 s after the acknowledgement. The partition stays in phase retraining. -/
def execRetrainTimeout (p : Nat) (s : State) : Out :=
  onUnit (partOk p) (
    match s.preset? p with
    | some x =>
      match x.ackAt with
      | some a =>
        if s.phase p == 3 && !x.releasing && !x.fired1 && x.paused.isNone then
          let t := (s.toWt (a + 12 * sec)).setPreset p { x with fired1 := true }
          resetLate 2 p 1 0 t.ccUnit (t.fieldsOf p) t
        else s
      | none => s
    | none => s)

/-- R303: the timeout of a step, raised once; timers pause while a cluster the step covers is gated (R304). -/
def resetTimeout (scope x : Nat) (s : State) : State :=
  if scope < 2 then
    match s.rsteps.find? (fun r => r.scope == scope && r.eng == x && !r.fired && r.paused.isNone) with
    | some r =>
      let t := s.toWt (r.base + (if scope = 0 then 2 else 20) * ms)
      let t := { t with rsteps := t.rsteps.map (fun (y : RStep) => if y = r then { y with fired := true } else y) }
      resetLate scope (t.partOf (engField x)) 0 (if scope = 0 then r.ctx else 0) x [engField x] t
    | none => s
  else if scope = 2 then
    match s.preset? x with
    | some y =>
      if y.kind == .reset && decide (s.phase x ≤ 2) && !y.fired0 && y.paused.isNone then
        let t := (s.toWt (y.base + 3 * sec)).setPreset x { y with fired0 := true }
        resetLate 2 x 0 0 t.ccUnit (t.fieldsOf x) t
      else s
    | none => s
  else
    match s.wstep with
    | some y =>
      if y.fired then s
      else
        let t := { s.toWt (y.base + 30 * sec) with wstep := some { y with fired := true } }
        resetLate 3 0 0 0 t.ccUnit (List.range Config.nField) t
    | none => s
def execResetTimeout (scope x : Nat) (s : State) : Out :=
  onUnit (if scope < 2 then engOk x else if scope = 2 then partOk x else true) (resetTimeout scope x s)

/-- A stop begins or ends: the timers of steps that cover a gated cluster pause (R304). -/
def resetPause (on : Bool) (s : State) : State :=
  let stepP := fun (r : RStep) =>
    if on then (if s.ctGated (engCt r.eng) then { r with paused := some (r.paused.getD s.wt) } else r)
    else match r.paused with
      | some t => { r with paused := none, base := r.base + (s.wt - t) }
      | none => r
  let partP := fun (p : Nat) (r : PReset) =>
    if on then (if partGated s p then { r with paused := some (r.paused.getD s.wt) } else r)
    else match r.paused with
      | some t => { r with paused := none, base := r.base + (s.wt - t), ackAt := r.ackAt.map (· + (s.wt - t)) }
      | none => r
  { s with rsteps := s.rsteps.map stepP, presets := s.presets.map (fun e => (e.1, partP e.1 e.2)) }

/-! ### Release (R305) -/

/-- A scope-3 step is complete when every partition reset is released and every link port is trained (Table 12-1); the
watchdogs of its partitions restart (R298). -/
def waferDone (s : State) : State :=
  match s.wstep with
  | some x =>
    if x.ports.isEmpty && s.presets.all (fun e => e.2.kind != .wafer) then
      forAll (s.ctxSig.filter (fun e => x.parts.contains (s.partOf (engField e.1)))) (fun e t => wdogRestart e.1 t)
        (resetDone 3 0 0 0 s.ccUnit (List.range Config.nField) { s with wstep := none })
    else s
  | none => s

/-- The releasing phase ends: new keys, empty caches, darkslide open, release levels raised, RESET_DONE and PART_RELEASED. -/
def partRelease (p : Nat) (s : State) : State :=
  match s.preset? p with
  | none => s
  | some x =>
    let fs := s.fieldsOf p
    let cs := s.chansOf p
    let s := forAll fs rekey s
    let s := { s with
      slvCache := s.slvCache.filter (fun e => !cs.contains e.1)
      tagCache := s.tagCache.filter (fun e => !cs.contains e.1)
      dsFieldOpen := s.dsFieldOpen ++ fs.filter (fun f => x.rel.contains f)
      dsChanOpen := s.dsChanOpen ++ cs.filter (fun m => !unitFenced s (chanUnit m))
      presets := tdel s.presets p }
    let s := forAll (fs.filter (fun f => x.rel.contains f)) (fun f t => setReleased f true t) (prtDrop p s)
    let s := s.setPhase p 0
    let took := sat 32 ((s.wt - x.tIso) / ms)
    let s := s.wr F.CC_PART_STAT_last_ms p took
    let s := forAll s.ctxSig (fun e t => if t.partOf (engField e.1) == p then wdogRestart e.1 t else t) (serviceSync s)
    let s := forAll x.replays (fun e t => match latentAt t e with
      | some (k, l) => if l.confirmed then t else requestReplay k l t
      | none => t) s
    let s := if x.kind = .reset then resetDone 2 p (s.gen p) 0 s.ccUnit fs s else s
    let s := if x.kind = .scrub then s
      else raiseCc { code := Code.PART_RELEASED, unit := s.ccUnit,
                     params := p + 2 ^ 6 * s.gen p + 2 ^ 14 * b2n x.full + 2 ^ 15 * b2n (x.kind == .back) + 2 ^ 16 * took } s
    waferDone s

/-! ### CC_RESET_CMD and RESET (R300, R318, R319) -/

/-- R319: a partition returns to service. -/
def returnPart (p : Nat) (s : State) : Nat × State :=
  if s.aonOnly then (5, s)
  else if !partOk p || !partPresent s p || s.phase p != 5 || s.rb F.CC_BUDGET_STAT_wafer_oos then (2, s)
  else
    match s.preset? p with
    | some x =>
      let s := { s with partHist := tdel s.partHist p }
      (0, retrainStart p (s.setPreset p { x with kind := .back, base := s.wt, fired1 := false, releasing := false }))
    | none => (2, s)

/-- R318: hold and the outage log are cleared. -/
def clearHold (s : State) : State :=
  wrPersist F.CC_BUDGET_STAT_hold 0 0 { s with outLog := [] }

/-- A step of scope 0 to 4 with its requester (0 FS, 1 CC, 2 owner). DEDUCED (log entry 65). -/
def scopeStart (scope e p ctx req : Nat) (s : State) : Nat × State :=
  match scope with
  | 0 => stepStart 0 e ctx req s
  | 1 => stepStart 1 e ctx req s
  | 2 => partStart p req s
  | 3 => waferStart req s
  | _ => powerStart req s

/-- An owner's write of CC_RESET_CMD. -/
def resetCmdWrite (w : Writer) (v : Nat) (s : State) : State :=
  if !s.isOwner w then s
  else
    let scope := bits v 0 3
    let (st, t) :=
      if scope ≤ 4 then scopeStart scope (bits v 16 22) (bits v 8 6) (bits v 38 16) 2 s
      else if scope = 5 then returnPart (bits v 8 6) s
      else if scope = 6 then (0, if s.scrapped then s else clearHold s)
      else (s.rd F.CC_RESET_STAT_status, s)
    t.wr F.CC_RESET_STAT_status 0 st

def execCmdResetContext (w : Writer) (v : Nat) (s : State) : Out := regWrite w .CC_RESET_CMD 0 s <|
  .next (resetCmdWrite w v s)
def execCmdResetEngine (w : Writer) (v : Nat) (s : State) : Out := regWrite w .CC_RESET_CMD 0 s <|
  .next (resetCmdWrite w v s)
def execCmdResetPartition (w : Writer) (v : Nat) (s : State) : Out := regWrite w .CC_RESET_CMD 0 s <|
  .next (resetCmdWrite w v s)
def execCmdResetWafer (w : Writer) (v : Nat) (s : State) : Out := regWrite w .CC_RESET_CMD 0 s <|
  .next (resetCmdWrite w v s)
def execCmdResetPowerCycle (w : Writer) (v : Nat) (s : State) : Out := regWrite w .CC_RESET_CMD 0 s <|
  .next (resetCmdWrite w v s)
def execReturnToService (w : Writer) (v : Nat) (s : State) : Out := regWrite w .CC_RESET_CMD 0 s <|
  .next (resetCmdWrite w v s)
def execClearBudgetHold (w : Writer) (v : Nat) (s : State) : Out := regWrite w .CC_RESET_CMD 0 s <|
  .next (resetCmdWrite w v s)

/-- The RESET instruction (R257, Table 10-10): an FS reaches scopes 0 and 1 in its field; scopes 2 to 4 belong to
the CC. -/
def seqReset (scope q rd ra rb : Nat) (s : State) : Out :=
  onUnit (seqOk q) (seqInstr q (fun x t =>
    if q < 128 ∧ 2 ≤ scope then .trap trapUnit scope
    else
      let a := (x.gr ra).toNat
      let r := if q < 128 ∧ engField a ≠ q ∧ t.aonOnly = false then (2, t)
        else scopeStart scope a a ((x.gr rb).toNat % 2 ^ 16) (if q < 128 then 0 else 1) t
      .done (seqCheckpoint q (seqRet q rd (BitVec.ofNat 32 r.1) r.2))) s)
def execResetContext (q rd ra rb : Nat) (s : State) : Out := seqReset 0 q rd ra rb s
def execResetEngine (q rd ra rb : Nat) (s : State) : Out := seqReset 1 q rd ra rb s
def execResetPartition (q rd ra rb : Nat) (s : State) : Out := seqReset 2 q rd ra rb s
def execResetWafer (q rd ra rb : Nat) (s : State) : Out := seqReset 3 q rd ra rb s
def execResetPowerCycle (q rd ra rb : Nat) (s : State) : Out := seqReset 4 q rd ra rb s

/-! ### The partition map (R296) -/

/-- A partition becomes tainted (R374). -/
def taint (p : Nat) (s : State) : State := wrPersist F.CC_PART_SEAL_tainted p 1 s

/-- Not released: withheld, out of service or absent. -/
def notReleased (s : State) (p : Nat) : Bool := decide (4 ≤ s.phase p)
/-- A field that is not released (R296): its partition is not, or start-up has withheld it and no step has lowered its
release level. DEDUCED (log entry 107). -/
def fieldHeld (s : State) (f : Nat) : Bool :=
  notReleased s (s.partOf f)
    || (!s.released f && (match s.preset? (s.partOf f) with | some x => !x.rel.contains f | none => true))

/-- Presence follows the map: a partition no field names is absent, one that gains its first field is withheld.
DEDUCED (log entry 107). -/
def presence (p : Nat) (s : State) : State :=
  if partPresent s p then (if s.phase p = 6 then s.setPhase p 4 else s)
  else if s.phase p = 6 then s else dropPreset p ((prtDrop p s).setPhase p 6)

/-- A field that leaves a partition out of service and joins another is released with it (R305, R319), under the rule of
start-up (R408); a sealed tenancy of the one it leaves ends (R133). DEDUCED (log entry 107). -/
def fieldMoves (f p q : Nat) (s : State) : State :=
  let s := if s.rb F.CC_PART_SEAL_sealed p then zeroSealedAt p f s else s
  let s := match s.preset? p with
    | some x => s.setPreset p { x with rel := x.rel.filter (· != f) }
    | none => s
  match s.preset? q with
  | some x => if s.fsWorks f || s.rb F.CC_FIX_POLICY_unmon_release then s.setPreset q { x with rel := x.rel ++ [f] } else s
  | none => s

/-- Write the byte of one field or channel, when both conditions of R296 hold. DEDUCED (log entry 107). -/
def mapEntry (chan : Bool) (j v i : Nat) (s : State) : State :=
  let r := if chan then Reg.CC_PART_CHAN else Reg.CC_PART_FIELD
  let old := bits (s.regVal r j) (8 * i) 8
  let new := if chan then bits v (8 * i) 6 + 2 ^ 7 * bits v (8 * i + 7) 1 else bits v (8 * i) 6
  let unit := 8 * j + i
  let p := old % 2 ^ 6
  let q := new % 2 ^ 6
  let wasFree := chan && decide (2 ^ 7 ≤ old)
  let isFree := chan && decide (2 ^ 7 ≤ new)
  if (if chan then !mtOk unit else !fieldOk unit) || old == new || !partOk q then s
  else if s.scrapped || (!wasFree && !(if chan then notReleased s p else fieldHeld s unit)) || (!isFree && !notReleased s q) then
    s.wr F.CC_RESET_STAT_refused 0 1
  else
    let s := setPersist r j (setBits (s.regVal r j) (8 * i) 8 new) s
    let s := if wasFree then s else taint p s
    let s := if isFree then s else taint q s
    if chan then s else presence p (presence q (forwardField unit (fieldMoves unit p q s)))

def mapWrite (w : Writer) (chan : Bool) (j v : Nat) (s : State) : State :=
  if s.isOwner w then forAll (List.range 8) (fun i t => mapEntry chan j v i t) s else s
def execPartitionMapWrite (w : Writer) (chan : Bool) (j v : Nat) (s : State) : Out :=
  regWrite w (if chan then .CC_PART_CHAN else .CC_PART_FIELD) j s <|
  onUnit (decide (j < if chan then 128 else 16)) (mapWrite w chan j v s)

end Sys2Proof.Machine
end

