-- ==== Sys2Proof/Machine/SeqRel.lean ====
section
/-!
DEFINITION. The PROOF.SET instruction (R255, Table 10-10).
-/
namespace Sys2Proof.Machine

/-- PROOF.SET func 0: set or clear the force bit of a core of the FS's field (R116, R167). A core outside the field has
no force bit to clear: status 2. -/
def proofForce (q i : Nat) (on : Bool) (s : State) : Nat × State :=
  let c := coreOf q i
  if i ≥ 2 ^ 13 || !coreOk c then (2, s)
  else if on then (match tryForce c s with | (true, t) => (0, t) | (false, t) => (1, t))
  else if coreLatent s c || (s.core c).shadow then (2, s)
  else (0, putForce c false s)

def execProofSetForce (q rd ra rb : Nat) (s : State) : Out :=
  onUnit (seqOk q) (seqInstr q (fun x t =>
    if q ≥ 128 then .trap trapUnit 0
    else
      let r := proofForce q (x.gr ra).toNat (x.gr rb != 0) t
      .done (seqRet q rd (BitVec.ofNat 32 r.1) r.2)) s)

/-- PROOF.SET func 1: a new selection key (R114); status 5 in AON-only operation. -/
def execProofSetRekey (q rd : Nat) (s : State) : Out :=
  onUnit (seqOk q) (seqInstr q (fun _ t =>
    if q ≥ 128 then .trap trapUnit 1
    else if t.aonOnly then .done (seqRet q rd 5 t)
    else .done (seqRet q rd 0 (rekey q t))) s)

/-- PROOF.SET func 2: the CC writes a partition's rate exponent. -/
def execProofSetRate (q rd ra rb : Nat) (s : State) : Out :=
  onUnit (seqOk q) (seqInstr q (fun x t =>
    if q < 128 then .trap trapUnit 2
    else
      let p := (x.gr ra).toNat
      let v := (x.gr rb).toNat
      if v > 16 || !partOk p then .done (seqRet q rd 2 t)
      else .done (seqRet q rd 0 (settingWrite (.seq 128) 0 p v t))) s)

end Sys2Proof.Machine
end

