-- ==== Sys2Proof/Machine/Image.lean ====
section
/-!
DEFINITION. Program images: the image store, its commands, and the starts of sequencers (R261 to R268).
-/
namespace Sys2Proof.Machine

/-- Bank `b` (0 A, 1 B) of target `t` (0 CC, 1 FS). -/
def imgBankOf (s : State) (t b : Nat) : List Byte := tget [] s.imgBank (2 * t + b)
def setImgBank (t b : Nat) (l : List Byte) (s : State) : State := { s with imgBank := tput [] s.imgBank (2 * t + b) l }
/-- The boot pointer of a target (R266). -/
def bootFld (t : Nat) : Fld := if t = 0 then F.CC_IMG_STAT_cc_boot else F.CC_IMG_STAT_fs_boot
def bootOf (s : State) (t : Nat) : Nat := s.rd (bootFld t)
def otherBank (s : State) (t : Nat) : Nat := 1 - bootOf s t
/-- The longest image and code of a target (R266, R233). -/
def imgMax (t : Nat) : Nat := if t = 0 then 260 * 1024 else 68 * 1024
def codeMax (t : Nat) : Nat := if t = 0 then 0x40000 else 0x10000
/-- The version floor of a target (Table 10-18). -/
def imgFloor (s : State) (t : Nat) : Nat := if t = 0 then s.rd F.CC_IMG_FLOOR_cc else s.rd F.CC_IMG_FLOOR_fs

/-- A program image (Table 10-12). -/
structure Image where
  version : Nat
  entry : Nat
  code : List Byte

/-- What the checks of R265 find: the version when readable, the kid, and a reason or the image. -/
structure ImgRes where
  version : Nat
  kid : Nat := 0
  res : Except Nat Image

/-- Whether the lifecycle state allows an image (R265 check 8). -/
def imgLife (state kid life : Nat) : Bool := decide (state < 4) && bit life state && (kid == 0 || state != 0)

/-- Checks 5 to 8 on the image map (R264, R265). -/
def imageMap (t floor life kid : Nat) (y : List Byte) : ImgRes :=
  match (cborDecode y).bind Cbor.map? with
  | none => { version := 0, kid := kid, res := .error 7 }
  | some l =>
    let ver := ((cborKey l 2).bind Cbor.uint?).getD 0
    match (cborKey l 2).bind Cbor.uint?, (cborKey l 3).bind Cbor.arr? with
    | none, some [.uint major, .uint minor] =>
      { version := 0, kid := kid, res := .error (if major ≠ 4 ∨ minor > 2 then 5 else 7) }
    | some v, some [.uint major, .uint minor] =>
      let bad := fun r => { version := v % 2 ^ 32, kid := kid, res := .error r }
      if major ≠ 4 ∨ minor > 2 then bad 5
      else if v < floor then bad 6
      else
        match (cborKey l 1).bind Cbor.uint?, (cborKey l 4).bind Cbor.uint?, (cborKey l 5).bind Cbor.uint?,
            (cborKey l 6).bind Cbor.bstr? with
        | some target, some lf, some entry, some code =>
          if v = 0 ∨ v ≥ 2 ^ 32 ∨ target ≠ t ∨ entry % 4 ≠ 0 ∨ code.length ≤ entry ∨ code.length < 4
              ∨ codeMax t < code.length ∨ code.length % 4 ≠ 0 then bad 7
          else if !imgLife life kid lf then bad 8
          else { version := v, kid := kid, res := .ok ⟨v, entry, code⟩ }
        | _, _, _, _ => bad 7
    | _, _ => { version := ver % 2 ^ 32, kid := kid, res := .error 7 }

/-- Checks 2 to 8 of R265, in order; an empty bank is no COSE_Sign1. -/
def checkImage (t floor life : Nat) (l : List Byte) : ImgRes :=
  match coseParts (cborDecode l) with
  | none => { version := 0, res := .error 2 }
  | some (p, u, y, g) =>
    match coseAlg p with
    | (false, _) => { version := 0, res := .error 2 }
    | (true, kid) =>
      match kid, (cborNeg u 69999).bind Cbor.bstr? with
      | some k, some pk =>
        let a := Config.fuseAnchor k
        if k > 1 ∨ pk.length ≠ 97 ∨ a = 0 ∨ Config.sha384 pk ≠ a then { version := 0, res := .error 3 }
        else if !Config.ecdsaVerify a (sigStructure p y) g then { version := 0, kid := k, res := .error 4 }
        else imageMap t floor life k y
      | _, _ => { version := 0, res := .error 3 }

/-- The checks on a bank now (R267). -/
def checkBank (s : State) (t b : Nat) : ImgRes := checkImage t (imgFloor s t) s.lifecycle (imgBankOf s t b)

/-- IMAGE_REJECTED (Table 10-20). -/
def imgReject (t b v reason : Nat) (atStart : Bool) (s : State) : State :=
  raiseCc { code := Code.IMAGE_REJECTED, unit := s.ccUnit,
            params := reason + 2 ^ 4 * t + 2 ^ 5 * b2n atStart + 2 ^ 6 * b + 2 ^ 8 * v } s

/-- Versions of the valid banks (Table 10-18). -/
def imgVersion (s : State) (t b : Nat) : Nat :=
  match (checkImage t 0 s.lifecycle (imgBankOf s t b)).res with | .ok x => x.version | .error _ => 0
def imgVerSync (s : State) : State :=
  (((s.wr F.CC_IMG_VER0_cc_a 0 (imgVersion s 0 0)).wr F.CC_IMG_VER0_cc_b 0 (imgVersion s 0 1)).wr F.CC_IMG_VER1_fs_a 0
    (imgVersion s 1 0)).wr F.CC_IMG_VER1_fs_b 0 (imgVersion s 1 1)

/-! ### Starts (R262, R267) -/

/-- use_ref of a sequencer (Table 10-13). -/
def useRef (s : State) (q : Nat) : Bool := if q < 128 then s.rb F.FS_SEQ_CTL_use_ref q else s.rb F.CC_SEQ_CTL_use_ref

/-- Start sequencer `q` from bank `b` when the image passes, else with the reference program; the Bool tells whether the
image runs. DEDUCED (log entry 69). -/
def startFrom (q b : Nat) (s : State) : Bool × State :=
  let t := if q < 128 then 1 else 0
  if useRef s q || (imgBankOf s t b).isEmpty then (false, seqStart q 0 0 [] s)
  else
    let c := checkBank s t b
    match c.res with
    | .ok x => (true, seqStart q (b + 1) x.entry x.code s)
    | .error r => (false, imgReject t b c.version r true (seqStart q 0 0 [] s))

/-- A restart of both CC sequencers from bank `b`: the standby copies the active one (R263). -/
def startCc (b : Nat) (s : State) : Bool × State :=
  match startFrom ccSeq b s with
  | (ok, t) =>
    let y := t.seq ccSeq
    (ok, t.setSeq sbSeq { y with notes := (t.seq sbSeq).notes, rx := (t.seq sbSeq).rx })

/-- R262, Table 10-13: the owner restarts a sequencer from the boot bank. -/
def seqCtlWrite (w : Writer) (q v : Nat) (s : State) : State :=
  if !s.isOwner w then s
  else
    let t := if q < 128 then s.wr F.FS_SEQ_CTL_use_ref q (bits v 1 1) else s.wr F.CC_SEQ_CTL_use_ref 0 (bits v 1 1)
    if !bit v 0 then t
    else if q < 128 then (if t.fsWorks q then (startFrom q (bootOf t 1) t).2 else t)
    else (startCc (bootOf t 0) t).2
/-- R262: a write that sets restart and keeps use_ref. -/
def execSeqRestart (w : Writer) (q : Nat) (s : State) : Out :=
  regWrite w (if q < 128 then .FS_SEQ_CTL else .CC_SEQ_CTL) (if q < 128 then q else 0) s <|
  onUnit (seqOk q) (seqCtlWrite w q (1 + 2 * b2n (useRef s q)) s)

/-- IMAGE_APPLIED (Table 10-20). -/
def imgApplied (t f b : Nat) (s : State) : State :=
  raiseCc { code := Code.IMAGE_APPLIED, unit := s.ccUnit,
            params := imgVersion s t b + 2 ^ 32 * t + 2 ^ 33 * f + 2 ^ 40 * b } s

/-- What an FS firmware update aborts (Tables 6-18, 7-5, 8-9, 9-6, 12-4): granted and running strips and
every suspect replay, while due, grace, shadow and forcing states stay; a context replay; a bracketing session with its
maintenance window and tokens (R191); a pack switch skips the field, which loads the active bank as it starts.
DEDUCED (log entry 67). -/
def fwUpdate (f : Nat) (s : State) : State :=
  let replay := fun (x : Core) => x.suspect.isSome || x.witness.isSome || x.next.isSome
  let run := (fieldCores s f).filter (fun e => (e.2.kind == 0 && (e.2.st == 5 || e.2.st == 6)) || replay e.2)
  let s := forAll run (fun e t =>
    if e.2.kind == 0 && (e.2.st == 5 || e.2.st == 6 || e.2.st == 2) then abortOne e.1 t else dropOnlyReq e.1 t) s
  let s := tokReclaim f (brkEvent f 7 (crepEnd f 5 false s))
  match s.packSw with
  | some ⟨l, rv⟩ =>
    if l.contains f then
      let s := raiseCc { code := Code.PACK_FIELD_SKIPPED, unit := fsUnit f, params := s.rd F.CC_PACK_VER_active } s
      let s := loadTable f s.bankAct (s.rd F.CC_PACK_VER_active) s
      swAdvance (l.filter (· != f)) rv s
    else s
  | none => s

/-- Apply the staged FS image to one FS. -/
def applyFs (b f : Nat) (s : State) : State :=
  if !s.fsWorks f then s
  else match startFrom f b (fwUpdate f s) with
    | (true, t) => imgApplied 1 f b t
    | (false, t) => t

/-- An FS that retrains a channel of a resetting partition (Table 12-5). -/
def retrains (s : State) (f : Nat) : Bool :=
  (mtsOf f).any (fun m => !s.chanFree m && decide (1 ≤ s.phase (s.partOfChan m)) && decide (s.phase (s.partOfChan m) ≤ 3))

/-- Apply to one FS, or hold the apply until the release. -/
def applyOrHold (b f : Nat) (s : State) : State :=
  if s.fsWorks f && retrains s f then { s with imgHold := tins (tdel s.imgHold f) f b } else applyFs b f s

/-- Applies that waited run once their FS retrains no resetting channel. -/
def runHolds (s : State) : State :=
  forAll s.imgHold (fun e t =>
    if retrains t e.1 then t else applyFs e.2 e.1 { t with imgHold := tdel t.imgHold e.1 }) s

/-! ### Commands (R266, Table 10-16) -/

/-- op begin: discard what is staged and receive into the other bank; its write is counted.
DEDUCED (log entry 69). -/
def imgBegin (t len : Nat) (s : State) : State :=
  if s.scrapped then s
  else
    let b := otherBank s t
    let s := { setImgBank t b [] s with
      imgRecv := some (len, []), imgAt := b, imgPend := [],
      imgWear := tput 0 s.imgWear (2 * t + b) (tget 0 s.imgWear (2 * t + b) + 1) }
    imgVerSync (((s.wr F.CC_IMG_STAT_state 0 1).wr F.CC_IMG_STAT_target 0 t).wr F.CC_IMG_STAT_received 0 0)

def imgTarget (s : State) : Nat := s.rd F.CC_IMG_STAT_target

/-- The checks of op commit. -/
def imgVerify (s : State) : State :=
  match s.imgRecv with
  | none => s
  | some (len, l) =>
    let t := imgTarget s
    let b := s.imgAt
    let got := s.rd F.CC_IMG_STAT_received
    let s := { s with imgRecv := none }
    let rej := fun (v r : Nat) =>
      imgReject t b v r false ((s.wr F.CC_IMG_STAT_state 0 4).wr F.CC_IMG_STAT_reason 0 r)
    if got ≠ (len + 7) / 8 * 8 then rej 0 1
    else
      let c := checkImage t (imgFloor s t) s.lifecycle (l.take len)
      match c.res with
      | .error r => rej c.version r
      | .ok x =>
        if imgMax t < len ∨ 10000 < tget 0 s.imgWear (2 * t + b) then rej x.version 9
        else raiseCc { code := Code.IMAGE_STAGED, unit := s.ccUnit, params := x.version + 2 ^ 32 * t + 2 ^ 33 * c.kid }
          (imgVerSync ((setImgBank t b (l.take len) s).wr F.CC_IMG_STAT_state 0 3))

/-- An image of the target is staged and the lifecycle lets it be used. -/
def staged (s : State) (t : Nat) : Bool := s.rd F.CC_IMG_STAT_state == 3 && imgTarget s == t && !s.scrapped
/-- A refused apply or promote (R266). -/
def imgRefuse (s : State) : State := s.wr F.CC_IMG_STAT_reason 0 10

/-- op apply. -/
def imgApply (v : Nat) (s : State) : State :=
  let t := bits v 3 1
  if !staged s t then imgRefuse s
  else
    let b := s.imgAt
    if t = 1 then
      (if bit v 15 then forAll (List.range Config.nField) (fun f u => applyOrHold b f u) s
       else applyOrHold b (bits v 8 7) s)
    else match startCc b s with
      | (true, u) => imgApplied 0 0 b u
      | (false, u) => u

/-- op promote: the boot pointer is stored, and staging ends. -/
def imgPromote (v : Nat) (s : State) : State :=
  let t := bits v 3 1
  if !staged s t then imgRefuse s
  else (wrPersist (bootFld t) 0 s.imgAt s).wr F.CC_IMG_STAT_state 0 0

/-- op abort: staging ends; a bank half received is empty. DEDUCED (log entry 69). -/
def imgAbort (s : State) : State :=
  { s with imgRecv := none, imgPend := [] }.wr F.CC_IMG_STAT_state 0 0

/-- op revert: the boot pointer moves to the other bank when it passes R265; an image stays staged until promote or abort.
DEDUCED (log entry 69). -/
def imgRevert (t : Nat) (s : State) : State :=
  let b := otherBank s t
  let c := checkBank s t b
  match c.res with
  | .error r => imgReject t b c.version r false (s.wr F.CC_IMG_STAT_reason 0 r)
  | .ok _ => wrPersist (bootFld t) 0 b s

/-- A command that waits for TAPCLK, once it returns (Table 9-6). -/
def imgRun (v : Nat) (s : State) : State :=
  match bits v 0 3 with
  | 2 => imgVerify s
  | 4 => imgApply v s
  | 5 => imgPromote v s
  | _ => s
def imgResume (s : State) : State := epochSync (forAll s.imgPend imgRun { s with imgPend := [] })

/-- Commit, apply and promote wait in AON-only operation. -/
def imgOrWait (v : Nat) (s : State) : State := if s.aonOnly then { s with imgPend := s.imgPend ++ [v] } else imgRun v s

/-- A write of CC_IMG_CMD. -/
def imgCmdWrite (w : Writer) (v : Nat) (s : State) : State :=
  if !s.isOwner w then s
  else epochSync <| match bits v 0 3 with
    | 1 => imgBegin (bits v 3 1) (bits v 32 32) s
    | 2 => if s.rd F.CC_IMG_STAT_state = 1 then imgOrWait v (s.wr F.CC_IMG_STAT_state 0 2) else s
    | 3 => imgAbort s
    | 4 => imgOrWait v s
    | 5 => imgOrWait v s
    | 6 => imgRevert (bits v 3 1) s
    | _ => s

/-- A write of CC_IMG_DATA: bytes beyond the longest image are counted and not kept. -/
def imgDataWrite (w : Writer) (v : Nat) (s : State) : State :=
  match s.imgRecv with
  | some (len, l) =>
    if s.isOwner w && s.rd F.CC_IMG_STAT_state == 1 then
      { s with imgRecv := some (len, if l.length < imgMax 0 then l ++ leBytes 8 v else l) }.bump F.CC_IMG_STAT_received 0 8
    else s
  | none => s

/-- A write of CC_IMG_FLOOR: each field that would be lowered keeps its value outside MANUFACTURE and RMA. -/
def imgFloorWrite (w : Writer) (v : Nat) (s : State) : State :=
  if !s.isOwner w then s
  else
    let put := fun (f : Fld) (x : Nat) (t : State) =>
      if decide (t.rd f ≤ x) || t.factory then wrPersist f 0 x t else t
    imgVerSync (put F.CC_IMG_FLOOR_fs (bits v 32 32) (put F.CC_IMG_FLOOR_cc (bits v 0 32) s))

def execImgBegin (w : Writer) (fs : Bool) (len : Nat) (s : State) : Out :=
  regWrite w .CC_IMG_CMD 0 s <|
  .next (imgCmdWrite w (1 + 2 ^ 3 * b2n fs + 2 ^ 32 * len) s)
def execImgData (w : Writer) (v : Nat) (s : State) : Out := regWrite w .CC_IMG_DATA 0 s <|
  .next (imgDataWrite w v s)
def execImgCommit (w : Writer) (s : State) : Out := regWrite w .CC_IMG_CMD 0 s <|
  .next (imgCmdWrite w 2 s)
def execImgAbort (w : Writer) (s : State) : Out := regWrite w .CC_IMG_CMD 0 s <|
  .next (imgCmdWrite w 3 s)
/-- Apply to one FS, to all FSs, or to the CC. -/
def execImgApply (w : Writer) (fs : Bool) (field : Nat) (all : Bool) (s : State) : Out :=
  regWrite w .CC_IMG_CMD 0 s <|
  .next (imgCmdWrite w (4 + 2 ^ 3 * b2n fs + 2 ^ 8 * (field % 2 ^ 7) + 2 ^ 15 * b2n all) s)
def execImgPromote (w : Writer) (fs : Bool) (s : State) : Out := regWrite w .CC_IMG_CMD 0 s <|
  .next (imgCmdWrite w (5 + 2 ^ 3 * b2n fs) s)
def execImgRevert (w : Writer) (fs : Bool) (s : State) : Out := regWrite w .CC_IMG_CMD 0 s <|
  .next (imgCmdWrite w (6 + 2 ^ 3 * b2n fs) s)
def execImgFloorWrite (w : Writer) (v : Nat) (s : State) : Out := regWrite w .CC_IMG_FLOOR 0 s <|
  .next (imgFloorWrite w v s)

end Sys2Proof.Machine
end

