-- ==== Sys2Proof/Machine/Seal.lean ====
section
/-!
DEFINITION. Sealing, lifecycle, key load, deseal and debug, and scrub (chapter 15).
-/
namespace Sys2Proof.Machine

def State.sealed (s : State) (p : Nat) : Bool := s.rb F.CC_PART_SEAL_sealed p
/-- The key of a partition, when its slot holds one (R362). -/
def keyOf (s : State) (p : Nat) : Option Nat := match tget 0 s.keySlots p with | 0 => none | k + 1 => some k

/-! ### Deseal (R380, R381) -/

/-- Zeroise the proof-path blocks of a partition (R364): mirrored blocks are dropped and the entries of sealed tiles end
unchecked. DEDUCED (log entry 71). -/
def zeroProofPath (p : Nat) (s : State) : State :=
  let gone := fun (r : TRef) => s.partOf (engField r.eng) == p
  let s := { s with
    mirBuf := (s.mirBuf.map (fun (e : Nat × List MBlk) => (e.1, e.2.filter (fun b => !gone b.ref)))).filter (fun e => !e.2.isEmpty)
    early := (s.early.map (fun (e : Nat × List MBlk) => (e.1, e.2.filter (fun b => !gone b.ref)))).filter (fun e => !e.2.isEmpty) }
  forAll (s.fieldsOf p) (fun f t =>
    let l := t.entries f
    if l.any (·.sealed) then
      let u := forAll (l.filter (·.sealed)) (fun x u => sendVerdict f x.rsv.ref 2 false u) t
      arrJobEnd f (u.setEntries f (l.filter (fun x => !x.sealed)))
    else t) s

/-- Step 1 of R380 and the request of step 2. -/
def desealRun (p : Nat) (x : Deseal) (s : State) : State :=
  let s := { s with keySlots := tdel s.keySlots p }.wr F.CC_PART_SEAL_sealed p 0
  let s := forAll (s.chansOf p) (fun m t => t.wr F.MT_SEAL_STAT_key m 0) s
  let s := zeroProofPath p (zeroSealed p (taint p s))
  let y : Deseal := { x with asked := true, due := s.wt + max 1 (s.rd F.CC_SEAL_CFG_clear_ms) * ms }
  { s with deseals := tins (tdel s.deseals p) p y }

/-- Deseal a sealed partition; without TAPCLK it waits (Table 20-2). A deseal already in progress serves every
operation that waits for it. DEDUCED (log entry 71). -/
def deseal (p cause : Nat) (debug : Option Nat) (s : State) : State :=
  match tfind s.deseals p with
  | some x => { s with deseals := tins (tdel s.deseals p) p { x with debug := Option.or debug x.debug } }
  | none =>
    let x : Deseal := { cause := cause, debug := debug }
    let s := s.wr F.CC_PART_SEAL_desealing p 1
    if s.aonOnly then { s with deseals := tins s.deseals p x } else desealRun p x s

/-- TAPCLK returns: deseals that waited run. -/
def desealResume (s : State) : State :=
  forAll (s.deseals.filter (fun e => !e.2.asked)) (fun e t => desealRun e.1 e.2 t) s

/-- Debug takes effect (R380): the partition is tainted and DEBUG_CHANGED recorded. -/
def debugOn (p master : Nat) (s : State) : State :=
  raiseCc { code := Code.DEBUG_CHANGED, unit := s.ccUnit, params := p + 2 ^ 6 + 2 ^ 7 * master }
    (taint p (s.wr F.CC_PART_SEAL_debug p 1))

/-- A write of CC_PART_SEAL.debug (R380, R381). -/
def partSealWrite (w : Writer) (p v : Nat) (s : State) : State :=
  if !s.isOwner w then s
  else epochSync (
    let m := masterNum w
    if bit v 1 then
      if s.rb F.CC_PART_SEAL_debug p || s.scrapped then s
      else if s.sealed p || (tfind s.deseals p).isSome then deseal p 0 (some m) s
      else debugOn p m s
    else
      let s := match tfind s.deseals p with
        | some x => { s with deseals := tins (tdel s.deseals p) p { x with debug := none } }
        | none => s
      if s.rb F.CC_PART_SEAL_debug p then
        raiseCc { code := Code.DEBUG_CHANGED, unit := s.ccUnit, params := p + 2 ^ 7 * m } (s.wr F.CC_PART_SEAL_debug p 0)
      else s)
def execDebugEnable (w : Writer) (p : Nat) (s : State) : Out := regWrite w .CC_PART_SEAL p s <|
  onUnit (partOk p) (partSealWrite w p 2 s)
def execDebugDisable (w : Writer) (p : Nat) (s : State) : Out := regWrite w .CC_PART_SEAL p s <|
  onUnit (partOk p) (partSealWrite w p 0 s)

/-! ### Lifecycle (R365, R366) -/

/-- The fuse is blown and the state takes effect: every partition is tainted. -/
def lifecycleSet (new master : Nat) (s : State) : State :=
  let was := s.lifecycle
  let s := forAll (List.range Config.nPart) taint ({ s with lifeNext := none }.wr F.CC_LIFECYCLE_state 0 new)
  imgVerSync (raiseCc { code := Code.LIFECYCLE_CHANGED, unit := s.ccUnit, params := was + 2 ^ 3 * new + 2 ^ 6 * master } s)

/-- KEY_REFUSED (Table 15-15). -/
def keyRefuse (p reason : Nat) (s : State) : State :=
  raiseCc { code := Code.KEY_REFUSED, unit := s.ccUnit, params := p + 2 ^ 6 * reason + 2 ^ 10 * entryByte0 s p }
    ((({ s with keyRecv := none }.wr F.CC_KEY_STAT_state 0 0).wr F.CC_KEY_STAT_reason 0 reason).wr F.CC_KEY_STAT_refused 0 1)

/-- Every sealed partition is desealed and a key load ends, before RMA or SCRAPPED (R366, Table 15-7). -/
def lifecycleClear (s : State) : State :=
  let t := forAll ((List.range Config.nPart).filter s.sealed) (fun p t => deseal p 3 none t) s
  match t.keyRecv with
  | some (p, _) => keyRefuse p 5 t
  | none => t

/-- A write of CC_LIFECYCLE (R365): one step forward, or to SCRAPPED, with the confirmation; a transition to RMA or SCRAPPED
first deseals every sealed partition and ends a key load (Table 15-7). -/
def lifecycleWrite (w : Writer) (v : Nat) (s : State) : State :=
  let new := bits v 8 3
  let was := s.lifecycle
  if !s.isOwner w || bits v 16 8 != 0xA5 || s.lifeNext.isSome || !(new == was + 1 || new == 4) || was == 4 || 4 < new then s
  else epochSync (
    if new = 3 ∨ new = 4 then
      let s := lifecycleClear s
      if s.deseals.isEmpty then lifecycleSet new (masterNum w) s
      else { s with lifeNext := some (new, masterNum w) }
    else lifecycleSet new (masterNum w) s)
def execLifecycleTransition (w : Writer) (v : Nat) (s : State) : Out := regWrite w .CC_LIFECYCLE 0 s <|
  .next (lifecycleWrite w v s)

/-- A write of CC_TRUST_GROUP (R369). -/
def trustWrite (w : Writer) (v : Nat) (s : State) : State :=
  if s.isOwner w && !(List.range Config.nPart).any s.sealed then
    epochSync (wrPersist F.CC_TRUST_GROUP_group 0 (bits v 0 16) s)
  else s
def execTrustGroupWrite (w : Writer) (v : Nat) (s : State) : Out := regWrite w .CC_TRUST_GROUP 0 s <|
  .next (trustWrite w v s)

/-- R369: at link training and every second both ends of a port send their group. -/
def trustFrom (l peer : Nat) (s : State) : State :=
  (s.wr F.LT_TRUST_peer l peer).wr F.LT_TRUST_known l 1
def execTrustGroupSend (l peer : Nat) (s : State) : Out :=
  onUnit (ltOk l) (if tget false s.ltUp l then ltControl l 3 (s.rd F.CC_TRUST_GROUP_group) 0 (trustFrom l peer s) else s)

/-! ### Scrub (R382 to R384) -/

def setScrubPhase (p v : Nat) (s : State) : State := s.wr F.CC_SCRUB_STAT_phase p v

/-- The isolating phase of a scrub: that of a partition reset (Table 15-6). -/
def scrubIsolate (p : Nat) (s : State) : State := isolateStart p .scrub (setScrubPhase p 1 s)

/-- The partition of a scrub that has ended goes to the releasing phase. -/
def scrubRelease (p : Nat) (s : State) : State :=
  match s.preset? p with
  | some x => if x.kind = PKind.scrub then s.setPreset p { x with releasing := true } else s
  | none => s

/-- The region entries of a partition's channels are cleared (R375). -/
def clearRegions (p : Nat) (s : State) : State :=
  forAll (s.chansOf p) (fun m t =>
    forAll (List.range 8) (fun i u =>
      (({ u with noKey := tdel u.noKey (8 * m + i) }).setReg .MT_SEAL_RGN_A (8 * m + i) 0).setReg .MT_SEAL_RGN_B (8 * m + i) 0) t) s

/-- A scrub ends incomplete (R384): one that had begun to isolate ends as in the releasing phase. DEDUCED (log entry 72). -/
def scrubFail (p cause chan : Nat) (s : State) : State :=
  let ph := s.rd F.CC_SCRUB_STAT_phase p
  let s := if 1 ≤ ph then clearRegions p s else s
  let s := (wrPersist F.CC_SCRUB_STAT_state p 3 { s with scrubs := tdel s.scrubs p }).wr F.CC_SCRUB_STAT_cause p cause
  scrubRelease p (raiseCc { code := Code.SCRUB_INCOMPLETE, unit := s.ccUnit,
                            params := p + 2 ^ 6 * cause + 2 ^ 10 * ph + 2 ^ 13 * chan } s)

/-- AON-only operation ends every scrub (cause 4). -/
def scrubAon (s : State) : State := forAll s.scrubs (fun e t => scrubFail e.1 4 0 t) s
/-- An MT is orphaned: the scrubs of its partition end (cause 5). -/
def scrubOrphan (m : Nat) (s : State) : State :=
  if !s.chanFree m && scrubbing s (s.partOfChan m) then scrubFail (s.partOfChan m) 5 m s else s

/-- Begin, or begin again after a partition reset (R382). DEDUCED (log entry 72). -/
def scrubBegin (p : Nat) (s : State) : State :=
  let s := setScrubPhase p 0 { s with scrubs := tins (tdel s.scrubs p) p {} }
  if s.sealed p || (tfind s.deseals p).isSome then deseal p 2 none s else scrubIsolate p s

/-- R382: op start. A partition that a step holds, that is out of service or absent, or that is being scrubbed is left
alone. -/
def scrubStart (p : Nat) (s : State) : State :=
  if s.scrapped || scrubbing s p || !(s.phase p == 0 || s.phase p == 4) then s
  else
    let s := (wrPersist F.CC_SCRUB_STAT_state p 1 { s with scrubs := tins s.scrubs p {} }).wr F.CC_SCRUB_STAT_cause p 0
    let s := setScrubPhase p 0 s
    if s.aonOnly then scrubFail p 4 0 s
    else match (s.chansOf p).find? (mtOrphan s) with
      | some m => scrubFail p 5 m s
      | none =>
        let s := if s.rb F.CC_TRACE_CFG_enable p then traceDisable p 1 s else s
        let s := ({ s with traceW := tdel s.traceW p }.wr F.CC_TRACE_HEAD_head p 0).wr F.CC_TRACE_TAIL_tail p 0
        scrubBegin p (ckptStop p 8 s)

/-- A write of CC_SCRUB_CMD. -/
def scrubCmdWrite (w : Writer) (v : Nat) (s : State) : State :=
  let p := bits v 2 6
  if !s.isOwner w || !partOk p then s
  else match bits v 0 2 with
    | 1 => epochSync (scrubStart p s)
    | 2 => if scrubbing s p then epochSync (scrubFail p 1 0 s) else s
    | _ => s
def execScrubStart (w : Writer) (p : Nat) (s : State) : Out := regWrite w .CC_SCRUB_CMD 0 s <|
  onUnit (partOk p) (scrubCmdWrite w (1 + 4 * (p % 2 ^ 6)) s)
def execScrubAbort (w : Writer) (p : Nat) (s : State) : Out := regWrite w .CC_SCRUB_CMD 0 s <|
  onUnit (partOk p) (scrubCmdWrite w (2 + 4 * (p % 2 ^ 6)) s)

/-- The compute reset of a scrub is acknowledged: the random pass begins under a fresh key, over every sleeve region too. -/
def scrubAcked (p : Nat) (s : State) : State :=
  match tfind s.scrubs p with
  | none => s
  | some x =>
    let (k, s) := s.drawKey
    let cs := s.chansOf p
    setScrubPhase p 2 { s with
      scrubs := tins (tdel s.scrubs p) p { x with key := k }
      slv := s.slv.filter (fun e => !cs.contains (e.1 / 2 ^ 29))
      slvBad := s.slvBad.filter (fun e => !cs.contains (e.1 / 2 ^ 29))
      slvRand := forAllT cs (k + 1) s.slvRand }
where
  forAllT : List Nat → Nat → Tbl Nat → Tbl Nat
    | [], _, t => t
    | m :: l, v, t => forAllT l v (tput 0 t m v)

/-- R382: a pass or a check ends; a check may find a mismatch in a channel. A stop pauses the passes (R348), and they wait for
pool buffers for their pattern blocks (R27, R29). -/
def scrubPhase (p : Nat) (bad : Option Nat) (s : State) : State :=
  match tfind s.scrubs p, s.preset? p with
  | some _, some x =>
    let ph := s.rd F.CC_SCRUB_STAT_phase p
    if x.kind ≠ PKind.scrub ∨ s.aonOnly = true ∨ drainStalls s = true ∨ ph < 2 ∨ 5 < ph ∨ stageFree s (s.chansOf p) = false then s
    else match ph, bad with
      | 3, some m => scrubFail p 3 m s
      | 5, some m => scrubFail p 3 m s
      | 4, _ =>
        let cs := s.chansOf p
        setScrubPhase p 5 { s with slvRand := s.slvRand.filter (fun e => !cs.contains e.1) }
      | 5, none => scrubRelease p (setScrubPhase p 6 (clearRegions p s))
      | n, _ => setScrubPhase p (n + 1) s
  | _, _ => s
def execScrubPhaseDone (p : Nat) (bad : Option Nat) (s : State) : Out := onUnit (partOk p) (scrubPhase p bad s)

/-- R384: no acknowledgement of the compute reset within 3 s, a limit that pauses while clusters are gated. -/
def execScrubAckTimeout (p : Nat) (s : State) : Out :=
  onUnit (partOk p) (
    match tfind s.scrubs p, s.preset? p with
    | some _, some x =>
      if x.kind = PKind.scrub ∧ s.rd F.CC_SCRUB_STAT_phase p = 1 ∧ x.paused = none then
        epochSync (scrubFail p 2 0 (s.toWt (x.base + 3 * sec)))
      else s
    | _, _ => s)

/-- The release of a scrub's partition: a complete scrub clears the taint unless debug is on, and is counted; one that a
reset stopped begins again. A withheld partition stays withheld. -/
def scrubReleased (p : Nat) (s : State) : State :=
  let s := if (s.fieldsOf p).any (fun f => s.released f) || !partPresent s p then s else s.setPhase p 4
  match tfind s.scrubs p with
  | none => s
  | some x =>
    if x.stopped then scrubBegin p s
    else
      let kept := s.rb F.CC_PART_SEAL_debug p
      let n := (s.rd F.CC_SCRUB_STAT_count p + 1) % 2 ^ 32
      let s := wrPersist F.CC_SCRUB_STAT_count p n { s with scrubs := tdel s.scrubs p, scrubWt := tput 0 s.scrubWt p s.wt }
      let s := wrPersist F.CC_SCRUB_STAT_state p 2 s
      let s := if kept then s else wrPersist F.CC_PART_SEAL_tainted p 0 s
      raiseCc { code := Code.SCRUB_DONE, unit := s.ccUnit, params := p + 2 ^ 6 * n + 2 ^ 38 * b2n kept } s

/-! ### The SRAM clear (R381) -/

/-- Whether a contact sheet's scope takes in a partition (R353). -/
def inSheet (x : Sheet) (p : Nat) : Bool := x.all || x.part == p
/-- A sheet that waited for deseals starts reading (R353). -/
def sheetCheck (s : State) : State :=
  match s.sheet with
  | some x =>
    if s.rd F.CC_SHEET_STAT_state = 1 ∧ (s.deseals.any (fun e => inSheet x e.1)) = false then s.wr F.CC_SHEET_STAT_state 0 2
    else s
  | none => s

/-- R381: the host acknowledges; DESEAL is recorded, and everything that waited for it proceeds. -/
def sramAck (p : Nat) (s : State) : State :=
  match tfind s.deseals p with
  | none => s
  | some x =>
    if !x.asked then s
    else epochSync (
      let s := { s with deseals := tdel s.deseals p }.wr F.CC_PART_SEAL_desealing p 0
      let s := raiseCc { code := Code.DESEAL, unit := s.ccUnit, params := p + 2 ^ 6 * x.cause } s
      let s := match x.debug with | some m => debugOn p m s | none => s
      let s := match tfind s.scrubs p with
        | some y => if s.rd F.CC_SCRUB_STAT_phase p == 0 && !y.stopped && (s.preset? p).isNone then scrubIsolate p s else s
        | none => s
      let s := sheetCheck s
      match s.lifeNext with
      | some (new, m) => if s.deseals.isEmpty then lifecycleSet new m s else s
      | none => s)
def execSramClearAck (p : Nat) (s : State) : Out := onUnit (partOk p) (sramAck p s)

/-- R381: no acknowledgement within clear_ms, recorded once. -/
def execSramClearTimeout (p : Nat) (s : State) : Out :=
  onUnit (partOk p) (
    match tfind s.deseals p with
    | some x =>
      if x.asked && !x.late then
        let s := s.toWt x.due
        raiseCc { code := Code.SRAM_CLEAR_TIMEOUT, unit := s.ccUnit, params := p }
          { s with deseals := tins (tdel s.deseals p) p { x with late := true } }
      else s
    | none => s)

/-! ### Regions and keys (R375 to R377) -/

/-- Whether a declared region stands in the way of another (R375): it leaves the channel, or overlaps the sleeve region or
another valid entry. DEDUCED (log entry 71). -/
def regionBad (s : State) (m i : Nat) : Bool :=
  let spans := fun (j : Nat) => [(rgnBase s m j, rgnLen s m j), (rgnTag s m j, rgnTags s m j)]
  (spans i).any (fun a =>
    decide (chanBlocks s m < a.1 + a.2) || hitsSlvRgn s m a.1 a.2
      || (List.range 8).any (fun j => j != i && rgnValid s m j && (spans j).any (fun b => meets a.1 a.2 b.1 b.2)))

/-- A write of one word of a region entry: locked while the partition holds a key; refused when the entry it makes is
valid and bad. -/
def sealRegionWrite (w : Writer) (m i : Nat) (wordB : Bool) (v : Nat) (s : State) : State :=
  let n := 8 * m + i
  let p := s.partOfChan m
  if !(s.isOwner w || (!s.chanFree m && s.ownerOrTenant w p)) || s.rb F.MT_SEAL_STAT_key m || (!s.chanFree m && s.sealed p) then s
  else
    let t := if wordB then (s.wr F.MT_SEAL_RGN_B_length n (bits v 0 29)).wr F.MT_SEAL_RGN_B_tag_base n (bits v 32 29)
      else ((s.wr F.MT_SEAL_RGN_A_base n (bits v 0 29)).wr F.MT_SEAL_RGN_A_valid n (bits v 29 1)).wr
        F.MT_SEAL_RGN_A_region_id n (bits v 32 32)
    if rgnValid t m i && regionBad t m i then s else { t with noKey := tdel t.noKey n }
def execSealRegionWrite (w : Writer) (m i : Nat) (wordB : Bool) (v : Nat) (s : State) : Out :=
  regWrite w (if wordB then .MT_SEAL_RGN_B else .MT_SEAL_RGN_A) (8 * m + i) s <|
  onUnit (mtOk m && decide (i < 8)) (sealRegionWrite w m i wordB v s)

/-- The kept record of a nonce (R373). -/
def nonceOf (s : State) (n : Nat) : Option Nonce := s.nonces.find? (fun x => x.nonce == n)

/-- Why a blob is refused (Table 15-5), in order; else its weight key. DEDUCED (log entry 70). -/
def keyCheck (p : Nat) (l : List Byte) (s : State) : Except Nat Nat :=
  let now := s.rd F.CC_PART_SEAL_epoch p
  if l.length ≠ 192 ∨ leNat (l.take 4) ≠ 0x574B5931 ∨ leNat (slice l 4 1) ≠ 1 ∨ leNat (slice l 5 1) ≠ p then .error 1
  else match nonceOf s (leNat (slice l 8 32)) with
    | none => .error 2
    | some x =>
      if x.wt + max 1 (s.rd F.CC_SEAL_CFG_nonce_s) * sec < s.wt then .error 2
      else if x.epochs.getD p 0 ≠ now then .error 3
      else if !eligible15 s p then .error 4
      else if s.lifecycle ≠ 1 ∧ s.lifecycle ≠ 2 then .error 5
      else match Config.unwrapKey p l with
        | none => .error 6
        | some k => if s.aonOnly then .error 7 else .ok k

/-- Load a key (R377 steps 5 to 7). DEDUCED (log entry 70). -/
def keyLoad (p : Nat) (s : State) : State :=
  match s.keyRecv with
  | none => s
  | some (q, l) =>
    let s := epochSync s
    match (if p = q then keyCheck p l s else .error 1) with
    | .error r => keyRefuse p r s
    | .ok k =>
      let again := s.sealed p
      let ep := s.rd F.CC_PART_SEAL_epoch p
      let s := { s with keyRecv := none, keySlots := tput 0 s.keySlots p (k % 2 ^ 256 + 1),
                        linkBlk := s.linkBlk.filter (fun e => e.1 % 64 != p) }
      let s := (s.wr F.CC_KEY_STAT_state 0 0).wr F.CC_PART_SEAL_sealed p 1
      let s := forAll (s.chansOf p) (fun m t => t.wr F.MT_SEAL_STAT_key m 1) s
      let s := raiseCc { code := Code.KEY_LOADED, unit := s.ccUnit, params := p + 2 ^ 6 * b2n again + 2 ^ 7 * ep } s
      epochSync (injCancelPart p s)

/-- A write of CC_KEY_CMD: the owner, or the tenant of the partition it names. -/
def keyCmdWrite (w : Writer) (v : Nat) (s : State) : State :=
  let p := bits v 2 6
  if !s.ownerOrTenant w p || !partOk p then s
  else match bits v 0 2 with
    | 1 => ({ s with keyRecv := some (p, []) }.wr F.CC_KEY_STAT_state 0 1).wr F.CC_KEY_STAT_received 0 0
    | 2 => keyLoad p s
    | 3 => { s with keyRecv := none }.wr F.CC_KEY_STAT_state 0 0
    | _ => s
/-- A write of CC_KEY_DATA: bytes past the blob make its length wrong. -/
def keyDataWrite (w : Writer) (v : Nat) (s : State) : State :=
  match s.keyRecv with
  | some (p, l) =>
    if s.ownerOrTenant w p then
      { s with keyRecv := some (p, if l.length ≤ 192 then l ++ leBytes 8 v else l) }.bump F.CC_KEY_STAT_received 0 8
    else s
  | none => s
def execKeyBegin (w : Writer) (p : Nat) (s : State) : Out := regWrite w .CC_KEY_CMD 0 s <|
  onUnit (partOk p) (keyCmdWrite w (1 + 4 * (p % 2 ^ 6)) s)
def execKeyData (w : Writer) (v : Nat) (s : State) : Out := regWrite w .CC_KEY_DATA 0 s <|
  .next (keyDataWrite w v s)
def execKeyLoad (w : Writer) (p : Nat) (s : State) : Out := regWrite w .CC_KEY_CMD 0 s <|
  onUnit (partOk p) (keyCmdWrite w (2 + 4 * (p % 2 ^ 6)) s)
def execKeyAbort (w : Writer) (p : Nat) (s : State) : Out := regWrite w .CC_KEY_CMD 0 s <|
  onUnit (partOk p) (keyCmdWrite w (3 + 4 * (p % 2 ^ 6)) s)

end Sys2Proof.Machine
end

