-- ==== Sys2Proof/Machine/Spdm.lean ====
section
/-!
DEFINITION. Attestation: the SPDM responder of the active CC and its measurements (R370, R371, R373). The layout of the
messages is that of DSP0274, which the spec names and does not repeat (log entry 40). PRESUMED.
-/
namespace Sys2Proof.Machine

/-! ### Measurements (Table 15-2) -/

/-- SHA-384 of a program: the encoded image of a bank, or a ROM. -/
def progDigest (s : State) (t running : Nat) : Nat :=
  if running = 0 then Config.fixedMeasurement (4 + t) else Config.sha384 (imgBankOf s t (running - 1))
/-- 16-byte mask of the fields whose sequencer runs a program. -/
def runMask (s : State) (r : Nat) : Nat :=
  ((List.range Config.nField).filter (fun f => s.fsWorks f && (s.seq f).running == r && (s.seq f).mode != .off)).foldl
    (fun a f => a + 2 ^ f) 0
/-- One bank of index 2: zero when empty. -/
def bankDigest (s : State) (r : Nat) : List Byte :=
  (if r ≠ 0 ∧ (imgBankOf s 1 (r - 1)).isEmpty = true then List.replicate 48 0 else beBytes 48 (progDigest s 1 r))
    ++ leBytes 16 (runMask s r)

/-- Index 6: an entry of Table 15-3. -/
def partEntry (s : State) (p : Nat) : List Byte := leBytes 4 (entryHead s p) ++ leBytes 4 (s.rd F.CC_PART_SEAL_epoch p)
/-- Index 8: a scrub entry. -/
def scrubEntry (s : State) (p : Nat) : List Byte :=
  leBytes 4 (s.rd F.CC_SCRUB_STAT_state p) ++ leBytes 4 (s.rd F.CC_SCRUB_STAT_count p) ++ leBytes 8 (tget 0 s.scrubWt p)

/-- Flags and digests of index 9. -/
def stagedValue (s : State) : List Byte :=
  let img := s.rd F.CC_IMG_STAT_state == 3
  let t := imgTarget s
  let pk := s.rd F.CC_PACK_STAT_state == 3
  let sw := s.packSw.isSome
  leBytes 4 (b2n (img && t == 0) + 2 * b2n (img && t == 1) + 4 * b2n pk + 8 * b2n sw)
    ++ (if img then beBytes 48 (Config.sha384 (imgBankOf s t s.imgAt)) else List.replicate 48 0)
    ++ (if pk then beBytes 48 (Config.sha384 (s.bank (idleBank s))) else List.replicate 48 0)

/-- Type and value of a measurement index. DESIGN CHOICE (log entry 73). -/
def measValue (s : State) (i : Nat) : Nat × List Byte :=
  match i with
  | 1 => (1, beBytes 48 (progDigest s 0 (s.seq ccSeq).running))
  | 2 => (1, ((List.range 3).map (bankDigest s)).flatten)
  | 3 => (3, ((List.range 6).map (fun j => leBytes 8 (s.rd F.CC_PACK_DIG_dig j))).flatten
            ++ leBytes 4 (s.rd F.CC_PACK_VER_active))
  | 4 => (2, beBytes 48 (Config.fixedMeasurement (16 + s.lifecycle)))
  | 5 =>
    let unmon := ((List.range Config.nField).filter (fun f => s.released f && !s.fsWorks f)).foldl (fun a f => a + 2 ^ f) 0
    (4, leBytes 4 (s.lifecycle + 2 ^ 8 * s.rd F.CC_SERVICE_level + 2 ^ 16 * s.rd F.CC_FIX_POLICY_unmon_release)
      ++ leBytes 2 (s.rd F.CC_TRUST_GROUP_group) ++ leBytes 2 (s.rd F.CC_BUILD1_wafer_id)
      ++ leBytes 8 (s.regVal .BLOCK_ID 0) ++ leBytes 16 unmon ++ leBytes 4 0)
  | 6 => (4, ((List.range 64).map (partEntry s)).flatten)
  | 7 => (2, ((List.range 16).map (fun j => leBytes 8 (s.regVal .CC_PART_FIELD j))).flatten
            ++ ((List.range 128).map (fun j => leBytes 8 (s.regVal .CC_PART_CHAN j))).flatten)
  | 8 => (4, ((List.range 64).map (scrubEntry s)).flatten ++ [0])
  | _ => (4, stagedValue s)

/-- A measurement block: index, DMTF specification, size, and the DMTF value type as a raw bit stream.
PRESUMED (log entry 40). -/
def measBlock (s : State) (i : Nat) : List Byte :=
  let (t, v) := measValue s i
  leBytes 1 i ++ leBytes 1 1 ++ leBytes 2 (v.length + 3) ++ leBytes 1 (t + 2 ^ 7) ++ leBytes 2 v.length ++ v

/-! ### The responder (R370) -/

/-- PRESUMED (log entry 40). -/
def spdmSay (l : List Byte) (s : State) : State := { s with spdmOut := l }
/-- An ERROR response. PRESUMED (log entry 40). -/
def spdmErr (ver code data : Nat) (s : State) : State :=
  spdmSay (leBytes 1 ver ++ [0x7F] ++ leBytes 1 code ++ leBytes 1 data) s

/-- A request that needs the connection at stage `need`: after a CC swap only GET_VERSION is taken (R373); out of order it is
unexpected; under another version it does not match. PRESUMED (log entry 40). -/
def spdmReq (ver need : Nat) (f : State → State) (s : State) : State :=
  if s.spdm = 4 then spdmErr ver 0x43 0 s
  else if s.spdm < need then spdmErr ver 0x04 0 s
  else if ver ≠ s.spdmVer then spdmErr s.spdmVer 0x41 0 s
  else f s

/-- VERSION: 1.2 and 1.3. PRESUMED (log entry 40). -/
def execGetVersion (s : State) : Out :=
  .next (spdmSay [0x10, 0x04, 0, 0, 0, 2, 0x00, 0x12, 0x00, 0x13] { s with spdm := 1, spdmVer := 0 })

/-- CAPABILITIES: the flags of R370, 4096 bytes; CTExponent and the largest message are free values. -/
def execGetCapabilities (ver : Nat) (s : State) : Out :=
  .next (
    if s.spdm = 4 then spdmErr ver 0x43 0 s
    else if s.spdm = 0 then spdmErr ver 0x04 0 s
    else if ver ≠ 0x12 ∧ ver ≠ 0x13 then spdmErr 0x10 0x41 0 s
    else
      let (ct, s) := s.drawFree 8
      let (mx, s) := s.drawFree 32
      spdmSay (leBytes 1 ver ++ [0x61, 0, 0, 0] ++ leBytes 1 ct ++ leBytes 2 0 ++ leBytes 4 0x20016 ++ leBytes 4 4096
        ++ leBytes 4 mx) { s with spdm := 2, spdmVer := ver })

/-- ALGORITHMS: DMTF measurements as raw bit streams, ECDSA P-384, SHA-384. -/
def execNegotiateAlgorithms (ver : Nat) (s : State) : Out :=
  .next (spdmReq ver 2 (fun s =>
    spdmSay (leBytes 1 ver ++ [0x63, 0, 0] ++ leBytes 2 36 ++ [1, 0] ++ leBytes 4 1 ++ leBytes 4 0x80 ++ leBytes 4 2
      ++ leBytes 16 0) { s with spdm := 3 }) s)

/-- DIGESTS of slot 0. -/
def execGetDigests (ver : Nat) (s : State) : Out :=
  .next (spdmReq ver 3 (fun s =>
    spdmSay (leBytes 1 ver ++ [0x01, 0, 1] ++ beBytes 48 (Config.sha384 Config.certChain)) s) s)

/-- CERTIFICATE: a portion of the chain; slot 0 only. -/
def execGetCertificate (ver slot off len : Nat) (s : State) : Out :=
  .next (spdmReq ver 3 (fun s =>
    let c := Config.certChain
    if slot ≠ 0 ∨ c.length < off then spdmErr ver 0x01 0 s
    else
      let n := min len (min (c.length - off) 4088)
      spdmSay (leBytes 1 ver ++ [0x02, 0, 0] ++ leBytes 2 n ++ leBytes 2 (c.length - off - n) ++ (c.drop off).take n) s) s)

/-- A responder nonce of 32 bytes. -/
def spdmNonce (s : State) : List Byte × State :=
  let (a, s) := s.drawKey
  let (b, s) := s.drawKey
  (leBytes 16 a ++ leBytes 16 b, s)

/-- CHALLENGE_AUTH, signed by the identity key. `summary` asks for the hash of every measurement. -/
def execChallenge (ver slot : Nat) (summary : Bool) (nonce : List Byte) (s : State) : Out :=
  .next (spdmReq ver 3 (fun s =>
    if slot ≠ 0 then spdmErr ver 0x01 0 s
    else
      let (n, s) := spdmNonce s
      let h := if summary then beBytes 48 (Config.sha384 ((List.range 9).map (fun i => measBlock s (i + 1))).flatten) else []
      let body := leBytes 1 ver ++ [0x03, 0, 1] ++ beBytes 48 (Config.sha384 Config.certChain) ++ n ++ h ++ leBytes 2 0
      spdmSay (body ++ Config.ecdsaSign 0 (nonce ++ body)) s) s)

/-- MEASUREMENTS (R371): index 0 asks how many there are, 0xFF for all; a signed response to 0xFF keeps the nonce, the
WT and the epochs of all partitions (R373). -/
def execGetMeasurements (ver : Nat) (sign : Bool) (index : Nat) (nonce : List Byte) (s : State) : Out :=
  .next (spdmReq ver 3 (fun s =>
    if 9 < index ∧ index ≠ 0xFF then spdmErr ver 0x01 0 s
    else
      let s := epochSync s
      let l := if index = 0xFF then (List.range 9).map (· + 1) else if index = 0 then [] else [index]
      let record := (l.map (measBlock s)).flatten
      let (n, s) := spdmNonce s
      let body := leBytes 1 ver ++ [0x60] ++ leBytes 1 (if index = 0 then 9 else 0) ++ [0] ++ leBytes 1 l.length
        ++ leBytes 3 record.length ++ record ++ n ++ leBytes 2 0
      let s := if sign && index == 0xFF then
          { s with nonces := (Nonce.mk (leNat (nonce.take 32)) s.wt
                      ((List.range Config.nPart).map (fun p => s.rd F.CC_PART_SEAL_epoch p)) :: s.nonces).take 16 }
        else s
      spdmSay (body ++ if sign then Config.ecdsaSign 0 (nonce ++ body) else []) s) s)

/-- Every other request: UnsupportedRequest with its code. -/
def execSpdmUnsupported (ver code : Nat) (s : State) : Out :=
  .next (if s.spdm = 4 then spdmErr ver 0x43 0 s else spdmErr ver 0x07 code s)

end Sys2Proof.Machine
end

