-- ==== Sys2Proof/Machine/MemLink.lean ====
section
/-!
DEFINITION. Host traffic at the MTs and LTs: loads, writes and link packets (R57 to R67, R310 to R312, R328, R331, R369,
R378, R379).
-/
namespace Sys2Proof.Machine

/-! ### MT outputs and caches -/

/-- Deliver a block to the host. -/
def mtGive (m : Nat) (data : List Byte) (slv : Nat) (s : State) : State :=
  { s with mtOut := tins (tdel s.mtOut m) m ⟨data, slv⟩ }
def zeroBlock (data : List Byte) : List Byte := List.replicate data.length 0

/-- A use of a cached line: it becomes the newest of `n` (R66, R379; the order of replacement is log entry 41). DESIGN
CHOICE. -/
def cacheUse (n line : Nat) (l : List Nat) : List Nat := (line :: l.filter (· != line)).take n
def slvHit (s : State) (m line : Nat) : Bool := (tget [] s.slvCache m).contains line
/-- DESIGN CHOICE (log entry 41). -/
def slvUse (m line : Nat) (s : State) : State :=
  { s with slvCache := tput [] s.slvCache m (cacheUse 32 line (tget [] s.slvCache m)) }
def tagHit (s : State) (m line : Nat) : Bool := (tget [] s.tagCache m).contains line
/-- DESIGN CHOICE (log entry 41). -/
def tagUse (m line : Nat) (s : State) : State :=
  { s with tagCache := tput [] s.tagCache m (cacheUse 64 line (tget [] s.tagCache m)) }

/-- SLEEVE_REGION_ACCESS (R62). DEDUCED (log entry 71). -/
def slvRefuse (m b point : Nat) (s : State) : State :=
  raiseMt m { code := Code.SLEEVE_REGION_ACCESS, unit := mtUnit m, params := mtSlvParams 0 point b } s
/-- CKPT_SLOT_ACCESS (R328). -/
def slotRefuse (m b h : Nat) (wr : Bool) (s : State) : State :=
  raiseMt m { code := Code.CKPT_SLOT_ACCESS, unit := mtUnit m,
              params := h + 2 ^ 10 * b2n wr + 2 ^ 11 * (b % 2 ^ 28) } (s.bump F.MT_SHADOW_ERR_slot_access m)
/-- SEAL_ACCESS (R378). DEDUCED (log entry 71). -/
def sealRefuse (m b p part : Nat) (wr link : Bool) (i : Nat) (s : State) : State :=
  raiseMt m { code := Code.SEAL_ACCESS, unit := mtUnit m,
              params := p + 2 ^ 6 * part + 2 ^ 12 * b2n wr + 2 ^ 13 * b2n link + 2 ^ 14 * i + 2 ^ 17 * (b % 2 ^ 28) }
    (s.bump F.MT_SEAL_STAT_refused m)

/-- The region a block lies in (R375), and the region whose region or tag area it lies in. -/
def regionOf (s : State) (m b : Nat) : Option Nat :=
  (List.range 8).find? (fun i => rgnValid s m i && meets b 1 (rgnBase s m i) (rgnLen s m i))
def regionOrTag (s : State) (m b : Nat) : Option Nat :=
  (List.range 8).find? (fun i => rgnValid s m i &&
    (meets b 1 (rgnBase s m i) (rgnLen s m i) || meets b 1 (rgnTag s m i) (rgnTags s m i)))
/-- A scrub holds the partition's channels from T_iso until release (R383). -/
def scrubHolds (s : State) (p : Nat) : Bool :=
  match s.preset? p with | some x => x.kind == .scrub && x.iso | none => false

/-! ### Loads (R57, R59, R66, R67, R378, R379) -/

/-- What a load meets at its sleeve line: read uncorrectable, or missing the cache and not arrived by the last beat. -/
structure LineRd where
  ue : Bool
  late : Bool

/-- The load misses the line cache and its line is late (R66), and the load finds no buffer (R29). -/
def lineLate (s : State) (m b : Nat) (l : LineRd) : Bool :=
  s.rb F.MT_SLEEVE_CFG_enable m && !slvHit s m (b / 8) && l.late
/-- The sleeve of such a load is unchecked (R29, R66). -/
def loadUnchecked (s : State) (m b : Nat) (l : LineRd) : Bool := lineLate s m b l || !poolFree s m

/-- The sleeve of the bytes as stored. A late line leaves a created, unchecked sleeve (R66); without a buffer the sleeve
goes on with its verdict raised to unchecked under R54 (R29, log entry 42). -/
def mtLoadSlv (m b : Nat) (data : List Byte) (ue : Bool) (l : LineRd) (d : LoadAs) (s : State) : Nat × State :=
  let on := s.rb F.MT_SLEEVE_CFG_enable m
  let line := b / 8
  let late := lineLate s m b l
  let none_ := !poolFree s m
  let bad := on && !slvHit s m line && l.ue
  let s := if none_ then poolMiss m s else s
  if late then
    let v := mtCreate s m data ue 2
    let s := (s.bump F.MT_SLEEVE_STAT_created m).bump F.MT_SLEEVE_STAT_late m
    let s := { s with slvLate := tins (tdel s.slvLate (blkKey m b)) (blkKey m b) (v + 1) }
    (v, if ue then fogSet m b (d.out v) (s.bump F.MT_SLEEVE_STAT_fog_set m) else s)
  else
    let s := if on then slvUse m line s else s
    let s := if bad then { s with slvBad := tput false s.slvBad (blkKey m line) true } else s
    let raise (v : Nat) : Nat := if none_ then slvSetVerdict v 2 else v
    let r := mtReadSlv m b (mtEntry s m b) data ue (mtLineBad s m b)
      { d with verdict := if none_ then 2 else d.verdict, out := fun v => d.out (raise v) } s
    let v := raise r.1
    (v, if bad then
        raiseMt m { code := Code.SLEEVE_REGION_UE, unit := mtUnit m, params := mtSlvParams (d.out v) 0 b } r.2
      else r.2)

/-- The IV of block `j` of a region (R378). -/
def sealIv (s : State) (m i j : Nat) : Nat := s.rd F.MT_SEAL_RGN_A_region_id (8 * m + i) + 2 ^ 32 * j

/-- The tag line of block `j` of a region, and how a sealed block is delivered (R66, R378, R379): a new sleeve over the
plaintext, clean unless the tag or the sleeve of the ciphertext could not be checked. -/
def sealTagLine (s : State) (m i j : Nat) : Nat := (rgnTag s m i * 2048 + 16 * j) / 64
def sealedAs (s : State) (m : Nat) (plain : List Byte) (fail unch : Bool) : LoadAs :=
  { out := fun c => mtCreate s m plain (slvFog c || fail) (if unch then 2 else 1), fresh := true }

/-- A read of a sealed region by its own partition (R378, R379): the ciphertext is checked against its sleeve, decrypted,
and delivered with a new sleeve over the plaintext. DEDUCED (log entry 38). -/
def sealedLoad (m b i key : Nat) (data : List Byte) (ue : Bool) (l : LineRd) (tag : Nat) (tagLate : Bool) (s : State) :
    State :=
  let j := b - rgnBase s m i
  let tline := sealTagLine s m i j
  let iv := sealIv s m i j
  let plain := Config.aesDecrypt key iv data
  let want := Config.aesTag key iv data
  let wait := tagLate && !tagHit s m tline
  let fail := !wait && tag != want
  let d := sealedAs s m plain fail (wait || loadUnchecked s m b l)
  let r := mtLoadSlv m b data ue l d s
  let v := d.out r.1
  let s := tagUse m tline r.2
  let s := if fail then
      let t := (s.bump F.MT_SEAL_STAT_tag_fail m).bump F.MT_SLEEVE_STAT_fog_set m (b2n (!slvFog r.1))
      if ue then t else fogSet m b v t
    else s
  let s := if wait then
      { s.bump F.MT_SEAL_STAT_late m with sealLate := tins (tdel s.sealLate (blkKey m b)) (blkKey m b) (want + 1) }
    else s
  mtGive m plain v s

/-- A read of a declared region without a key (R378): zeros with fog, recorded once per region.
DEDUCED (log entry 70). -/
def noKeyLoad (m i : Nat) (data : List Byte) (s : State) : State :=
  let p := s.partOfChan m
  let z := zeroBlock data
  let s := (s.bump F.MT_SLEEVE_STAT_created m).bump F.MT_SLEEVE_STAT_fog_set m
  let s := if tget false s.noKey (8 * m + i) then s
    else raiseMt m { code := Code.SEAL_NO_KEY, unit := mtUnit m, params := p + 2 ^ 6 * i }
      { s with noKey := tput false s.noKey (8 * m + i) true }
  mtGive m z (mtCreate s m z true 1) s

/-- A host read of a block (R57, R62, R311, R328, R378). DESIGN CHOICE (log entry 17). DEDUCED (log entry 42). -/
def mtLoad (m b : Nat) (data : List Byte) (ue lineUe late : Bool) (part : Nat) (link : Bool) (gen tag : Nat)
    (tagLate : Bool) (s : State) : State :=
  let p := s.partOfChan m
  if !s.chanFree m && gen != s.gen p then
    raiseMt m { code := Code.STALE_DROPPED, unit := mtUnit m, params := p + 2 ^ 6 * gen + 2 ^ 14 * s.gen p + 2 ^ 22 }
      (s.bump F.MT_GEN_STAT_stale m)
  else if hitsSlvRgn s m b 1 then mtGive m (zeroBlock data) 0 (slvRefuse m b 0 s)
  else match slotAt s m b with
    | some h => mtGive m (zeroBlock data) 0 (slotRefuse m b h false s)
    | none =>
      if !s.chanFree m && scrubHolds s p then mtGive m (zeroBlock data) 0 (sealRefuse m b p part false link 0 s)
      else match regionOf s m b with
        | some i =>
          match (if !s.chanFree m && s.sealed p then keyOf s p else none) with
          | some k =>
            if part ≠ p ∨ link = true then mtGive m (zeroBlock data) 0 (sealRefuse m b p part false link i s)
            else sealedLoad m b i k data ue ⟨lineUe, late⟩ tag tagLate s
          | none => noKeyLoad m i data s
        | none =>
          let r := mtLoadSlv m b data ue ⟨lineUe, late⟩ {} s
          mtGive m data r.1 r.2

def execMtLoad (m b : Nat) (data : List Byte) (ue lineUe late : Bool) (part : Nat) (link : Bool) (gen tag : Nat)
    (tagLate : Bool) (s : State) : Out :=
  onUnit (mtOk m) (mtLoad m b data ue lineUe late part link gen tag tagLate s)

/-- R59, R66, R67: a sleeve line arrives after its block was delivered. A load flagged uncorrectable went with fog and is
not compared. DEDUCED (log entry 75). -/
def sleeveLine (m b : Nat) (ue : Bool) (s : State) : State :=
  match tget 0 s.slvLate (blkKey m b) with
  | 0 => s
  | v + 1 =>
    let s := slvUse m (b / 8) { s with slvLate := tdel s.slvLate (blkKey m b) }
    if ue then
      raiseMt m { code := Code.SLEEVE_REGION_UE, unit := mtUnit m, params := mtSlvParams v 0 b }
        { s with slvBad := tput false s.slvBad (blkKey m (b / 8)) true }
    else if slvFog v then s
    else
      let e := getSlv s m b
      let (hit, s) := if slvOk e then injTake 1 (mtUnit m) 0 s else (false, s)
      let bad := slvOk e && checkBad hit 48 (slvCrc v) (slvCrc e)
      let s := if bad then safeTapInc m (s.bump F.MT_SLEEVE_STAT_crc_err m) else s
      if bad || slvFog e then
        raiseMt m { code := Code.SLEEVE_LATE, unit := mtUnit m, params := mtSlvParams v 0 b, inj := hit } s
      else s
def execSleeveLineArrive (m b : Nat) (ue : Bool) (s : State) : Out := onUnit (mtOk m) (sleeveLine m b ue s)

/-- R379: a tag line arrives after its block was delivered. -/
def tagLine (m b tag : Nat) (s : State) : State :=
  match tget 0 s.sealLate (blkKey m b) with
  | 0 => s
  | want + 1 =>
    let s := { s with sealLate := tdel s.sealLate (blkKey m b) }
    if tag = want then s
    else
      let i := (regionOf s m b).getD 0
      raiseMt m { code := Code.SEAL_TAG_LATE, unit := mtUnit m,
                  params := i + 2 ^ 3 * ((b - rgnBase s m i) % 2 ^ 28) } (s.bump F.MT_SEAL_STAT_tag_fail m)
def execTagLineArrive (m b tag : Nat) (s : State) : Out := onUnit (mtOk m) (tagLine m b tag s)

/-! ### Writes (R62, R64, R65, R328, R331, R378) -/

/-- A block of the buffer `buf` of one of a partition's shards. -/
def inBuffer (s : State) (p buf m b : Nat) : Bool :=
  (partShards s p).any (fun e => e.2.sChans.contains m && meets b 1 (e.2.sBase buf) e.2.sLen)

/-- R331, Table 13-8: a write to a draining extent fails the save; one to the committed buffer ends local_ok. -/
def shadowWrite (m b : Nat) (s : State) : State :=
  if s.chanFree m then s
  else
    let p := s.partOfChan m
    let s := match tfind s.saves p with
      | some x => if inBuffer s p x.buf m b then saveFail p 2 x.step (s.bump F.MT_SHADOW_ERR_dirty m) else s
      | none => s
    if s.rb F.CC_CKPT_STAT_local_ok p && inBuffer s p (s.rd F.CC_CKPT_STAT_local_buf p) m b then
      s.wr F.CC_CKPT_STAT_local_ok p 0
    else s

/-- A host write of a whole block or of less. DESIGN CHOICE (log entry 17). -/
def mtWrite (m b : Nat) (whole : Bool) (slv : Nat) (data : List Byte) (part : Nat) (link : Bool) (s : State) : State :=
  let p := s.partOfChan m
  if hitsSlvRgn s m b 1 then slvRefuse m b 1 s
  else match slotAt s m b with
    | some h => slotRefuse m b h true s
    | none =>
      if !s.chanFree m && scrubHolds s p then sealRefuse m b p part true link 0 s
      else match (if s.sealed p && !s.chanFree m then regionOrTag s m b else none) with
        | some i => sealRefuse m b p part true link i s
        | none =>
          let s := shadowWrite m b s
          if whole then mtWriteWhole m b slv data s else mtWritePart m b slv s
def execMtWrite (m b : Nat) (whole : Bool) (slv : Nat) (data : List Byte) (part : Nat) (link : Bool) (s : State) : Out :=
  onUnit (mtOk m) (mtWrite m b whole slv data part link s)

/-- R61, Table 2-7: a write while enable is 1 is ignored; a capacity outside 20 to 40 leaves enable at 0. -/
def slvCfgWrite (w : Writer) (m v : Nat) (s : State) : State :=
  if !notTenant w || s.rb F.MT_SLEEVE_CFG_enable m then s
  else
    let c := bits v 8 6
    let s := ((s.wr F.MT_SLEEVE_CFG_dflt_fmt m (bits v 1 5)).wr F.MT_SLEEVE_CFG_cap_log2 m c).wr
      F.MT_SLEEVE_CFG_region_base m (bits v 16 24)
    s.wr F.MT_SLEEVE_CFG_enable m (b2n (bit v 0 && decide (20 ≤ c) && decide (c ≤ 40)))
def execMtSleeveCfgWrite (w : Writer) (m v : Nat) (s : State) : Out := regWrite w .MT_SLEEVE_CFG m s <|
  onUnit (mtOk m) (slvCfgWrite w m v s)

/-! ### Links (R57, R310 to R312, R350, R369) -/

/-- Flags, partition and generation of the sideband field (R31). -/
def sbFlags (v : Nat) : Nat := bits v 14 2
/-- DEDUCED (log entry 74). -/
def sbPart (v : Nat) : Nat := bits v 8 6
def sbGen (v : Nat) : Nat := bits v 0 8

/-- Parameters of an LT's sleeve records (Table 2-11). -/
def ltSlvParams (slv point sb : Nat) : Nat := slv % 2 ^ 16 + 2 ^ 16 * point + 2 ^ 32 * (sb % 2 ^ 16)

/-- The check of a block's sleeve at an LT: the sleeve that goes on (R57, R73). Records carry the packet's sideband as it
came to the LT. DESIGN CHOICE (log entry 100). -/
def ltCheck (l point sb : Nat) (x : LtBlk) (s : State) : Nat × State :=
  let (hit, s) := injTake 1 (ltUnit l) (sbPart sb) s
  if checkBad hit 48 (crc48 x.data) (slvCrc x.slv) then
    let v := slvSetFog x.slv
    (v, raiseLt l { code := Code.SLEEVE_CRC, unit := ltUnit l, params := ltSlvParams v point sb, inj := hit }
          (safeTapInc (1024 + l) (s.bump F.LT_SLEEVE_STAT_crc_err l)))
  else (x.slv, s)

/-- The trust groups of both ends agree (R369). -/
def trusted (s : State) (l : Nat) : Bool :=
  s.rb F.LT_TRUST_known l && s.rd F.LT_TRUST_peer l == s.rd F.CC_TRUST_GROUP_group && s.rd F.LT_TRUST_peer l != 0

/-- A sealed packet is dropped (R369): counted, and recorded once per port per sealing. -/
def linkBlock (l p : Nat) (s : State) : State :=
  let s := s.bump F.LT_TRUST_blocked l
  if tget false s.linkBlk (64 * l + p) then s
  else raiseLt l { code := Code.SEAL_LINK_BLOCKED, unit := ltUnit l,
                   params := p + 2 ^ 6 * l + 2 ^ 12 * s.rd F.LT_TRUST_peer l + 2 ^ 28 * b2n (!s.rb F.LT_TRUST_known l) }
    { s with linkBlk := tput false s.linkBlk (64 * l + p) true }

def ltGive (l : Nat) (x : LtPkt) (s : State) : State := { s with ltIn := tins (tdel s.ltIn l) l x }

/-- A sleeve point applied to each block of a packet in order (R444). -/
def ltBlocks (f : LtBlk → State → Nat × State) : List LtBlk → State → List LtBlk × State
  | [], s => ([], s)
  | x :: xs, s =>
    let r := f x s
    let q := ltBlocks f xs r.2
    ({ x with slv := r.1 } :: q.1, q.2)

/-- The sleeve point of an outbound block (Table 2-6). -/
def ltOutSlv (l sb : Nat) (x : LtBlk) (s : State) : Nat × State :=
  if slvOk x.slv then
    let r := ltCheck l 4 sb x s
    (r.1, if slvFog r.1 then r.2.bump F.LT_SLEEVE_STAT_fog_out l else r.2)
  else (x.slv, s.bump F.LT_SLEEVE_STAT_unsleeved l)

/-- A reply ends the request it answers (R312). -/
def ltReplied (l : Nat) (x : LtPkt) (s : State) : State :=
  match takeFirst (fun (r : LtReq) => r.tag == x.tag && r.sb % 2 ^ 14 == x.sb % 2 ^ 14) (tget [] s.ltReq l) with
  | some (_, q) => { s with ltReq := tput [] s.ltReq l q }.wr F.LT_GEN_STAT_outstanding l q.length
  | none => s

/-- An outbound packet (R57, R310, R312, R369). DEDUCED (log entry 63). DESIGN CHOICE (log entry 100). -/
def ltOutbound (l : Nat) (x : LtPkt) (s : State) : State :=
  if x.transit then ltSend l x s
  else
    let fl := sbFlags x.sb
    let p := sbPart x.sb
    if fl ≤ 1 && s.sealed p && !trusted s l then linkBlock l p s
    else
      let s := if fl = 1 then ltReplied l x s else s
      let s := if fl = 3 then s.bumpWrap F.LT_SHADOW_STAT_out l x.blocks.length else s
      let r := ltBlocks (ltOutSlv l x.sb) x.blocks s
      let sb := if fl = 0 then setBits x.sb 0 8 (s.gen p) else x.sb
      ltSend l { x with sb := sb, blocks := r.1 } r.2
/-- While a stop gates the clusters no packet passes (R348). -/
def execLtOutbound (l : Nat) (x : LtPkt) (s : State) : Out :=
  onUnit (ltOk l) (if anyGated s then s else ltOutbound l x s)

/-- The sleeve point of an inbound block (Table 2-6, R55, R56). -/
def ltInSlv (l sb : Nat) (x : LtBlk) (s : State) : Nat × State :=
  if slvOk x.slv then
    let r := ltCheck l 5 sb x s
    (r.1, if slvFog r.1 then r.2.bump F.LT_SLEEVE_STAT_fog_in l else r.2)
  else
    let v := mkSlv (crc48 x.data) 0 false 2 (sbPart sb)
    let s := s.bump F.LT_SLEEVE_STAT_unsleeved l
    (v, if slvVersion x.slv ≥ 2 then
        raiseLt l { code := Code.SLEEVE_VERSION, unit := ltUnit l, params := ltSlvParams v 5 sb } s
      else s)

/-- The field a request is addressed to is being reset (R312): from T_iso until release, a step that a wider one has taken over
or a power cycle has cancelled included. -/
def fieldInReset (s : State) (f : Nat) : Bool :=
  match s.preset? (s.partOf f) with
  | some x => x.iso || x.shut
  | none => decide (1 ≤ s.phase (s.partOf f)) && decide (s.phase (s.partOf f) ≤ 3) && !s.dsFieldOpen.contains f

/-- A delivered request enters the table, or is untracked (R312). -/
def ltTrack (l : Nat) (x : LtPkt) (s : State) : State :=
  let q := tget [] s.ltReq l
  if q.length < 1024 then
    { s with ltReq := tput [] s.ltReq l (q ++ [LtReq.mk x.field x.sb x.tag]) }.wr F.LT_GEN_STAT_outstanding l (q.length + 1)
  else
    let k := 64 * l + s.partOf x.field
    { s with ltUntr := tput 0 s.ltUntr k (tget 0 s.ltUntr k + 1) }.bump F.LT_GEN_STAT_untracked l

/-- An inbound packet that is not captured (R57, R311 to R313): a current negative acknowledgement goes to the host as an error
completion of its request. DEDUCED (log entry 63). -/
def ltInbound (l : Nat) (x : LtPkt) (s : State) : State :=
  if x.transit then ltGive l x s
  else
    let fl := sbFlags x.sb
    let p := sbPart x.sb
    if (fl = 1 ∨ fl = 2) ∧ sbGen x.sb ≠ s.gen p then
      raiseLt l { code := Code.STALE_DROPPED, unit := ltUnit l,
                  params := p + 2 ^ 6 * sbGen x.sb + 2 ^ 14 * s.gen p + 2 ^ 22 * b2n (fl == 2) }
        (s.bump F.LT_GEN_STAT_stale l)
    else if fl = 0 ∧ fieldInReset s x.field = true then
      ltNack l x.field x.sb x.tag s
    else if fl = 2 then { s with ltErr := tins (tdel s.ltErr l) l x.tag }
    else
      let s := if fl = 0 then ltTrack l x s else s
      let s := if fl = 3 then s.bumpWrap F.LT_SHADOW_STAT_in l x.blocks.length else s
      let r := ltBlocks (ltInSlv l x.sb) x.blocks s
      ltGive l { x with blocks := r.1 } r.2

/-- Bytes of a captured packet: its header flit and its payload, each block with its sleeve (R444, log entry 43). DESIGN
CHOICE. -/
def pktBytes (x : LtPkt) : Nat := 32 + x.data.length + x.blocks.foldl (fun a b => a + 8 + b.data.length) 0

/-- R350: from T_stop every inbound packet goes to the 64 KiB capture ring. DESIGN CHOICE (log entry 43). -/
def ltCapture (l : Nat) (x : LtPkt) (t : Stop) (s : State) : State :=
  let used := s.rd F.LT_STOP_STAT_ring l
  let s := if s.rb F.LT_STOP_STAT_closed l = false ∧ t.done = true then s.wr F.LT_STOP_STAT_late l 1 else s
  if used + pktBytes x ≤ 65536 then
    { s with ltRing := tput [] s.ltRing l (tget [] s.ltRing l ++ [RingPkt.mk (s.wt - t.tStop) x]) }.wr
      F.LT_STOP_STAT_ring l (used + pktBytes x)
  else s.wr F.LT_STOP_STAT_overflow l 1

def execLtInbound (l : Nat) (x : LtPkt) (s : State) : Out :=
  onUnit (ltOk l) (
    match s.stop with
    | some t => if t.gated then ltCapture l x t s else ltInbound l x s
    | none => ltInbound l x s)

end Sys2Proof.Machine
end

