-- ==== Sys2Proof/Machine/Stop.lean ====
section
/-!
DEFINITION. Stops, joined stops, freezes and contact sheets (R343 to R355).
-/
namespace Sys2Proof.Machine

/-- The shortest local lead, B + 1,000 ns, and the lead in use (R343). -/
def minLead : Nat := Config.bcastNs + 1000
def localLead (s : State) : Nat := max (s.rd F.CC_STOP_CFG_lead_ns) minLead

/-- A refused command (Table 14-6). DEDUCED (log entry 74). -/
def stopRefuse (r : Nat) (s : State) : State := (s.wr F.CC_STOP_STAT_refused 0 1).wr F.CC_STOP_STAT_reason 0 r
def stopState (v : Nat) (s : State) : State := s.wr F.CC_STOP_STAT_state 0 v

/-- CTs whose stop status is listed with a bit set. -/
def stopCts (s : State) (f : State → Nat → Bool) : List Nat :=
  (s.regs.filter (fun e => e.1 % 256 == Reg.num .CT_STOP_STAT)).map (·.1 / 256) |>.filter (f s)

/-- T_stop is fixed and the stop announced: the ports' results of the last stop are cleared. -/
def stopOpen (x : Stop) (s : State) : State :=
  let s := { s with stop := some x, stopWire := s.stopWire || !x.joined }
  let s := forAll (List.range Config.nLt) (fun l t =>
    if t.rd F.LT_STOP_STAT_ring l + t.rd F.LT_STOP_STAT_closed l + t.rd F.LT_STOP_STAT_late l
        + t.rd F.LT_STOP_STAT_overflow l = 0 then t
    else (((t.wr F.LT_STOP_STAT_ring l 0).wr F.LT_STOP_STAT_closed l 0).wr F.LT_STOP_STAT_late l 0).wr
      F.LT_STOP_STAT_overflow l 0) s
  let s := (s.wr F.CC_STOP_STAT_late 0 (b2n x.late)).wr F.CC_STOP_STAT_stop_id 0 x.id
  stopState 1 (s.wr F.CC_STOP_T_t_stop 0 x.tStop)

/-- Op stop (R343, R349). -/
def stopRequest (joined freeze : Bool) (s : State) : State :=
  if s.stop.isSome then stopRefuse 1 s
  else if s.aonOnly then stopRefuse 2 s
  else
    let lead := if joined then max (s.rd F.CC_STOP_CFG_join_lead_us * us) minLead else localLead s
    let id := s.rd F.CC_BUILD1_wafer_id + 2 ^ 10 * (s.stopCount % 64)
    let s := stopOpen { id := id, tStop := s.wt + lead, joined := joined, freeze := freeze, late := false }
      { s with stopCount := s.stopCount + 1, joinIds := if joined then (id :: s.joinIds).take 16 else s.joinIds }
    if joined then ltControlAll none 0 id lead s else s

/-- The taps leave the quiet state and send what they hold (R345, R352). -/
def unquiet (s : State) : State :=
  let s := forAll (stopCts s ctQuiet) (fun k t =>
    drainHeld k (ctField k) ((t.wr F.CT_STOP_STAT_quiet k 0).wr F.CT_STOP_STAT_held k 0)) s
  let q := s.quiet.map (·.1)
  forAll q (fun i t =>
    if i < 1024 then drainHeld (holdMt i) (Config.mtHome i) t else drainHeld (holdLt (i - 1024)) (Config.ltHome (i - 1024)) t)
    { s with quiet := [] }

/-- A stop is cancelled before anything is gated (R345). -/
def stopCancel (cause : Nat) (s : State) : State :=
  match s.stop with
  | none => s
  | some x =>
    let s := stopState 0 (unquiet { s with stop := none, stopWire := false })
    raiseCc { code := Code.STOP_CANCELLED, unit := s.ccUnit, params := x.id + 2 ^ 16 * cause } s

/-- The stop is gated and not yet run. -/
def inForce (s : State) : Option Stop := s.stop.filter (·.gated)

/-- What a resume leaves behind for work that paused: the timers of strips and sessions of the gated clusters move on by the time
the clusters stood still (Tables 6-18, 7-5). -/
def timersOn (d : Nat) (s : State) : State :=
  let gated := fun (c : Nat) => s.ctGated (coreCt c)
  let later := fun (o : Option Nat) => o.map (· + d)
  { s with
    cores := s.cores.map (fun (e : Nat × Core) =>
      if gated e.1 then
        (e.1, { e.2 with graceEnd := later e.2.graceEnd, forceEnd := later e.2.forceEnd, pairEnd := later e.2.pairEnd })
      else e)
    strips := s.strips.map (fun (e : Nat × List Strip) =>
      (e.1, e.2.map (fun (x : Strip) => if x.cores.any gated then { x with runAt := x.runAt + d } else x)))
    sessions := s.sessions.map (fun (e : Nat × Session) =>
      if sessGated s e.1 e.2 then
        (e.1, { e.2 with setEnd := e.2.setEnd + d, heatEnd := e.2.heatEnd + d, coolEnd := e.2.coolEnd + d })
      else e) }

/-- The clusters ungate (R351, R352): rings delivered in arrival order, snapshots discarded, paused work and timers go on, the
taps leave the quiet state, resets asserted meanwhile are seen (R105), and STOP_RESUMED. -/
def ungate (forced : Bool) (x : Stop) (s : State) : State :=
  let s := timersOn (s.wt - x.tStop) s
  let ks := stopCts s State.ctGated
  let s := forAll ks (fun k t => t.wr F.CT_STOP_STAT_gated k 0) s
  let s := forAll (s.tiles.filter (fun e => ks.contains (engCt e.1) && tget true s.engRst e.1)) (fun e t => engResetSeen e.1 t) s
  let rings := s.ltRing
  let s := forAll rings (fun e t => forAll e.2 (fun r u => ltInbound e.1 r.pkt u) t)
    { s with ltRing := [], mtSnap := [], stop := some { x with gated := false } }
  let s := wdogSyncAll (barResume (ckptPause false (resetPause false s)))
  let s := unquiet s
  raiseCc { code := Code.STOP_RESUMED, unit := s.ccUnit,
            params := x.id + 2 ^ 16 * b2n forced + 2 ^ 17 * b2n x.auto + 2 ^ 18 * sat 30 ((s.wt - x.tStop) / ms) } s

/-! ### Sheets (R353 to R355) -/

/-- Whether the sheet region can be written. -/
def regionOk (s : State) : Bool :=
  !(sheetChans s).isEmpty && (sheetChans s).all mtOk && s.rd F.CC_SHEET_REGION1_length != 0
/-- Blocks the region holds. -/
def sheetCap (s : State) : Nat := (sheetChans s).length * s.rd F.CC_SHEET_REGION1_length

/-- The header of Table 14-2. -/
def sheetHeader (s : State) (x : Sheet) (t : Stop) (sections blocks : Nat) (trunc aborted : Bool) : List Byte :=
  let closed := (List.range Config.nLt).foldl (fun a l => a + 2 ^ l * s.rd F.LT_STOP_STAT_closed l) 0
  let h := leBytes 4 0x53484531 ++ leBytes 1 1
    ++ leBytes 1 (b2n t.joined + 2 * b2n trunc + 4 * b2n (!trunc && !aborted) + 8 * b2n x.desealed + 16 * b2n aborted)
    ++ leBytes 2 sections ++ leBytes 8 t.tStop ++ leBytes 2 t.id ++ leBytes 2 (s.rd F.CC_BUILD1_wafer_id)
    ++ leBytes 8 closed ++ leBytes 8 blocks ++ leBytes 24 0
  h ++ leBytes 4 (crc32c h)

/-- Drop the freeze wire (R351). -/
def unfreeze (s : State) : State := stopState 2 { s with freezeWire := false }

/-- A sheet ends: header, SHEET_DONE, and the freeze dropped with auto_release. DEDUCED (log entry 74). -/
def sheetEnd (sections blocks : Nat) (trunc aborted : Bool) (s : State) : State :=
  match s.sheet, s.stop with
  | some x, some t =>
    let s := { s with sheet := none, sheetHead := sheetHeader s x t sections blocks trunc aborted }
    let s := ((s.wr F.CC_SHEET_STAT_state 0 3).wr F.CC_SHEET_STAT_blocks 0 (sat 48 blocks)).wr F.CC_SHEET_STAT_truncated 0
      (b2n trunc)
    let s := raiseCc { code := Code.SHEET_DONE, unit := s.ccUnit,
                       params := b2n (!trunc && !aborted) + 2 * b2n trunc + 4 * b2n aborted + 8 * b2n x.desealed
                         + 16 * x.dest + 2 ^ 5 * sat 32 blocks } s
    if x.auto && s.freezeWire then unfreeze s else s
  | _, _ => s

/-- A write of CC_SHEET_CMD. -/
def sheetCmdWrite (w : Writer) (v : Nat) (s : State) : State :=
  if !s.isOwner w then s
  else match bits v 0 2 with
    | 1 =>
      let x : Sheet := { all := bit v 3, part := bits v 4 6, content := bits v 10 4, dest := bits v 2 1, auto := bit v 14,
                         desealed := false }
      if (inForce s).isNone || !s.freezeWire || s.sheet.isSome || (x.dest == 0 && !regionOk s) then
        s.wr F.CC_SHEET_STAT_refused 0 1
      else
        let ps := (List.range Config.nPart).filter (fun p => s.sealed p && inSheet x p)
        let s := (s.wr F.CC_SHEET_STAT_blocks 0 0).wr F.CC_SHEET_STAT_truncated 0 0
        let s := forAll ps (fun p t => deseal p 1 none t) { s with sheet := some { x with desealed := !ps.isEmpty } }
        epochSync (sheetCheck (s.wr F.CC_SHEET_STAT_state 0 1))
    | 2 => if s.sheet.isSome then sheetEnd 0 (s.rd F.CC_SHEET_STAT_blocks) false true s else s
    | _ => s
def execSheetCapture (w : Writer) (v : Nat) (s : State) : Out := regWrite w .CC_SHEET_CMD 0 s <|
  .next (sheetCmdWrite w v s)
def execSheetAbort (w : Writer) (s : State) : Out := regWrite w .CC_SHEET_CMD 0 s <|
  .next (sheetCmdWrite w 2 s)

/-- R354, R355: every section has been written, `need` blocks with the header; a region that ends first truncates it. -/
def execSheetComplete (sections need : Nat) (s : State) : Out :=
  .next (
    if s.rd F.CC_SHEET_STAT_state ≠ 2 ∨ s.aonOnly = true then s
    else match s.sheet with
      | none => s
      | some x =>
        let trunc := x.dest == 0 && decide (sheetCap s < need)
        sheetEnd sections (if trunc then sheetCap s else need) trunc false s)

/-! ### Commands (R343, R345, R351) -/

/-- In a joined stop op resume goes on to the peers as the join did, with the remaining lead (R352). -/
def resumeForward (but : Option Nat) (x : Stop) (t : Nat) (s : State) : State :=
  if x.joined then ltControlAll but 1 x.id (t - s.wt) s else s

/-- T_run is fixed (R351, R352). -/
def resumeAt (t : Nat) (auto : Bool) (x : Stop) (s : State) : State :=
  stopState 4 { s with stop := some { x with tRun := some t, auto := auto } }

/-- Both wires drop at once (R351). Before anything is gated that cancels the stop (R40). -/
def forceRelease (s : State) : State :=
  match s.stop with
  | none => stopRefuse 3 s
  | some x =>
    if x.gated then
      let s := if s.sheet.isSome then sheetEnd 0 (s.rd F.CC_SHEET_STAT_blocks) false true s else s
      let s := ungate true { x with auto := false } { s with freezeWire := false }
      stopState 0 { s with stop := none, stopWire := false }
    else if x.tRun.isSome then stopState 0 { s with stop := none, stopWire := false }
    else stopCancel 0 s

/-- A write of CC_STOP_CMD by the owner or the CC sequencer. -/
def stopCmdWrite (w : Writer) (v : Nat) (s : State) : State :=
  if !(s.isOwner w || isSeq w ccSeq) then s
  else match bits v 0 3 with
    | 1 => stopRequest (bit v 3) (bit v 4) s
    | 2 =>
      match s.stop with
      | none => stopRefuse 3 s
      | some x => if x.sampled then stopRefuse 5 s else stopCancel 0 s
    | 3 =>
      match inForce s with
      | none => stopRefuse 3 s
      | some x => stopState 3 { s with freezeWire := true, stop := some { x with tRun := none, auto := false } }
    | 4 => if (inForce s).isNone then stopRefuse 3 s else if s.freezeWire then unfreeze s else s
    | 5 =>
      match inForce s with
      | none => stopRefuse 3 s
      | some x =>
        if s.freezeWire then stopRefuse 4 s
        else if s.aonOnly then stopRefuse 2 s
        else if x.tRun.isSome then s
        else resumeForward none x (s.wt + localLead s) (resumeAt (s.wt + localLead s) false x s)
    | 6 => if s.isOwner w then forceRelease s else s
    | _ => s

def execStopRequest (w : Writer) (joined freeze : Bool) (s : State) : Out :=
  regWrite w .CC_STOP_CMD 0 s <|
  .next (stopCmdWrite w (1 + 8 * b2n joined + 16 * b2n freeze) s)
def execStopCancel (w : Writer) (s : State) : Out := regWrite w .CC_STOP_CMD 0 s <|
  .next (stopCmdWrite w 2 s)
def execStopFreeze (w : Writer) (s : State) : Out := regWrite w .CC_STOP_CMD 0 s <|
  .next (stopCmdWrite w 3 s)
def execStopRelease (w : Writer) (s : State) : Out := regWrite w .CC_STOP_CMD 0 s <|
  .next (stopCmdWrite w 4 s)
def execStopResume (w : Writer) (s : State) : Out := regWrite w .CC_STOP_CMD 0 s <|
  .next (stopCmdWrite w 5 s)
def execForceRelease (w : Writer) (s : State) : Out := regWrite w .CC_STOP_CMD 0 s <|
  .next (stopCmdWrite w 6 s)

/-! ### The course of a stop -/

/-- R344: the announcement reaches a tap, at T_stop − lead or later; a tap whose FS does not work is not reached. -/
def execStopAnnounceArrive (u : Nat) (s : State) : Out :=
  onUnit (unitPresent u && unitKind u == 1 && (unitType u == 2 || unitType u == 3 || unitType u == 4)) (
    match s.stop, unitField u with
    | some x, some f =>
      if x.sampled || !s.fieldLive f then s
      else
        let s := { s.toWt (x.tStop - localLead s) with stopWire := true }
        let i := unitInst u
        if unitType u = 2 then s.wr F.CT_STOP_STAT_quiet i 1
        else if unitType u = 3 then { s with quiet := tput false s.quiet i true }
        else { s with quiet := tput false s.quiet (1024 + i) true }
    | _, _ => s)

/-- Tree 34 (Table 1-8): every tap is quiet; the trees count a tap that cannot be reached as high (log entry 44). -/
def tapsQuiet (s : State) : Bool :=
  (List.range Config.nField).all (fun f => !s.fieldLive f ||
    (List.range Config.nCluster).all (fun i => ctQuiet s (64 * f + i)))
  && (List.range Config.nMt).all (fun m => !s.fieldLive (Config.mtHome m) || mtQuiet s m)
  && (List.range Config.nLt).all (fun l => !s.fieldLive (Config.ltHome l) || ltQuiet s l)

/-- R345: the CC samples tree 34 at T_stop − 300 ns. -/
def execStopSample (s : State) : Out :=
  .next (
    match s.stop with
    | some x =>
      if x.sampled || s.aonOnly then s
      else
        let s := { s.toWt (x.tStop - 300) with stopWire := true }
        if tapsQuiet s then { s with stop := some { x with sampled := true } } else stopCancel 1 s
    | none => s)

/-- T_stop (R346, R348, R350): clusters of announced CTs gate, MTs snapshot up to 256 transactions each and pause, LTs capture, in
a joined stop after their STOP_MARK. -/
def gate (unaligned : Bool) (txs : List MtTx) (s : State) : State :=
  match s.stop with
  | some x =>
    if !x.sampled || x.gated || x.tRun.isSome || !s.stopWire then s
    else
      let s := if unaligned then s else s.toWt x.tStop
      let s := forAll (stopCts s ctQuiet) (fun k t => t.wr F.CT_STOP_STAT_gated k 1) s
      let snap := forAll (txs.map (·.m)).eraseDups (fun m (t : State) =>
        if mtQuiet t m then { t with mtSnap := tput [] t.mtSnap m ((txs.filter (fun y => y.m == m)).take 256) } else t) s
      let s := { snap with stop := some { x with gated := true, unaligned := unaligned,
                                                 tStop := if unaligned then min s.wt x.tStop else x.tStop }
                           freezeWire := x.freeze }
      let s := if x.joined then ltControlAll none 2 x.id 0 s else s
      wdogSyncAll (ckptPause true (resetPause true (stopState (if x.freeze then 3 else 2) s)))
  | none => s
def execStopGate (txs : List MtTx) (s : State) : Out := .next (if s.aonOnly then s else gate false txs s)

/-- AON-only operation begins (R345, Table 14-5). -/
def stopAon (s : State) : State :=
  match s.stop with
  | some x => if x.sampled then gate true [] s else stopCancel 3 s
  | none => s

/-- R350: a peer's marker closes the port, until the window ends. -/
def execStopMarkArrive (l id : Nat) (s : State) : Out :=
  onUnit (ltOk l) (
    match s.stop with
    | some x => if x.joined && x.id == id && !x.done && x.tRun.isNone then s.wr F.LT_STOP_STAT_closed l 1 else s
    | none => s)

/-- R350, R361: T_stop + 4 µs. -/
def captureEnd (x : Stop) (s : State) : State :=
  let s := { s.toWt (x.tStop + 4 * us) with stop := some { x with done := true } }
  let open_ := (upPorts s).filter (fun l => !s.rb F.LT_STOP_STAT_closed l)
  let nOpen := open_.length
  let nClosed := (upPorts s).length - nOpen
  let s := forAll open_ (fun l t =>
    raiseLt l { code := Code.CAPTURE_OPEN, unit := ltUnit l,
                params := x.id + 2 ^ 16 * t.rd F.LT_STOP_STAT_late l + 2 ^ 17 * t.rd F.LT_STOP_STAT_overflow l
                  + 2 ^ 18 * t.rd F.LT_STOP_STAT_ring l } t) s
  raiseCc { code := Code.STOP_DONE, unit := s.ccUnit,
            params := x.id + 2 ^ 16 * b2n x.joined + 2 ^ 17 * b2n x.late + 2 ^ 18 * b2n s.freezeWire
              + 2 ^ 19 * b2n x.unaligned + 2 ^ 20 * nClosed + 2 ^ 27 * nOpen } s
def execCaptureWindowExpire (s : State) : Out :=
  .next (match inForce s with
    | some x => if x.done then s else captureEnd x s
    | none => s)

/-- R349: the latency of a trained port. -/
def execLinkLatencyPing (l rtt turn : Nat) (s : State) : Out :=
  onUnit (ltOk l) (if tget false s.ltUp l then s.wr F.LT_STOP_STAT_lat_ns l (sat 16 ((rtt - turn) / 2)) else s)

/-- R349: a join message with its remaining lead in ns. DEDUCED (log entry 74). -/
def joinArrive (l id lead : Nat) (s : State) : State :=
  if s.joinIds.contains id then s
  else
    let s := { s with joinIds := (id :: s.joinIds).take 16 }
    if s.rd F.CC_STOP_CFG_accept_joined = 0 ∨ s.stop.isSome = true ∨ s.aonOnly = true then
      s.bump F.LT_STOP_STAT_joins_ignored l
    else
      let left := lead - s.rd F.LT_STOP_STAT_lat_ns l
      let late := decide (left < minLead)
      let lead := if late then minLead else left
      ltControlAll (some l) 0 id lead
        (stopOpen { id := id, tStop := s.wt + lead, joined := true, freeze := false, late := late } s)
def execJoinArrive (l id lead : Nat) (s : State) : Out := onUnit (ltOk l) (joinArrive l id lead s)

/-- R352: a joined resume; a frozen wafer ignores it. -/
def execResumeArrive (l id lead : Nat) (s : State) : Out :=
  onUnit (ltOk l) (
    match inForce s with
    | some x =>
      if s.freezeWire || x.id != id || x.tRun.isSome || s.aonOnly then s
      else
        let t := s.wt + max minLead (lead - s.rd F.LT_STOP_STAT_lat_ns l)
        resumeForward (some l) x t (resumeAt t false x s)
    | none => s)

/-- R351: an unfrozen stop resumes by itself after max_ms. -/
def execStopAutoResume (s : State) : Out :=
  .next (match inForce s with
    | some x =>
      if s.freezeWire || x.tRun.isSome || s.aonOnly then s
      else
        let s := s.toWt (x.tStop + max 1 (s.rd F.CC_STOP_CFG_max_ms) * ms)
        resumeAt (s.wt + localLead s) true x s
    | none => s)

/-- T_run (R351, R352). -/
def execStopRun (s : State) : Out :=
  .next (match inForce s with
    | some x =>
      match x.tRun with
      | some t => if s.aonOnly then s else ungate false x (s.toWt t)
      | none => s
    | none => s)

/-- R351: 1 µs after T_run the CC drops the stop-bath wire. -/
def execStopWireDrop (s : State) : Out :=
  .next (match s.stop with
    | some x =>
      match x.tRun with
      | some t =>
        if x.gated then s else stopState 0 { s.toWt (t + 1 * us) with stop := none, stopWire := false }
      | none => s
    | none => s)

end Sys2Proof.Machine
end

