-- ==== Sys2Proof/Machine/Select.lean ====
section
/-!
DEFINITION. Selector writes that capture (R466): ledger, latent table, fence list, shadow tables, start-up times, BIST
results, homes and archive words.
-/
namespace Sys2Proof.Machine

/-- The ledger words of engine `e` (Table 6-7); an index that names no engine reads all zero. -/
def ledgerShow (f e : Nat) (s : State) : State :=
  let l := if engOk e then tget {} s.ledger e else {}
  let st := if engOk e then (s.core (engCore e)).st else 0
  (((s.setReg .FS_LEDGER_DATA0 f l.lastWt).setReg .FS_LEDGER_DATA1 f (l.retired % 2 ^ 32 + 2 ^ 32 * (l.proved % 2 ^ 32))).setReg
    .FS_LEDGER_DATA2 f (l.checked % 2 ^ 32 + 2 ^ 32 * (l.unchecked % 2 ^ 32))).setReg .FS_LEDGER_DATA3 f
    (l.epochProved % 2 ^ 32 + 2 ^ 32 * b2n l.epochActive + 2 ^ 33 * st + 2 ^ 36 * b2n l.overdue
      + 2 ^ 37 * b2n l.epochOverdue + 2 ^ 48 * l.fails)

/-- R172, R391: a write of FS_LEDGER_SEL. -/
def ledgerSelWrite (w : Writer) (f v : Nat) (s : State) : State :=
  if obsOk s w (s.partOf f) then ledgerShow f (2 ^ 15 * f + bits v 0 15) (s.wr F.FS_LEDGER_SEL_engine f (bits v 0 15))
  else s.denied
def execLedgerSelect (w : Writer) (f v : Nat) (s : State) : Out := regWrite w .FS_LEDGER_SEL f s <|
  onUnit (fieldOk f) (ledgerSelWrite w f v s)

/-- A latent entry as FS_FIX_DATA shows it (Table 8-13). -/
def fixWord (s : State) (f n : Nat) : Nat :=
  match tfind s.latent (64 * f + n) with
  | none => Reg.FS_FIX_DATA.rst
  | some x =>
    x.eng % 2 ^ 15 + 2 ^ 15 * (if x.confirmed then 2 else 1) + 2 ^ 17 * b2n (x.forced) + 2 ^ 18 * x.slot
      + 2 ^ 21 * x.replay + 2 ^ 24 * min 15 x.failures + 2 ^ 28 * x.cause + 2 ^ 32 * bits x.entered 20 32
/-- R196: a write of FS_FIX_SEL. -/
def fixSelWrite (w : Writer) (f v : Nat) (s : State) : State :=
  if notTenant w then (s.wr F.FS_FIX_SEL_entry f (bits v 0 6)).setReg .FS_FIX_DATA f (fixWord s f (bits v 0 6)) else s
def execFixSelect (w : Writer) (f v : Nat) (s : State) : Out := regWrite w .FS_FIX_SEL f s <|
  onUnit (fieldOk f) (fixSelWrite w f v s)

/-- R202: a write of CC_FENCE_IDX; a place beyond the entries in use reads zero. -/
def fenceIdxWrite (w : Writer) (v : Nat) (s : State) : State :=
  if notTenant w then
    let i := bits v 0 13
    (s.wr F.CC_FENCE_IDX_index 0 i).wr F.CC_FENCE_ENTRY_entry 0 (if i < s.flogUsed then logEntry s i else 0)
  else s
def execFenceIndexSelect (w : Writer) (v : Nat) (s : State) : Out := regWrite w .CC_FENCE_IDX 0 s <|
  .next (fenceIdxWrite w v s)

/-- R326, R327: writes of CC_CKPT_SHARD_SEL and CC_CKPT_HOST_SEL. -/
def shardSelWrite (w : Writer) (v : Nat) (s : State) : State :=
  if s.isOwner w then showShard (s.wr F.CC_CKPT_SHARD_SEL_index 0 (bits v 0 F.CC_CKPT_SHARD_SEL_index.w)) else s
def hostSelWrite (w : Writer) (v : Nat) (s : State) : State :=
  if s.isOwner w then showHost (s.wr F.CC_CKPT_HOST_SEL_index 0 (bits v 0 F.CC_CKPT_HOST_SEL_index.w)) else s
def execShardSelect (w : Writer) (v : Nat) (s : State) : Out := regWrite w .CC_CKPT_SHARD_SEL 0 s <|
  .next (shardSelWrite w v s)
def execHostSelect (w : Writer) (v : Nat) (s : State) : Out := regWrite w .CC_CKPT_HOST_SEL 0 s <|
  .next (hostSelWrite w v s)

/-- R399: a write of CC_BOOT_SEL. -/
def bootSelWrite (w : Writer) (v : Nat) (s : State) : State :=
  if notTenant w then
    (s.wr F.CC_BOOT_SEL_step 0 (bits v 0 4)).wr F.CC_BOOT_T_wt 0 (tget 0 s.boot.ends (bits v 0 4))
  else s
def execBootSelect (w : Writer) (v : Nat) (s : State) : Out := regWrite w .CC_BOOT_SEL 0 s <|
  .next (bootSelWrite w v s)

/-- A sub-unit's self-test has run: the CCs' by the end of step 4, the others' with their field's wave (R401, R402). -/
def bistRan (s : State) (u : Nat) : Bool :=
  unitKind u == 1 && unitPresent u && (match unitField u with
    | some f => (tget {} s.fsHw f).waveDone
    | none => !s.preCc)
/-- R403: a write of CC_BIST_SEL; a unit that ran and has no result of its own passed. -/
def bistSelWrite (w : Writer) (v : Nat) (s : State) : State :=
  if notTenant w then
    let u := bits v 0 24
    let r := (tfind s.bist u).getD (if bistRan s u then (1, 0) else (0, 0))
    ((s.wr F.CC_BIST_SEL_unit 0 (bits v 0 24)).setReg .CC_BIST_DATA0 0 r.1.toNat).setReg .CC_BIST_DATA1 0 r.2.toNat
  else s
def execBistSelect (w : Writer) (v : Nat) (s : State) : Out := regWrite w .CC_BIST_SEL 0 s <|
  .next (bistSelWrite w v s)

/-- CC_HOME_DATA of an MT or LT (Table 19-16b). -/
def homeWord (lt : Bool) (i : Nat) : Nat :=
  if lt then (if ltOk i then Config.ltHome i + 2 ^ 31 else 0)
  else if mtOk i then Config.mtHome i + 2 ^ 8 * Config.mtStack i + 2 ^ 31 else 0
/-- R449: a write of CC_HOME_SEL, by every master and sequencer. -/
def homeSelWrite (w : Writer) (v : Nat) (s : State) : State :=
  if notTenant w then
    ((s.wr F.CC_HOME_SEL_index 0 (bits v 0 10)).wr F.CC_HOME_SEL_kind 0 (bits v 10 1)).setReg .CC_HOME_DATA 0
      (homeWord (bit v 10) (bits v 0 10))
  else s
def execHomeSelect (w : Writer) (v : Nat) (s : State) : Out := regWrite w .CC_HOME_SEL 0 s <|
  .next (homeSelWrite w v s)

/-- R426, R428: a write of CC_ARCH_SEL captures the word as it reads, and its wear. -/
def archSelWrite (w : Writer) (v : Nat) (bad : Bool) (s : State) : State :=
  if s.isOwner w then
    let i := bits v 0 15
    match archRead i bad (s.wr F.CC_ARCH_SEL_word 0 i) with
    | (ue, t) =>
      let n := tget 0 t.wear i
      (t.setReg .CC_ARCH_DATA 0 (tget 0 t.arch i).toNat).setReg .CC_ARCH_WEAR 0
        (n + 2 ^ 17 * b2n (decide (wearLimit ≤ n)) + 2 ^ 18 * b2n ue)
  else s
def execArchiveSelect (w : Writer) (v : Nat) (bad : Bool) (s : State) : Out := regWrite w .CC_ARCH_SEL 0 s <|
  .next (archSelWrite w v bad s)

end Sys2Proof.Machine
end

