-- ==== Sys2Proof/Machine/Boot.lean ====
section
/-!
DEFINITION. Start-up, self-test, firmware broadcast and release (R399 to R408), and array self-test (R404).
-/
namespace Sys2Proof.Machine

/-! ### Steps -/

/-- The step in progress (Table 17-5). -/
def State.step (s : State) : Nat := s.rd F.CC_BOOT_STAT_step
/-- The step in progress ends now and the next begins. -/
def endStep (next : Nat) (s : State) : State :=
  { s with boot := { s.boot with ends := tput 0 s.boot.ends s.step s.wt, began := s.wt } }.wr F.CC_BOOT_STAT_step 0 next

/-! ### Power-up: steps 1 and 2 (R399, R428, R469) -/

/-- The persistent registers as step 2 loads them: a word that reads uncorrectable gives the reset value. -/
def persisted (bad : List Nat) (s : State) : Tbl W64 :=
  (forAll persistRegs (fun r t => forAll (List.range r.place.count) (fun i t =>
    let v := s.regVal r i
    if v = r.rst ∨ bad.contains (archWord r i) then t
    else t.setReg r i (r.rst - persistBits r r.rst + persistBits r v)) t) State.reset).regs

/-- Whether any of `n` words from `w` on reads uncorrectable. -/
def anyBad (bad : List Nat) (w n : Nat) : Bool := bad.any (fun b => decide (w ≤ b) && decide (b < w + n))
/-- The entries of a log whose words read. DEDUCED (log entry 81). -/
def readable {α : Type} (bad : List Nat) (w n : Nat) (l : List α) : List α :=
  (((List.range l.length).zip l).filter (fun x => !anyBad bad (w + n * x.1) n)).map (·.2)

/-- R318: an outage entry of an earlier power-up counts as made at WT 0. -/
def outAged (v : W64) : W64 := BitVec.ofNat 64 (v.toNat % 2 ^ 8)

/-- Power-up: what the archive, the fuses, the stores and the straps hold survives, all else takes its power-up value; WT
starts at 0. Steps 1 and 2 take their typical times (Table 17-1, log entry 10), and step 3 begins.
DEDUCED (log entry 72). DEDUCED (log entry 81). DEDUCED (log entry 85). -/
def powerUp (waferId sa : Nat) (bad : List Nat) (s : State) : State :=
  let t : State := { State.reset with
    pending := s.pending
    freeCtr := s.freeCtr
    entCtr := s.entCtr
    regs := persisted bad s
    arch := s.arch
    wear := s.wear
    flogUsed := s.flogUsed
    fuseBad := s.fuseBad
    outLog := (readable bad 0x2100 1 s.outLog).map outAged
    savedSlots := s.savedSlots.filter (fun j => !anyBad bad (0x2000 + 4 * j) 4)
    repairs := readable bad 0x2200 1 s.repairs
    trainRecs := (readable bad 0x2400 24 s.trainRecs)
    bank0 := s.bank0
    bank1 := s.bank1
    bankAct := s.bankAct
    bankWear := s.bankWear
    imgBank := s.imgBank
    imgWear := s.imgWear
    i3cSa := sa
    boot := { bad := bad } }
  let t := (t.wr F.CC_LIFECYCLE_state 0 s.lifecycle).wr F.CC_BUILD1_wafer_id 0 waferId
  let t := t.wr F.CC_ARCH_STAT_max_wear 0 (t.wear.foldl (fun a e => max a e.2) 0)
  let t := endStep 2 (t.toWt (ms / 2))
  let t := forAll (bad.filter (fun b => decide (b < 2 ^ 15))) (archUeRecord · false) t
  let t := forAll (List.range Config.nPart) (fun p t => t.setPhase p (if partPresent t p then 4 else 6)) t
  endStep 3 ((fenceSync t).toWt (5 * ms / 2))

/-- R399. -/
def execPowerOnReset (waferId sa : Nat) (bad : List Nat) (s : State) : Out := .next (powerUp waferId sa bad s)

/-! ### BIST (R401 to R403) -/

/-- A unit passes when every failing address is repaired, no signature differs and its clock is there. -/
def bistPass (r : BistRes) : Bool := !r.absent && r.mem.all (·.repaired) && r.scan.isEmpty
/-- CC_BIST_DATA0 and DATA1 (Table 17-8). -/
def bistWords (r : BistRes) : W64 × W64 :=
  let m := (r.mem.find? (fun x => !x.repaired)).getD ⟨0, 0, 0, false⟩
  let d := r.scan.headD ⟨0, 0⟩
  (BitVec.ofNat 64 ((if bistPass r then (if r.mem.isEmpty then 1 else 3) else 2) + 2 ^ 2 * b2n r.absent
      + 2 ^ 8 * min 255 r.mem.length + 2 ^ 16 * m.mem + 2 ^ 24 * m.addr + 2 ^ 48 * m.bit + 2 ^ 57 * d.domain),
   BitVec.ofNat 64 d.sig)

/-- A repair as a word of the repair map (log entry 5). DESIGN CHOICE. -/
def repairWord (u : Nat) (m : MemFail) : Nat := u + 2 ^ 24 * m.mem + 2 ^ 32 * m.addr
/-- A repair is appended to the repair map (R401, R427); a full or worn area takes nothing. -/
def addRepair (u : Nat) (m : MemFail) (s : State) : State :=
  if s.repairs.length < 512 then
    match archWrite (0x2200 + s.repairs.length) (repairWord u m) true s with
    | (true, t) => { t with repairs := t.repairs ++ [(u, m.mem, m.addr)] }
    | (false, t) => t
  else s

/-- Records and repairs of a unit's BIST, and the result CC_BIST_DATA shows (R401 to R403, Table 17-10).
DEDUCED (log entry 76). -/
def bistResult (outside : Bool) (r : BistRes) (s : State) : State :=
  let s := forAll r.mem (fun m t =>
    raiseCc { code := Code.MBIST_FAIL, unit := r.unit,
              params := m.mem + 2 ^ 8 * m.addr + 2 ^ 32 * m.bit + 2 ^ 41 * b2n m.repaired + 2 ^ 42 * b2n outside }
      (if m.repaired then addRepair r.unit m t else t)) s
  let s := forAll r.scan (fun d t =>
    raiseCc { code := Code.LBIST_FAIL, unit := r.unit,
              params := d.domain + 2 ^ 7 * (d.sig % 2 ^ 32) + 2 ^ 39 * b2n outside } t) s
  { s with bist := tput (0, 0) s.bist r.unit (bistWords r) }

/-- A unit that fails start-up testing is fenced at step 8 (R210). -/
def bootFail (u : Nat) (s : State) : State :=
  if s.boot.failed.contains u then s else { s with boot := { s.boot with failed := s.boot.failed ++ [u] } }

/-- CC_BOOT_STAT.fs_failed: the FSs that failed BIST or verification (Table 17-5). -/
def fsFailedSync (s : State) : State :=
  s.wr F.CC_BOOT_STAT_fs_failed 0 (sat 8 ((List.range Config.nField).filter (fun f =>
    let h := tget {} s.fsHw f
    h.bistFail || h.imgFail)).length)

/-- Tokens the BIST of one field needs (R402). -/
def bistTok (s : State) : Nat := s.rd F.CC_BOOT_CFG_bist_tok
/-- The next BIST wave: as many fields as CC_BOOT_CFG.wave and the budget allow, never fewer than one. -/
def waveStart (s : State) : State :=
  let most := max 1 (s.rd F.CC_BOOT_CFG_wave)
  let free := s.rd F.CC_TEST_BUDGET_budget - s.rd F.CC_TEST_BUDGET_in_use
  let n := if bistTok s = 0 then most else max 1 (min most (free / bistTok s))
  let l := (List.range n).map (s.boot.next + ·) |>.filter fieldOk
  let t := { s with boot := { s.boot with wave := l, next := s.boot.next + n } }
  t.wr F.CC_TEST_BUDGET_in_use 0 (sat 16 (t.rd F.CC_TEST_BUDGET_in_use + l.length * bistTok s))

/-- R402, R412: CC BIST ends; CC-A is active unless it fails. The boot log goes to the master copy (R400). With both CCs
lost start-up stops, and the service level is 0. DEDUCED (log entry 85). -/
def ccBistDone (a b : BistRes) (s : State) : State :=
  let a := { a with unit := ccInstUnit 0 }
  let b := { b with unit := ccInstUnit 1 }
  let s := bistResult false b (bistResult false a s)
  let s := if bistPass a then s else bootFail a.unit s
  let s := if bistPass b then s else bootFail b.unit s
  if !bistPass a && !bistPass b then bothCcLost s
  else
    let s := (s.wr F.CC_ROLE_active 0 (b2n !bistPass a)).wr F.CC_ROLE_standby_ok 0 (b2n (bistPass a && bistPass b))
    let l := s.boot.log
    let s := forAll l ccStore { endStep 5 s with boot := { (endStep 5 s).boot with log := [] } }
    waveStart (archPinSync s)
/-- R402. -/
def execCcBistDone (a b : BistRes) (s : State) : Out :=
  .next (if s.step = 4 ∧ s.ccLost = false then ccBistDone a b s else s)

/-! ### Start-up strips (R405) -/

def State.bootStrip (s : State) (f : Nat) : BootStrip := tget {} s.boot.strips f
def State.setBootStrip (s : State) (f : Nat) (x : BootStrip) : State :=
  { s with boot := { s.boot with strips := tput {} s.boot.strips f x } }

/-- Step 7 begins: every working FS asks for every core of its field, none of which is fenced yet (R210, R405). -/
def stripsBegin (s : State) : State :=
  let cs := ((List.range Config.nField).filter s.fsWorks).flatMap coresOfField
  { s with cores := cs.foldr (fun c t => tput {} t c { raiseReq (s.core c) 3 0 false with st := 2 }) s.cores }

/-- Step 6 takes its typical 2 ms (Table 17-1, log entry 10); step 7 begins. -/
def fuseRead (s : State) : State := stripsBegin (endStep 7 (s.toWt (s.wt + 2 * ms)))

/-- The cores of a field with a start-up request. -/
def bootCores (s : State) (f : Nat) : List Nat := ((fieldCores s f).filter (fun e => e.2.kind == 3 && e.2.req)).map (·.1)

/-- Once every asked core has granted or been released, the field's strip runs. -/
def bootCheck (f : Nat) (s : State) : State :=
  let cs := bootCores s f
  if s.step ≠ 7 ∨ (s.bootStrip f).done ∨ cs.any (fun c => !(s.core c).granted) = true
      ∨ (tget [] s.strips f).any (·.startup) = true then s
  else if cs.isEmpty then s.setBootStrip f { s.bootStrip f with done := true }
  else startStrip f cs 0 false false true s

/-- A start-up request is granted. -/
def grantBoot (c : Nat) (s : State) : State :=
  bootCheck (coreField c) (s.setCore c { s.core c with st := 5, granted := true })

/-- R405: a core that has not granted in time is released, and stays due. -/
def execBootStripWaitExpire (c : Nat) (s : State) : Out :=
  onUnit (coreOk c) (
    let x := s.core c
    if s.step = 7 ∧ x.kind = 3 ∧ x.req = true ∧ x.granted = false then
      let t := s.toWt (s.boot.began + max 1 (s.rd F.CC_BOOT_CFG_strip_wait_ms) * ms)
      let t := (releaseCore c t).bump F.CC_BOOT_STAT_strips_missed
      bootCheck (coreField c) (raiseFs (coreField c)
        { code := Code.BOOT_STRIP_MISSED, unit := coreEng c, params := coreIdx c } t)
    else s)

/-- The cores of a strip are released, but for those that go on. DEDUCED (log entry 80). -/
def bootRelease (x : Strip) (vs : List (Nat × List Verdict)) (stay : List Nat) (s : State) : State :=
  forAll (vs.filter (fun cv => !stay.contains cv.1)) (fun cv t =>
    coreSettled cv.1 x (cv.2.filter (fun v => v.out != 0)).length t) s

/-- The verdict of an engine's second start-up strip (R210, R211): only one that fails both is appended; a fuse-marked one that
passes both is recorded. -/
def secondVerdict (x : Strip) (b : BootStrip) (v : Verdict) (s : State) : State :=
  if b.second.contains v.eng then (if v.out != 0 then bootFail v.eng s else s)
  else if v.out == 0 && s.fuseBad.contains v.eng then
    raiseCc { code := Code.FUSE_TEST_DISAGREE, unit := v.eng, params := x.num % 2 ^ 32 } s
  else s

/-- A start-up strip settles: failing engines, and fuse-marked ones, run a second strip against the array alone; an outvoted
array runs the field's strip once more, and a second outvote fails the FS's BIST (R211, R405).
DEDUCED (log entry 80). -/
def bootSettle (f : Nat) (x : Strip) (s : State) : State :=
  let vs := x.cores.map (fun c => (c, coreVerdicts s x c))
  let all := (vs.map (·.2)).flatten
  let s := s.bumpWrap F.FS_STRIP_CNT_runs f
  let s := forAll (all.filter (fun v => v.out != 0)) (fun v t => stripFail f x v false true t)
    (forAll all (fun v t => engSettled v.eng t) s)
  let s := { s with strips := tput [] s.strips f ((tget [] s.strips f).filter (fun y => y.num != x.num)) }
  let b := s.bootStrip f
  let failed := (all.filter (fun v => v.out != 0)).map (·.eng)
  if x.rerun then
    let s := forAll all (secondVerdict x b) s
    (bootRelease x vs [] s).setBootStrip f { b with done := true }
  else
    match all.find? (·.vote) with
    | some v =>
      let s := (raiseFs f { code := Code.ARRAY_OUTVOTED, unit := fsUnit f,
                            params := x.num % 2 ^ 32 + 2 ^ 32 * v.item } s).wr F.FS_PROOF_STAT_array_suspect f 1
      if b.outvoted then
        let s := (bootRelease x vs [] s).setBootStrip f { b with done := true }
        let h : FsHw := { tget {} s.fsHw f with bistFail := true }
        bootFail (fsUnit f) (fsFailedSync { s with fsHw := tput {} s.fsHw f h })
      else startStrip f x.cores 0 false false true (s.setBootStrip f { b with outvoted := true })
    | none =>
      let two := (all.map (·.eng)).filter (fun e => failed.contains e || s.fuseBad.contains e)
      let stay := x.cores.filter (fun c => two.any (fun e => engCore e == c))
      let s := (bootRelease x vs stay s).setBootStrip f { b with second := failed, done := two.isEmpty }
      if two.isEmpty then s else startStrip f stay 0 false true true s two

/-- A field's self-test is over: results of its units, whether its FS and its router pass (R402, R212); a router is recorded
down once (R35). -/
def fieldBist (res : List BistRes) (f : Nat) (s : State) : State :=
  let mine := res.filter (fun r => unitField r.unit == some f && unitKind r.unit == 1 && unitType r.unit != 0
    && unitPresent r.unit)
  let bad := fun (u : Nat) => mine.any (fun r => r.unit == u && !bistPass r)
  let s := forAll mine (fun r t => if bistPass r then bistResult false r t else bootFail r.unit (bistResult false r t)) s
  let h := tget {} s.fsHw f
  let down := h.routerDown
  let h : FsHw := { h with waveDone := true, bistFail := bad (fsUnit f), routerDown := h.routerDown || bad (routerUnit f) }
  let s := { s with fsHw := tput {} s.fsHw f h }
  let s := if bad (routerUnit f) && !down then trogDown f s else s
  fsFailedSync s

/-- R402: the wave's tokens are back; the next wave starts, or step 6 and then step 7. -/
def execBistWaveDone (res : List BistRes) (s : State) : Out :=
  .next (
    if s.step = 5 ∧ s.boot.wave ≠ [] then
      let t := forAll s.boot.wave (fieldBist res) s
      let t := t.wr F.CC_TEST_BUDGET_in_use 0 (t.rd F.CC_TEST_BUDGET_in_use - s.boot.wave.length * bistTok s)
      let t := { t with boot := { t.boot with wave := [] } }
      if t.boot.next < Config.nField then waveStart t else fuseRead (endStep 6 t)
    else s)

/-! ### Broadcast (R406) -/

/-- Whether the CC broadcasts the FS boot bank: some field wants it, and the bank passes. -/
def broadcasts (s : State) : Bool :=
  (List.range Config.nField).any (fun f => !useRef s f)
    && (match (checkBank s 1 (bootOf s 1)).res with | .ok _ => true | .error _ => false)

/-- Step 9 begins. -/
def broadcastBegin (s : State) : State :=
  let b := bootOf s 1
  let c := checkBank s 1 b
  let s := if (List.range Config.nField).all (useRef s) || (imgBankOf s 1 b).isEmpty then s
    else match c.res with
      | .ok _ => s
      | .error r => imgReject 1 b c.version r true s
  { s with boot := { s.boot with wait := if broadcasts s then (List.range Config.nField).filter s.fsWorks else [] } }

/-- R406: an FS has checked its copy: a contribution to tree 33, a resend, or the reference program for good.
DEDUCED (log entry 83). -/
def execFsImageVerified (f : Nat) (copy : List Byte) (s : State) : Out :=
  onUnit (fieldOk f) (
    if s.step = 9 ∧ s.boot.wait.contains f = true ∧ s.aonOnly = false then
      let done := fun (t : State) => { t with boot := { t.boot with wait := t.boot.wait.filter (· != f) } }
      match (checkImage 1 (imgFloor s 1) s.lifecycle copy).res with
      | .ok _ => done s
      | .error r =>
        let n := tget 0 s.boot.tries f + 1
        let t := { s with boot := { s.boot with tries := tput 0 s.boot.tries f n } }
        if n < 3 then t
        else
          let t := raiseFs f { code := Code.BCAST_VERIFY_FAIL, unit := fsUnit f, params := r + 2 ^ 4 * n } t
          let h : FsHw := { tget {} t.fsHw f with imgFail := true }
          done (fsFailedSync { t with fsHw := tput {} t.fsHw f h })
    else s)

/-! ### Step 8: the fence set (R210, R211) -/

/-- Units on the list whose entries read (R202, R428), in list order. DEDUCED (log entry 81). -/
def listedUnits (s : State) : List FUnit :=
  (List.range s.flogUsed).filterMap (fun i =>
    let v := logEntry s i
    if v / 2 ^ 24 != 0 && newestOf s (v % 2 ^ 24) == some i && !s.boot.bad.contains (fenceWord + i / 2) then
      some ⟨v % 2 ^ 24, v / 2 ^ 24, i, false, false⟩ else none)

/-- The step-8 set is acknowledged: step 9 begins. -/
def setAcked (s : State) : State :=
  if s.step = 8 ∧ s.fenceQ = [] ∧ s.fencePort = none then broadcastBegin (endStep 9 s) else s

/-- Reconciliation: the fuse map, the list and what failed form the set, which the port drives; an update that stands on
the port stays there until it is acknowledged (R207).
DEDUCED (log entry 83). -/
def reconcile (s : State) : State :=
  let fuse := s.fuseBad.map (fun u => FUnit.mk u 7 0x3FFF false false)
  let list := (listedUnits s).filter (fun x => !s.fuseBad.contains x.unit)
  let base := fuse ++ list
  let held := fun (x : FUnit) => match s.fencePort with | some p => p.upd.unit == x.unit | none => false
  let s := { s with fset := base,
                    fenceQ := (base.filter (!held ·)).map (fun x => FUpd.mk x.unit true x.reason x.idx false) }
  let s := forAll (base.filter (fun x => unitKind x.unit == 1 && unitType x.unit == 0)) (fun x t => confirmEffect x.unit t) s
  setAcked (fenceSync (forAll s.boot.failed (fun u t => (storeFence u (if unitKind u = 0 then 8 else 0x0B) t).2) s))

/-- R210. -/
def execStartStripsDone (s : State) : Out :=
  .next (
    if s.step = 7 ∧ ((List.range Config.nField).filter s.fsWorks).all (fun f =>
        (s.bootStrip f).done || (bootCores s f).isEmpty) = true then reconcile (endStep 8 s)
    else s)

/-- R207, R211. -/
def execFenceAck (s : State) : Out := .next (setAcked (fenceAck s))

/-! ### Training (R407) -/

/-- A channel (below 1024) or port (1024 + l) whose full training failed. DESIGN CHOICE (log entry 21).
DEDUCED (log entry 82). -/
def trainFail (u : Nat) (tried : Bool) (s : State) : State :=
  let lt := decide (1024 ≤ u)
  let i := u % 1024
  let e : Ev := { code := Code.TRAIN_FAIL, unit := if lt then ltUnit i else mtUnit i,
                  params := b2n lt + 2 * i + 2 ^ 11 * b2n tried }
  if s.fsWorks (if lt then Config.ltHome i else Config.mtHome i) then (if lt then raiseLt i e s else raiseMt i e s)
  else raiseCc e s

/-- Step 10 ends: full_train is used up. -/
def trainEnd (s : State) : State := endStep 11 (wrPersist F.CC_BOOT_CFG_full_train 0 0 s)

/-- Step 10 begins: taps whose FS does not work cannot be trained. DEDUCED (log entry 82). -/
def trainBegin (s : State) : State :=
  let us := List.range Config.nMt ++ (List.range Config.nLt).map (1024 + ·)
  let lost := us.filter (fun u => !s.fsWorks (if 1024 ≤ u then Config.ltHome (u - 1024) else Config.mtHome u))
  let t := forAll lost (fun u t => trainFail u false t)
    { s with boot := { s.boot with left := us.filter (fun u => !lost.contains u) } }
  let t := forAll t.boot.left trainRead t
  if t.boot.left.isEmpty then trainEnd t else t

/-- R407: a channel or port reports. -/
def execTrainReport (link : Bool) (i : Nat) (ok full tried : Bool) (data : List Byte) (s : State) : Out :=
  let u := if link then 1024 + i else i
  onUnit (if link then ltOk i else mtOk i) (
    if s.step = 10 ∧ s.boot.left.contains u = true ∧ s.aonOnly = false then
      let t := { s with boot := { s.boot with left := s.boot.left.filter (· != u) } }
      let t := if ok then
          let t := if link then { t with ltUp := tput false t.ltUp i true } else t
          if full || s.rb F.CC_BOOT_CFG_full_train || !trained s u then
            (trainAppend u data t).wr F.CC_BOOT_STAT_full_train 0 1
          else t
        else trainFail u tried t
      if t.boot.left.isEmpty then trainEnd t else t
    else s)

/-- R407: the limit of step 10. DEDUCED (log entry 82). -/
def execTrainLimitExpire (s : State) : Out :=
  .next (
    if s.step = 10 then
      let t := s.toWt (s.boot.began + max 1 (s.rd F.CC_BOOT_CFG_train_s) * sec)
      trainEnd (forAll t.boot.left (fun u t => trainFail u false t) { t with boot := { t.boot with left := [] } })
    else s)

/-- R406, R230, R262: the broadcast ends; the pack is loaded, selection keys are drawn (R114) and every sequencer starts. In
SCRAPPED step 10 is skipped (R408). -/
def broadcastDone (s : State) : State :=
  let b := bootOf s 1
  let up := (List.range Config.nField).filter (fun f =>
    let h := tget {} s.fsHw f
    s.fsWorks f || (h.waveDone && !h.bistFail && !h.routerDown && h.imgFail && !s.fencedOr (fsUnit f)))
  let s := forAll (up.filter s.fsWorks) rekey (packBoot (up.filter s.fsWorks) s)
  let s := forAll up (fun f t =>
    if broadcasts t && t.fsWorks f then (startFrom f b t).2 else seqStart f 0 0 [] t) s
  let s := imgVerSync (startCc (bootOf s 0) s).2
  epochSync (if s.scrapped then endStep 11 s else trainBegin (endStep 10 s))
def execBroadcastDone (s : State) : Out :=
  .next (if s.step = 9 ∧ s.boot.wait = [] ∧ s.aonOnly = false then broadcastDone s else s)

/-! ### Release (R408) -/

/-- Why a field has no working FS (Table 8-19): BIST, router, image, fenced. -/
def fsCause (s : State) (f : Nat) : Nat :=
  let h := tget {} s.fsHw f
  if h.bistFail then 0 else if h.routerDown then 1 else if h.imgFail then 2 else 3

/-- An update for a unit of a field is stored and not yet acknowledged (R207, R211). -/
def fieldPending (s : State) (f : Nat) : Bool :=
  let mine := fun (u : Nat) => unitField u == some f
  s.fset.any (fun x => !x.acked && mine x.unit) || s.fenceQ.any (fun x => mine x.unit)
    || (match s.fencePort with | some p => mine p.upd.unit | none => false)

/-- R408: step 11. -/
def fieldRelease (s : State) : State :=
  let fs := List.range Config.nField
  let hold := s.rb F.CC_BUDGET_STAT_hold || s.scrapped || fs.any (fun f => !partOk (s.partOf f))
  let rel := if hold then [] else fs.filter (fun f => s.fsWorks f || s.rb F.CC_FIX_POLICY_unmon_release)
  let s := forAll rel (setReleased · true) s
  let s := forAll (rel.filter (fun f => !s.fsWorks f)) (fun f t =>
    raiseCc { code := Code.FIELD_UNMONITORED, unit := fsUnit f, params := f + 2 ^ 7 * fsCause t f + 2 ^ 9 } t) s
  let live := (List.range Config.nPart).filter (fun p => rel.any (fun f => s.partOf f == p))
  let s := forAll live (fun p t => t.setPhase p 0) s
  let chans := (List.range Config.nMt).filter (fun m =>
    !s.chanFree m && live.contains (s.partOfChan m) && !unitFenced s (chanUnit m))
  let s := { s with dsFieldOpen := rel, dsChanOpen := chans }
  let s := serviceSync (s.wr F.CC_BOOT_STAT_hold_release 0 (b2n (hold || rel.isEmpty)))
  let s := (endStep 12 s).wr F.CC_BOOT_STAT_done_ms 0 (sat 24 (s.wt / ms))
  let e : Ev := { code := Code.BOOT_DONE, unit := s.ccUnit,
                  params := s.wt / ms % 2 ^ 32 + 2 ^ 32 * rel.length + 2 ^ 39 * b2n (hold || rel.isEmpty)
                    + 2 ^ 40 * s.rd F.CC_BOOT_STAT_full_train }
  epochSync (wdogSyncAll (raiseCc e s))
/-- R211, R408: step 11 ends once every update for the units of the fields has been acknowledged. DEDUCED (log entry 109). -/
def execFieldRelease (s : State) : Out :=
  .next (if s.step = 11 ∧ (List.range Config.nField).any (fieldPending s) = false then fieldRelease s else s)

/-- R412: the active CC failed in steps 5 to 9, and the present step begins again; fences already stored stand.
DEDUCED (log entry 83). -/
def bootRepeat (s : State) : State :=
  match s.step with
  | 5 =>
    let b : Boot := { s.boot with
      next := 0, wave := [], failed := s.boot.failed.filter (fun u => unitKind u == 1 && unitType u == 0) }
    let t : State := { s with boot := b, fsHw := s.fsHw.map (fun (e : Nat × FsHw) => (e.1, ({ e.2 with waveDone := false } : FsHw))) }
    waveStart (t.wr F.CC_TEST_BUDGET_in_use 0 (t.rd F.CC_TEST_BUDGET_in_use - s.boot.wave.length * bistTok s))
  | 7 =>
    let t := forAll ((List.range Config.nField).filter s.fsWorks) (fun f t => forAll (bootCores t f) abortOne t) s
    stripsBegin { t with boot := { t.boot with strips := [], failed := t.boot.failed.filter (fun u => unitKind u == 1) } }
  | 8 => reconcile s
  | 9 => broadcastBegin { s with boot := { s.boot with tries := [] } }
  | _ => s

/-! ### Array self-test (R404) and programmable BIST (R403) -/

/-- A write of FS_SELFTEST: by the owner or the field's sequencer, in every state but SCRAPPED.
DESIGN CHOICE (log entry 84). -/
def selfTestWrite (w : Writer) (f v : Nat) (s : State) : State :=
  if bit v 0 && (s.isOwner w || isSeq w f) && !s.scrapped && !selfTesting s f then
    let t := { s with selfReq := tput false s.selfReq f true }.wr F.FS_SELFTEST_busy f 1
    if (t.entries f).isEmpty then { t with selfEnd := tput 0 t.selfEnd f (t.wt + 2 * ms) } else t
  else s
def execArraySelftestStart (w : Writer) (f : Nat) (s : State) : Out := regWrite w .FS_SELFTEST f s <|
  onUnit (fieldOk f) (selfTestWrite w f 1 s)

/-- The 2 ms from the moment the queue was empty have passed. -/
def execArraySelftestDone (f : Nat) (pass : Bool) (s : State) : Out :=
  onUnit (fieldOk f) (
    if tget false s.selfReq f && (s.entries f).isEmpty && s.fieldLive f then
      let t := s.toWt ((tfind s.selfEnd f).getD (tget 0 s.arrIdle f + 2 * ms))
      let t := { t with selfReq := tdel t.selfReq f, selfEnd := tdel t.selfEnd f }
      (t.wr F.FS_SELFTEST_busy f 0).wr F.FS_SELFTEST_result f (if pass then 1 else 2)
    else s)

/-- R403: PROBE's own BIST run, in MANUFACTURE and RMA; its result replaces the one shown.
DESIGN CHOICE (log entry 84). -/
def execProbeBistRun (res : BistRes) (s : State) : Out :=
  onUnit (unitKind res.unit == 1 && unitPresent res.unit) (if s.factory && !s.preCc then bistResult true res s else s)

end Sys2Proof.Machine
end

