-- ==== Sys2Proof/Machine/Owner.lean ====
section
/-!
DEFINITION. Ownership of the block (R409 to R411).
-/
namespace Sys2Proof.Machine

/-- A pending handover ends; no master is named. DEDUCED (log entry 79). -/
def endHandover (s : State) : State := (s.wr F.CC_OWNER_HO_target 0 3).wr F.CC_OWNER_HO_pending 0 0

/-- A change of owner (R409, Table 17-10): how is 0 claim, 1 handover, 2 takeover, 3 release. -/
def ownerChange (new how : Nat) (s : State) : State :=
  let old := s.rd F.CC_OWNER_owner
  let t := endHandover (((s.wr F.CC_OWNER_owner 0 new).wr F.CC_OWNER_stale 0 0).bump F.CC_OWNER_changes)
  raiseCc { code := Code.OWNER_CHANGED, unit := t.ccUnit, params := new + 2 ^ 2 * old + 2 ^ 4 * how } { t with ownAt := t.wt }

/-- op claim: when there is no owner, or by TRAY over a stale one. -/
def ownerClaim (w : Writer) (s : State) : State :=
  if masterNum w = 3 then s
  else if s.rd F.CC_OWNER_owner = 3 then ownerChange (masterNum w) 0 s
  else if s.rb F.CC_OWNER_stale ∧ w = .tray ∧ s.isOwner w = false then ownerChange 1 2 s
  else s
/-- op release, by the owner. -/
def ownerRelease (w : Writer) (s : State) : State := if s.isOwner w then ownerChange 3 3 s else s
/-- op accept, by the target of a pending handover within 100 ms. -/
def ownerAccept (w : Writer) (s : State) : State :=
  if s.rb F.CC_OWNER_HO_pending ∧ masterNum w ≠ 3 ∧ s.rd F.CC_OWNER_HO_target = masterNum w ∧ s.wt ≤ s.hoAt + 100 * ms then
    ownerChange (masterNum w) 1 s
  else s
/-- A write of CC_OWNER (Table 17-3). -/
def ownerWrite (w : Writer) (v : Nat) (s : State) : State :=
  match bits v 4 3 with
  | 1 => ownerClaim w s
  | 2 => ownerRelease w s
  | 3 => ownerAccept w s
  | _ => s
def execOwnerClaim (w : Writer) (s : State) : Out := regWrite w .CC_OWNER 0 s <|
  .next (ownerWrite w 0x10 s)
def execOwnerRelease (w : Writer) (s : State) : Out := regWrite w .CC_OWNER 0 s <|
  .next (ownerWrite w 0x20 s)
def execOwnerAccept (w : Writer) (s : State) : Out := regWrite w .CC_OWNER 0 s <|
  .next (ownerWrite w 0x30 s)

/-- R410: 5 s without an owner access. -/
def execOwnerStale (s : State) : Out :=
  .next (if s.rd F.CC_OWNER_owner = 3 ∨ s.rb F.CC_OWNER_stale then s
    else (s.toWt (s.ownAt + 5 * sec)).wr F.CC_OWNER_stale 0 1)

/-- R411: a write of CC_OWNER_HO. -/
def handoverWrite (w : Writer) (v : Nat) (s : State) : State :=
  let t := bits v 0 2
  if !s.isOwner w || t == s.rd F.CC_OWNER_owner then s
  else if t = 3 then endHandover s
  else ({ s with hoAt := s.wt }.wr F.CC_OWNER_HO_target 0 t).wr F.CC_OWNER_HO_pending 0 1
def execHandoverStart (w : Writer) (target : Nat) (s : State) : Out := regWrite w .CC_OWNER_HO 0 s <|
  .next (handoverWrite w target s)

/-- R411: 100 ms without accept. -/
def execHandoverLapsed (s : State) : Out :=
  .next (if s.rb F.CC_OWNER_HO_pending then
      let t := s.toWt (s.hoAt + 100 * ms)
      raiseCc { code := Code.HANDOVER_LAPSED, unit := t.ccUnit,
                params := s.rd F.CC_OWNER_HO_target + 2 ^ 2 * s.rd F.CC_OWNER_owner } (endHandover t)
    else s)

end Sys2Proof.Machine
end

