-- ==== Sys2Proof/Machine/Clock.lean ====
section
/-!
DEFINITION. Clocks, the TAPCLK source and AON-only operation, supplies, and host cycle capture (R414 to R425).
-/
namespace Sys2Proof.Machine

/-! ### The clocks and their pairs (R414, R415, R420) -/

/-- Clock numbers of CC_CLK_STAT.judged: 0 AONCLK, 1 REFCLK, 2 BKCLK; the two clocks of pair 0, 1 or 2. -/
def pairClks (i : Nat) : List Nat := if i = 0 then [0, 1] else if i = 1 then [0, 2] else [1, 2]
/-- Nominal ratio of a pair (R414). -/
def pairNominal (i : Nat) : Nat × Nat := if i = 0 then (2, 1) else if i = 1 then (5, 2) else (5, 4)
def State.pair (s : State) (i : Nat) : ClkPair := tget {} s.clkPairs i
def State.setPairs (s : State) (i : Nat) (x : ClkPair) : State := { s with clkPairs := tput {} s.clkPairs i x }
/-- Whether a pair is settled (R414). -/
def pairSettled (s : State) (i : Nat) : Bool := (s.pair i).ref.isSome

/-- A clock takes part in the judgement: BKCLK not while asleep or starting cold (R420). -/
def clkAwake (s : State) (c : Nat) : Bool := c != 2 || s.bkRun == .on
def clkCondemned (s : State) (c : Nat) : Bool := bit (s.rd F.CC_CLK_STAT_condemned) c
def setCondemned (c : Nat) (b : Bool) (s : State) : State :=
  s.wr F.CC_CLK_STAT_condemned 0 (setBits (s.rd F.CC_CLK_STAT_condemned) c 1 (b2n b))
/-- A clock is judged: a settled, agreeing pair, and not condemned (R415). DEDUCED (log entry 86). -/
def clkJudged (s : State) (c : Nat) : Bool :=
  clkAwake s c && !clkCondemned s c && [0, 1, 2].any (fun i => (pairClks i).contains c && pairSettled s i)
/-- Forget the judgement of a clock's pairs: they settle anew. -/
def unsettle (c : Nat) (s : State) : State :=
  forAll [0, 1, 2] (fun i t => if (pairClks i).contains c then { t with clkPairs := tdel t.clkPairs i } else t) s

/-- Number of a reference clock: 1 REFCLK, 2 BKCLK; its CC_CLK_STAT.src coding is one less. -/
def refClk (bk : Bool) : Nat := if bk then 2 else 1
/-- Ready: judged, with a PLL locked for 50 µs (R417). -/
def clkReady (s : State) (bk : Bool) : Bool := clkJudged s (refClk bk) && (if bk then s.pllBk else s.pllRef)
/-- The preferred source (CC_CLK_CFG.src_pref). -/
def prefBk (s : State) : Bool := s.rb F.CC_CLK_CFG_src_pref

/-- `a` within one part in `k` of `b`, both exact fractions. -/
def near (k : Nat) (a b : Nat × Nat) : Bool :=
  a.2 != 0 && b.2 != 0 && decide ((a.1 * b.2 - b.1 * a.2) * k ≤ b.1 * a.2) && decide ((b.1 * a.2 - a.1 * b.2) * k ≤ b.1 * a.2)
/-- The mean of three ratios. -/
def mean3 : List (Nat × Nat) → Option (Nat × Nat)
  | [a, b, c] => some (a.1 * b.2 * c.2 + b.1 * a.2 * c.2 + c.1 * a.2 * b.2, 3 * a.2 * b.2 * c.2)
  | _ => none

/-- The AONCLK cycles of a window (R414). -/
def winCycles : Nat := 2 ^ 14
/-- Ratio of a pair in a window with these counts. -/
def pairRatio (i ref bk : Nat) : Nat × Nat :=
  if i = 0 then (ref, winCycles) else if i = 1 then (bk, winCycles) else (bk, ref)
/-- One window of a pair: settling, or agreeing with its reference; the Bool tells that a settled pair disagreed.
DEDUCED (log entry 86). -/
def pairWindow (i ref bk : Nat) (x : ClkPair) : Bool × ClkPair :=
  let r := pairRatio i ref bk
  let l := (r :: x.last).take 3
  match x.ref with
  | some m => if near 1000 r m then (false, { last := l, ref := (mean3 l).orElse (fun _ => some m) }) else (true, {})
  | none =>
    match mean3 l with
    | some m => if l.all (fun q => near 100 q (pairNominal i) && near 1000 q m) then (false, { last := l, ref := some m })
                else (false, { last := l })
    | none => (false, { last := l })

/-! ### AON-only operation (R417, R418) -/

/-- CLK_SWITCH (Table 18-9). -/
def clkSwitch (new old : Nat) (hitless : Bool) (s : State) : State :=
  raiseCc { code := Code.CLK_SWITCH, unit := s.ccUnit, params := new + 2 ^ 2 * old + 2 ^ 4 * b2n hitless } s
/-- Every sequencer sees TAPCLK stop or start (event 5 of Table 10-7). -/
def tapEdges (s : State) : State := forAll (List.range Config.nField ++ [ccSeq]) (fun q t => seqEdge q 5 t) s

/-- What a field's FS ends when TAPCLK stops: context replay, requests and strips (a shadow keeps its force bit, Table 6-18),
session, maintenance window and tokens, and tiles queued or on their way. -/
def fsAon (f : Nat) (s : State) : State :=
  let s := crepEnd f 5 false s
  let cs := (fieldCores s f).filter (fun e => e.2.outstanding || (e.2.kind == 0 && decide (5 ≤ e.2.st)))
  let s := forAll cs (fun e t => if e.2.kind != 0 || e.2.st == 3 then dropOnlyReq e.1 t else abortCore e.1 t) s
  fieldCut f (dropEntries f F.FS_PROOF_DROP_abandoned (tokReclaim f (brkEvent f 6 s)))

/-- TAPCLK stops (R417): CHECK_DEGRADED rises, and each mechanism does what its chapter says.
DEDUCED (log entry 89). -/
def enterAon (s : State) : State :=
  let s := { s.wr F.CC_CLK_STAT_src 0 2 with checkDegraded := true, aonSince := s.wt, srcReady := none }
  let s := raiseCc { code := Code.AON_ONLY, unit := s.ccUnit, params := 1 } s
  let s := fenceAbandon (tapEdges s)
  let s := scrubAon (ckptAon s)
  let s := forAll (List.range Config.nField) fsAon s
  let s := forAll (List.range Config.nPart) (fun p t => t.wr F.CC_HORIZON_valid p 0) s
  wdogSyncAll (stopAon s)

/-- TAPCLK runs again, on REFCLK or BKCLK (R417): what waited for it goes on. -/
def leaveAon (bk : Bool) (s : State) : State :=
  let d := (s.wt - s.aonSince) / ms
  let n := b2n bk
  let s := { (s.wr F.CC_CLK_STAT_src 0 n).wr F.CC_CLK_STAT_no_majority 0 0 with
             checkDegraded := false, aonNs := s.aonNs + (s.wt - s.aonSince) }
  let s := raiseCc { code := Code.AON_ONLY, unit := s.ccUnit, params := 2 * sat 32 d } (clkSwitch n 2 false s)
  let s := tapEdges s
  let s := forAll ((List.range Config.nField).filter s.fsWorks) forwardField s
  wdogSyncAll (desealResume (imgResume (packResume s)))

/-- Time in AON-only operation since power-up, in ms (CC_CLK_STAT.aon_ms). -/
def aonMs (s : State) : Nat := sat 32 ((s.aonNs + (if s.aonOnly then s.wt - s.aonSince else 0)) / ms)

/-! ### Following the judgement (R417, R419, R420) -/

/-- BKCLK is put to sleep, or started cold (R419, R420). DEDUCED (log entry 87). -/
def bkSync (s : State) : State :=
  let want := s.rb F.CC_CLK_CFG_bk_sleep && clkJudged s 1 && s.rd F.CC_CLK_STAT_src == 0
  if want then
    if s.bkRun = .asleep then s
    else setCondemned 2 false (unsettle 2 { s with bkRun := .asleep, pllBk := false })
  else if s.bkRun = .asleep then { s with bkRun := .cold s.wt } else s

/-- The status that follows from the judgement: PLLs of unjudged references are not ready, BKCLK sleeps or starts, since
when the preferred source is ready, and CC_CLK_STAT.judged. -/
def clkSync (s : State) : State :=
  let s := { s with pllRef := s.pllRef && clkJudged s 1, pllBk := s.pllBk && clkJudged s 2 }
  let s := bkSync s
  let waits := !s.aonOnly && s.rd F.CC_CLK_STAT_src != b2n (prefBk s) && clkReady s (prefBk s)
  let s := { s with srcReady := if waits then s.srcReady.orElse (fun _ => some s.wt) else none }
  s.wr F.CC_CLK_STAT_judged 0 (b2n (clkJudged s 0) + 2 * b2n (clkJudged s 1) + 4 * b2n (clkJudged s 2))

/-- CLK_TRIP (Table 18-9). DEDUCED (log entry 87). -/
def clkTrip (c cause count : Nat) (stopped : Bool) (s : State) : State :=
  raiseCc { code := Code.CLK_TRIP, unit := s.ccUnit, params := c + 2 ^ 2 * cause + 2 ^ 4 * b2n stopped + 2 ^ 5 * (count % 2 ^ 16) }
    (s.bump F.CC_CLK_STAT_trips)
/-- The clock's count in the last window. DEDUCED (log entry 86). -/
def lastCount (s : State) (c : Nat) : Nat :=
  if c = 0 then winCycles else if c = 1 then s.rd F.CC_CLK_CNT_ref else s.rd F.CC_CLK_CNT_bk

/-- A clock is condemned (R415): a TAPCLK source is left for the other reference when that is ready, else TAPCLK stops
(Table 18-2). DEDUCED (log entry 86). -/
def condemn (c cause : Nat) (s : State) : State :=
  let n := lastCount s c
  let s := unsettle c (setCondemned c true s)
  let inUse := c != 0 && s.rd F.CC_CLK_STAT_src + 1 == c
  let other := c == 1
  if inUse then
    if clkReady s other then
      clkSync (clkSwitch (b2n other) (c - 1) true ((clkTrip c cause n false s).wr F.CC_CLK_STAT_src 0 (b2n other)))
    else clkSync (enterAon (clkTrip c cause n true s))
  else clkSync (clkTrip c cause n s.aonOnly s)

/-- No majority (Table 18-1): TAPCLK stops, recorded against the clock in use. DEDUCED (log entry 87). -/
def noMajority (s : State) : State :=
  let src := s.rd F.CC_CLK_STAT_src
  let c := if src = 2 then 0 else src + 1
  let s := (clkTrip c 2 (lastCount s c) true s).wr F.CC_CLK_STAT_no_majority 0 1
  clkSync (if src = 2 then s else enterAon s)

/-- A condemned clock is judged again once its pairs with the awake clocks that are not condemned have settled (R415). -/
def pardon (s : State) : State :=
  forAll [0, 1, 2] (fun c t =>
    let ps := [0, 1, 2].filter (fun i => (pairClks i).contains c
      && (pairClks i).all (fun d => d == c || (clkAwake t d && !clkCondemned t d)))
    if clkCondemned t c && !ps.isEmpty && ps.all (pairSettled t) then setCondemned c false t else t) s

/-- R414, R415: a judgement window ends. -/
def execClockWindow (ref bk : Nat) (s : State) : Out :=
  .next (
    let s := (s.wr F.CC_CLK_CNT_ref 0 ref).wr F.CC_CLK_CNT_bk 0 bk
    let live := [0, 1, 2].filter (fun i => (pairClks i).all (clkAwake s))
    let vote := live.filter (fun i => (pairClks i).all (fun c => !clkCondemned s c))
    let bad := vote.filter (fun i => (pairWindow i ref bk (s.pair i)).1)
    let s := forAll live (fun i t => t.setPairs i (pairWindow i ref bk (t.pair i)).2) s
    let s := if s.bkRun = .stable then { s with bkRun := .on } else s
    let s := match bad with
      | [] => clkSync (pardon s)
      | [_] => if vote.length = 1 then noMajority s else clkSync s
      | [i, j] => match (pairClks i).find? (fun c => (pairClks j).contains c) with
        | some c => condemn c 1 s
        | none => clkSync s
      | _ => noMajority s
    s)

/-- R415: no edge for 2 AONCLK cycles; an asleep or starting BKCLK is not checked (R420). -/
def execClockEdgeLoss (bk : Bool) (s : State) : Out :=
  let c := refClk bk
  .next (if clkCondemned s c || (bk && s.bkRun != .on && s.bkRun != .stable) then s else condemn c 0 s)

/-- R417: a judged reference's PLL has been locked for 50 µs. Step 3 of start-up ends with TAPCLK running (R399). -/
def execPllReady (bk : Bool) (s : State) : Out :=
  .next (if !clkJudged s (refClk bk) then s
    else
      let s := if bk then { s with pllBk := true } else { s with pllRef := true }
      let s := if s.aonOnly then leaveAon (if clkReady s (prefBk s) then prefBk s else bk) s else s
      clkSync (if s.step = 3 then endStep 4 s else s))

/-- R417: the preferred source has been ready for 1 s. -/
def execSourceReturn (s : State) : Out :=
  .next (match s.srcReady with
    | some d =>
      let s := s.toWt (d + sec)
      let n := b2n (prefBk s)
      clkSync (clkSwitch n (s.rd F.CC_CLK_STAT_src) true (s.wr F.CC_CLK_STAT_src 0 n))
    | none => s)

/-- R419: BKCLK is stable 200 µs after a cold start; its pairs begin with the next window. -/
def execBkclkStable (s : State) : Out :=
  .next (match s.bkRun with
    | .cold d => { s.toWt (d + 200 * us) with bkRun := .stable }
    | _ => s)

/-- R416: AONCLK is lost as seen from TAPCLK; the AON domain resets itself 10 µs later. -/
def execAonClockLoss (s : State) : Out :=
  .next (if s.aonOnly || s.aonLost.isSome then s
    else
      let s := if clkCondemned s 0 then s else condemn 0 0 s
      { s with aonLost := some (s.wt + 10 * us) })
/-- R416: the AON domain's own reset has the effect of a supply reset. -/
def execAonSelfReset (waferId sa : Nat) (bad : List Nat) (s : State) : Out :=
  .next (if s.aonLost.isSome then powerUp waferId sa bad s else s)

/-- A write of CC_CLK_CFG, by the owner. -/
def clkCfgWrite (w : Writer) (v : Nat) (s : State) : State :=
  if s.isOwner w then clkSync (setPersist .CC_CLK_CFG 0 (v % 4) s) else s

/-- A write of CC_SSC_CFG (R421): a spread above 10 is ignored. DESIGN CHOICE (log entry 88). -/
def sscWrite (w : Writer) (v : Nat) (s : State) : State :=
  if !s.limitOk w then s
  else
    let v := v % 2 ^ 7
    let v := if 10 < bits v 1 4 then setBits v 1 4 (s.rd F.CC_SSC_CFG_spread) else v
    let s := setPersist .CC_SSC_CFG 0 v s
    { s with sscNow := s.regVal .CC_SSC_CFG 0 }
def execSscCfgWrite (w : Writer) (v : Nat) (s : State) : Out := regWrite w .CC_SSC_CFG 0 s <|
  .next (sscWrite w v s)

/-! ### Sensors (R283, R422, R423) -/

/-- A sensor is sampled: its reading is a free value. DESIGN CHOICE (log entry 26). -/
def sample (f : Fld) (i : Nat) (s : State) : State := (s.drawFree f.w).2.wr f i (s.drawFree f.w).1
/-- The AON supply is sampled: not below 0.70 V without the warning, nor above 0.72 V with it (R422).
DESIGN CHOICE (log entry 26). -/
def sampleAon (s : State) : State :=
  let v := (s.drawFree 16).1
  (s.drawFree 16).2.wr F.CC_VDD_STAT_aon_mv 0 (if s.rb F.CC_VDD_STAT_warn then min v 720 else max v 700)
/-- The block's own sensors are sampled: the temperature and core supply of each working FS, the CC's temperature, the AON
supply. DESIGN CHOICE (log entry 26). -/
def sampleAll (s : State) : State :=
  let t := forAll ((List.range Config.nField).filter s.fieldLive) (fun f t => sample F.FS_VMON_mv f (sample F.FS_VMON_temp f t)) s
  sampleAon (if s.aonOnly then t else sample F.CC_VDD_STAT_cc_temp 0 t)

/-! ### Supplies (R422, R423) -/

/-- VDD_WARN with set or clear (Table 18-9). -/
def vddRecord (mv : Nat) (set : Bool) (s : State) : State :=
  raiseCc { code := Code.VDD_WARN, unit := s.ccUnit, params := mv + 2 ^ 16 * b2n set } s
/-- R422: the AON supply falls through 0.70 V: the newest records are saved (R287) and sessions end (Table 7-5). -/
def execVddWarn (mv : Nat) (s : State) : Out :=
  .next (
    let s := s.wr F.CC_VDD_STAT_aon_mv 0 mv
    if 700 ≤ mv || s.rb F.CC_VDD_STAT_warn then s
    else
      let s := vddRecord mv true ((s.wr F.CC_VDD_STAT_warn 0 1).bump F.CC_VDD_STAT_warns)
      let s := forAll (List.range Config.nField) (fun f t => brkEvent f 4 t) s
      saveRecords s)
/-- R422: the AON supply rises above 0.72 V. -/
def execVddWarnClear (mv : Nat) (s : State) : Out :=
  .next (
    let s := s.wr F.CC_VDD_STAT_aon_mv 0 mv
    if mv ≤ 720 || !s.rb F.CC_VDD_STAT_warn then s else vddRecord mv false (s.wr F.CC_VDD_STAT_warn 0 0))
/-- R422: the AON supply falls through 0.66 V; start-up begins again at step 1. -/
def execSupplyReset (waferId sa : Nat) (bad : List Nat) (s : State) : Out := .next (powerUp waferId sa bad s)

/-- R423: a core supply reading below droop_mv for droop_ns, while the field's FS monitors. DESIGN CHOICE (log entry 26). -/
def execVddDroop (f mv ns : Nat) (s : State) : Out :=
  onUnit (fieldOk f) (
    let lim := s.rd F.CC_VDD_CFG_droop_mv
    let least := if s.rd F.CC_VDD_CFG_droop_ns = 0 then 2 else s.rd F.CC_VDD_CFG_droop_ns
    if lim = 0 ∨ lim ≤ mv ∨ ns < least ∨ s.fieldLive f = false then s
    else
      let s := ((s.wr F.FS_VMON_mv f mv).wr F.FS_VMON_last_min f mv).bump F.FS_VMON_droops f
      let s := raiseFs f { code := Code.VDD_DROOP, unit := fsUnit f, params := f + 2 ^ 7 * mv + 2 ^ 23 * sat 16 ns } s
      match s.sess f with
      | some x => if x.kind = 1 ∧ x.applied ≠ 0 then brkAbort f 4 s else s
      | none => s)

/-! ### Host cycles and cluster temperatures (R425, R440) -/

/-- A write of CT_CYC.capture samples the host cycle count and WT together. -/
def cycWrite (w : Writer) (k v : Nat) (s : State) : State :=
  if bit v 32 && s.mayWrite w .CT_CYC k then
    (s.wr F.CT_CYC_cycles k (s.cycOf k % 2 ^ 32)).setReg .CT_CYC_WT k (s.wt % 2 ^ 64)
  else s
/-- R425: the CT's host cycle count at the capture is `cyc`. -/
def execCycleCapture (w : Writer) (k cyc : Nat) (s : State) : Out := regWrite w .CT_CYC k s <|
  onUnit (ctOk k) (cycWrite w k (2 ^ 32) (advCyc k cyc s))

/-- R440: a reading older than 1 ms is unavailable; heating on the cluster stops under R183, which ends a heated session
with reason 3 (R189). DEDUCED (log entry 55). -/
def execTempStale (k : Nat) (s : State) : Out :=
  onUnit (ctOk k) (
    let s := { s with ctTemp := tput 0x80 s.ctTemp k 0x80 }
    match s.sess (ctField k) with
    | some x => if x.kind = 2 ∧ x.phase = 4 ∧ x.cluster = k % 64 then brkAbort (ctField k) 3 s else s
    | none => s)

end Sys2Proof.Machine
end

