-- ==== Sys2Proof/Machine/Late.lean ====
section
/-!
DEFINITION. What reaches across chapters: a field whose FS stops working (R35, R36, R213, R214), grants (R158, R442), strip
results (R162, R163), and the acknowledgement and release of a partition (R305, R306, R382).
-/
namespace Sys2Proof.Machine

/-! ### An FS stops working -/

/-- What goes with an FS that stops working: its freeze and holding queue (R291), its requests, strips, session and context
replay; and, its MTs being orphaned (R214), the scrubs, saves and restores that need them. DESIGN CHOICE (log entry 11). -/
def fsGone (f : Nat) (s : State) : State :=
  let s := if (s.rcdr f).frozen then
      (s.setRcdr f { s.rcdr f with frozen := false, holdq := [], missed := 0, dropped := 0 }).wr F.CC_LOUPE_FRZ_freeze 0 0
    else s
  let s := { s with strips := tdel s.strips f, sessions := tdel s.sessions f, crep := tdel s.crep f
                    pmQ := s.pmQ.filter (fun r => r.field != f), pmSettle := s.pmSettle.filter (· != f) }
  let s := forAll (fieldCores s f) (fun e t =>
    releaseCore e.1 (t.setCore e.1 { t.core e.1 with next := none, holdNext := false, shadow := false })) s
  let s := fieldCut f (s.setEntries f [])
  let s := forAll ((List.range Config.nMt).filter (fun m => Config.mtHome m == f)) scrubOrphan s
  let s := forAll s.saves (fun e t => if shardOrphan t (e.2.shards.map (fun h => (h.idx, h.ent))) then
    saveFail e.1 9 e.2.step t else t) s
  epochSync (forAll s.restores (fun e t => if shardOrphan t (partShards t e.1) then restoreRefuse e.1 7 0 t else t) s)

/-- An effect that may stop FSs from working, and what goes with each it stops. DESIGN CHOICE (log entry 11).
DEDUCED (log entry 90). -/
def afterFs (g : State → State) (s : State) : State :=
  let t := g s
  forAll ((List.range Config.nField).filter (fun f => s.fsWorks f && !t.fsWorks f)) fsGone t

/-- R213: an FS stops working in service. -/
def execFsFailure (f : Nat) (s : State) : Out :=
  onUnit (fieldOk f) (
    if s.fsWorks f then
      afterFs (fun t =>
        let h : FsHw := tget {} t.fsHw f
        fsStopped f 3 true { t with fsHw := tput {} t.fsHw f { h with failed := true } }) s
    else s)

/-- R35, R36: a flit with a double-bit error is replayed and recorded; a third failure in a row marks the router down.
DEDUCED (log entry 90). -/
def linkReplay (f : Nat) (ok : Bool) (s : State) : State :=
  let s := raiseTap f { code := Code.TROG_LINK_REPLAY, unit := routerUnit f } s
  let n := tget 0 s.replayFails f + 1
  if ok then { s with replayFails := tdel s.replayFails f }
  else if n < 3 then { s with replayFails := tput 0 s.replayFails f n }
  else
    let s := { s with replayFails := tdel s.replayFails f }
    let h : FsHw := tget {} s.fsHw f
    if h.routerDown then s
    else
      let h' : FsHw := { h with routerDown := true }
      fsStopped f 1 (s.fsWorks f) (trogDown f { s with fsHw := tput {} s.fsHw f h' })
def execTrogLinkReplay (f : Nat) (ok : Bool) (s : State) : Out :=
  onUnit (fieldOk f) (if s.aonOnly then s else afterFs (linkReplay f ok) s)

/-- R202 to R204: the oldest confirmation reaches the CC. -/
def execFenceConfirmArrive (s : State) : Out := .next (afterFs confirmArrive s)
/-- R205. -/
def execOwnerFence (w : Writer) (v : Nat) (s : State) : Out := regWrite w .CC_FENCE_CMD 0 s <|
  .next (afterFs (fenceCmdWrite w v) s)
/-- R206. -/
def execFenceRemove (w : Writer) (v : Nat) (s : State) : Out := regWrite w .CC_FENCE_CMD 0 s <|
  .next (afterFs (fenceCmdWrite w v) s)

/-! ### Grants and strip results -/

/-- R158, R181, R321, R405, R442: the host grants a core's yield request, by the kind of the request. -/
def yieldGrant (c : Nat) (s : State) : State :=
  let x := s.core c
  if !x.req || x.granted || !s.fsWorks (coreField c) then s
  else match x.kind with
    | 0 => grantStrip c s
    | 1 => grantHold c s
    | 2 => grantQuarantine c s
    | _ => grantBoot c s
def execYieldGrant (c : Nat) (s : State) : Out := onUnit (coreOk c) (yieldGrant c s)

/-- A strip settles, in its kind. -/
def stripEnd (f : Nat) (x : Strip) (s : State) : State := if x.startup then bootSettle f x s else settleStrip f x s

/-- R159, R162, R163: result blocks arrive from a core, those that it has presented at egress first, and the strip settles with the
last of them; a quiet CT holds them (R344). -/
def stripResult (c : Nat) (outs : List StripOut) (s : State) : State :=
  let f := coreField c
  match stripOf s c with
  | some x =>
    let l := tget [] s.stripOut c ++ outs.filter (fun o => engCore o.eng == c)
    if !s.fieldLive f then s
    else if ctQuiet s (coreCt c) then { s with stripOut := tput [] s.stripOut c l }
    else
      let y : Strip := { x with outs := x.outs ++ l }
      let s := { s with stripOut := tdel s.stripOut c, strips := tput [] s.strips f ((tget [] s.strips f).map (fun z => if z.num = x.num then y else z)) }
      if stripComplete s y then stripEnd f y s else s
  | none => s
def execStripResult (c : Nat) (outs : List StripOut) (s : State) : Out := onUnit (coreOk c) (stripResult c outs s)

/-- R162: 10 ms after the strip began to run, what has not arrived counts as differing; the limit pauses with a gated
cluster. -/
def execStripResultTimeout (c : Nat) (s : State) : Out :=
  let f := coreField c
  onUnit (coreOk c) (match stripOf s c with
    | some x => if !s.fieldLive f || x.cores.any (fun d => s.ctGated (coreCt d)) then s
        else stripEnd f x (s.toWt (x.runAt + 10 * ms))
    | none => s)

/-! ### Partitions -/

/-- R306, R382: the host acknowledges a compute reset. -/
def partAcked (p : Nat) (s : State) : State :=
  match s.preset? p with
  | some x =>
    if s.phase p != 2 || !s.prtReq.contains p || partGated s p then s
    else if x.kind = .scrub then (if s.rd F.CC_SCRUB_STAT_phase p = 1 then epochSync (scrubAcked p s) else s)
    else epochSync (resetAcked p s)
  | none => s
def execPartitionResetAck (p : Nat) (s : State) : Out := onUnit (partOk p) (partAcked p s)

/-- R305, R383: the releasing phase of a partition ends; a deseal in progress holds it back (Table 20-2), and what waited
for the release goes on. -/
def partReleaseDone (p : Nat) (s : State) : State :=
  match s.preset? p with
  | some x =>
    if !x.releasing || (tfind s.deseals p).isSome || s.aonOnly then s
    else
      let t := partRelease p s
      epochSync (runHolds (if x.kind = .scrub then scrubReleased p t else t))
  | none => s
def execPartitionRelease (p : Nat) (s : State) : Out := onUnit (partOk p) (partReleaseDone p s)

/-- R439: a waiting context or engine reset goes onto its core's port once the port is free. -/
def execResetRequestRaise (c : Nat) (s : State) : Out := onUnit (coreOk c) (portNext c s)

end Sys2Proof.Machine
end

