-- ==== Sys2Proof/Machine/RegAccess.lean ====
section
/-!
DEFINITION. Access to the block window by address: what a read returns, what a write does, and RDR and WRR (R14, R46,
R241 to R243, R391, R437, R462 to R466).
-/
namespace Sys2Proof.Machine

/-! ### Addresses (Table 21-1, R463) -/

/-- The window an offset of the block window lies in: its kind, its unit, and the offset within; none in a reserved range
or for a unit the build does not hold. -/
def winAt (a : Nat) : Option (UnitCls × Nat × Nat) :=
  if a < 0x90000 then some (.cc, 0, a)
  else if a < 0x100000 then none
  else if a < 0x900000 then
    let f := (a - 0x100000) / 0x10000
    let o := (a - 0x100000) % 0x10000
    if !fieldOk f || 0xC000 ≤ o then none
    else if o < 0x8000 then some (.fs, f, o)
    else
      let k := 64 * f + (o - 0x8000) / 0x100
      if ctOk k then some (.ct, k, (o - 0x8000) % 0x100) else none
  else if a < 0xA00000 then
    let m := (a - 0x900000) / 0x400
    if mtOk m then some (.mt, m, (a - 0x900000) % 0x400) else none
  else
    let l := (a - 0xA00000) / 0x400
    if ltOk l then some (.lt, l, (a - 0xA00000) % 0x400) else none

/-- Copies of a register the build holds (R463). -/
def Reg.copies (r : Reg) : Nat :=
  match r with
  | .CC_PART_FIELD => ceilDiv Config.nField 8
  | .CC_PART_CHAN => ceilDiv Config.nMt 8
  | _ => r.place.count

/-- The copy of a register that an offset of its window names. -/
def copyAt (r : Reg) (o : Nat) : Option Nat :=
  let p := r.place
  if o < p.off then none
  else if p.stride = 0 then (if o = p.off then some 0 else none)
  else
    let j := (o - p.off) / p.stride
    if (o - p.off) % p.stride = 0 ∧ j < r.copies then some j else none

/-- The register and copy at an offset of a window. -/
def regInWin (c : UnitCls) (u o : Nat) : Option (Reg × Nat) :=
  (regsOf c).findSome? (fun r => (copyAt r o).map (fun j => (r, u * r.place.count + j)))
/-- The register and copy at an offset of the block window. -/
def regAt (a : Nat) : Option (Reg × Nat) := (winAt a).bind (fun x => regInWin x.1 x.2.1 x.2.2)

/-! ### Reads -/

/-- The modes of partition `p` (Table 20-3). DEDUCED (log entry 93). -/
def modeStat (s : State) (p : Nat) : Nat :=
  let st := s.rd F.CC_STOP_STAT_state
  let ph := s.phase p
  let upd := s.rd F.CC_IMG_STAT_state == 3 || s.rd F.CC_PACK_STAT_state == 3 || s.packSw.isSome || !s.imgHold.isEmpty
  let brk := (s.fieldsOf p).any (fun f => match s.sess f with | some x => decide (0 < x.tokens) | none => false)
  let l : List Bool := [s.sealed p, s.rb F.CC_PART_SEAL_debug p, s.rb F.CC_PART_SEAL_tainted p, (tfind s.deseals p).isSome,
    brk, decide (2 ≤ st) && decide (st ≤ 4), s.freezeWire, decide (1 ≤ ph) && decide (ph ≤ 3), scrubbing s p,
    (tfind s.saves p).isSome, (tfind s.restores p).isSome, upd, s.aonOnly, (s.rcdr ccRec).frozen]
  s.rd F.CC_CHECK_MODE_mode p + 4 * l.foldr (fun b a => b2n b + 2 * a) 0

/-- FS_SEQ_STAT and CC_SEQ_STAT, with the trap bit and the pc at the read (Table 10-14). -/
def seqStatWord (s : State) (q v : Nat) : Nat :=
  setBits (setBits v 3 1 (b2n (s.seq q).inTrap)) 8 20 (s.seq q).pc.toNat
/-- Counts of eight semaphores, a byte each (R252). -/
def semWord (s : State) (q j : Nat) : Nat :=
  (List.range 8).foldl (fun a i => a + 2 ^ (8 * i) * tget 0 (s.seq q).sems (8 * j + i)) 0
/-- CC_LOUPE_NEW of the selected source; zero for one that cannot be reached. -/
def loupeNew (s : State) : Nat :=
  let src := s.rd F.CC_LOUPE_SEL_source
  match loupeRec src with
  | some r => if loupeReach s src then
      ((s.rcdr r).last.head?.map (·.1)).getD 0 % 2 ^ 32 + 2 ^ 32 * (s.rcdr r).first.length else 0
  | none => 0
/-- The digest CC_IMG_DIGSEL names: a bank, or a reference program. -/
def imgDigest (s : State) : Nat :=
  let n := s.rd F.CC_IMG_DIGSEL_sel
  if n < 4 then (if (imgBankOf s (n / 2) (n % 2)).isEmpty then 0 else progDigest s (n / 2) (n % 2 + 1))
  else if n < 6 then progDigest s (n - 4) 0 else 0

/-- A register as it reads now: the stored value, with what its chapter says is shown at the read. -/
def regNow (s : State) (r : Reg) (i : Nat) : Nat :=
  let v := s.regVal r i
  match r with
  | .CC_WT => wtRead s % 2 ^ 64
  | .CC_OWNER => setBits v 16 16 (if s.rd F.CC_OWNER_owner = 3 then 0 else sat 16 ((s.wt - s.ownAt) / ms))
  | .CC_CLK_STAT => setBits v 32 32 (aonMs s)
  | .CC_MODE_STAT => modeStat s i
  | .CC_PART_STAT => setBits v 12 4 (sat 4 (budgetStarts s i).length)
  | .CC_PART_SEAL => (epochSync s).regVal r i
  | .CC_BUDGET_STAT => setBits v 0 5 (sat 5 (outsIn s false).length)
  | .FS_SEQ_STAT => seqStatWord s i v
  | .CC_SEQ_STAT => seqStatWord s ccSeq v
  | .FS_SEM_CNT => semWord s (i / 8) (i % 8)
  | .CC_SEM_CNT => semWord s ccSeq i
  | .CC_LOUPE_NEW => loupeNew s
  | .MT_POOL_STAT => setBits (setBits v 48 10 (Config.mtStack i)) 58 6 ((poolTaps i).length - 1)
  | .CT_BAR_STAT => setBits v 0 32 (ctSense s i)
  | .CC_FENCE_ENTRY => let j := s.rd F.CC_FENCE_IDX_index; if j < s.flogUsed then logEntry s j else 0
  | .CC_IMG_DIG => leNat (slice (beBytes 48 (imgDigest s)) (8 * i) 8)
  | _ => v

/-- Registers a tenant reads besides those of its clusters and fields (Table 16-3, R461). DEDUCED (log entry 92). -/
def tenantReads : List Reg :=
  [.CC_TRACE_CFG, .CC_TRACE_RING0, .CC_TRACE_RING1, .CC_TRACE_HEAD, .CC_TRACE_TAIL, .CC_TRACE_STAT, .CC_MODE_STAT]
/-- Observation registers of a cluster or field that a tenant reads. -/
def obsReads : List Reg :=
  [.CT_SAFE_SEL, .CT_SAFE_VAL, .CT_PCNT_SEL, .CT_PCNT_CFG, .CT_PCNT_CTL, .CT_PCNT_VAL, .FS_LEDGER_SEL, .FS_LEDGER_DATA0,
   .FS_LEDGER_DATA1, .FS_LEDGER_DATA2, .FS_LEDGER_DATA3]
/-- Whether a read returns the register (R391, R409, R461): a master or sequencer reads all but CC_MODE_STAT, which is the
owner's and the tenant's. DEDUCED (log entry 92). -/
def State.mayRead (s : State) (w : Writer) (r : Reg) (i : Nat) : Bool :=
  match w with
  | .tenant q =>
    if tenantReads.contains r then q == i
    else if obsReads.contains r then q == obsPart s r i
    else (r == .CC_SAFE_SEL || r == .CC_SAFE_VAL) && s.rd F.CC_SAFE_SEL_scope == q
  | _ => r != .CC_MODE_STAT || s.isOwner w

/-- A read of CC_FENCE_ENTRY reads the archive word of the entry: one that reads uncorrectable is skipped (R277, R428). -/
def entryRead (s : State) : Nat × State :=
  let j := s.rd F.CC_FENCE_IDX_index
  if j < s.flogUsed then
    match archRead (fenceWord + j / 2) false s with
    | (true, t) => (0, t)
    | (false, t) => (logEntry s j, t)
  else (0, s)

/-- A read of a register that can be reached: the data, and the side effects of CC_LOUPE_DATA3 and CC_LSP_DATA (R466). -/
def readReg (w : Writer) (r : Reg) (i : Nat) (s : State) : Nat × State :=
  if !s.mayRead w r i then (0, s.denied)
  else if r = .CC_FENCE_ENTRY then ((entryRead s).1, ownerSeen w (entryRead s).2)
  else
    let t := if r = .CC_LOUPE_DATA ∧ i = 3 then loupeAdvance w s else if r = .CC_LSP_DATA then lspDataRead w s else s
    (regNow s r i, ownerSeen w t)

/-- A read by a master at an offset: status as the host register port codes it, data, and the state after. -/
def readAt (w : Writer) (a : Nat) (s : State) : HResp × State :=
  if s.preCc || s.ccLost then (⟨1, 0⟩, ownerSeen w s)
  else if a % 8 ≠ 0 then (⟨2, 0⟩, ownerSeen w s)
  else match winAt a with
    | none => (⟨0, 0⟩, ownerSeen w s)
    | some (c, u, o) =>
      if !s.winReach c u then (⟨3, 0⟩, ownerSeen w s)
      else match regInWin c u o with
        | none => (⟨0, 0⟩, ownerSeen w s)
        | some (r, i) => (⟨0, (readReg w r i s).1⟩, (readReg w r i s).2)

/-! ### Writes -/

/-- Integrator-written limits (R182). -/
def limitFld (f : Fld) : Bool :=
  [Reg.CC_BRK_ENV, .CC_TEST_BUDGET, .CC_TOKEN_COST, .CC_VDD_CFG, .CC_SSC_CFG, .CC_SHEET_GEOM].contains f.reg
    || f == F.CC_BOOT_CFG_bist_tok
/-- Owner-only fields of registers whose other fields are open, and the owner's plain settings. -/
def ownerFld (f : Fld) : Bool :=
  [F.CC_FIX_POLICY_unmon_release, F.CC_STOP_CFG_accept_joined, F.CC_SEAL_CFG_nonce_s].contains f
    || [Reg.CC_SHEET_REGION0, .CC_SHEET_REGION1].contains f.reg

/-- Whether a writer holds the right to a field of copy `i` (R182, R242, R330, R392, R465). -/
def fieldRight (s : State) (w : Writer) (f : Fld) (i : Nat) : Bool :=
  (match w with | .seq _ => f.acc != .rp && !limitFld f | _ => true)
    && (if limitFld f then s.limitOk w
        else if f.reg = .CC_BOOT_CFG ∨ f.reg = .CC_BUDGET_CFG then s.isOwner w && !s.scrapped
        else if ownerFld f then s.isOwner w
        else if f.reg = .CC_TRACE_RING0 ∨ f.reg = .CC_TRACE_RING1 then s.isOwner w && !s.rb F.CC_TRACE_CFG_enable i
        else if tenantRegs.contains f.reg then s.ownerOrTenant w i
        else notTenant w)
/-- Values that a field ignores (Tables 7-6 and 14-6). -/
def valueOk (f : Fld) (v : Nat) : Bool :=
  if f = F.CC_BRK_ENV_f_steps ∨ f = F.CC_SHEET_GEOM_chains then decide (v ≤ 16)
  else if f = F.CC_BRK_ENV_v_steps then decide (v ≤ 12) else true

/-- One field of a written register (R14): RW and RP fields take the bits, W1C fields lose the bits written one. -/
def fieldPut (s : State) (w : Writer) (i v : Nat) (a : Nat) (f : Fld) : Nat :=
  let x := bits v f.lo f.w
  if !fieldRight s w f i then a
  else match f.acc with
    | .rw | .rp => if valueOk f x then setBits a f.lo f.w x else a
    | .w1c => setBits a f.lo f.w (bits a f.lo f.w - Nat.land (bits a f.lo f.w) x)
    | _ => a
/-- A write of a register with no effect beyond its fields. DEDUCED (log entry 93). -/
def plainWrite (w : Writer) (r : Reg) (i v : Nat) (s : State) : State :=
  setPersist r i (r.flds.foldl (fieldPut s w i v) (s.regVal r i)) s

/-- A write of FS_REC_RATE or CC_REC_RATE: the buckets of its recorders follow the new burst (R286). -/
def recRateWrite (w : Writer) (r : Reg) (i : Nat) (qs : List Nat) (v : Nat) (s : State) : State :=
  let t := plainWrite w r i v s
  forAll qs (fun q u => u.setRcdr q ((u.rcdr q).rebucket (recBurst s q) (recBurst t q) (recPeriod t q) t.wt)) t

/-- What a write of a CC register does. DEDUCED (log entry 93). -/
def putCc (w : Writer) (r : Reg) (i v : Nat) (s : State) : State :=
  match r with
  | .CC_OWNER => ownerWrite w v s
  | .CC_OWNER_HO => handoverWrite w v s
  | .CC_ROLE => if bit v 2 && s.isOwner w then beginSwap 2 s else s
  | .CC_FAULT_CTL => ccFaultWrite w v s
  | .CC_INJ_CMD => injWrite w v s
  | .CC_SAFE_SEL => ccSafeSelWrite w v s
  | .CC_BOOT_SEL => bootSelWrite w v s
  | .CC_BIST_SEL => bistSelWrite w v s
  | .CC_HOME_SEL => homeSelWrite w v s
  | .CC_LOUPE_SEL => loupeSelWrite w v s
  | .CC_LOUPE_CUR => loupeCurWrite w v s
  | .CC_LOUPE_FRZ => loupeFrzWrite w v s
  | .CC_REC_CLR => recClrWrite w v s
  | .CC_REC_RATE => recRateWrite w r i [ccRec, sbRec] v s
  | .CC_ARCH_STAT => archPinSync (plainWrite w r i v s)
  | .CC_ARCH_SEL => archSelWrite w v false s
  | .CC_FENCE_CMD => afterFs (fenceCmdWrite w v) s
  | .CC_FENCE_IDX => fenceIdxWrite w v s
  | .CC_FIX_POLICY => epochSync (plainWrite w r i v s)
  | .CC_LIFECYCLE => lifecycleWrite w v s
  | .CC_TRUST_GROUP => trustWrite w v s
  | .CC_PART_SEAL => partSealWrite w i v s
  | .CC_KEY_CMD => keyCmdWrite w v s
  | .CC_KEY_DATA => keyDataWrite w v s
  | .CC_SCRUB_CMD => scrubCmdWrite w v s
  | .CC_CLK_CFG => clkCfgWrite w v s
  | .CC_SSC_CFG => sscWrite w v s
  | .CC_STOP_CMD => stopCmdWrite w v s
  | .CC_SHEET_CMD => sheetCmdWrite w v s
  | .CC_PART_FIELD => mapWrite w false i v s
  | .CC_PART_CHAN => mapWrite w true i v s
  | .CC_RESET_CMD => resetCmdWrite w v s
  | .CC_PROOF_RATE => settingWrite w 0 i v s
  | .CC_CHECK_MODE => settingWrite w 1 i v s
  | .CC_HORIZON_CFG => settingWrite w 2 i v s
  | .CC_WDOG_CFG => settingWrite w 3 i v s
  | .CC_STEP => stepWrite w i v s
  | .CC_LOSS => lossWrite w i v s
  | .CC_LOSS_CFG => lossCfgWrite w i v s
  | .CC_BAR_CFG => barCfgWrite w i v s
  | .CC_TRACE_CFG => traceCfgWrite w i v s
  | .CC_TRACE_MARK => traceMarkWrite w i v s
  | .CC_SEQ_CTL => seqCtlWrite w ccSeq v s
  | .CC_SEQ_MBOX => mboxWrite w ccSeq v s
  | .CC_SEM_SIG => semSigWrite w ccSeq v s
  | .CC_IMG_CMD => imgCmdWrite w v s
  | .CC_IMG_DATA => imgDataWrite w v s
  | .CC_IMG_FLOOR => imgFloorWrite w v s
  | .CC_LSP_CMD => lspCmdWrite w v s
  | .CC_LSP_PTR => lspPtrWrite w v s
  | .CC_PACK_CMD => packCmdWrite w v s
  | .CC_PACK_DATA => packDataWrite w v s
  | .CC_PACK_FLOOR => packFloorWrite w v s
  | .CC_CKPT_SHARD_SEL => shardSelWrite w v s
  | .CC_CKPT_HOST_SEL => hostSelWrite w v s
  | .CC_CKPT_SHARD0 => ckptTableWrite w false 0 v s
  | .CC_CKPT_SHARD1 => ckptTableWrite w false 1 v s
  | .CC_CKPT_SHARD2 => ckptTableWrite w false 2 v s
  | .CC_CKPT_SHARD3 => ckptTableWrite w false 3 v s
  | .CC_CKPT_HOST0 => ckptTableWrite w true 0 v s
  | .CC_CKPT_HOST1 => ckptTableWrite w true 1 v s
  | .CC_CKPT_HOST2 => ckptTableWrite w true 2 v s
  | .CC_CKPT_HOST3 => ckptTableWrite w true 3 v s
  | .CC_CKPT_CMD => ckptCmdWrite w v s
  | .CC_CKPT_SKEW_SEL => showSkew (plainWrite w r i v s)
  | _ => plainWrite w r i v s

/-- What a write of an FS, CT, MT or LT register does. -/
def putUnit (w : Writer) (r : Reg) (i v : Nat) (s : State) : State :=
  match r with
  | .FS_WAKE_CFG => let t := plainWrite w r i v s; if t.rb F.FS_WAKE_CFG_pin_awake i then startWake i t else t
  | .FS_REC_RATE => recRateWrite w r i [i] v s
  | .FS_PROOF_CFG => proofCfgWrite w i v s
  | .FS_PROOF_STAT => proofStatWrite w i v s
  | .FS_NEG_RELEASE => negReleaseWrite w i v s
  | .FS_LEDGER_SEL => ledgerSelWrite w i v s
  | .FS_STRIP_CMD => stripCmdWrite w i v s
  | .FS_BRK_CMD => brkCmdWrite w i v s
  | .FS_MAINT => maintWrite w i v s
  | .FS_FIX_SEL => fixSelWrite w i v s
  | .FS_SEQ_CTL => seqCtlWrite w i v s
  | .FS_SEQ_MBOX => mboxWrite w i v s
  | .FS_SEM_SIG => semSigWrite w i v s
  | .FS_FSW => fswWrite w i v s
  | .FS_PIN_SEL => pinSelWrite w i v s
  | .FS_PIN_CLR => pinClrWrite w i v s
  | .FS_CREPLAY_CMD => crepWrite w i v s
  | .FS_SELFTEST => selfTestWrite w i v s
  | .CT_PROOF_FORCE0 => forceWrite w i false v s
  | .CT_PROOF_FORCE1 => forceWrite w i true v s
  | .CT_ERR => ctErrWrite w i v s
  | .CT_ERR_CAP => ctErrCapWrite w i v s
  | .CT_SUSP_SEL => suspSelWrite w i v s
  | .CT_PCNT_SEL => pcntSelWrite w i v s
  | .CT_PCNT_CFG => pcntCfgWrite w i v s
  | .CT_PCNT_CTL => pcntCtlWrite w i v s
  | .CT_SAFE_SEL => ctSafeSelWrite w i v s
  | .CT_CYC => cycWrite w i v s
  | .MT_POOL_CFG => poolCfgWrite w i v s
  | .MT_SLEEVE_CFG => slvCfgWrite w i v s
  | .MT_SEAL_RGN_A => sealRegionWrite w (i / 8) (i % 8) false v s
  | .MT_SEAL_RGN_B => sealRegionWrite w (i / 8) (i % 8) true v s
  | _ => plainWrite w r i v s

/-- A write of a register that can be reached (R46, R391, R465). -/
def writeReg (w : Writer) (r : Reg) (i v : Nat) (s : State) : State :=
  if s.mayWrite w r i then
    wrote w r i (if r.place.unit = .cc then putCc w r i v s else putUnit w r i v s)
  else noRight w r s

/-- A write by a master at an offset: status as the host register port codes it, and the state after.
DEDUCED (log entry 91). -/
def writeAt (w : Writer) (a v : Nat) (s : State) : Nat × State :=
  if s.preCc || s.ccLost then (1, ownerSeen w s)
  else if a % 8 ≠ 0 then (2, ownerSeen w s)
  else match winAt a with
    | none => (0, ownerSeen w s)
    | some (c, u, o) =>
      if !s.winReach c u then (3, ownerSeen w s)
      else match regInWin c u o with
        | none => (0, ownerSeen w s)
        | some (r, i) => (0, writeReg w r i v s)

/-! ### The sequencers' accesses (R241 to R243) -/

/-- The offset in the block window that a sequencer's offset names, if any (R241). -/
def seqAddr (q a : Nat) : Option Nat :=
  if a < 0x1000000 then some a
  else if a < 0x1010000 then some (if q < 128 then 0x100000 + 0x10000 * q + (a - 0x1000000) else a - 0x1000000)
  else none

/-- Table 10-6: whether an offset lies within a sequencer's reach. DEDUCED (log entry 78). -/
def seqReach (q : Nat) (write : Bool) (a : Nat) : Bool :=
  if q < 128 then
    (decide (0x100000 + 0x10000 * q ≤ a) && decide (a < 0x110000 + 0x10000 * q))
      || (match winAt a with
          | some (.mt, m, _) => Config.mtHome m == q
          | some (.lt, l, _) => Config.ltHome l == q
          | some (.cc, _, o) => !write && decide (o < 0x60000)
          | _ => false)
  else !write || !(decide (0x60000 ≤ a) && decide (a < 0x70000))

/-- Whether an offset can be reached now (R243, R464); a reserved offset within reach can, unless TAPCLK is stopped. -/
def seqLive (s : State) (a : Nat) : Bool :=
  match winAt a with
  | none => !s.aonOnly
  | some (c, u, o) => s.winReach c u &&
      (!s.aonOnly || (match regInWin c u o with | some (r, _) => aonRegs.contains r | none => false))

/-- The trap of a sequencer's access at offset `x`, if any, before the rights to the register: ALIGN, ACCESS, BUS.
DEDUCED (log entry 91). -/
def accessTrap (s : State) (q x : Nat) (write late : Bool) : Option Nat :=
  if x % 8 ≠ 0 then some trapAlign
  else match seqAddr q x with
    | none => some trapAccess
    | some a => if !seqReach q write a then some trapAccess
        else if !seqLive s a || late then some trapBus else none

/-- The trap of a sequencer that holds no right to any field of a register it writes (R242): LIMIT when the fields are all
persistent or limits, else ACCESS. DEDUCED (log entry 91). -/
def rightTrap (s : State) (q : Nat) (r : Reg) (i : Nat) : Option Nat :=
  let fs := r.flds.filter (fun f => f.acc != .ro)
  if fs.isEmpty then none
  else if fs.all (fun f => f.acc == .rp || limitFld f) then some trapLimit
  else if !s.mayWrite (.seq q) r i || fs.all (fun f => ownerFld f || f.acc == .rp) then some trapAccess else none

/-- RDR: a register into a pair. -/
def execRdr (q rd ra imm : Nat) (late : Bool) (s : State) : Out :=
  onUnit (seqOk q) (seqInstr q (fun x t =>
    let o := (x.gr ra + sext16 imm).toNat
    if rd % 2 = 1 then .trap trapIllegal rd
    else match accessTrap t q o false late with
      | some c => .trap c o
      | none =>
        match (seqAddr q o).bind regAt with
        | none => .done (t.setSeq q (x.setPair rd 0).adv)
        | some (r, i) =>
          let (v, u) := readReg (.seq q) r i t
          .done (u.setSeq q ((u.seq q).setPair rd v).adv)) s)

/-- WRR: a pair into a register. The writer's own WATCH bits stay (R241). -/
def execWrr (q rs ra imm : Nat) (late : Bool) (s : State) : Out :=
  onUnit (seqOk q) (seqInstr q (fun x t =>
    let o := (x.gr ra + sext16 imm).toNat
    if rs % 2 = 1 then .trap trapIllegal rs
    else match accessTrap t q o true late with
      | some c => .trap c o
      | none =>
        match (seqAddr q o).bind regAt with
        | none => .done (t.setSeq q x.adv)
        | some (r, i) =>
          match rightTrap t q r i with
          | some c => .trap c o
          | none =>
            let u := writeReg (.seq q) r i (x.pair rs) (t.setSeq q x.adv)
            .done u) s)

/-- R465: a write by address. A sequencer's write outside its reach or rights is the trap of its WRR; here it changes
nothing. -/
def execRegisterWrite (w : Writer) (addr v : Nat) (s : State) : Out :=
  .next (match w with
    | .seq q =>
      match accessTrap s q addr true false, (seqAddr q addr).bind regAt with
      | none, some (r, i) => if (rightTrap s q r i).isSome then s else writeReg w r i v s
      | _, _ => s
    | _ => (writeAt w addr v s).2)

end Sys2Proof.Machine
end

