-- ==== Sys2Proof/Machine/Port.lean ====
section
/-!
DEFINITION. The host register port, link and management ports, and the swap of the CCs (R22, R369, R436, R437, R447, R453).
-/
namespace Sys2Proof.Machine

/-! ### The host register port (R436, R437) -/

/-- Who makes a request: the HMP, or the tenant of a partition. -/
def hregBy (part : Option Nat) : Writer :=
  match part with
  | some p => .tenant p
  | none => .hmp
/-- One request carried out: its response, and the state after. -/
def hregDo (q : HReq) (s : State) : HResp × State :=
  if q.write then (⟨(writeAt (hregBy q.part) q.addr q.data s).1, 0⟩, (writeAt (hregBy q.part) q.addr q.data s).2)
  else readAt (hregBy q.part) q.addr s

/-- R437: a request is taken and answered, unless both CCs are lost (R215); during a CC swap it waits for the new active CC, at most 16 of them (R453).
DEDUCED (log entry 94). -/
def hregRequest (write : Bool) (addr data : Nat) (part : Option Nat) (s : State) : State :=
  let q : HReq := { write := write, addr := addr, data := data, part := part, at_ := s.wt }
  if s.ccLost then s
  else if s.swapping.isSome || !s.hregQ.isEmpty then (if s.hregQ.length < 16 then { s with hregQ := s.hregQ ++ [q] } else s)
  else { (hregDo q s).2 with hregOut := [(hregDo q s).1] }
def execHregRequest (write : Bool) (addr data : Nat) (part : Option Nat) (s : State) : Out :=
  .next (hregRequest write addr data part s)

/-- R437, R453: the oldest request has waited 20 µs and the 250 µs of a swap. DEDUCED (log entry 94). -/
def execHregTimeout (s : State) : Out :=
  .next (match s.hregQ with
    | q :: l => { s.toWt (q.at_ + 270 * us) with hregQ := l, hregOut := [⟨3, 0⟩] }
    | [] => s)

/-- The new active CC answers what waited, in request order. -/
def hregDrain (s : State) : State :=
  let t := s.hregQ.foldl (fun (a : List HResp × State) q => (a.1 ++ [(hregDo q a.2).1], (hregDo q a.2).2))
    ([], { s with hregQ := [] })
  if s.hregQ.isEmpty then s else { t.2 with hregOut := t.1 }

/-! ### The swap (R18 to R22) -/

/-- What the new active CC takes over (R18, R20, R22, R288, R291): the sequencer from its checkpoint, and its own master
copy, which is not frozen; the CC that gave way stays suppressed, so no standby is left. The attestation connection and its
nonces are lost (R370), a stop not yet sampled is cancelled (R345), and a pack being received ends (Table 9-6).
PRESUMED (log entry 18). DEDUCED (log entry 25). -/
def swapNow (trigger : Nat) (s : State) : State :=
  let inst := 1 - s.rd F.CC_ROLE_active
  let t := (s.setSeq ccSeq (s.seq sbSeq)).setRcdr ccRec (s.rcdr sbRec)
  let t := (t.wr F.CC_ROLE_active 0 inst).wr F.CC_ROLE_standby_ok 0 0
  let t := t.bump F.CC_ROLE_swap_count
  let t := (t.wr F.CC_REC_STAT_frozen 0 0).wr F.CC_REC_STAT_first_used 0 (s.rcdr sbRec).first.length
  let t := if t.rd F.CC_LOUPE_SEL_source == 0xFF then t.wr F.CC_LOUPE_FRZ_freeze 0 0 else t
  let t := raiseCc { code := Code.CC_SWAP, unit := t.ccUnit, params := inst + 2 * trigger }
    { t with swapping := none, nonces := [], spdm := 4, ansQ := t.ansQ.filter (fun m => m.dst != ccSeq)
             confQ := t.confQ.map (fun m => if m.src = ccSeq then { m with src := 255 } else m) }
  let t := match t.stop with
    | some x => if x.sampled then t else stopCancel 2 t
    | none => t
  let t := if [1, 2].contains (t.rd F.CC_PACK_STAT_state) then packEnd t else t
  hregDrain (epochSync (bootRepeat t))

/-- R22: the swap completes. -/
def execCcSwap (s : State) : Out :=
  .next (match s.swapping with
    | some trigger => swapNow trigger s
    | none => s)

/-! ### Links (R349, R369) -/

/-- R369, R314: a link port completes training. -/
def linkTrained (l : Nat) (s : State) : State :=
  let s := { s with ltUp := tput false s.ltUp l true }
  match s.wstep with
  | some x => waferDone { s with wstep := some { x with ports := x.ports.filter (· != l) } }
  | none => s
def execLinkTrained (l : Nat) (s : State) : Out := onUnit (ltOk l) (linkTrained l s)

/-- R349, R369: a link port goes down; what is known of its peer goes with it. DEDUCED (log entry 95). -/
def execLinkDown (l : Nat) (s : State) : Out :=
  onUnit (ltOk l) (({ s with ltUp := tput false s.ltUp l false }.wr F.LT_TRUST_known l 0).wr F.LT_TRUST_peer l 0)

/-! ### The management port (R447) -/

/-- The hottest reading of a field's clusters; 0x80 when none is there. DESIGN CHOICE (log entry 26).
DEDUCED (log entry 95). -/
def hottest (s : State) (f : Nat) : Nat :=
  (List.range Config.nCluster).foldl (fun a k => hotter a (tget 0x80 s.ctTemp (64 * f + k))) 0x80
/-- The value of a PLDM sensor, if it is there: AON supply, hottest cluster of a field, or service level.
DEDUCED (log entry 95). -/
def pldmValue (s : State) (sensor : Nat) : Option Nat :=
  if sensor = 0 then some (s.rd F.CC_VDD_STAT_aon_mv)
  else if sensor = 255 then some (s.rd F.CC_SERVICE_level)
  else if fieldOk (sensor - 1) then some (hottest s (sensor - 1)) else none
/-- R447: the answer is the sensor and its value; one that is not there has no value. DEDUCED (log entry 95). -/
def execPldmRequest (sensor : Nat) (s : State) : Out :=
  .next (if s.preCc || s.ccLost then s else { s with mgmtOut := sensor :: (pldmValue s sensor).toList })

/-- MCTP control (DSP0236; PRESUMED, log entry 12): Set and Get Endpoint ID, Get Version Support, Get Message Type Support;
completion code first, 5 for any other command. -/
def mctpControl (cmd v : Nat) (s : State) : State :=
  match cmd with
  | 1 => if 8 ≤ v ∧ v ≤ 254 then { s with mctpEid := v, mgmtOut := [0, 0, v, 0] } else { s with mgmtOut := [2] }
  | 2 => { s with mgmtOut := [0, s.mctpEid, 0, 0] }
  | 4 => { s with mgmtOut := [0, 1, 0xF1, 0xF3, 0xF1, 0] }
  | 5 => { s with mgmtOut := [0, 4, 0x00, 0x01, 0x05, 0x7F] }
  | _ => { s with mgmtOut := [5] }
def execMctpControlRequest (cmd v : Nat) (s : State) : Out := .next (if s.preCc || s.ccLost then s else mctpControl cmd v s)

/-- R447: a dynamic address is assigned. -/
def execI3cAddressAssign (a : Nat) (s : State) : Out := .next { s with i3cAddr := some a }

end Sys2Proof.Machine
end

