-- ==== Sys2Proof/Machine/SeqAlu.lean ====
section
/-!
DEFINITION. Arithmetic instructions (R238, Table 10-5): results wrap modulo 2^32 and never trap.
-/
namespace Sys2Proof.Machine

/-- rd becomes `f ra rb`. -/
def aluR (q rd ra rb : Nat) (f : W32 → W32 → W32) (s : State) : Out :=
  onUnit (seqOk q) (seqPure q (fun x => x.setGr rd (f (x.gr ra) (x.gr rb))) s)
/-- rd becomes `f ra`. -/
def aluI (q rd ra : Nat) (f : W32 → W32) (s : State) : Out :=
  onUnit (seqOk q) (seqPure q (fun x => x.setGr rd (f (x.gr ra))) s)

/-- Leading zeros of the low `n` bits. -/
def clzIn : Nat → Nat → Nat
  | 0, _ => 0
  | n + 1, v => if v / 2 ^ n % 2 = 1 then 0 else clzIn n v + 1

def clz32 (v : W32) : W32 := BitVec.ofNat 32 (clzIn 32 v.toNat)
def popc32 (v : W32) : W32 := BitVec.ofNat 32 (popc 32 v.toNat)
def bool32 (b : Bool) : W32 := if b then 1 else 0
/-- Shift amount of an R-format shift: bits 4:0 of rb. -/
def sham (v : W32) : Nat := v.toNat % 32

def execAdd (q rd ra rb : Nat) (s : State) : Out := aluR q rd ra rb (fun a b => a + b) s
def execSub (q rd ra rb : Nat) (s : State) : Out := aluR q rd ra rb (fun a b => a - b) s
def execAnd (q rd ra rb : Nat) (s : State) : Out := aluR q rd ra rb (fun a b => a &&& b) s
def execOr (q rd ra rb : Nat) (s : State) : Out := aluR q rd ra rb (fun a b => a ||| b) s
def execXor (q rd ra rb : Nat) (s : State) : Out := aluR q rd ra rb (fun a b => a ^^^ b) s
def execShl (q rd ra rb : Nat) (s : State) : Out := aluR q rd ra rb (fun a b => a <<< sham b) s
def execShr (q rd ra rb : Nat) (s : State) : Out := aluR q rd ra rb (fun a b => a >>> sham b) s
def execSra (q rd ra rb : Nat) (s : State) : Out := aluR q rd ra rb (fun a b => a.sshiftRight (sham b)) s
def execMul (q rd ra rb : Nat) (s : State) : Out := aluR q rd ra rb (fun a b => a * b) s
def execMulhu (q rd ra rb : Nat) (s : State) : Out :=
  aluR q rd ra rb (fun a b => BitVec.ofNat 32 (a.toNat * b.toNat / 2 ^ 32)) s
def execSlt (q rd ra rb : Nat) (s : State) : Out := aluR q rd ra rb (fun a b => bool32 (a.slt b)) s
def execSltu (q rd ra rb : Nat) (s : State) : Out := aluR q rd ra rb (fun a b => bool32 (a.ult b)) s

/-- CLZ and POPC require rb to be g0; another rb is an illegal operand (Table 10-5, R236). -/
def unary (q rd ra rb : Nat) (f : W32 → W32) (s : State) : Out :=
  onUnit (seqOk q) (seqInstr q (fun x t =>
    if rb = 0 then .done (t.setSeq q (x.setGr rd (f (x.gr ra))).adv) else .trap trapIllegal rb) s)
def execClz (q rd ra rb : Nat) (s : State) : Out := unary q rd ra rb clz32 s
def execPopc (q rd ra rb : Nat) (s : State) : Out := unary q rd ra rb popc32 s

def execAddi (q rd ra imm : Nat) (s : State) : Out := aluI q rd ra (fun a => a + sext16 imm) s
def execAndi (q rd ra imm : Nat) (s : State) : Out := aluI q rd ra (fun a => a &&& BitVec.ofNat 32 (imm % 2 ^ 16)) s
def execOri (q rd ra imm : Nat) (s : State) : Out := aluI q rd ra (fun a => a ||| BitVec.ofNat 32 (imm % 2 ^ 16)) s
def execXori (q rd ra imm : Nat) (s : State) : Out := aluI q rd ra (fun a => a ^^^ BitVec.ofNat 32 (imm % 2 ^ 16)) s
def execSlti (q rd ra imm : Nat) (s : State) : Out := aluI q rd ra (fun a => bool32 (a.slt (sext16 imm))) s
def execSltui (q rd ra imm : Nat) (s : State) : Out := aluI q rd ra (fun a => bool32 (a.ult (sext16 imm))) s
def execLui (q rd imm : Nat) (s : State) : Out :=
  aluI q rd 0 (fun _ => BitVec.ofNat 32 (imm % 2 ^ 16 * 2 ^ 16)) s

/-- Immediate shifts: imm16 bits 15:5 are required to be zero. -/
def shiftI (q rd ra imm : Nat) (f : W32 → Nat → W32) (s : State) : Out :=
  onUnit (seqOk q) (seqInstr q (fun x t =>
    if imm < 32 then .done (t.setSeq q (x.setGr rd (f (x.gr ra) imm)).adv) else .trap trapIllegal imm) s)
def execShli (q rd ra imm : Nat) (s : State) : Out := shiftI q rd ra imm (fun a n => a <<< n) s
def execShri (q rd ra imm : Nat) (s : State) : Out := shiftI q rd ra imm (fun a n => a >>> n) s
def execSrai (q rd ra imm : Nat) (s : State) : Out := shiftI q rd ra imm (fun a n => a.sshiftRight n) s

end Sys2Proof.Machine
end

