-- ==== Sys2Proof/Machine/Sleeve.lean ====
section
/-!
DEFINITION. The CT's sleeve points and the fog rule (chapter 2): blocks entering and leaving a core, and job kills.
-/
namespace Sys2Proof.Machine

/-! ### Job kills (R70, R71) -/

def State.killsOf (s : State) (k : Nat) : List Kill := tget [] s.kills k
def State.setKills (s : State) (k : Nat) (l : List Kill) : State := { s with kills := tput [] s.kills k l }

/-- Whether a kill of this context is pending at this core. -/
def killPending (s : State) (c ctx : Nat) : Bool :=
  (s.killsOf (coreCt c)).any (fun x => x.core == c && x.ctx == ctx)

/-- Give free places, in the order of consumption (R70: eight per CT). -/
def givePlaces : Nat → List Kill → List Kill
  | _, [] => []
  | n, x :: l =>
    if x.place then x :: givePlaces n l
    else if n = 0 then x :: givePlaces 0 l
    else { x with place := true } :: givePlaces (n - 1) l

/-- The next kill to rise: the oldest with a place whose core's kill port is idle. -/
def nextKill (l : List Kill) : Option Kill :=
  l.find? (fun x => x.place && !x.raised && !l.any (fun y => y.core == x.core && y.raised))

/-- kill_req rises for every kill that has a place and an idle port: counted and traced (Table 16-2 event 14,
Table 16-5 type 5, with engine 0 of the core). -/
def raiseKillsGo (k : Nat) : Nat → State → State
  | 0, s => s
  | n + 1, s =>
    let l := s.killsOf k
    match nextKill l with
    | none => s
    | some x =>
      let t := s.setKills k (l.map (fun y : Kill => if y = x then { y with raised := true } else y))
      raiseKillsGo k n (traceEv k 5 (coreEng x.core) x.ctx (pcntEv k 14 1 {} t))

/-- DEDUCED (log entry 59). -/
def raiseKills (k : Nat) (s : State) : State :=
  let l := s.killsOf k
  let free := 8 - (l.filter (·.place)).length
  raiseKillsGo k l.length (s.setKills k (givePlaces free l))

/-- A context consumed fog (R70, R71): no second kill while one is pending; one that finds no place waits and is
counted (Table 2-13). DEDUCED (log entry 59). -/
def addKill (c ctx : Nat) (s : State) : State :=
  let k := coreCt c
  if killPending s c ctx then s
  else
    let t := raiseKills k (s.setKills k (s.killsOf k ++ [⟨c, ctx, false, false⟩]))
    if (t.killsOf k).any (fun x => x.core == c && x.ctx == ctx && !x.place) then t.bump F.CT_SLEEVE_STAT_unsleeved k
    else t

/-- R70: a kill that waited rises once its port and a place are free. -/
def execJobKillRaise (k cyc : Nat) (s : State) : Out :=
  onUnit (ctOk k) (if s.ctGated k then s else raiseKills k (advCyc k cyc s))

/-- R70, R433: the host acknowledges the core's kill; its place becomes free. -/
def execKillAck (c cyc : Nat) (s : State) : Out :=
  onUnit (coreOk c) (
    let k := coreCt c
    if s.ctGated k then s
    else
      let t := advCyc k cyc s
      raiseKills k (t.setKills k ((t.killsOf k).filter (fun x => !(x.core == c && x.raised)))))

/-! ### Core ingress (R57, R69) -/

/-- Parameters of a CT's class 0x2 records (Table 2-11). -/
def ctSlvParams (slv point : Nat) (operand : Bool) (c ctx : Nat) : Nat :=
  slv % 2 ^ 16 + 2 ^ 16 * point + 2 ^ 19 * b2n operand + 2 ^ 20 * (c % 128) + 2 ^ 32 * ctx

/-- The fog rule (R69): a fogged operand block is counted, recorded and kills; a fogged transit block is counted. -/
def fogRule (c : Nat) (operand : Bool) (ctx slv : Nat) (inj : Bool) (s : State) : State :=
  let k := coreCt c
  if !slvFog slv then s
  else if operand then
    let t := safeInc k 5 1 (s.bump F.CT_SLEEVE_STAT_fog_consumed k)
    let t := raiseCt k { code := Code.FOG_CONSUMED, unit := ctUnit k, params := ctSlvParams slv 2 operand c ctx,
                         inj := inj } t
    addKill c ctx t
  else s.bump F.CT_SLEEVE_STAT_fog_transit k

/-- A block enters a core: check, count, fog rule, and the sleeve the core is to store (Table 2-6, Table 19-7).
DEDUCED (log entry 59). -/
def ctIngress (c : Nat) (operand : Bool) (ctx slv : Nat) (data : List Byte) (s : State) : State :=
  let k := coreCt c
  if data.length < 2048 then s.bump F.CT_SLEEVE_STAT_unsleeved k
  else
    let s := if operand then pcntEv k 12 1 { fmt := if slvOk slv then some (bits slv 11 5) else none } s else s
    if !slvOk slv then { s.bump F.CT_SLEEVE_STAT_unsleeved k with ingOut := tput 0 s.ingOut c 0 }
    else
      let (hit, s) := injTake 1 (ctUnit k) 0 s
      let bad := checkBad hit 48 (crc48 data) (slvCrc slv)
      let out := if bad then slvSetFog slv else slv
      let s := { s with ingOut := tput 0 s.ingOut c out }
      let s := if bad then
          raiseCt k { code := Code.SLEEVE_CRC, unit := ctUnit k, params := ctSlvParams out 2 operand c ctx, inj := hit }
            (safeInc k 4 1 (s.bump F.CT_SLEEVE_STAT_crc_err k))
        else s
      fogRule c operand ctx out (hit && bad && !slvFog slv) s

/-- R69. -/
def execCtIngress (c cyc : Nat) (operand : Bool) (ctx slv : Nat) (data : List Byte) (s : State) : Out :=
  onUnit (coreOk c) (
    if s.ctGated (coreCt c) then s else ctIngress c operand ctx slv data (advCyc (coreCt c) cyc s))

/-! ### Core egress (R55, R57, R70, R103) -/

/-- The stamps already issued, applied to a sleeve in their order (R148). -/
def applyStamps (t : Tile) (slv : Nat) : Nat :=
  let a := match t.first with | some v => slvSetVerdict slv v | none => slv
  match t.final with | some v => slvSetVerdict a v | none => a

/-- The sleeve of a produced block (R55, R56, R195). -/
def producedSleeve (s : State) (e tag : Nat) (data : List Byte) : Nat :=
  let org := s.partOf (engField e)
  let v := match tagTile s e tag (stripMode s (engCore e)) with
    | none => mkSlv (crc48 data) 0 false 2 org
    | some t =>
      applyStamps t (mkSlv (crc48 data) (if t.known && decide (t.cls ≤ 3) then t.fmtC else 0) false
        (if t.mode = 0 then 2 else 0) org)
  if blocked s e then setBits v 8 2 3 else v

/-- Whether a kill of the context that an engine's ctx_id signals show is pending (R70, R439). -/
def egressKilled (s : State) (e : Nat) : Bool := killPending s (engCore e) (tget 0 s.ctxSig e % 2 ^ 16)

/-- A block that a core in strip mode produces is a strip result (R159): it waits at the CT for its FS and does not leave the
core. Its item is the low byte of the tile ID, the tag (Table 6-1); its ordinal counts the blocks of the tile. -/
def stripBlock (e tag : Nat) (data : List Byte) (s : State) : State :=
  let c := engCore e
  let l := tget [] s.stripOut c ++ (match stripOf s c with | some x => x.outs | none => [])
  let n := (l.filter (fun o => o.eng == e && o.item == tag)).length
  { s with stripOut := tput [] s.stripOut c (tget [] s.stripOut c ++ [⟨e, tag, n, data⟩]) }

/-- A block leaves a core: its sleeve, with fog while the context's kill is pending; a confirmed engine's verdict stands without it
(R195). -/
def ctEgress (e : Nat) (produced : Bool) (tag slv : Nat) (data : List Byte) (s : State) : State :=
  let k := engCt e
  let c := engCore e
  if data.length < 2048 then s.bump F.CT_SLEEVE_STAT_unsleeved k
  else if produced && stripMode s c then stripBlock e tag data s
  else
    let v := if produced then producedSleeve s e tag data else slv
    let out := if !slvOk v then 0 else if egressKilled s e && !(produced && blocked s e) then slvSetFog v else v
    let s := { s with egrOut := tput 0 s.egrOut c out }
    let s := if slvOk v then s else s.bump F.CT_SLEEVE_STAT_unsleeved k
    if produced then pcntEv k 11 1 { eng := some (engInCt e), fmt := some (bits v 11 5) } s else s

/-- R57, R103. -/
def execCtEgress (e cyc : Nat) (produced : Bool) (tag slv : Nat) (data : List Byte) (s : State) : Out :=
  onUnit (engOk e) (
    if s.ctGated (engCt e) then s else ctEgress e produced tag slv data (advCyc (engCt e) cyc s))

end Sys2Proof.Machine
end

