-- ==== Sys2Proof/Machine/Dispatch.lean ====
section
/-!
DEFINITION. Which meaning each command has.
-/
namespace Sys2Proof.Machine

def exec (i : Instr) (s : State) : Host.Outcome State Fault Refusal :=
  match i with
  | .heartbeatSend => Sys2Proof.Machine.execHeartbeatSend s
  | .heartbeatLoss => Sys2Proof.Machine.execHeartbeatLoss s
  | .activeCcFatal => Sys2Proof.Machine.execActiveCcFatal s
  | .swapReq w => Sys2Proof.Machine.execSwapReq w s
  | .ccSwap => Sys2Proof.Machine.execCcSwap s
  | .ccCheckpoint => Sys2Proof.Machine.execCcCheckpoint s
  | .wtCompare diff => Sys2Proof.Machine.execWtCompare diff s
  | .mtPoolCfgWrite w m v => Sys2Proof.Machine.execMtPoolCfgWrite w m v s
  | .trogPacketDeliver flits => Sys2Proof.Machine.execTrogPacketDeliver flits s
  | .trogLinkReplay f ok => Sys2Proof.Machine.execTrogLinkReplay f ok s
  | .controlResend src sq => Sys2Proof.Machine.execControlResend src sq s
  | .proofArrayReady f => Sys2Proof.Machine.execProofArrayReady f s
  | .proofArraySleep f => Sys2Proof.Machine.execProofArraySleep f s
  | .mtLoad m b data ue lineUe late part link gen tag tagLate => Sys2Proof.Machine.execMtLoad m b data ue lineUe late part link gen tag tagLate s
  | .mtWrite m b whole slv data part link => Sys2Proof.Machine.execMtWrite m b whole slv data part link s
  | .sleeveLineArrive m b ue => Sys2Proof.Machine.execSleeveLineArrive m b ue s
  | .mtSleeveCfgWrite w m v => Sys2Proof.Machine.execMtSleeveCfgWrite w m v s
  | .ctIngress c cyc operand ctx slv data => Sys2Proof.Machine.execCtIngress c cyc operand ctx slv data s
  | .jobKillRaise k cyc => Sys2Proof.Machine.execJobKillRaise k cyc s
  | .killAck c cyc => Sys2Proof.Machine.execKillAck c cyc s
  | .ctEgress e cyc produced tag slv data => Sys2Proof.Machine.execCtEgress e cyc produced tag slv data s
  | .ltOutbound l x => Sys2Proof.Machine.execLtOutbound l x s
  | .ltInbound l x => Sys2Proof.Machine.execLtInbound l x s
  | .descBeat e cyc data => Sys2Proof.Machine.execDescBeat e cyc data s
  | .sigBeat e cyc kind data => Sys2Proof.Machine.execSigBeat e cyc kind data s
  | .abortBeat e cyc pulse => Sys2Proof.Machine.execAbortBeat e cyc pulse s
  | .retirePulse e cyc => Sys2Proof.Machine.execRetirePulse e cyc s
  | .foldDrain k cyc => Sys2Proof.Machine.execFoldDrain k cyc s
  | .engineResetInput e on => Sys2Proof.Machine.execEngineResetInput e on s
  | .rekey w f v => Sys2Proof.Machine.execRekey w f v s
  | .ccSettingForward w n p v => Sys2Proof.Machine.execCcSettingForward w n p v s
  | .proofForceWrite w k hi v => Sys2Proof.Machine.execProofForceWrite w k hi v s
  | .tapBlock e cyc tag kind ord data => Sys2Proof.Machine.execTapBlock e cyc tag kind ord data s
  | .proofReserve f => Sys2Proof.Machine.execProofReserve f s
  | .mirrorBlockArrive k => Sys2Proof.Machine.execMirrorBlockArrive k s
  | .proofStart f => Sys2Proof.Machine.execProofStart f s
  | .stripSegmentStart f => Sys2Proof.Machine.execStripSegmentStart f s
  | .proofCompareDone f => Sys2Proof.Machine.execProofCompareDone f s
  | .proofArrayFault f chk => Sys2Proof.Machine.execProofArrayFault f chk s
  | .arraySuspectClear w f v => Sys2Proof.Machine.execArraySuspectClear w f v s
  | .proofAbandon f compared => Sys2Proof.Machine.execProofAbandon f compared s
  | .proofVerdictArrive f => Sys2Proof.Machine.execProofVerdictArrive f s
  | .negRelease w f v => Sys2Proof.Machine.execNegRelease w f v s
  | .firstStampDeadline e => Sys2Proof.Machine.execFirstStampDeadline e s
  | .stampSend e cyc => Sys2Proof.Machine.execStampSend e cyc s
  | .proofTimeout e => Sys2Proof.Machine.execProofTimeout e s
  | .foldFault e tag chk => Sys2Proof.Machine.execFoldFault e tag chk s
  | .stripDue c => Sys2Proof.Machine.execStripDue c s
  | .strip q rd ra rb => Sys2Proof.Machine.execStrip q rd ra rb s
  | .stripCmd w f v => Sys2Proof.Machine.execStripCmd w f v s
  | .graceExpire c => Sys2Proof.Machine.execGraceExpire c s
  | .forceDeadlineExpire c => Sys2Proof.Machine.execForceDeadlineExpire c s
  | .shadowLoss c => Sys2Proof.Machine.execShadowLoss c s
  | .stripOverdue e => Sys2Proof.Machine.execStripOverdue e s
  | .yieldGrant c => Sys2Proof.Machine.execYieldGrant c s
  | .pairWaitExpire c => Sys2Proof.Machine.execPairWaitExpire c s
  | .stripResult c outs => Sys2Proof.Machine.execStripResult c outs s
  | .stripResultTimeout c => Sys2Proof.Machine.execStripResultTimeout c s
  | .stepMark w p v => Sys2Proof.Machine.execStepMark w p v s
  | .lossPost w p v => Sys2Proof.Machine.execLossPost w p v s
  | .lossResetStats w p v => Sys2Proof.Machine.execLossResetStats w p v s
  | .bracket q rd ra => Sys2Proof.Machine.execBracket q rd ra s
  | .brkCmdStart w f v => Sys2Proof.Machine.execBrkCmdStart w f v s
  | .brkCancel w f => Sys2Proof.Machine.execBrkCancel w f s
  | .tokenGrant => Sys2Proof.Machine.execTokenGrant s
  | .tokenWaitExpire f => Sys2Proof.Machine.execTokenWaitExpire f s
  | .tokenReturn => Sys2Proof.Machine.execTokenReturn s
  | .holdWaitExpire f => Sys2Proof.Machine.execHoldWaitExpire f s
  | .maintOpen w f v => Sys2Proof.Machine.execMaintOpen w f v s
  | .maintClose w f v => Sys2Proof.Machine.execMaintClose w f v s
  | .maintWindowExpire f => Sys2Proof.Machine.execMaintWindowExpire f s
  | .pmAccept refuseToo => Sys2Proof.Machine.execPmAccept refuseToo s
  | .pmRefuse => Sys2Proof.Machine.execPmRefuse s
  | .pmAnswerTimeout => Sys2Proof.Machine.execPmAnswerTimeout s
  | .pmSettled => Sys2Proof.Machine.execPmSettled s
  | .pmSettleTimeout f => Sys2Proof.Machine.execPmSettleTimeout f s
  | .brkStepDone f => Sys2Proof.Machine.execBrkStepDone f s
  | .thermalSample f temps => Sys2Proof.Machine.execThermalSample f temps s
  | .heatMaxExpire f => Sys2Proof.Machine.execHeatMaxExpire f s
  | .coolExpire f => Sys2Proof.Machine.execCoolExpire f s
  | .fenceConfirm q rd ra rb => Sys2Proof.Machine.execFenceConfirm q rd ra rb s
  | .fenceClear q rd ra => Sys2Proof.Machine.execFenceClear q rd ra s
  | .fenceMakeLatent q rd ra rb => Sys2Proof.Machine.execFenceMakeLatent q rd ra rb s
  | .fenceReplay q rd ra => Sys2Proof.Machine.execFenceReplay q rd ra s
  | .fenceConfirmArrive => Sys2Proof.Machine.execFenceConfirmArrive s
  | .fenceAnswer => Sys2Proof.Machine.execFenceAnswer s
  | .ownerFence w v => Sys2Proof.Machine.execOwnerFence w v s
  | .fenceRemove w v => Sys2Proof.Machine.execFenceRemove w v s
  | .fenceUpdate => Sys2Proof.Machine.execFenceUpdate s
  | .fenceAck => Sys2Proof.Machine.execFenceAck s
  | .fenceAckTimeout => Sys2Proof.Machine.execFenceAckTimeout s
  | .fenceResync => Sys2Proof.Machine.execFenceResync s
  | .latentWindow e => Sys2Proof.Machine.execLatentWindow e s
  | .replayWaitExpire c => Sys2Proof.Machine.execReplayWaitExpire c s
  | .fsFailure f => Sys2Proof.Machine.execFsFailure f s
  | .lspExport w v => Sys2Proof.Machine.execLspExport w v s
  | .lspDataRead w => Sys2Proof.Machine.execLspDataRead w s
  | .packBegin w len => Sys2Proof.Machine.execPackBegin w len s
  | .packData w v => Sys2Proof.Machine.execPackData w v s
  | .packCommit w => Sys2Proof.Machine.execPackCommit w s
  | .packAbort w => Sys2Proof.Machine.execPackAbort w s
  | .packSwap w => Sys2Proof.Machine.execPackSwap w s
  | .packRevert w => Sys2Proof.Machine.execPackRevert w s
  | .packFieldAnswer => Sys2Proof.Machine.execPackFieldAnswer s
  | .packFloorWrite w v => Sys2Proof.Machine.execPackFloorWrite w v s
  | .add q rd ra rb => Sys2Proof.Machine.execAdd q rd ra rb s
  | .sub q rd ra rb => Sys2Proof.Machine.execSub q rd ra rb s
  | .andI q rd ra rb => Sys2Proof.Machine.execAnd q rd ra rb s
  | .orI q rd ra rb => Sys2Proof.Machine.execOr q rd ra rb s
  | .xorI q rd ra rb => Sys2Proof.Machine.execXor q rd ra rb s
  | .shl q rd ra rb => Sys2Proof.Machine.execShl q rd ra rb s
  | .shr q rd ra rb => Sys2Proof.Machine.execShr q rd ra rb s
  | .sra q rd ra rb => Sys2Proof.Machine.execSra q rd ra rb s
  | .mul q rd ra rb => Sys2Proof.Machine.execMul q rd ra rb s
  | .mulhu q rd ra rb => Sys2Proof.Machine.execMulhu q rd ra rb s
  | .slt q rd ra rb => Sys2Proof.Machine.execSlt q rd ra rb s
  | .sltu q rd ra rb => Sys2Proof.Machine.execSltu q rd ra rb s
  | .clz q rd ra rb => Sys2Proof.Machine.execClz q rd ra rb s
  | .popc q rd ra rb => Sys2Proof.Machine.execPopc q rd ra rb s
  | .addi q rd ra imm => Sys2Proof.Machine.execAddi q rd ra imm s
  | .andi q rd ra imm => Sys2Proof.Machine.execAndi q rd ra imm s
  | .ori q rd ra imm => Sys2Proof.Machine.execOri q rd ra imm s
  | .xori q rd ra imm => Sys2Proof.Machine.execXori q rd ra imm s
  | .shli q rd ra imm => Sys2Proof.Machine.execShli q rd ra imm s
  | .shri q rd ra imm => Sys2Proof.Machine.execShri q rd ra imm s
  | .srai q rd ra imm => Sys2Proof.Machine.execSrai q rd ra imm s
  | .lui q rd imm => Sys2Proof.Machine.execLui q rd imm s
  | .slti q rd ra imm => Sys2Proof.Machine.execSlti q rd ra imm s
  | .sltui q rd ra imm => Sys2Proof.Machine.execSltui q rd ra imm s
  | .lw q rd ra imm ue => Sys2Proof.Machine.execLw q rd ra imm ue s
  | .lh q rd ra imm ue => Sys2Proof.Machine.execLh q rd ra imm ue s
  | .lhu q rd ra imm ue => Sys2Proof.Machine.execLhu q rd ra imm ue s
  | .lb q rd ra imm ue => Sys2Proof.Machine.execLb q rd ra imm ue s
  | .lbu q rd ra imm ue => Sys2Proof.Machine.execLbu q rd ra imm ue s
  | .sw q rs ra imm => Sys2Proof.Machine.execSw q rs ra imm s
  | .sh q rs ra imm => Sys2Proof.Machine.execSh q rs ra imm s
  | .sb q rs ra imm => Sys2Proof.Machine.execSb q rs ra imm s
  | .csrr q rd n => Sys2Proof.Machine.execCsrr q rd n s
  | .csrw q n ra => Sys2Proof.Machine.execCsrw q n ra s
  | .rdr q rd ra imm late => Sys2Proof.Machine.execRdr q rd ra imm late s
  | .wrr q rs ra imm late => Sys2Proof.Machine.execWrr q rs ra imm late s
  | .beq q ra rb off => Sys2Proof.Machine.execBeq q ra rb off s
  | .bne q ra rb off => Sys2Proof.Machine.execBne q ra rb off s
  | .blt q ra rb off => Sys2Proof.Machine.execBlt q ra rb off s
  | .bge q ra rb off => Sys2Proof.Machine.execBge q ra rb off s
  | .bltu q ra rb off => Sys2Proof.Machine.execBltu q ra rb off s
  | .bgeu q ra rb off => Sys2Proof.Machine.execBgeu q ra rb off s
  | .jal q rd off => Sys2Proof.Machine.execJal q rd off s
  | .jalr q rd ra imm => Sys2Proof.Machine.execJalr q rd ra imm s
  | .tret q => Sys2Proof.Machine.execTret q s
  | .wait q rd ra rb => Sys2Proof.Machine.execWait q rd ra rb s
  | .waitWake q => Sys2Proof.Machine.execWaitWake q s
  | .sigLocalAdd q ra imm => Sys2Proof.Machine.execSigLocalAdd q ra imm s
  | .sigRemoteAdd q rt ra imm => Sys2Proof.Machine.execSigRemoteAdd q rt ra imm s
  | .sigLocalSub q ra imm => Sys2Proof.Machine.execSigLocalSub q ra imm s
  | .semSignalArrive q => Sys2Proof.Machine.execSemSignalArrive q s
  | .waits q rd ra rb n => Sys2Proof.Machine.execWaits q rd ra rb n s
  | .waitsWake q => Sys2Proof.Machine.execWaitsWake q s
  | .send q rd ra rb fn => Sys2Proof.Machine.execSend q rd ra rb fn s
  | .messageArrive src dst lost => Sys2Proof.Machine.execMessageArrive src dst lost s
  | .recv q rd rb => Sys2Proof.Machine.execRecv q rd rb s
  | .proofSetForce q rd ra rb => Sys2Proof.Machine.execProofSetForce q rd ra rb s
  | .proofSetRekey q rd => Sys2Proof.Machine.execProofSetRekey q rd s
  | .proofSetRate q rd ra rb => Sys2Proof.Machine.execProofSetRate q rd ra rb s
  | .resetContext q rd ra rb => Sys2Proof.Machine.execResetContext q rd ra rb s
  | .resetEngine q rd ra rb => Sys2Proof.Machine.execResetEngine q rd ra rb s
  | .resetPartition q rd ra rb => Sys2Proof.Machine.execResetPartition q rd ra rb s
  | .resetWafer q rd ra rb => Sys2Proof.Machine.execResetWafer q rd ra rb s
  | .resetPowerCycle q rd ra rb => Sys2Proof.Machine.execResetPowerCycle q rd ra rb s
  | .log q rs ra imm => Sys2Proof.Machine.execLog q rs ra imm s
  | .timeRead q rd => Sys2Proof.Machine.execTimeRead q rd s
  | .timeArmRel q ra => Sys2Proof.Machine.execTimeArmRel q ra s
  | .timeArmAbs q ra => Sys2Proof.Machine.execTimeArmAbs q ra s
  | .timerExpire q => Sys2Proof.Machine.execTimerExpire q s
  | .wdogTrap q => Sys2Proof.Machine.execWdogTrap q s
  | .seqRestart w q => Sys2Proof.Machine.execSeqRestart w q s
  | .mboxWrite w q v => Sys2Proof.Machine.execMboxWrite w q v s
  | .ownerSemSig w q v => Sys2Proof.Machine.execOwnerSemSig w q v s
  | .imgBegin w fs len => Sys2Proof.Machine.execImgBegin w fs len s
  | .imgData w v => Sys2Proof.Machine.execImgData w v s
  | .imgCommit w => Sys2Proof.Machine.execImgCommit w s
  | .imgAbort w => Sys2Proof.Machine.execImgAbort w s
  | .imgApply w fs field all => Sys2Proof.Machine.execImgApply w fs field all s
  | .imgPromote w fs => Sys2Proof.Machine.execImgPromote w fs s
  | .imgRevert w fs => Sys2Proof.Machine.execImgRevert w fs s
  | .imgFloorWrite w v => Sys2Proof.Machine.execImgFloorWrite w v s
  | .errPinLatch p edge held => Sys2Proof.Machine.execErrPinLatch p edge held s
  | .pinRelatch p => Sys2Proof.Machine.execPinRelatch p s
  | .pinStuck p => Sys2Proof.Machine.execPinStuck p s
  | .pinUnstuck p => Sys2Proof.Machine.execPinUnstuck p s
  | .fswClose w f v => Sys2Proof.Machine.execFswClose w f v s
  | .ccFaultClose w v => Sys2Proof.Machine.execCcFaultClose w v s
  | .pinSelect w f v => Sys2Proof.Machine.execPinSelect w f v s
  | .pinClear w f v => Sys2Proof.Machine.execPinClear w f v s
  | .ctErrCapture w k v => Sys2Proof.Machine.execCtErrCapture w k v s
  | .injectArm w v => Sys2Proof.Machine.execInjectArm w v s
  | .injectCancel w v => Sys2Proof.Machine.execInjectCancel w v s
  | .recordForwardArrive f => Sys2Proof.Machine.execRecordForwardArrive f s
  | .bucketRefill r code => Sys2Proof.Machine.execBucketRefill r code s
  | .loupeSelect w v => Sys2Proof.Machine.execLoupeSelect w v s
  | .loupeCapture w v => Sys2Proof.Machine.execLoupeCapture w v s
  | .loupeAdvance w => Sys2Proof.Machine.execLoupeAdvance w s
  | .recClear w v => Sys2Proof.Machine.execRecClear w v s
  | .recorderFreeze w v => Sys2Proof.Machine.execRecorderFreeze w v s
  | .recorderRelease w v => Sys2Proof.Machine.execRecorderRelease w v s
  | .freezeMaxExpire r => Sys2Proof.Machine.execFreezeMaxExpire r s
  | .hang e => Sys2Proof.Machine.execHang e s
  | .contextChange e cyc active ctx => Sys2Proof.Machine.execContextChange e cyc active ctx s
  | .cmdResetContext w v => Sys2Proof.Machine.execCmdResetContext w v s
  | .cmdResetEngine w v => Sys2Proof.Machine.execCmdResetEngine w v s
  | .cmdResetPartition w v => Sys2Proof.Machine.execCmdResetPartition w v s
  | .cmdResetWafer w v => Sys2Proof.Machine.execCmdResetWafer w v s
  | .cmdResetPowerCycle w v => Sys2Proof.Machine.execCmdResetPowerCycle w v s
  | .returnToService w v => Sys2Proof.Machine.execReturnToService w v s
  | .clearBudgetHold w v => Sys2Proof.Machine.execClearBudgetHold w v s
  | .resetAck c => Sys2Proof.Machine.execResetAck c s
  | .resetTimeout scope x => Sys2Proof.Machine.execResetTimeout scope x s
  | .partitionIsolate p => Sys2Proof.Machine.execPartitionIsolate p s
  | .resetDrained p all => Sys2Proof.Machine.execResetDrained p all s
  | .partitionResetAck p => Sys2Proof.Machine.execPartitionResetAck p s
  | .retrainDone p recs => Sys2Proof.Machine.execRetrainDone p recs s
  | .retrainTimeout p => Sys2Proof.Machine.execRetrainTimeout p s
  | .partitionRelease p => Sys2Proof.Machine.execPartitionRelease p s
  | .partitionMapWrite w chan j v => Sys2Proof.Machine.execPartitionMapWrite w chan j v s
  | .suspectSelect w k v => Sys2Proof.Machine.execSuspectSelect w k v s
  | .suspectListRelease w k v => Sys2Proof.Machine.execSuspectListRelease w k v s
  | .creplayStart w f v => Sys2Proof.Machine.execCreplayStart w f v s
  | .creplayCancel w f v => Sys2Proof.Machine.execCreplayCancel w f v s
  | .creplayWaitExpire f => Sys2Proof.Machine.execCreplayWaitExpire f s
  | .creplayLimitExpire f lim => Sys2Proof.Machine.execCreplayLimitExpire f lim s
  | .replayDone f unable => Sys2Proof.Machine.execReplayDone f unable s
  | .ckptTableWrite w host word v => Sys2Proof.Machine.execCkptTableWrite w host word v s
  | .ckptSave w v outside tab => Sys2Proof.Machine.execCkptSave w v outside tab s
  | .ckptOpenArrive h wafer part shard count len key step => Sys2Proof.Machine.execCkptOpenArrive h wafer part shard count len key step s
  | .ckptOpenReply p shard partner ok => Sys2Proof.Machine.execCkptOpenReply p shard partner ok s
  | .shadowBlockArrive h k j slv data => Sys2Proof.Machine.execShadowBlockArrive h k j slv data s
  | .ckptDrainDone p l => Sys2Proof.Machine.execCkptDrainDone p l s
  | .ckptRootArrive h root => Sys2Proof.Machine.execCkptRootArrive h root s
  | .ckptVerifyAnswer p shard partner ok => Sys2Proof.Machine.execCkptVerifyAnswer p shard partner ok s
  | .ckptManifestArrive h man => Sys2Proof.Machine.execCkptManifestArrive h man s
  | .ckptManifestAck p shard partner => Sys2Proof.Machine.execCkptManifestAck p shard partner s
  | .ckptAckTimeout p => Sys2Proof.Machine.execCkptAckTimeout p s
  | .ckptRestore w v => Sys2Proof.Machine.execCkptRestore w v s
  | .restoreDataComplete p reach man l => Sys2Proof.Machine.execRestoreDataComplete p reach man l s
  | .ckptAbort w v => Sys2Proof.Machine.execCkptAbort w v s
  | .stopRequest w joined freeze => Sys2Proof.Machine.execStopRequest w joined freeze s
  | .stopAnnounceArrive u => Sys2Proof.Machine.execStopAnnounceArrive u s
  | .stopCancel w => Sys2Proof.Machine.execStopCancel w s
  | .stopSample => Sys2Proof.Machine.execStopSample s
  | .stopGate txs => Sys2Proof.Machine.execStopGate txs s
  | .joinArrive l id lead => Sys2Proof.Machine.execJoinArrive l id lead s
  | .stopMarkArrive l id => Sys2Proof.Machine.execStopMarkArrive l id s
  | .captureWindowExpire => Sys2Proof.Machine.execCaptureWindowExpire s
  | .linkLatencyPing l rtt turn => Sys2Proof.Machine.execLinkLatencyPing l rtt turn s
  | .stopFreeze w => Sys2Proof.Machine.execStopFreeze w s
  | .stopRelease w => Sys2Proof.Machine.execStopRelease w s
  | .stopResume w => Sys2Proof.Machine.execStopResume w s
  | .forceRelease w => Sys2Proof.Machine.execForceRelease w s
  | .stopAutoResume => Sys2Proof.Machine.execStopAutoResume s
  | .resumeArrive l id lead => Sys2Proof.Machine.execResumeArrive l id lead s
  | .stopRun => Sys2Proof.Machine.execStopRun s
  | .stopWireDrop => Sys2Proof.Machine.execStopWireDrop s
  | .sheetCapture w v => Sys2Proof.Machine.execSheetCapture w v s
  | .sheetAbort w => Sys2Proof.Machine.execSheetAbort w s
  | .sheetComplete sections need => Sys2Proof.Machine.execSheetComplete sections need s
  | .barrierJoin e cyc c => Sys2Proof.Machine.execBarrierJoin e cyc c s
  | .barrierEnter e cyc c => Sys2Proof.Machine.execBarrierEnter e cyc c s
  | .barrierLeave e cyc c => Sys2Proof.Machine.execBarrierLeave e cyc c s
  | .barrierRelease c => Sys2Proof.Machine.execBarrierRelease c s
  | .barrierReleaseTimer c => Sys2Proof.Machine.execBarrierReleaseTimer c s
  | .barCfgWrite w c v => Sys2Proof.Machine.execBarCfgWrite w c v s
  | .lifecycleTransition w v => Sys2Proof.Machine.execLifecycleTransition w v s
  | .trustGroupWrite w v => Sys2Proof.Machine.execTrustGroupWrite w v s
  | .trustGroupSend l peer => Sys2Proof.Machine.execTrustGroupSend l peer s
  | .getVersion => Sys2Proof.Machine.execGetVersion s
  | .getCapabilities ver => Sys2Proof.Machine.execGetCapabilities ver s
  | .negotiateAlgorithms ver => Sys2Proof.Machine.execNegotiateAlgorithms ver s
  | .getDigests ver => Sys2Proof.Machine.execGetDigests ver s
  | .getCertificate ver slot off len => Sys2Proof.Machine.execGetCertificate ver slot off len s
  | .challenge ver slot summary nonce => Sys2Proof.Machine.execChallenge ver slot summary nonce s
  | .getMeasurements ver sign index nonce => Sys2Proof.Machine.execGetMeasurements ver sign index nonce s
  | .spdmUnsupported ver code => Sys2Proof.Machine.execSpdmUnsupported ver code s
  | .keyBegin w p => Sys2Proof.Machine.execKeyBegin w p s
  | .keyData w v => Sys2Proof.Machine.execKeyData w v s
  | .keyLoad w p => Sys2Proof.Machine.execKeyLoad w p s
  | .keyAbort w p => Sys2Proof.Machine.execKeyAbort w p s
  | .sealRegionWrite w m n wordB v => Sys2Proof.Machine.execSealRegionWrite w m n wordB v s
  | .tagLineArrive m b tag => Sys2Proof.Machine.execTagLineArrive m b tag s
  | .debugEnable w p => Sys2Proof.Machine.execDebugEnable w p s
  | .debugDisable w p => Sys2Proof.Machine.execDebugDisable w p s
  | .sramClearAck p => Sys2Proof.Machine.execSramClearAck p s
  | .sramClearTimeout p => Sys2Proof.Machine.execSramClearTimeout p s
  | .scrubStart w p => Sys2Proof.Machine.execScrubStart w p s
  | .scrubAbort w p => Sys2Proof.Machine.execScrubAbort w p s
  | .scrubPhaseDone p bad => Sys2Proof.Machine.execScrubPhaseDone p bad s
  | .scrubAckTimeout p => Sys2Proof.Machine.execScrubAckTimeout p s
  | .safelightCtReport k => Sys2Proof.Machine.execSafelightCtReport k s
  | .safelightFsReport f => Sys2Proof.Machine.execSafelightFsReport f s
  | .safeSelect w k v => Sys2Proof.Machine.execSafeSelect w k v s
  | .ccSafeSelect w v => Sys2Proof.Machine.execCcSafeSelect w v s
  | .pcntSelect w k v => Sys2Proof.Machine.execPcntSelect w k v s
  | .pcntCfgWrite w k v => Sys2Proof.Machine.execPcntCfgWrite w k v s
  | .pcntClear w k v => Sys2Proof.Machine.execPcntClear w k v s
  | .traceEnable w p v => Sys2Proof.Machine.execTraceEnable w p v s
  | .traceMark w p v => Sys2Proof.Machine.execTraceMark w p v s
  | .traceBlockWrite p => Sys2Proof.Machine.execTraceBlockWrite p s
  | .ledgerSelect w f v => Sys2Proof.Machine.execLedgerSelect w f v s
  | .fixSelect w f v => Sys2Proof.Machine.execFixSelect w f v s
  | .fenceIndexSelect w v => Sys2Proof.Machine.execFenceIndexSelect w v s
  | .shardSelect w v => Sys2Proof.Machine.execShardSelect w v s
  | .hostSelect w v => Sys2Proof.Machine.execHostSelect w v s
  | .bootSelect w v => Sys2Proof.Machine.execBootSelect w v s
  | .bistSelect w v => Sys2Proof.Machine.execBistSelect w v s
  | .homeSelect w v => Sys2Proof.Machine.execHomeSelect w v s
  | .archiveSelect w v bad => Sys2Proof.Machine.execArchiveSelect w v bad s
  | .powerOnReset waferId sa bad => Sys2Proof.Machine.execPowerOnReset waferId sa bad s
  | .ccBistDone a b => Sys2Proof.Machine.execCcBistDone a b s
  | .bistWaveDone res => Sys2Proof.Machine.execBistWaveDone res s
  | .bootStripWaitExpire c => Sys2Proof.Machine.execBootStripWaitExpire c s
  | .startStripsDone => Sys2Proof.Machine.execStartStripsDone s
  | .fsImageVerified f copy => Sys2Proof.Machine.execFsImageVerified f copy s
  | .broadcastDone => Sys2Proof.Machine.execBroadcastDone s
  | .trainReport link u ok full tried data => Sys2Proof.Machine.execTrainReport link u ok full tried data s
  | .trainLimitExpire => Sys2Proof.Machine.execTrainLimitExpire s
  | .fieldRelease => Sys2Proof.Machine.execFieldRelease s
  | .ownerClaim w => Sys2Proof.Machine.execOwnerClaim w s
  | .ownerRelease w => Sys2Proof.Machine.execOwnerRelease w s
  | .ownerAccept w => Sys2Proof.Machine.execOwnerAccept w s
  | .ownerStale => Sys2Proof.Machine.execOwnerStale s
  | .handoverStart w target => Sys2Proof.Machine.execHandoverStart w target s
  | .handoverLapsed => Sys2Proof.Machine.execHandoverLapsed s
  | .arraySelftestStart w f => Sys2Proof.Machine.execArraySelftestStart w f s
  | .arraySelftestDone f pass => Sys2Proof.Machine.execArraySelftestDone f pass s
  | .clockWindow ref bk => Sys2Proof.Machine.execClockWindow ref bk s
  | .clockEdgeLoss bk => Sys2Proof.Machine.execClockEdgeLoss bk s
  | .pllReady bk => Sys2Proof.Machine.execPllReady bk s
  | .sourceReturn => Sys2Proof.Machine.execSourceReturn s
  | .bkclkStable => Sys2Proof.Machine.execBkclkStable s
  | .aonClockLoss => Sys2Proof.Machine.execAonClockLoss s
  | .aonSelfReset waferId sa bad => Sys2Proof.Machine.execAonSelfReset waferId sa bad s
  | .sscCfgWrite w v => Sys2Proof.Machine.execSscCfgWrite w v s
  | .vddWarn mv => Sys2Proof.Machine.execVddWarn mv s
  | .vddWarnClear mv => Sys2Proof.Machine.execVddWarnClear mv s
  | .supplyReset waferId sa bad => Sys2Proof.Machine.execSupplyReset waferId sa bad s
  | .vddDroop f mv ns => Sys2Proof.Machine.execVddDroop f mv ns s
  | .cycleCapture w k cyc => Sys2Proof.Machine.execCycleCapture w k cyc s
  | .tempStale k => Sys2Proof.Machine.execTempStale k s
  | .hregRequest write addr data part => Sys2Proof.Machine.execHregRequest write addr data part s
  | .hregTimeout => Sys2Proof.Machine.execHregTimeout s
  | .registerWrite w addr v => Sys2Proof.Machine.execRegisterWrite w addr v s
  | .reservationReply f => Sys2Proof.Machine.execReservationReply f s
  | .linkTrained l => Sys2Proof.Machine.execLinkTrained l s
  | .linkDown l => Sys2Proof.Machine.execLinkDown l s
  | .traceRecordArrive k => Sys2Proof.Machine.execTraceRecordArrive k s
  | .undefinedOpcode q word => Sys2Proof.Machine.execUndefinedOpcode q word s
  | .lspRecordReady => Sys2Proof.Machine.execLspRecordReady s
  | .restoreServeRequest h => Sys2Proof.Machine.execRestoreServeRequest h s
  | .probeBistRun res => Sys2Proof.Machine.execProbeBistRun res s
  | .pldmRequest sensor => Sys2Proof.Machine.execPldmRequest sensor s
  | .mctpControlRequest cmd v => Sys2Proof.Machine.execMctpControlRequest cmd v s
  | .i3cAddressAssign a => Sys2Proof.Machine.execI3cAddressAssign a s
  | .yieldGrantDrop c => Sys2Proof.Machine.execYieldGrantDrop c s
  | .resetRequestRaise c => Sys2Proof.Machine.execResetRequestRaise c s

end Sys2Proof.Machine
end

