-- ==== Sys2Proof/Machine/Step.lean ====
section
/-!
DEFINITION. One step of the block: the command at the front of the queue, or an idle moment in which wafer time advances.
-/
namespace Sys2Proof.Machine

/-- How far wafer time advances in a step with no command: by its resolution (R424), 1 ns, and 20 ns in AON-only operation.
DESIGN CHOICE (log entry 13): the table has no row for a tick. -/
def idleNs (s : State) : Nat := if s.aonOnly then 20 else 1

/-- One step: the command at the front of the queue; with none, wafer time advances and the sensors are sampled. -/
def step (s : State) : Host.Outcome State Fault Refusal :=
  match s.pending with
  | c :: l => exec c { s with pending := l }
  | [] => .next (sampleAll { s with wt := s.wt + idleNs s })

/-- `s` with the command that a word spells in front of its queue; no row of the table gives bits, so no word spells one. -/
def State.withFetchWord (s : State) (nbits w : Nat) : State :=
  match Sys2Proof.decodeTableWord nbits w with
  | some c => { s with pending := c :: s.pending }
  | none => s

end Sys2Proof.Machine
end

