-- ==== Sys2Proof/Safety.lean ====
section
/-!
DEFINITION. The terms statements use: which writes take effect, and what a good state is.
-/
namespace Sys2Proof.Machine

/-- A write by `w` reaches copy `i` of a register and `w` has a right to it, so that the register's own rule applies (R242,
R391, R400, R464, R465). -/
def Granted (s : State) (w : Writer) (r : Reg) (i : Nat) : Prop :=
  s.regReach w r i = true ∧ s.mayWrite w r i = true

/-- No check of this kind at this unit is inverted (R277). -/
def NoInj (s : State) (checker unit part : Nat) : Prop := s.injs.find? (injHit checker unit part) = none

/-- Every recorder within its areas, at most 16 held records, and the recorders' table in canonical form (Table 11-5, R291). -/
def RecordersFit (s : State) : Prop :=
  twf ({} : Recorder) s.recs = true
    ∧ ∀ r, (s.rcdr r).first.length ≤ firstCap r ∧ (s.rcdr r).last.length ≤ lastCap r ∧ (s.rcdr r).holdq.length ≤ 16

/-- Sequencer `q` executes the instruction at its pc: it runs, and its pc can be fetched (R235, R240). -/
def Ready (s : State) (q : Nat) : Prop := seqOk q = true ∧ s.seqRuns q = true ∧ fetchOk q (s.seq q).pc = true

/-- Sequencer `q` with the instruction it executes counted by the watchdog (R260). -/
def nowSeq (s : State) (q : Nat) : Seq := { s.seq q with icount := (s.seq q).icount + 1 }
/-- The state in which that instruction takes its effect. -/
def now (s : State) (q : Nat) : State := s.setSeq q (nowSeq s q)
/-- The instruction writes `v` to `rd` and the next one follows. -/
def result (s : State) (q rd : Nat) (v : W32) : State := (now s q).setSeq q ((nowSeq s q).setGr rd v).adv
/-- The instruction goes on at `pc` with the sequencer as it was. -/
def jumped (s : State) (q : Nat) (pc : W32) : State := (now s q).setSeq q { nowSeq s q with pc := pc }
/-- The instruction traps with a cause and TRAP_INFO (R259). -/
def trapped (s : State) (q cause info : Nat) : State := seqTrap q cause info (now s q)

/-- The sequencer a sequencer instruction runs on; none for every other command. -/
def seqOf : Instr → Option Nat
  | .add q _ _ _ | .sub q _ _ _ | .andI q _ _ _ | .orI q _ _ _ | .xorI q _ _ _ | .shl q _ _ _ | .shr q _ _ _
  | .sra q _ _ _ | .mul q _ _ _ | .mulhu q _ _ _ | .slt q _ _ _ | .sltu q _ _ _ | .clz q _ _ _ | .popc q _ _ _
  | .addi q _ _ _ | .andi q _ _ _ | .ori q _ _ _ | .xori q _ _ _ | .shli q _ _ _ | .shri q _ _ _ | .srai q _ _ _
  | .slti q _ _ _ | .sltui q _ _ _ | .lui q _ _ | .lw q _ _ _ _ | .lh q _ _ _ _ | .lhu q _ _ _ _ | .lb q _ _ _ _
  | .lbu q _ _ _ _ | .sw q _ _ _ | .sh q _ _ _ | .sb q _ _ _ | .csrr q _ _ | .csrw q _ _ | .beq q _ _ _
  | .bne q _ _ _ | .blt q _ _ _ | .bge q _ _ _ | .bltu q _ _ _ | .bgeu q _ _ _ | .jal q _ _ | .jalr q _ _ _ | .tret q
  | .wait q _ _ _ | .sigLocalAdd q _ _ | .sigRemoteAdd q _ _ _ | .sigLocalSub q _ _ | .waits q _ _ _ _
  | .send q _ _ _ _ | .recv q _ _ | .log q _ _ _ | .timeRead q _ | .timeArmRel q _ | .timeArmAbs q _
  | .rdr q _ _ _ _ | .wrr q _ _ _ _ | .strip q _ _ _ | .proofSetForce q _ _ _ | .proofSetRekey q _
  | .proofSetRate q _ _ _ | .fenceConfirm q _ _ _ | .fenceClear q _ _ | .fenceMakeLatent q _ _ _
  | .fenceReplay q _ _ | .resetContext q _ _ _ | .resetEngine q _ _ _ | .resetPartition q _ _ _ | .resetWafer q _ _ _
  | .resetPowerCycle q _ _ _ | .bracket q _ _ => some q
  | _ => none

/-- The arithmetic instructions, with their sequencer and result register (R238). -/
def aluOf : Instr → Option (Nat × Nat)
  | .add q rd _ _ | .sub q rd _ _ | .andI q rd _ _ | .orI q rd _ _ | .xorI q rd _ _ | .shl q rd _ _ | .shr q rd _ _
  | .sra q rd _ _ | .mul q rd _ _ | .mulhu q rd _ _ | .slt q rd _ _ | .sltu q rd _ _ | .addi q rd _ _ | .andi q rd _ _
  | .ori q rd _ _ | .xori q rd _ _ | .slti q rd _ _ | .sltui q rd _ _ | .lui q rd _ => some (q, rd)
  | .clz q rd _ rb | .popc q rd _ rb => if rb = 0 then some (q, rd) else none
  | .shli q rd _ i | .shri q rd _ i | .srai q rd _ i => if i < 32 then some (q, rd) else none
  | _ => none

/-- A sequencer instruction without the outside event it meets (an uncorrectable error, an access that is not answered), which
its word does not hold. -/
def plain : Instr → Instr
  | .lw q rd ra i _ => .lw q rd ra i false
  | .lh q rd ra i _ => .lh q rd ra i false
  | .lhu q rd ra i _ => .lhu q rd ra i false
  | .lb q rd ra i _ => .lb q rd ra i false
  | .lbu q rd ra i _ => .lbu q rd ra i false
  | .rdr q rd ra i _ => .rdr q rd ra i false
  | .wrr q rs ra i _ => .wrr q rs ra i false
  | .send q rd ra rb fn => .send q rd ra rb (fn % 2 ^ 14)
  | i => i

end Sys2Proof.Machine
end

