-- ==== Sys2Proof/Machine/WfOps.lean ====
section
/-!
DEFINITION. The operand checks of WellFormed: instance numbers of the build (R7, R8) and field widths.
-/
namespace Sys2Proof.Machine

def fieldIn (f : Nat) : Bool := decide (f < Config.nField)
def ctIn (k : Nat) : Bool := fieldIn (k / 64) && decide (k % 64 < Config.nCluster)
def coreIn (c : Nat) : Bool := ctIn (c / 128) && decide (c % 128 < Config.nCore)
def engIn' (e : Nat) : Bool := coreIn (e / 4) && decide (e % 4 < Config.nEngine)
def mtIn (m : Nat) : Bool := decide (m < Config.nMt)
def ltIn (l : Nat) : Bool := decide (l < Config.nLt)
def partIn (p : Nat) : Bool := decide (p < Config.nPart)
def seqIn (q : Nat) : Bool := fieldIn q || q == 128
def recIn (r : Nat) : Bool := fieldIn r || r == 128
def fits (w v : Nat) : Bool := decide (v < 2 ^ w)
def regIn (r : Nat) : Bool := decide (r < 16)

def pinIn : PinRef → Bool
  | .fs f i => fieldIn f && decide (i < 152)
  | .host k i => ctIn k && decide (i < 8)
  | .ctInt k i => ctIn k && decide (i < 8)
  | .cc i => decide (i < 8)

/-- A link packet: whole blocks with lt_sleeved, a bare payload without it (R444). -/
def pktIn (x : LtPkt) : Bool :=
  fits 16 x.sb && fits 16 x.tag && x.blocks.all (fun b => fits 64 b.slv && b.data.length == 2048)
    && (if x.sleeved then !x.blocks.isEmpty && x.data.isEmpty else x.blocks.isEmpty)

/-- A BIST result: a Wyxia sub-unit (kind 1) and parts that fit their record fields (Table 17-10). -/
def bistIn (r : BistRes) : Bool :=
  decide (r.unit / 2 ^ 22 = 1) && r.mem.all (fun m => fits 8 m.mem && fits 24 m.addr && fits 9 m.bit)
    && r.scan.all (fun x => fits 7 x.domain && fits 64 x.sig)

end Sys2Proof.Machine
end

