-- ==== Sys2Proof/WellFormed.lean ====
section
/-!
DEFINITION. Which commands are well formed: operands inside the build (R7) and inside the widths the spec gives them.
-/
namespace Sys2Proof
open Sys2Proof.Machine

/-- The check, one line per command. -/
def wellFormed : Instr → Bool
  | .heartbeatSend => true
  | .heartbeatLoss => true
  | .activeCcFatal => true
  | .swapReq _ => true
  | .ccSwap => true
  | .ccCheckpoint => true
  | .wtCompare _ => true
  | .mtPoolCfgWrite _ m v => mtIn m && fits 64 v
  | .trogPacketDeliver flits => decide (32 ≤ flits.length)
  | .trogLinkReplay f _ => fieldIn f
  | .controlResend src sq => fits 24 src && fits 16 sq
  | .proofArrayReady f => fieldIn f
  | .proofArraySleep f => fieldIn f
  | .mtLoad m b data _ _ _ part _ gen tag _ => mtIn m && fits 29 b && data.length == 2048 && partIn part && fits 8 gen && fits 128 tag
  | .mtWrite m b _ slv data part _ => mtIn m && fits 29 b && fits 64 slv && decide (data.length ≤ 2048) && partIn part
  | .sleeveLineArrive m b _ => mtIn m && fits 29 b
  | .mtSleeveCfgWrite _ m v => mtIn m && fits 64 v
  | .ctIngress c _ _ ctx slv data => coreIn c && fits 16 ctx && fits 64 slv && decide (data.length ≤ 2048)
  | .jobKillRaise k _ => ctIn k
  | .killAck c _ => coreIn c
  | .ctEgress e _ _ tag slv data => engIn' e && fits 8 tag && fits 64 slv && decide (data.length ≤ 2048)
  | .ltOutbound l x => ltIn l && pktIn x
  | .ltInbound l x => ltIn l && pktIn x && fieldIn x.field
  | .descBeat e _ data => engIn' e && fits 64 data
  | .sigBeat e _ kind data => engIn' e && fits 64 data && decide (kind ∈ [1, 2, 3, 4, 6, 7])
  | .abortBeat e _ _ => engIn' e
  | .retirePulse e _ => engIn' e
  | .foldDrain k _ => ctIn k
  | .engineResetInput e _ => engIn' e
  | .rekey _ f v => fieldIn f && fits 64 v
  | .ccSettingForward _ n p v => partIn p && decide (n < 4) && fits 64 v
  | .proofForceWrite _ k _ v => ctIn k && fits 64 v
  | .tapBlock e _ tag kind ord data => engIn' e && fits 8 tag && fits 3 kind && fits 16 ord && decide (data.length = 2048)
  | .proofReserve f => fieldIn f
  | .mirrorBlockArrive k => ctIn k
  | .proofStart f => fieldIn f
  | .stripSegmentStart f => fieldIn f
  | .proofCompareDone f => fieldIn f
  | .proofArrayFault f chk => fieldIn f && decide (1 ≤ chk) && decide (chk ≤ 4)
  | .arraySuspectClear _ f v => fieldIn f && fits 64 v
  | .proofAbandon f _ => fieldIn f
  | .proofVerdictArrive f => fieldIn f
  | .negRelease _ f v => fieldIn f && fits 64 v
  | .firstStampDeadline e => engIn' e
  | .stampSend e _ => engIn' e
  | .proofTimeout e => engIn' e
  | .foldFault e tag chk => engIn' e && fits 8 tag && decide (1 ≤ chk) && decide (chk ≤ 3)
  | .stripDue c => coreIn c
  | .strip q rd ra rb => seqIn q && regIn rd && regIn ra && regIn rb
  | .stripCmd _ f v => fieldIn f && fits 64 v
  | .graceExpire c => coreIn c
  | .forceDeadlineExpire c => coreIn c
  | .shadowLoss c => coreIn c
  | .stripOverdue e => engIn' e
  | .yieldGrant c => coreIn c
  | .pairWaitExpire c => coreIn c
  | .stripResult c outs => coreIn c && outs.all (fun o => o.eng / 4 == c && decide (o.data.length = 2048))
  | .stripResultTimeout c => coreIn c
  | .stepMark _ p v => partIn p && fits 64 v
  | .lossPost _ p v => partIn p && fits 64 v
  | .lossResetStats _ p v => partIn p && fits 64 v
  | .bracket q rd ra => seqIn q && regIn rd && regIn ra
  | .brkCmdStart _ f v => fieldIn f && fits 64 v
  | .brkCancel _ f => fieldIn f
  | .tokenGrant => true
  | .tokenWaitExpire f => fieldIn f
  | .tokenReturn => true
  | .holdWaitExpire f => fieldIn f
  | .maintOpen _ f v => fieldIn f && fits 64 v
  | .maintClose _ f v => fieldIn f && fits 64 v
  | .maintWindowExpire f => fieldIn f
  | .pmAccept _ => true
  | .pmRefuse => true
  | .pmAnswerTimeout => true
  | .pmSettled => true
  | .pmSettleTimeout f => fieldIn f
  | .brkStepDone f => fieldIn f
  | .thermalSample f temps => fieldIn f && temps.all (fits 8)
  | .heatMaxExpire f => fieldIn f
  | .coolExpire f => fieldIn f
  | .fenceConfirm q rd ra rb => seqIn q && regIn rd && regIn ra && regIn rb
  | .fenceClear q rd ra => seqIn q && regIn rd && regIn ra
  | .fenceMakeLatent q rd ra rb => seqIn q && regIn rd && regIn ra && regIn rb
  | .fenceReplay q rd ra => seqIn q && regIn rd && regIn ra
  | .fenceConfirmArrive => true
  | .fenceAnswer => true
  | .ownerFence _ v => fits 64 v && !bit v 32
  | .fenceRemove _ v => fits 64 v && bit v 32
  | .fenceUpdate => true
  | .fenceAck => true
  | .fenceAckTimeout => true
  | .fenceResync => true
  | .latentWindow e => engIn' e
  | .replayWaitExpire c => coreIn c
  | .fsFailure f => fieldIn f
  | .lspExport _ v => fits 64 v
  | .lspDataRead _ => true
  | .packBegin _ len => fits 32 len
  | .packData _ v => fits 64 v
  | .packCommit _ => true
  | .packAbort _ => true
  | .packSwap _ => true
  | .packRevert _ => true
  | .packFieldAnswer => true
  | .packFloorWrite _ v => fits 64 v
  | .add q rd ra rb => seqIn q && regIn rd && regIn ra && regIn rb
  | .sub q rd ra rb => seqIn q && regIn rd && regIn ra && regIn rb
  | .andI q rd ra rb => seqIn q && regIn rd && regIn ra && regIn rb
  | .orI q rd ra rb => seqIn q && regIn rd && regIn ra && regIn rb
  | .xorI q rd ra rb => seqIn q && regIn rd && regIn ra && regIn rb
  | .shl q rd ra rb => seqIn q && regIn rd && regIn ra && regIn rb
  | .shr q rd ra rb => seqIn q && regIn rd && regIn ra && regIn rb
  | .sra q rd ra rb => seqIn q && regIn rd && regIn ra && regIn rb
  | .mul q rd ra rb => seqIn q && regIn rd && regIn ra && regIn rb
  | .mulhu q rd ra rb => seqIn q && regIn rd && regIn ra && regIn rb
  | .slt q rd ra rb => seqIn q && regIn rd && regIn ra && regIn rb
  | .sltu q rd ra rb => seqIn q && regIn rd && regIn ra && regIn rb
  | .clz q rd ra rb => seqIn q && regIn rd && regIn ra && regIn rb
  | .popc q rd ra rb => seqIn q && regIn rd && regIn ra && regIn rb
  | .addi q rd ra imm => seqIn q && regIn rd && regIn ra && fits 16 imm
  | .andi q rd ra imm => seqIn q && regIn rd && regIn ra && fits 16 imm
  | .ori q rd ra imm => seqIn q && regIn rd && regIn ra && fits 16 imm
  | .xori q rd ra imm => seqIn q && regIn rd && regIn ra && fits 16 imm
  | .shli q rd ra imm => seqIn q && regIn rd && regIn ra && fits 16 imm
  | .shri q rd ra imm => seqIn q && regIn rd && regIn ra && fits 16 imm
  | .srai q rd ra imm => seqIn q && regIn rd && regIn ra && fits 16 imm
  | .lui q rd imm => seqIn q && regIn rd && fits 16 imm
  | .slti q rd ra imm => seqIn q && regIn rd && regIn ra && fits 16 imm
  | .sltui q rd ra imm => seqIn q && regIn rd && regIn ra && fits 16 imm
  | .lw q rd ra imm _ => seqIn q && regIn rd && regIn ra && fits 16 imm
  | .lh q rd ra imm _ => seqIn q && regIn rd && regIn ra && fits 16 imm
  | .lhu q rd ra imm _ => seqIn q && regIn rd && regIn ra && fits 16 imm
  | .lb q rd ra imm _ => seqIn q && regIn rd && regIn ra && fits 16 imm
  | .lbu q rd ra imm _ => seqIn q && regIn rd && regIn ra && fits 16 imm
  | .sw q rs ra imm => seqIn q && regIn rs && regIn ra && fits 16 imm
  | .sh q rs ra imm => seqIn q && regIn rs && regIn ra && fits 16 imm
  | .sb q rs ra imm => seqIn q && regIn rs && regIn ra && fits 16 imm
  | .csrr q rd n => seqIn q && regIn rd && fits 16 n
  | .csrw q n ra => seqIn q && regIn ra && fits 16 n
  | .rdr q rd ra imm _ => seqIn q && regIn rd && regIn ra && fits 16 imm
  | .wrr q rs ra imm _ => seqIn q && regIn rs && regIn ra && fits 16 imm
  | .beq q ra rb off => seqIn q && regIn ra && regIn rb && fits 16 off
  | .bne q ra rb off => seqIn q && regIn ra && regIn rb && fits 16 off
  | .blt q ra rb off => seqIn q && regIn ra && regIn rb && fits 16 off
  | .bge q ra rb off => seqIn q && regIn ra && regIn rb && fits 16 off
  | .bltu q ra rb off => seqIn q && regIn ra && regIn rb && fits 16 off
  | .bgeu q ra rb off => seqIn q && regIn ra && regIn rb && fits 16 off
  | .jal q rd off => seqIn q && regIn rd && fits 22 off
  | .jalr q rd ra imm => seqIn q && regIn rd && regIn ra && fits 16 imm
  | .tret q => seqIn q
  | .wait q rd ra rb => seqIn q && regIn rd && regIn ra && regIn rb
  | .waitWake q => seqIn q
  | .sigLocalAdd q ra imm => seqIn q && regIn ra && fits 16 imm
  | .sigRemoteAdd q rt ra imm => seqIn q && regIn rt && regIn ra && fits 16 imm
  | .sigLocalSub q ra imm => seqIn q && regIn ra && fits 16 imm
  | .semSignalArrive q => seqIn q
  | .waits q rd ra rb n => seqIn q && regIn rd && regIn ra && regIn rb && fits 4 n
  | .waitsWake q => seqIn q
  | .send q rd ra rb fn => seqIn q && regIn rd && regIn ra && regIn rb && fits 15 fn
  | .messageArrive src dst _ => seqIn src && seqIn dst
  | .recv q rd rb => seqIn q && regIn rd && regIn rb
  | .proofSetForce q rd ra rb => seqIn q && regIn rd && regIn ra && regIn rb
  | .proofSetRekey q rd => seqIn q && regIn rd
  | .proofSetRate q rd ra rb => seqIn q && regIn rd && regIn ra && regIn rb
  | .resetContext q rd ra rb => seqIn q && regIn rd && regIn ra && regIn rb
  | .resetEngine q rd ra rb => seqIn q && regIn rd && regIn ra && regIn rb
  | .resetPartition q rd ra rb => seqIn q && regIn rd && regIn ra && regIn rb
  | .resetWafer q rd ra rb => seqIn q && regIn rd && regIn ra && regIn rb
  | .resetPowerCycle q rd ra rb => seqIn q && regIn rd && regIn ra && regIn rb
  | .log q rs ra imm => seqIn q && regIn rs && regIn ra && fits 16 imm
  | .timeRead q rd => seqIn q && regIn rd
  | .timeArmRel q ra => seqIn q && regIn ra
  | .timeArmAbs q ra => seqIn q && regIn ra
  | .timerExpire q => seqIn q
  | .wdogTrap q => seqIn q
  | .seqRestart _ q => seqIn q
  | .mboxWrite _ q v => seqIn q && fits 64 v
  | .ownerSemSig _ q v => seqIn q && fits 64 v
  | .imgBegin _ _ len => fits 32 len
  | .imgData _ v => fits 64 v
  | .imgCommit _ => true
  | .imgAbort _ => true
  | .imgApply _ _ field _ => fits 7 field
  | .imgPromote _ _ => true
  | .imgRevert _ _ => true
  | .imgFloorWrite _ v => fits 64 v
  | .errPinLatch p _ _ => pinIn p
  | .pinRelatch p => pinIn p
  | .pinStuck p => pinIn p
  | .pinUnstuck p => pinIn p
  | .fswClose _ f v => fieldIn f && fits 64 v
  | .ccFaultClose _ v => fits 64 v
  | .pinSelect _ f v => fieldIn f && fits 64 v
  | .pinClear _ f v => fieldIn f && fits 64 v
  | .ctErrCapture _ k v => ctIn k && fits 64 v
  | .injectArm _ v => fits 64 v
  | .injectCancel _ v => fits 64 v
  | .recordForwardArrive f => fieldIn f
  | .bucketRefill r code => recIn r && fits 16 code
  | .loupeSelect _ v => fits 64 v
  | .loupeCapture _ v => fits 64 v
  | .loupeAdvance _ => true
  | .recClear _ v => fits 64 v
  | .recorderFreeze _ v => fits 64 v
  | .recorderRelease _ v => fits 64 v
  | .freezeMaxExpire r => recIn r
  | .hang e => engIn' e
  | .contextChange e _ _ ctx => engIn' e && fits 16 ctx
  | .cmdResetContext _ v => fits 64 v && bits v 0 3 == 0
  | .cmdResetEngine _ v => fits 64 v && bits v 0 3 == 1
  | .cmdResetPartition _ v => fits 64 v && bits v 0 3 == 2
  | .cmdResetWafer _ v => fits 64 v && bits v 0 3 == 3
  | .cmdResetPowerCycle _ v => fits 64 v && bits v 0 3 == 4
  | .returnToService _ v => fits 64 v && bits v 0 3 == 5
  | .clearBudgetHold _ v => fits 64 v && bits v 0 3 == 6
  | .resetAck c => coreIn c
  | .resetTimeout scope x => decide (scope < 4) && (if scope < 2 then engIn' x else partIn x)
  | .partitionIsolate p => partIn p
  | .resetDrained p _ => partIn p
  | .partitionResetAck p => partIn p
  | .retrainDone p _ => partIn p
  | .retrainTimeout p => partIn p
  | .partitionRelease p => partIn p
  | .partitionMapWrite _ chan j v => decide (j < (if chan then 128 else 16)) && fits 64 v
  | .suspectSelect _ k v => ctIn k && fits 64 v && !bit v 9
  | .suspectListRelease _ k v => ctIn k && fits 64 v && bit v 9
  | .creplayStart _ f v => fieldIn f && fits 64 v && !bit v 31
  | .creplayCancel _ f v => fieldIn f && fits 64 v && bit v 31
  | .creplayWaitExpire f => fieldIn f
  | .creplayLimitExpire f _ => fieldIn f
  | .replayDone f _ => fieldIn f
  | .ckptTableWrite _ _ word v => decide (word < 4) && fits 64 v
  | .ckptSave _ v _ _ => fits 64 v && bits v 0 3 == 1
  | .ckptOpenArrive h wafer part shard count len key step => fits 10 h && fits 10 wafer && fits 6 part && fits 10 shard && fits 6 count && fits 24 len && fits 128 key && fits 40 step
  | .ckptOpenReply p shard partner _ => partIn p && fits 10 shard && fits 1 partner
  | .shadowBlockArrive h k j slv data => fits 10 h && fits 5 k && fits 24 j && fits 64 slv && decide (data.length = 2048)
  | .ckptDrainDone p _ => partIn p
  | .ckptRootArrive h root => fits 10 h && fits 128 root
  | .ckptVerifyAnswer p shard partner _ => partIn p && fits 10 shard && fits 1 partner
  | .ckptManifestArrive h man => fits 10 h && decide (man.length = 4096)
  | .ckptManifestAck p shard partner => partIn p && fits 10 shard && fits 1 partner
  | .ckptAckTimeout p => partIn p
  | .ckptRestore _ v => fits 64 v && bits v 0 3 == 2
  | .restoreDataComplete p _ _ _ => partIn p
  | .ckptAbort _ v => fits 64 v && bits v 0 3 == 3
  | .stopRequest _ _ _ => true
  | .stopAnnounceArrive u => fits 24 u
  | .stopCancel _ => true
  | .stopSample => true
  | .stopGate txs => txs.all (fun x => mtIn x.m)
  | .joinArrive l id _ => ltIn l && fits 16 id
  | .stopMarkArrive l id => ltIn l && fits 16 id
  | .captureWindowExpire => true
  | .linkLatencyPing l _ _ => ltIn l
  | .stopFreeze _ => true
  | .stopRelease _ => true
  | .stopResume _ => true
  | .forceRelease _ => true
  | .stopAutoResume => true
  | .resumeArrive l id _ => ltIn l && fits 16 id
  | .stopRun => true
  | .stopWireDrop => true
  | .sheetCapture _ v => fits 64 v
  | .sheetAbort _ => true
  | .sheetComplete sections _ => fits 16 sections
  | .barrierJoin e _ c => engIn' e && fits 5 c
  | .barrierEnter e _ c => engIn' e && fits 5 c
  | .barrierLeave e _ c => engIn' e && fits 5 c
  | .barrierRelease c => fits 5 c
  | .barrierReleaseTimer c => fits 5 c
  | .barCfgWrite _ c v => fits 5 c && fits 64 v
  | .lifecycleTransition _ v => fits 64 v
  | .trustGroupWrite _ v => fits 64 v
  | .trustGroupSend l peer => ltIn l && fits 16 peer
  | .getVersion => true
  | .getCapabilities ver => fits 8 ver
  | .negotiateAlgorithms ver => fits 8 ver
  | .getDigests ver => fits 8 ver
  | .getCertificate ver slot off len => fits 8 ver && fits 4 slot && fits 16 off && fits 16 len
  | .challenge ver slot _ nonce => fits 8 ver && fits 8 slot && nonce.length == 32
  | .getMeasurements ver _ index nonce => fits 8 ver && fits 8 index && nonce.length == 32
  | .spdmUnsupported ver code => fits 8 ver && fits 8 code
  | .keyBegin _ p => partIn p
  | .keyData _ v => fits 64 v
  | .keyLoad _ p => partIn p
  | .keyAbort _ p => partIn p
  | .sealRegionWrite _ m n _ v => mtIn m && decide (n < 8) && fits 64 v
  | .tagLineArrive m b tag => mtIn m && fits 29 b && fits 128 tag
  | .debugEnable _ p => partIn p
  | .debugDisable _ p => partIn p
  | .sramClearAck p => partIn p
  | .sramClearTimeout p => partIn p
  | .scrubStart _ p => partIn p
  | .scrubAbort _ p => partIn p
  | .scrubPhaseDone p bad => partIn p && bad.all mtIn
  | .scrubAckTimeout p => partIn p
  | .safelightCtReport k => ctIn k
  | .safelightFsReport f => fieldIn f
  | .safeSelect _ k v => ctIn k && fits 64 v
  | .ccSafeSelect _ v => fits 64 v
  | .pcntSelect _ k v => ctIn k && fits 64 v
  | .pcntCfgWrite _ k v => ctIn k && fits 64 v
  | .pcntClear _ k v => ctIn k && fits 64 v
  | .traceEnable _ p v => partIn p && fits 64 v
  | .traceMark _ p v => partIn p && fits 64 v
  | .traceBlockWrite p => partIn p
  | .ledgerSelect _ f v => fieldIn f && fits 64 v
  | .fixSelect _ f v => fieldIn f && fits 64 v
  | .fenceIndexSelect _ v => fits 64 v
  | .shardSelect _ v => fits 64 v
  | .hostSelect _ v => fits 64 v
  | .bootSelect _ v => fits 64 v
  | .bistSelect _ v => fits 64 v
  | .homeSelect _ v => fits 64 v
  | .archiveSelect _ v _ => fits 64 v
  | .powerOnReset waferId sa bad => fits 10 waferId && fits 7 sa && bad.all (fits 15)
  | .ccBistDone a b => bistIn a && bistIn b
  | .bistWaveDone res => res.all bistIn
  | .bootStripWaitExpire c => coreIn c
  | .startStripsDone => true
  | .fsImageVerified f _ => fieldIn f
  | .broadcastDone => true
  | .trainReport link u _ _ _ _ => (if link then ltIn u else mtIn u)
  | .trainLimitExpire => true
  | .fieldRelease => true
  | .ownerClaim _ => true
  | .ownerRelease _ => true
  | .ownerAccept _ => true
  | .ownerStale => true
  | .handoverStart _ target => fits 2 target
  | .handoverLapsed => true
  | .arraySelftestStart _ f => fieldIn f
  | .arraySelftestDone f _ => fieldIn f
  | .clockWindow ref bk => fits 16 ref && fits 16 bk
  | .clockEdgeLoss _ => true
  | .pllReady _ => true
  | .sourceReturn => true
  | .bkclkStable => true
  | .aonClockLoss => true
  | .aonSelfReset waferId sa bad => fits 10 waferId && fits 7 sa && bad.all (fits 15)
  | .sscCfgWrite _ v => fits 64 v
  | .vddWarn mv => fits 16 mv
  | .vddWarnClear mv => fits 16 mv
  | .supplyReset waferId sa bad => fits 10 waferId && fits 7 sa && bad.all (fits 15)
  | .vddDroop f mv _ => fieldIn f && fits 16 mv
  | .cycleCapture _ k _ => ctIn k
  | .tempStale k => ctIn k
  | .hregRequest _ addr data part => fits 24 addr && fits 64 data && part.all partIn
  | .hregTimeout => true
  | .registerWrite _ addr v => fits 24 addr && fits 64 v
  | .reservationReply f => fieldIn f
  | .linkTrained l => ltIn l
  | .linkDown l => ltIn l
  | .traceRecordArrive k => ctIn k
  | .undefinedOpcode q word => seqIn q && fits 33 word
  | .lspRecordReady => true
  | .restoreServeRequest h => fits 10 h
  | .probeBistRun res => bistIn res
  | .pldmRequest _ => true
  | .mctpControlRequest cmd v => fits 8 cmd && fits 8 v
  | .i3cAddressAssign a => fits 7 a
  | .yieldGrantDrop c => coreIn c
  | .resetRequestRaise c => coreIn c

/-- A well-formed command. -/
abbrev WellFormed (i : Instr) : Prop := wellFormed i = true

end Sys2Proof
end

