-- ==== Sys2Proof/Certificates/Slice0/Obligations.lean ====
section
/-!
DEFINITION. The statements for the provers.
-/

open Sys2Proof Sys2Proof.Machine

/-- O1. HEARTBEAT_SEND stamps the heartbeat and changes nothing else. HEARTBEAT_LOSS, ACTIVE_CC_FATAL and an owner's
SWAP_REQ begin a takeover with trigger 0, 1 and 2 when the standby can take over and none is running; without a
ready standby SWAP_REQ begins none, and HEARTBEAT_LOSS and ACTIVE_CC_FATAL leave the block at service level 0, out
of service (R22). CC_CHECKPOINT copies the CC sequencer's state to the standby. WT_COMPARE takes standby_ok away
when the difference is above 2 ns (log entry 20, the model's reading) and else changes nothing. HEARTBEAT_LOSS moves
WT to 100 us after the last heartbeat (log entry 14). COMPLETION: exec answers a next state, under conditions on the
state and the operands alone, for: heartbeatSend, heartbeatLoss, activeCcFatal, swapReq, ccCheckpoint, wtCompare. -/
def Obligations.CcPair : Prop :=
  (∀ s : State, exec .heartbeatSend s = .next { s with hbAt := s.wt })
  ∧ (∀ s : State, s.rb F.CC_ROLE_standby_ok = true → s.swapping = none →
      exec .heartbeatLoss s = .next { s with wt := max s.wt (s.hbAt + 100000), swapping := some 0 }
      ∧ exec .activeCcFatal s = .next { s with swapping := some 1 })
  ∧ (∀ s : State, s.rb F.CC_ROLE_standby_ok = false → s.swapping = none →
      exec .heartbeatLoss s = .next (((({ s.toWt (s.hbAt + 100000) with ccLost := true } : State).wr
        F.CC_SERVICE_level 0 0).wr F.CC_SERVICE_oos 0 1))
      ∧ exec .activeCcFatal s = .next (((({ s with ccLost := true } : State).wr
        F.CC_SERVICE_level 0 0).wr F.CC_SERVICE_oos 0 1)))
  ∧ (∀ (s : State) (w : Writer), s.isOwner w = true → s.regReach w .CC_ROLE 0 = true →
      s.rb F.CC_ROLE_standby_ok = true → s.swapping = none →
      exec (.swapReq w) s = .next (wrote w .CC_ROLE 0 { s with swapping := some 2 }))
  ∧ (∀ (s : State) (w : Writer), s.isOwner w = true → s.regReach w .CC_ROLE 0 = true →
      s.rb F.CC_ROLE_standby_ok = false → exec (.swapReq w) s = .next (wrote w .CC_ROLE 0 s))
  ∧ (∀ s : State, exec .ccCheckpoint s = .next (s.setSeq sbSeq (s.seq ccSeq)))
  ∧ (∀ (s : State) (d : Nat), 2 < d → exec (.wtCompare d) s = .next (s.wr F.CC_ROLE_standby_ok 0 0))
  ∧ (∀ (s : State) (d : Nat), d ≤ 2 → exec (.wtCompare d) s = .next s)

/-- O2. An MT_POOL_CFG_WRITE by a master with the right to it sets reserved_min and shared_cap when the pool's reserved
sum stays within 256, and leaves both when it would not. A delivered packet that fails its CRC is dropped and
counted at each of its destinations and recorded there, and a control packet then waits for a resend; a packet of
class 3, or of more than 8 data flits (log entry 98), is dropped and counted; a good control packet is noted by its
source's sequence number, waits no longer and reaches each destination, and a repeat of it changes nothing; a good
bulk or stamp packet reaches each destination. A destination takes the payload, and a program message enters its
receive queue. CONTROL_RESEND sends the oldest such packet that waits again, 4 us after it was sent, and leaves a
state in which none waits alone. TROG_LINK_REPLAY with a good replay records the event and clears the row of
failures. COMPLETION: exec answers a next state, under conditions on the state and the operands alone, for:
mtPoolCfgWrite, trogPacketDeliver, trogLinkReplay, controlResend. -/
def Obligations.PoolAndLinks : Prop :=
  (∀ (s : State) (w : Writer) (m v : Nat), Granted s w .MT_POOL_CFG m → mtOk m = true → (∀ p, w ≠ .tenant p) →
      poolReserved ((s.wr F.MT_POOL_CFG_reserved_min m (bits v 0 4)).wr F.MT_POOL_CFG_shared_cap m (bits v 8 8)) m ≤ 256 →
      exec (.mtPoolCfgWrite w m v) s = .next (wrote w .MT_POOL_CFG m
        ((s.wr F.MT_POOL_CFG_reserved_min m (bits v 0 4)).wr F.MT_POOL_CFG_shared_cap m (bits v 8 8))))
  ∧ (∀ (s : State) (w : Writer) (m v : Nat), Granted s w .MT_POOL_CFG m → mtOk m = true →
      256 < poolReserved ((s.wr F.MT_POOL_CFG_reserved_min m (bits v 0 4)).wr F.MT_POOL_CFG_shared_cap m (bits v 8 8)) m →
      exec (.mtPoolCfgWrite w m v) s = .next (wrote w .MT_POOL_CFG m s))
  ∧ (∀ (s : State) (p : List Byte), s.aonOnly = false → trogCrcOf p ≠ trogCrc p →
      ∃ t, exec (.trogPacketDeliver p) s = .next t
        ∧ ∀ u : State, u = forAll (trogTargets s (trogDst p)) trogRecord
            { s with trogDrops := s.trogDrops + max 1 (trogTargets s (trogDst p)).length } →
          t = if trogClass p = 0 then
            { u with trogUnacked := u.trogUnacked ++ [⟨trogSrc p, trogSeqNo p, trogDst p, u.wt, 0⟩] } else u)
  ∧ (∀ (s : State) (p : List Byte), s.aonOnly = false → trogCrcOf p = trogCrc p → trogClass p = 3 ∨ 8 < trogLen p →
      exec (.trogPacketDeliver p) s =
        .next { s with trogDrops := s.trogDrops + max 1 (trogTargets s (trogDst p)).length })
  ∧ (∀ (s : State) (p : List Byte), s.aonOnly = false → trogCrcOf p = trogCrc p → trogLen p ≤ 8 → trogClass p = 0 →
      tget 0 s.trogSeen (trogSrc p) ≠ trogSeqNo p + 1 →
      exec (.trogPacketDeliver p) s = .next (forAll (trogTargets s (trogDst p))
        (trogTake ⟨trogSrc p, trogType p, 0, trogInline p, trogData p⟩)
        { s with trogSeen := tput 0 s.trogSeen (trogSrc p) (trogSeqNo p + 1),
                 trogUnacked := s.trogUnacked.filter (fun x => !(x.src == trogSrc p && x.sq == trogSeqNo p)) }))
  ∧ (∀ (s : State) (p : List Byte), s.aonOnly = false → trogCrcOf p = trogCrc p → trogLen p ≤ 8 → trogClass p = 0 →
      tget 0 s.trogSeen (trogSrc p) = trogSeqNo p + 1 → exec (.trogPacketDeliver p) s = .next s)
  ∧ (∀ (s : State) (p : List Byte), s.aonOnly = false → trogCrcOf p = trogCrc p → trogLen p ≤ 8 →
      trogClass p = 1 ∨ trogClass p = 2 →
      exec (.trogPacketDeliver p) s = .next (forAll (trogTargets s (trogDst p))
        (trogTake ⟨trogSrc p, trogType p, trogClass p, trogInline p, trogData p⟩) s))
  ∧ (∀ (m : TrogMsg) (u q : Nat) (s : State), trogAlive s u = true → seqOfUnit u = some q →
      trogTake m u s = (if m.typ < 0x8000 then { s with trogIn := tins (tdel s.trogIn u) u m }
        else rxAt q { src := m.src, dst := q, typ := m.typ, cls := m.cls, len := m.data.length / 32,
                      inl := m.inl, data := m.data } { s with trogIn := tins (tdel s.trogIn u) u m }))
  ∧ (∀ (s : State) (a q : Nat) (x : Unacked) (l : List Unacked), s.aonOnly = false →
      takeFirst (fun x : Unacked => x.src == a && x.sq == q) s.trogUnacked = some (x, l) →
      exec (.controlResend a q) s = .next { s.toWt (x.sentAt + 4000) with
        trogUnacked := l ++ [{ x with sentAt := (s.toWt (x.sentAt + 4000)).wt, resent := x.resent + 1 }] })
  ∧ (∀ (s : State) (a q : Nat), takeFirst (fun x : Unacked => x.src == a && x.sq == q) s.trogUnacked = none →
      exec (.controlResend a q) s = .next s)
  ∧ (∀ (s : State) (f : Nat), fieldOk f = true → s.aonOnly = false →
      ∃ t, exec (.trogLinkReplay f true) s = .next t ∧
        t = afterFs (fun u => { raiseTap f { code := Code.TROG_LINK_REPLAY, unit := routerUnit f } u with
          replayFails := tdel (raiseTap f { code := Code.TROG_LINK_REPLAY, unit := routerUnit f } u).replayFails f }) s)

/-- O3. While its cluster is not gated and no check is inverted, a whole block with a sleeve that enters a core as
transit leaves the CT with the same sleeve when its CRC agrees and it carries no fog, and with fog, an SLEEVE_CRC
record and the counts of Table 2-13 when its CRC disagrees; a fogged operand block is counted, recorded as
FOG_CONSUMED and makes the context pending kill. A block cut short counts as unsleeved (log entry 59). An
acknowledged kill is taken off and the next kills rise; JOB_KILL_RAISE raises the kills that have a place and an
idle port. A carried block leaves a core with its sleeve, a produced block with the sleeve of R55, with fog while a
kill of the running context is pending and the engine is not confirmed. A block produced in strip mode stays with
the core as a strip result. COMPLETION: exec answers a next state, under conditions on the state and the operands
alone, for: ctIngress, jobKillRaise, killAck, ctEgress. -/
def Obligations.CoreSleeves : Prop :=
  (∀ (s : State) (c cyc ctx v : Nat) (d : List Byte), coreOk c = true → s.ctGated (coreCt c) = false → d.length = 2048 →
      slvOk v = true → slvFog v = false → crc48 d = slvCrc v → NoInj (advCyc (coreCt c) cyc s) 1 (ctUnit (coreCt c)) 0 →
      exec (.ctIngress c cyc false ctx v d) s = .next { advCyc (coreCt c) cyc s with
        ingOut := tput 0 (advCyc (coreCt c) cyc s).ingOut c v })
  ∧ (∀ (s : State) (c cyc ctx v : Nat) (d : List Byte), coreOk c = true → s.ctGated (coreCt c) = false → d.length = 2048 →
      slvOk v = true → crc48 d ≠ slvCrc v → NoInj (advCyc (coreCt c) cyc s) 1 (ctUnit (coreCt c)) 0 →
      exec (.ctIngress c cyc false ctx v d) s = .next (fogRule c false ctx (slvSetFog v) false
        (raiseCt (coreCt c) { code := Code.SLEEVE_CRC, unit := ctUnit (coreCt c),
                              params := ctSlvParams (slvSetFog v) 2 false c ctx }
          (safeInc (coreCt c) 4 1 (({ advCyc (coreCt c) cyc s with
            ingOut := tput 0 (advCyc (coreCt c) cyc s).ingOut c (slvSetFog v) } : State).bump F.CT_SLEEVE_STAT_crc_err (coreCt c))))))
  ∧ (∀ (s : State) (c ctx v : Nat), slvFog v = true →
      fogRule c true ctx v false s = addKill c ctx (raiseCt (coreCt c)
        { code := Code.FOG_CONSUMED, unit := ctUnit (coreCt c), params := ctSlvParams v 2 true c ctx }
        (safeInc (coreCt c) 5 1 (s.bump F.CT_SLEEVE_STAT_fog_consumed (coreCt c)))))
  ∧ (∀ (s : State) (c cyc ctx v : Nat) (op : Bool) (d : List Byte), coreOk c = true → s.ctGated (coreCt c) = false →
      d.length < 2048 → exec (.ctIngress c cyc op ctx v d) s =
        .next ((advCyc (coreCt c) cyc s).bump F.CT_SLEEVE_STAT_unsleeved (coreCt c)))
  ∧ (∀ (s : State) (k cyc : Nat), ctOk k = true → s.ctGated k = false →
      exec (.jobKillRaise k cyc) s = .next (raiseKills k (advCyc k cyc s)))
  ∧ (∀ (s : State) (c cyc : Nat), coreOk c = true → s.ctGated (coreCt c) = false →
      exec (.killAck c cyc) s = .next (raiseKills (coreCt c) ((advCyc (coreCt c) cyc s).setKills (coreCt c)
        (((advCyc (coreCt c) cyc s).killsOf (coreCt c)).filter (fun x => !(x.core == c && x.raised))))))
  ∧ (∀ (s : State) (e cyc tag v : Nat) (d : List Byte), engOk e = true → s.ctGated (engCt e) = false → d.length = 2048 →
      slvOk v = true → exec (.ctEgress e cyc false tag v d) s = .next { advCyc (engCt e) cyc s with
        egrOut := tput 0 (advCyc (engCt e) cyc s).egrOut (engCore e)
          (if egressKilled (advCyc (engCt e) cyc s) e = true then slvSetFog v else v) })
  ∧ (∀ (s : State) (e cyc tag v : Nat) (d : List Byte), engOk e = true → s.ctGated (engCt e) = false → d.length = 2048 →
      stripMode (advCyc (engCt e) cyc s) (engCore e) = false → slvOk (producedSleeve (advCyc (engCt e) cyc s) e tag d) = true →
      exec (.ctEgress e cyc true tag v d) s = .next (pcntEv (engCt e) 11 1
        { eng := some (engInCt e), fmt := some (bits (producedSleeve (advCyc (engCt e) cyc s) e tag d) 11 5) }
        { advCyc (engCt e) cyc s with
          egrOut := tput 0 (advCyc (engCt e) cyc s).egrOut (engCore e)
            (if (egressKilled (advCyc (engCt e) cyc s) e && !blocked (advCyc (engCt e) cyc s) e) = true
              then slvSetFog (producedSleeve (advCyc (engCt e) cyc s) e tag d)
              else producedSleeve (advCyc (engCt e) cyc s) e tag d) }))
  ∧ (∀ (s : State) (e cyc tag v : Nat) (d : List Byte), engOk e = true → s.ctGated (engCt e) = false → d.length = 2048 →
      stripMode (advCyc (engCt e) cyc s) (engCore e) = true →
      exec (.ctEgress e cyc true tag v d) s = .next (stripBlock e tag d (advCyc (engCt e) cyc s)))

/-- O4. A host read of an ordinary block of the current generation delivers the data with the sleeve of the load. One of
an old generation is dropped, counted and recorded as STALE_DROPPED. One of a sealed region by the partition itself
over no link is decrypted and its tag checked; by another, or over a link, it delivers zeros and is recorded. One
that touches the sleeve region delivers zeros without a sleeve and is recorded. A tag line that agrees ends the
wait; one that does not is counted and recorded as SEAL_TAG_LATE. A sleeve line with an uncorrectable error that
arrives after delivery is recorded and remembered; one for which nothing waits changes nothing. COMPLETION: exec
answers a next state, under conditions on the state and the operands alone, for: mtLoad, sleeveLineArrive,
tagLineArrive. -/
def Obligations.MemoryLoads : Prop :=
  (∀ (s : State) (m b part gen tag : Nat) (d : List Byte) (ue lu late link tl : Bool), mtOk m = true →
      (s.chanFree m = true ∨ (gen = s.gen (s.partOfChan m) ∧ scrubHolds s (s.partOfChan m) = false)) →
      hitsSlvRgn s m b 1 = false → slotAt s m b = none → regionOf s m b = none →
      exec (.mtLoad m b d ue lu late part link gen tag tl) s =
        .next (mtGive m d (mtLoadSlv m b d ue ⟨lu, late⟩ {} s).1 (mtLoadSlv m b d ue ⟨lu, late⟩ {} s).2))
  ∧ (∀ (s : State) (m b part gen tag : Nat) (d : List Byte) (ue lu late link tl : Bool), mtOk m = true →
      s.chanFree m = false → gen ≠ s.gen (s.partOfChan m) →
      exec (.mtLoad m b d ue lu late part link gen tag tl) s =
        .next (raiseMt m
          { code := Code.STALE_DROPPED, unit := mtUnit m,
            params := s.partOfChan m + 2 ^ 6 * gen + 2 ^ 14 * s.gen (s.partOfChan m) + 2 ^ 22 }
          (s.bump F.MT_GEN_STAT_stale m)))
  ∧ (∀ (s : State) (m b part gen tag : Nat) (d : List Byte) (ue lu late link tl : Bool), mtOk m = true →
      (s.chanFree m = true ∨ gen = s.gen (s.partOfChan m)) → hitsSlvRgn s m b 1 = true →
      exec (.mtLoad m b d ue lu late part link gen tag tl) s =
        .next (mtGive m (List.replicate d.length 0) 0 (raiseMt m
          { code := Code.SLEEVE_REGION_ACCESS, unit := mtUnit m, params := mtSlvParams 0 0 b } s)))
  ∧ (∀ (s : State) (m b i k gen tag : Nat) (d : List Byte) (ue lu late tl : Bool), mtOk m = true →
      s.chanFree m = false → gen = s.gen (s.partOfChan m) → hitsSlvRgn s m b 1 = false → slotAt s m b = none →
      scrubHolds s (s.partOfChan m) = false → regionOf s m b = some i → s.sealed (s.partOfChan m) = true →
      keyOf s (s.partOfChan m) = some k →
      exec (.mtLoad m b d ue lu late (s.partOfChan m) false gen tag tl) s =
        .next (sealedLoad m b i k d ue ⟨lu, late⟩ tag tl s))
  ∧ (∀ (s : State) (m b i k part gen tag : Nat) (d : List Byte) (ue lu late link tl : Bool), mtOk m = true →
      s.chanFree m = false → gen = s.gen (s.partOfChan m) → hitsSlvRgn s m b 1 = false → slotAt s m b = none →
      scrubHolds s (s.partOfChan m) = false → regionOf s m b = some i → s.sealed (s.partOfChan m) = true →
      keyOf s (s.partOfChan m) = some k → part ≠ s.partOfChan m ∨ link = true →
      exec (.mtLoad m b d ue lu late part link gen tag tl) s =
        .next (mtGive m (List.replicate d.length 0) 0 (sealRefuse m b (s.partOfChan m) part false link i s)))
  ∧ (∀ (s : State) (m b want : Nat), mtOk m = true → tget 0 s.sealLate (blkKey m b) = want + 1 →
      exec (.tagLineArrive m b want) s = .next { s with sealLate := tdel s.sealLate (blkKey m b) })
  ∧ (∀ (s : State) (m b want tag : Nat), mtOk m = true → tget 0 s.sealLate (blkKey m b) = want + 1 → tag ≠ want →
      ∃ n, exec (.tagLineArrive m b tag) s = .next (raiseMt m { code := Code.SEAL_TAG_LATE, unit := mtUnit m, params := n }
        (({ s with sealLate := tdel s.sealLate (blkKey m b) } : State).bump F.MT_SEAL_STAT_tag_fail m)))
  ∧ (∀ (s : State) (m b v : Nat), mtOk m = true → tget 0 s.slvLate (blkKey m b) = v + 1 →
      ∃ t, exec (.sleeveLineArrive m b true) s = .next (raiseMt m
          { code := Code.SLEEVE_REGION_UE, unit := mtUnit m, params := mtSlvParams v 0 b } t)
        ∧ t.slvBad = tput false s.slvBad (blkKey m (b / 8)) true ∧ t.slvLate = tdel s.slvLate (blkKey m b)
        ∧ t.regs = s.regs ∧ t.slv = s.slv)
  ∧ (∀ (s : State) (m b : Nat) (ue : Bool), mtOk m = true → tget 0 s.slvLate (blkKey m b) = 0 →
      exec (.sleeveLineArrive m b ue) s = .next s)

/-- O5. A host write of a whole block stores its sleeve by R64 and R65, and one of less than a block clears the entry's
version; one that touches the sleeve region is dropped and recorded. MT_SLEEVE_CFG takes a write only while enable
is 0, and enable stays 0 for a capacity outside 20 to 40. A transit packet passes a link tap unchanged. A sealed
packet to an untrusted peer is dropped. A reply of an old generation is dropped, counted and recorded. A request to
a field in reset is answered with a negative acknowledgement; a current negative acknowledgement ends its
transaction in an error. Any other request or reply passes with each of its blocks checked or given a sleeve, an
outbound request with the current generation in its sideband field, an inbound one entered in the LT's table.
COMPLETION: exec answers a next state, under conditions on the state and the operands alone, for: mtWrite,
mtSleeveCfgWrite, ltOutbound, ltInbound. -/
def Obligations.MemoryWritesAndLinks : Prop :=
  (∀ (s : State) (m b v part : Nat) (whole link : Bool) (d : List Byte), mtOk m = true → hitsSlvRgn s m b 1 = false →
      slotAt s m b = none → (s.chanFree m = true ∨ (scrubHolds s (s.partOfChan m) = false ∧ s.sealed (s.partOfChan m) = false)) →
      exec (.mtWrite m b whole v d part link) s =
        .next (if whole = true then mtWriteWhole m b v d (shadowWrite m b s) else mtWritePart m b v (shadowWrite m b s)))
  ∧ (∀ (s : State) (m b v part : Nat) (whole link : Bool) (d : List Byte), mtOk m = true → hitsSlvRgn s m b 1 = true →
      exec (.mtWrite m b whole v d part link) s = .next (raiseMt m
        { code := Code.SLEEVE_REGION_ACCESS, unit := mtUnit m, params := mtSlvParams 0 1 b } s))
  ∧ (∀ (s : State) (w : Writer) (m v : Nat), Granted s w .MT_SLEEVE_CFG m → mtOk m = true → notTenant w = true →
      s.rb F.MT_SLEEVE_CFG_enable m = false →
      exec (.mtSleeveCfgWrite w m v) s = .next (wrote w .MT_SLEEVE_CFG m
        ((((s.wr F.MT_SLEEVE_CFG_dflt_fmt m (bits v 1 5)).wr F.MT_SLEEVE_CFG_cap_log2 m (bits v 8 6)).wr
          F.MT_SLEEVE_CFG_region_base m (bits v 16 24)).wr F.MT_SLEEVE_CFG_enable m
            (b2n (bit v 0 && decide (20 ≤ bits v 8 6) && decide (bits v 8 6 ≤ 40))))))
  ∧ (∀ (s : State) (w : Writer) (m v : Nat), Granted s w .MT_SLEEVE_CFG m → mtOk m = true →
      s.rb F.MT_SLEEVE_CFG_enable m = true → exec (.mtSleeveCfgWrite w m v) s = .next (wrote w .MT_SLEEVE_CFG m s))
  ∧ (∀ (s : State) (l : Nat) (x : LtPkt), ltOk l = true → anyGated s = false → x.transit = true →
      exec (.ltOutbound l x) s = .next { s with ltOut := tins (tdel s.ltOut l) l x })
  ∧ (∀ (s : State) (l : Nat) (x : LtPkt), ltOk l = true → anyGated s = false → x.transit = false → sbFlags x.sb ≤ 1 →
      s.sealed (sbPart x.sb) = true → trusted s l = false →
      exec (.ltOutbound l x) s = .next (linkBlock l (sbPart x.sb) s))
  ∧ (∀ (s : State) (l : Nat) (x : LtPkt), ltOk l = true → anyGated s = false → x.transit = false → sbFlags x.sb = 0 →
      (s.sealed (sbPart x.sb) = false ∨ trusted s l = true) →
      exec (.ltOutbound l x) s = .next (ltSend l { x with
        sb := setBits x.sb 0 8 (s.gen (sbPart x.sb)), blocks := (ltBlocks (ltOutSlv l x.sb) x.blocks s).1 }
        (ltBlocks (ltOutSlv l x.sb) x.blocks s).2))
  ∧ (∀ (s : State) (l : Nat) (x : LtPkt), ltOk l = true → anyGated s = false → x.transit = false → sbFlags x.sb = 1 →
      (s.sealed (sbPart x.sb) = false ∨ trusted s l = true) →
      exec (.ltOutbound l x) s = .next (ltSend l { x with
        blocks := (ltBlocks (ltOutSlv l x.sb) x.blocks (ltReplied l x s)).1 }
        (ltBlocks (ltOutSlv l x.sb) x.blocks (ltReplied l x s)).2))
  ∧ (∀ (s : State) (l : Nat) (x : LtPkt), ltOk l = true → s.stop = none → x.transit = true →
      exec (.ltInbound l x) s = .next { s with ltIn := tins (tdel s.ltIn l) l x })
  ∧ (∀ (s : State) (l : Nat) (x : LtPkt), ltOk l = true → s.stop = none → x.transit = false → sbFlags x.sb = 1 →
      sbGen x.sb ≠ s.gen (sbPart x.sb) →
      exec (.ltInbound l x) s = .next (raiseLt l
        { code := Code.STALE_DROPPED, unit := ltUnit l,
          params := sbPart x.sb + 2 ^ 6 * sbGen x.sb + 2 ^ 14 * s.gen (sbPart x.sb) } (s.bump F.LT_GEN_STAT_stale l)))
  ∧ (∀ (s : State) (l : Nat) (x : LtPkt), ltOk l = true → s.stop = none → x.transit = false → sbFlags x.sb = 0 →
      fieldInReset s x.field = true →
      exec (.ltInbound l x) s = .next (ltNack l x.field x.sb x.tag s))
  ∧ (∀ (s : State) (l : Nat) (x : LtPkt), ltOk l = true → s.stop = none → x.transit = false → sbFlags x.sb = 0 →
      fieldInReset s x.field = false →
      exec (.ltInbound l x) s = .next (ltGive l { x with
        blocks := (ltBlocks (ltInSlv l x.sb) x.blocks (ltTrack l x s)).1 }
        (ltBlocks (ltInSlv l x.sb) x.blocks (ltTrack l x s)).2))
  ∧ (∀ (s : State) (l : Nat) (x : LtPkt), ltOk l = true → s.stop = none → x.transit = false → sbFlags x.sb = 1 →
      sbGen x.sb = s.gen (sbPart x.sb) →
      exec (.ltInbound l x) s = .next (ltGive l { x with blocks := (ltBlocks (ltInSlv l x.sb) x.blocks s).1 }
        (ltBlocks (ltInSlv l x.sb) x.blocks s).2))
  ∧ (∀ (s : State) (l : Nat) (x : LtPkt), ltOk l = true → s.stop = none → x.transit = false → sbFlags x.sb = 2 →
      sbGen x.sb = s.gen (sbPart x.sb) →
      exec (.ltInbound l x) s = .next { s with ltErr := tins (tdel s.ltErr l) l x.tag })

/-- O6. While an engine's reset is asserted its beats and pulses move only the cycle count. Else a DESC beat with no
descriptor being announced and a free running-tile slot opens a tile that takes mode, rate, key, force setting,
count and FIFO room of that moment; a later DESC beat fills the announced descriptor; a beat or pulse with no
running tile is a breach of reason 8 or 9. A SIGS beat of an admitted tile goes into the FIFO. ABORT of a live tile
queues an unchecked stamp for the next cycle and closes it. A retire pulse retires the oldest running tile. The
drain serves up to 64 beats. In a gated cluster no beat and no pulse changes anything (log entry 101). COMPLETION:
exec answers a next state, under conditions on the state and the operands alone, for: descBeat, sigBeat, abortBeat,
retirePulse, foldDrain. -/
def Obligations.TileBeats : Prop :=
  (∀ (s u : State) (e cyc d kd : Nat), engOk e = true → s.ctGated (engCt e) = false → u = advCyc (engCt e) cyc s → tget true u.engRst e = true →
      exec (.descBeat e cyc d) s = .next u ∧ exec (.sigBeat e cyc kd d) s = .next u
      ∧ exec (.retirePulse e cyc) s = .next u ∧ exec (.abortBeat e cyc true) s = .next u)
  ∧ (∀ (s u : State) (e cyc d : Nat), engOk e = true → s.ctGated (engCt e) = false → u = advCyc (engCt e) cyc s → tget true u.engRst e = false →
      tget 0 u.skip e = 0 → announced u e = none →
      ((u.tilesOf e).filter (fun t => t.running && t.slot && t.strip == stripMode u (engCore e))).length
        < (if u.rb F.CT_SIG_CFG_one_open (engCt e) = true then 1 else 2) →
      ∃ x : Tile, exec (.descBeat e cyc d) s = .next (({ u with
          tileSq := tput 0 u.tileSq (engCt e) (tget 0 u.tileSq (engCt e) + 1)
          descCnt := tput 0 u.descCnt e ((tget 0 u.descCnt e + 1) % 1024) } : State).setTiles e (u.tilesOf e ++ [x]))
        ∧ x.d0 = d % 2 ^ 64 ∧ x.slot = true ∧ x.got = 1 ∧ x.strip = stripMode u (engCore e)
        ∧ x.mode = u.setting (engField e) 1 ∧ x.rate = u.setting (engField e) 0 ∧ x.key = tget 0 u.selKey (engField e)
        ∧ x.forced = forceBit u (engCore e) ∧ x.cnt = tget 0 u.descCnt e
        ∧ x.room = decide ((tget [] u.fifo e).length ≤ u.rd F.CT_SIG_CFG_admit_level (engCt e)))
  ∧ (∀ (s u : State) (e cyc d : Nat) (t : Tile), engOk e = true → s.ctGated (engCt e) = false → u = advCyc (engCt e) cyc s →
      tget true u.engRst e = false → tget 0 u.skip e = 0 → announced u e = some t → t.got = 2 →
      exec (.descBeat e cyc d) s = .next (modTile e t.sq (fun _ => { t with d2 := d % 2 ^ 64, got := 3 }) u))
  ∧ (∀ (s u : State) (e cyc d : Nat), engOk e = true → s.ctGated (engCt e) = false → u = advCyc (engCt e) cyc s → tget true u.engRst e = false →
      announced u e = none → oldest u e = none → exec (.sigBeat e cyc 1 d) s = .next (breachTile e none 8 u))
  ∧ (∀ (s u : State) (e cyc : Nat), engOk e = true → s.ctGated (engCt e) = false → u = advCyc (engCt e) cyc s → tget true u.engRst e = false →
      oldest (wdogRestart e u) e = none → exec (.retirePulse e cyc) s = .next (breachTile e none 9 (wdogRestart e u)))
  ∧ (∀ (s u : State) (e cyc d : Nat) (t : Tile), engOk e = true → s.ctGated (engCt e) = false → u = advCyc (engCt e) cyc s →
      tget true u.engRst e = false → announced u e = none → oldest u e = some t → t.slot = true → t.admitted = true →
      t.chk = .fold → (tget [] u.fifo e).length < 64 →
      ∃ v, exec (.sigBeat e cyc 1 d) s = .next { v with fifo := tput [] u.fifo e (tget [] u.fifo e ++ [FBeat.mk t.sq 1 (d % 2 ^ 64)]) }
        ∧ v = modTile e t.sq (fun y => { y with nS := y.nS + 1, bad := t.bad }) u)
  ∧ (∀ (s u : State) (e cyc : Nat) (t : Tile), engOk e = true → s.ctGated (engCt e) = false → u = advCyc (engCt e) cyc s → tget true u.engRst e = false →
      announced u e = none → oldest u e = some t → t.prf ≠ .out → t.strip = false →
      exec (.abortBeat e cyc false) s = .next (closeTile e t.sq true
        (pushStamp e ⟨cyc + 1, false, t.sq, t.tag, if blocked u e = true then 3 else 2⟩ u)))
  ∧ (∀ (s u : State) (e cyc : Nat), engOk e = true → s.ctGated (engCt e) = false → u = advCyc (engCt e) cyc s → tget true u.engRst e = false →
      exec (.retirePulse e cyc) s = .next (retire e cyc u))
  ∧ (∀ (s : State) (k cyc : Nat), ctOk k = true → s.ctGated k = false →
      exec (.foldDrain k cyc) s = .next (drainGo k 64 (advCyc k cyc s)))
  ∧ (∀ (s : State) (e cyc d kd : Nat) (pulse : Bool), engOk e = true → s.ctGated (engCt e) = true →
      exec (.descBeat e cyc d) s = .next s ∧ exec (.sigBeat e cyc kd d) s = .next s
      ∧ exec (.retirePulse e cyc) s = .next s ∧ exec (.abortBeat e cyc pulse) s = .next s)

/-- O7. At an engine's earliest deadline its tile's first stamp falls due with the verdict of Table 5-8. A due stamp
leaves in a cycle that has carried none; in a cycle that has carried one nothing leaves. When the earliest proof
wait ends the proof is given up and counted. A fold self-check counts, latches internal bit 0 of its CT, records
FOLD_FAULT and leaves the tile it hits unchecked. In a gated cluster none of these happens. An engine reset abandons
the engine's tiles and aborts its core's strip, when its cluster is not gated (log entry 101); a second assertion
changes nothing; its end restarts the watchdog. COMPLETION: exec answers a next state, under conditions on the state
and the operands alone, for: engineResetInput, firstStampDeadline, stampSend, proofTimeout, foldFault. -/
def Obligations.TileStamps : Prop :=
  (∀ (s : State) (e : Nat) (t : Tile), engOk e = true → s.ctGated (engCt e) = false → nextDue (s.tilesOf e) = some t →
      ∀ (c : Chk) (u : State), settleChk e t (advCyc (engCt e) t.due s) = (c, u) →
        exec (.firstStampDeadline e) s = .next (pushStamp e
          ⟨t.due, false, t.sq, t.tag, if blocked u e = true then 3 else firstVerdict c t.prf⟩
          (modTile e t.sq (fun y => { y with chk := c, dlDone := true }) u)))
  ∧ (∀ (s u : State) (e cyc : Nat) (x : Stamp), engOk e = true → s.ctGated (engCt e) = false → u = advCyc (engCt e) cyc s →
      tget 0 u.stampCyc e ≤ cyc → nextStamp (tget [] u.stampQ e) cyc = some x →
      exec (.stampSend e cyc) s = .next (emitStamp e cyc x u))
  ∧ (∀ (s u : State) (e cyc : Nat), engOk e = true → s.ctGated (engCt e) = false → u = advCyc (engCt e) cyc s → cyc < tget 0 u.stampCyc e →
      exec (.stampSend e cyc) s = .next u)
  ∧ (∀ (s : State) (e : Nat) (t : Tile), engOk e = true → s.ctGated (engCt e) = false → nextWait (s.tilesOf e) = some t →
      exec (.proofTimeout e) s = .next (giveUp e t
        ((advCyc (engCt e) t.waitEnd s).bump F.CT_ABFT_STAT2_proof_timeout (engCt e))))
  ∧ (∀ (s : State) (e tag chk : Nat) (t : Tile), engOk e = true → s.ctGated (engCt e) = false → tagTile s e tag false = some t → t.cls ≤ 1 →
      t.chk ≠ .none → t.dlDone = false →
      exec (.foldFault e tag chk) s = .next (modTile e t.sq (fun y => { y with chk := .unchecked, admitted := false })
        (raiseCt (engCt e)
          { code := Code.FOLD_FAULT, unit := ctUnit (engCt e), params := t.tid % 2 ^ 32 + 2 ^ 32 * chk, layer := t.layer,
            op := t.op } (ctIntLatch (engCt e) 0 (s.bump F.CT_ABFT_STAT2_fold_fault (engCt e))))))
  ∧ (∀ (s : State) (e : Nat), engOk e = true → tget true s.engRst e = false →
      exec (.engineResetInput e true) s = .next (
        if s.ctGated (engCt e) = true
        then { s with engRst := tput true s.engRst e true }
        else abortCore (engCore e) (abandonEngine e { s with engRst := tput true s.engRst e true })))
  ∧ (∀ (s : State) (e cyc : Nat), engOk e = true → s.ctGated (engCt e) = true →
      exec (.firstStampDeadline e) s = .next s ∧ exec (.stampSend e cyc) s = .next s ∧ exec (.proofTimeout e) s = .next s
      ∧ ∀ tag chk, exec (.foldFault e tag chk) s = .next s)
  ∧ (∀ (s : State) (e : Nat), engOk e = true → tget true s.engRst e = true → exec (.engineResetInput e true) s = .next s)
  ∧ (∀ (s : State) (e : Nat), engOk e = true →
      exec (.engineResetInput e false) s = .next (wdogRestart e { s with engRst := tput true s.engRst e false }))

/-- O8. A write of FS_PROOF_CFG with rekey at a working FS draws a key and the descriptor counts of the field begin
anew; without rekey it sets the three fields. A write of CC_PROOF_RATE with an exponent up to 16 sets it and is
forwarded to every field of the partition; a larger exponent leaves it. Force bits within shadow_max are taken from
the owner and the field's sequencer; bits beyond it are refused as a whole and counted, and those of another writer
have no effect. COMPLETION: exec answers a next state, under conditions on the state and the operands alone, for:
rekey, ccSettingForward, proofForceWrite. -/
def Obligations.TileSettings : Prop :=
  (∀ (s : State) (w : Writer) (f v : Nat), Granted s w .FS_PROOF_CFG f → fieldOk f = true → notTenant w = true → bit v 1 = false →
      exec (.rekey w f v) s = .next (wrote w .FS_PROOF_CFG f (((s.wr F.FS_PROOF_CFG_enable f (bits v 0 1)).wr
        F.FS_PROOF_CFG_shadow_max f (bits v 8 6)).wr F.FS_PROOF_CFG_neg_cap f (bits v 16 6))))
  ∧ (∀ (s t : State) (w : Writer) (f v : Nat), Granted s w .FS_PROOF_CFG f → fieldOk f = true → notTenant w = true →
      bit v 1 = true → t = ((s.wr F.FS_PROOF_CFG_enable f (bits v 0 1)).wr F.FS_PROOF_CFG_shadow_max f (bits v 8 6)).wr
        F.FS_PROOF_CFG_neg_cap f (bits v 16 6) → t.fsWorks f = true →
      exec (.rekey w f v) s = .next (wrote w .FS_PROOF_CFG f { t with
        entCtr := t.entCtr + 1
        selKey := tput 0 t.selKey f ((Config.entropy t.entCtr).toNat % 2 ^ 64)
        descCnt := t.descCnt.filter (fun e => engField e.1 != f) }))
  ∧ (∀ (s : State) (w : Writer) (p v : Nat), Granted s w .CC_PROOF_RATE p → partOk p = true → notTenant w = true →
      bits v 0 5 ≤ 16 → exec (.ccSettingForward w 0 p v) s = .next (wrote w .CC_PROOF_RATE p
        (forAll (s.fieldsOf p) (fun f u => forwardTo 0 f u) (s.wr F.CC_PROOF_RATE_rate_exp p (bits v 0 5)))))
  ∧ (∀ (s : State) (w : Writer) (p v : Nat), Granted s w .CC_PROOF_RATE p → partOk p = true → notTenant w = true →
      16 < bits v 0 5 → exec (.ccSettingForward w 0 p v) s = .next (wrote w .CC_PROOF_RATE p
        (forAll (s.fieldsOf p) (fun f u => forwardTo 0 f u) s)))
  ∧ (∀ (s : State) (w : Writer) (k v : Nat), Granted s w .CT_PROOF_FORCE0 k → ctOk k = true → (s.isOwner w || isSeq w (ctField k)) = true →
      s.rd F.FS_PROOF_CFG_shadow_max (ctField k) < forcedOf s (ctField k) + popc 64 (Nat.land v (2 ^ 64 - 1))
        - popc 64 (s.regVal .CT_PROOF_FORCE0 k) →
      popc 64 (s.regVal .CT_PROOF_FORCE0 k) < popc 64 (Nat.land v (2 ^ 64 - 1)) →
      exec (.proofForceWrite w k false v) s = .next (wrote w .CT_PROOF_FORCE0 k (s.bump F.FS_PROOF_STAT_force_refused (ctField k))))
  ∧ (∀ (s : State) (w : Writer) (k v : Nat), Granted s w .CT_PROOF_FORCE0 k → ctOk k = true → (s.isOwner w || isSeq w (ctField k)) = true →
      s.regVal .CT_PROOF_FORCE0 k = 0 →
      forcedOf s (ctField k) + popc 64 (Nat.land v (2 ^ 64 - 1)) ≤ s.rd F.FS_PROOF_CFG_shadow_max (ctField k) →
      exec (.proofForceWrite w k false v) s = .next (wrote w .CT_PROOF_FORCE0 k
        ((s.setReg .CT_PROOF_FORCE0 k (Nat.land v (2 ^ 64 - 1))).wr F.FS_PROOF_STAT_forced (ctField k)
          (forcedOf s (ctField k) + popc 64 (Nat.land v (2 ^ 64 - 1))))))
  ∧ (∀ (s : State) (w : Writer) (k v : Nat) (hi : Bool), Granted s w (if hi then .CT_PROOF_FORCE1 else .CT_PROOF_FORCE0) k →
      ctOk k = true → s.isOwner w = false → isSeq w (ctField k) = false →
      exec (.proofForceWrite w k hi v) s = .next (wrote w (if hi then .CT_PROOF_FORCE1 else .CT_PROOF_FORCE0) k s))

/-- O9. A tap block that its open, mirrored tile has not yet presented goes into the CT's mirror buffer, and one
presented again, or of a retired tile, only moves the cycle count; with eight blocks in the buffer the mirror is
lost. The oldest reservation is accepted into the store and answered with 1 when the array is not suspect, proofs
are enabled, no self-test runs, an entry is free and the blocks fit; it is refused, counted and answered with 0 when
the array is suspect. The oldest mirrored block reaches its entry and wakes the array. An accepted reply only leaves
the queue; one of refusal is counted and empties the mirror buffer of its tile. A woken array is ready at the
recorded time and counted; an idle one, without tile, strip segment or self-test, sleeps after the hold. COMPLETION:
exec answers a next state, under conditions on the state and the operands alone, for: proofArrayReady,
proofArraySleep, tapBlock, proofReserve, mirrorBlockArrive, reservationReply. -/
def Obligations.ProofIntake : Prop :=
  (∀ (s u : State) (e cyc tag kd o : Nat) (d : List Byte) (t : Tile), engOk e = true → s.ctGated (engCt e) = false → u = advCyc (engCt e) cyc s →
      tagTile u e tag false = some t → t.retired = false → t.mirror = true → o < t.blocks kd →
      t.seen.contains (kd * 2 ^ 16 + o) = false → (tget [] u.mirBuf (engCt e)).length < 8 →
      exec (.tapBlock e cyc tag kd o d) s = .next (modTile e t.sq (fun y => { y with seen := (kd * 2 ^ 16 + o) :: y.seen })
        { u with mirBuf := tput [] u.mirBuf (engCt e) (tget [] u.mirBuf (engCt e) ++ [MBlk.mk ⟨e, t.sq⟩ ⟨kd, o, d⟩]) }))
  ∧ (∀ (s u : State) (e cyc tag kd o : Nat) (d : List Byte) (t : Tile), engOk e = true → s.ctGated (engCt e) = false → u = advCyc (engCt e) cyc s →
      tagTile u e tag false = some t → (t.retired = true ∨ t.seen.contains (kd * 2 ^ 16 + o) = true) →
      exec (.tapBlock e cyc tag kd o d) s = .next u)
  ∧ (∀ (s t : State) (f : Nat) (r : Rsv) (l : List Rsv), fieldOk f = true → s.fieldLive f = true → tget [] s.rsvQ f = r :: l →
      s.rb F.FS_PROOF_STAT_array_suspect f = true →
      t = ({ s with
        rsvQ := tput [] s.rsvQ f l
        early := tput [] s.early f ((tget [] s.early f).filter (fun b => b.ref != r.ref)) } : State).bump
          F.FS_PROOF_DROP_suspect f →
      exec (.proofReserve f) s = .next { t with rplQ := tput [] t.rplQ f (tget [] t.rplQ f ++ [PMsg.mk r.ref 0 false]) })
  ∧ (∀ (s t v : State) (f : Nat) (r : Rsv) (l : List Rsv) (x : PEnt), fieldOk f = true → s.fieldLive f = true →
      tget [] s.rsvQ f = r :: l → rsvRefusal s f r = none →
      t = { s with
        rsvQ := tput [] s.rsvQ f l
        early := tput [] s.early f ((tget [] s.early f).filter (fun b => b.ref != r.ref)) } →
      x = { rsv := r, part := s.partOf f, sealed := s.rb F.CC_PART_SEAL_sealed (s.partOf f),
            blocks := ((tget [] s.early f).filter (fun b => b.ref == r.ref)).map MBlk.blk } →
      v = putEntry f x (t.setEntries f (t.entries f ++ [x])) →
      exec (.proofReserve f) s = .next { v with rplQ := tput [] v.rplQ f (tget [] v.rplQ f ++ [PMsg.mk r.ref 1 false]) })
  ∧ (∀ (s : State) (f : Nat) (m : PMsg) (l : List PMsg), fieldOk f = true → s.fieldLive f = true →
      tget [] s.rplQ f = m :: l → m.code = 1 → exec (.reservationReply f) s = .next { s with rplQ := tput [] s.rplQ f l })
  ∧ (∀ (s t : State) (f k : Nat) (m : PMsg) (l : List PMsg), fieldOk f = true → s.fieldLive f = true →
      tget [] s.rplQ f = m :: l → m.code = 0 → k = engCt m.ref.eng →
      t = ({ s with
        rplQ := tput [] s.rplQ f l
        mirBuf := tput [] s.mirBuf k ((tget [] s.mirBuf k).filter (fun b => b.ref != m.ref)) } : State).bump
          F.CT_PROOF_STAT_dropped k → findTile t m.ref.eng m.ref.sq = none →
      exec (.reservationReply f) s = .next t)
  ∧ (∀ (s t : State) (k : Nat) (b : MBlk) (l : List MBlk) (x : PEnt), ctOk k = true → s.fieldLive (ctField k) = true →
      ctQuiet s k = false → tget [] s.mirBuf k = b :: l → t = startWake (ctField k) { s with mirBuf := tput [] s.mirBuf k l } →
      (t.entries (ctField k)).find? (fun x => x.rsv.ref == b.ref) = some x →
      exec (.mirrorBlockArrive k) s = .next (putEntry (ctField k) { x with blocks := x.blocks ++ [b.blk] } t))
  ∧ (∀ (s : State) (f w : Nat), fieldOk f = true → tfind s.arrWake f = some w →
      exec (.proofArrayReady f) s = .next ((({ s with
        wt := max s.wt w
        arrWake := tdel s.arrWake f
        arrIdle := tput 0 s.arrIdle f (max s.wt w) } : State).wr F.FS_WAKE_STAT_awake f 1).bumpWrap F.FS_WAKE_STAT_wakes f))
  ∧ (∀ (s : State) (f : Nat), fieldOk f = true → s.rb F.FS_WAKE_STAT_awake f = true →
      s.rb F.FS_WAKE_CFG_pin_awake f = false → s.entries f = [] → tget 0 s.segLeft f = 0 → selfTesting s f = false →
      exec (.proofArraySleep f) s = .next
        ((s.toWt (max (tget 0 s.arrIdle f) (tget 0 s.segEnd f) + s.rd F.FS_WAKE_CFG_hold_us f * 1000)).wr
          F.FS_WAKE_STAT_awake f 0))

/-- O10. The array, awake and free, starts the tile whose operands became complete first. With no live tile ready a
segment of at most 4096 cycles of strip work starts; while a strip runs on a pack, whether the fetch of its stored
blocks fails is a free value, and then that strip is aborted instead (the model's choice, log entry 105). A
comparison without a difference and without an inverted check counts the tile as proved and sends verdict 1; one
with differences captures the negative, counts the mismatch and sends verdict 3. A check of the array counts,
records PROOF_ARRAY_FAULT and makes the array suspect. array_suspect is cleared by the owner or the field's
sequencer, and the fault's pin falls. An abandoned tile of which the store holds nothing is forgotten. A verdict for
a tile that is closed is discarded; one that arrives before the tile's deadline is kept with it. A release zeroises
the named slots. COMPLETION: exec answers a next state, under conditions on the state and the operands alone, for:
proofStart, stripSegmentStart, proofCompareDone, proofArrayFault, arraySuspectClear, proofAbandon,
proofVerdictArrive, negRelease. -/
def Obligations.ProofArray : Prop :=
  (∀ (s : State) (f : Nat) (x : PEnt), fieldOk f = true → s.fieldLive f = true → s.rb F.FS_WAKE_STAT_awake f = true →
      (s.entries f).all (fun x => !x.started) = true → nextReady (s.entries f) = some x →
      exec (.proofStart f) s = .next (putEntry f { x with started := true } (s.toWt (tget 0 s.segEnd f))))
  ∧ (∀ (s : State) (f n : Nat), fieldOk f = true → s.fieldLive f = true → s.rb F.FS_WAKE_STAT_awake f = true →
      tget 0 s.segLeft f = n → 0 < n → (s.entries f).all (fun x => !x.started && x.ready.isNone) = true →
      (tget [] s.strips f).find? (fun x => x.bank.isSome) = none →
      exec (.stripSegmentStart f) s = .next { s with
        wt := max s.wt (tget 0 s.segEnd f)
        segLeft := tput 0 s.segLeft f (n - min n 4096)
        segEnd := tput 0 s.segEnd f (max s.wt (tget 0 s.segEnd f) + ceilDiv (4 * min n 4096) 5) })
  ∧ (∀ (s : State) (f : Nat) (x : Strip), fieldOk f = true → s.fieldLive f = true →
      (tget [] s.strips f).find? (fun x => x.bank.isSome) = some x →
      exec (.stripSegmentStart f) s = .next (if (s.drawFree 1).1 = 1 then forAll x.cores abortOne (s.drawFree 1).2
        else stripSegment f (s.drawFree 1).2))
  ∧ (∀ (s v : State) (f : Nat) (x : PEnt) (t : Tile), fieldOk f = true → s.fieldLive f = true →
      (s.entries f).find? (·.started) = some x → resultPending s x.rsv.ref = false → NoInj s 2 (fsUnit f) 0 →
      t = descTile x.rsv.d0 x.rsv.d1 x.rsv.d2 x.rsv.d3 →
      v = (arrJobEnd f (s.setEntries f ((s.entries f).filter (fun y => y.rsv.ref != x.rsv.ref)))).bumpWrap F.FS_PROOF_CNT_proved f →
      v.ctGated (engCt x.rsv.ref.eng) = false → diffIdx t (arrayResult t (storedOpnd t x.blocks)) x.blocks = [] →
      exec (.proofCompareDone f) s = .next (sendVerdict f x.rsv.ref 1 false v))
  ∧ (∀ (s v : State) (f : Nat) (x : PEnt) (t : Tile) (arr : List Nat), fieldOk f = true → s.fieldLive f = true →
      (s.entries f).find? (·.started) = some x → resultPending s x.rsv.ref = false → NoInj s 2 (fsUnit f) 0 →
      t = descTile x.rsv.d0 x.rsv.d1 x.rsv.d2 x.rsv.d3 → arr = arrayResult t (storedOpnd t x.blocks) →
      v = (arrJobEnd f (s.setEntries f ((s.entries f).filter (fun y => y.rsv.ref != x.rsv.ref)))).bumpWrap F.FS_PROOF_CNT_proved f →
      v.ctGated (engCt x.rsv.ref.eng) = false → diffIdx t arr x.blocks ≠ [] →
      exec (.proofCompareDone f) s = .next (sendVerdict f x.rsv.ref 3 false
        (proofMismatch f x arr (diffIdx t arr x.blocks) false false (v.bump F.FS_PROOF_CNT_mismatches f))))
  ∧ (∀ (s : State) (f chk : Nat), fieldOk f = true → s.fieldLive f = true → (s.entries f).find? (·.started) = none →
      exec (.proofArrayFault f chk) s = .next (arraySuspect f (raiseFs f
        { code := Code.PROOF_ARRAY_FAULT, unit := fsUnit f, params := 2 ^ 32 * chk } (s.bump F.FS_PROOF_CNT_array_faults f))))
  ∧ (∀ (s : State) (w : Writer) (f : Nat), Granted s w .FS_PROOF_STAT f → fieldOk f = true → s.isOwner w = true →
      notTenant w = true → exec (.arraySuspectClear w f 128) s = .next (wrote w .FS_PROOF_STAT f
        ((fsPinDrive f 145 false (s.wr F.FS_PROOF_STAT_array_suspect f 0)).wr F.FS_PROOF_STAT_force_refused f
          ((fsPinDrive f 145 false (s.wr F.FS_PROOF_STAT_array_suspect f 0)).rd F.FS_PROOF_STAT_force_refused f))))
  ∧ (∀ (s : State) (f c : Nat) (m : PMsg) (l : List PMsg), fieldOk f = true → s.fieldLive f = true →
      tget [] s.abnQ f = m :: l → (tget [] s.rsvQ f).any (fun r => r.ref == m.ref) = false →
      (s.entries f).find? (fun x => x.rsv.ref == m.ref) = none →
      exec (.proofAbandon f c) s = .next { s with
        abnQ := tput [] s.abnQ f l
        early := tput [] s.early f ((tget [] s.early f).filter (fun b => b.ref != m.ref)) })
  ∧ (∀ (s : State) (f : Nat) (m : PMsg) (l : List PMsg), fieldOk f = true → s.fieldLive f = true →
      takeFirst (fun (m : PMsg) => !s.ctGated (engCt m.ref.eng)) (tget [] s.vrdQ f) = some (m, l) →
      findTile { s with vrdQ := tput [] s.vrdQ f l } m.ref.eng m.ref.sq = none →
      exec (.proofVerdictArrive f) s = .next { s with vrdQ := tput [] s.vrdQ f l })
  ∧ (∀ (s u : State) (f : Nat) (m : PMsg) (l : List PMsg) (t : Tile), fieldOk f = true → s.fieldLive f = true →
      takeFirst (fun (m : PMsg) => !s.ctGated (engCt m.ref.eng)) (tget [] s.vrdQ f) = some (m, l) →
      u = { s with vrdQ := tput [] s.vrdQ f l } → findTile u m.ref.eng m.ref.sq = some t → t.prf = .out → t.dlDone = false →
      m.code = 1 → exec (.proofVerdictArrive f) s = .next (modTile m.ref.eng t.sq (fun y => { y with prf := .clean })
        (modTile m.ref.eng t.sq (fun y => { y with prfLed := m.led, mirror := false }) u)))
  ∧ (∀ (s : State) (w : Writer) (f : Nat), Granted s w .FS_NEG_RELEASE f → fieldOk f = true → notTenant w = true →
      exporting s f 0 = false → exec (.negRelease w f 1) s = .next (wrote w .FS_NEG_RELEASE f (freeSlot f 0 s)))

/-- O11. A core with nothing asked of it, in a released, working field of a partition in service, becomes due, its grace
starts and STRIP_DUE is posted. An FS_STRIP_CMD the FS can take requests the strip; a refused one sets cmd_refused.
At the end of grace a core enters forcing with a 10 ms deadline when force_preempt is set, with the reference recipe
when it was never requested (log entry 103); otherwise it is shielded where its force bit can be set and its mode
checks, else unshielded with cause 0. At that deadline it becomes unshielded with cause 2. A shadow that lost more
than a sixteenth of the last ms's tiles is unshielded with cause 1. A dropped grant lets a waiting request rise.
COMPLETION: exec answers a next state, under conditions on the state and the operands alone, for: stripDue,
stripCmd, graceExpire, forceDeadlineExpire, shadowLoss, stripOverdue, yieldGrantDrop. -/
def Obligations.StripDueAndGrace : Prop :=
  (∀ (s : State) (c : Nat), coreOk c = true → s.fieldLive (coreField c) = true → s.released (coreField c) = true →
      (s.core c).st = 0 → (s.core c).req = false → (s.core c).again = false → (liveEngines s c).isEmpty = false →
      s.rd F.CC_PART_STAT_phase (s.partOf (coreField c)) = 0 →
      ∃ t : State, t = s.toWt (oldestWt s c + periodNs s (coreField c) - s.rd F.FS_STRIP_CFG_lead_ms (coreField c) * ms)
        ∧ exec (.stripDue c) s = .next (notifyFs (coreField c) Code.STRIP_DUE (coreEng c) (coreIdx c + 0)
          (t.setCore c { s.core c with st := 1, graceEnd := some (t.wt + max 1 (t.rd F.FS_STRIP_CFG_grace_ms (coreField c)) * ms) })))
  ∧ (∀ (s t : State) (w : Writer) (f v : Nat), Granted s w .FS_STRIP_CMD f → fieldOk f = true → notTenant w = true →
      stripRequest f (coreOf f (bits v 0 13)) (bits v 13 9) s = (0, t) →
      exec (.stripCmd w f v) s = .next (wrote w .FS_STRIP_CMD f t))
  ∧ (∀ (s t : State) (w : Writer) (f v n : Nat), Granted s w .FS_STRIP_CMD f → fieldOk f = true → notTenant w = true →
      stripRequest f (coreOf f (bits v 0 13)) (bits v 13 9) s = (n + 1, t) →
      exec (.stripCmd w f v) s = .next (wrote w .FS_STRIP_CMD f (t.wr F.FS_STRIP_STAT_cmd_refused f 1)))
  ∧ (∀ (s : State) (c g : Nat), coreOk c = true → (s.core c).graceEnd = some g → (s.core c).st = 2 →
      s.ctGated (coreCt c) = false → (s.toWt g).rb F.FS_STRIP_CFG_force_preempt (coreField c) = true →
      noRequests (s.toWt g) (coreField c) = false →
      ((s.core c).req = true → exec (.graceExpire c) s = .next ((s.toWt g).setCore c
        { raiseReq { s.core c with graceEnd := none } 0 (s.core c).recipe true with
          st := 7
          forceEnd := some (max s.wt g + 10 * ms) }))
      ∧ ((s.core c).req = false → (s.core c).again = false → exec (.graceExpire c) s = .next ((s.toWt g).setCore c
        { raiseReq { s.core c with graceEnd := none } 0 0 true with
          bank := 0
          st := 7
          forceEnd := some (max s.wt g + 10 * ms) })))
  ∧ (∀ (s t : State) (c g : Nat), coreOk c = true → (s.core c).graceEnd = some g → (s.core c).st = 1 ∨ (s.core c).st = 2 →
      s.ctGated (coreCt c) = false → t = s.toWt g → t.rb F.FS_STRIP_CFG_force_preempt (coreField c) = false →
      (t.setting (coreField c) 1 = 0 → exec (.graceExpire c) s = .next (t.setCore c
        { s.core c with graceEnd := none, st := 4, cause := 0 }))
      ∧ (∀ u, t.setting (coreField c) 1 ≠ 0 → tryForce c t = (true, u) → exec (.graceExpire c) s = .next (u.setCore c
        { s.core c with graceEnd := none, st := 3, shadow := true }))
      ∧ (∀ u, t.setting (coreField c) 1 ≠ 0 → tryForce c t = (false, u) → exec (.graceExpire c) s = .next (u.setCore c
        { s.core c with graceEnd := none, st := 4, cause := 0 })))
  ∧ (∀ (s : State) (c d : Nat), coreOk c = true → (s.core c).forceEnd = some d → (s.core c).st = 7 →
      s.ctGated (coreCt c) = false → exec (.forceDeadlineExpire c) s =
        .next ((s.toWt d).setCore c { s.core c with st := 4, cause := 2, forceEnd := none }))
  ∧ (∀ (s : State) (c : Nat), coreOk c = true → (s.core c).st = 3 →
      ((s.core c).win.filter (fun w => decide (s.wt ≤ w.1 + ms))).length
        < 16 * (((s.core c).win.filter (fun w => decide (s.wt ≤ w.1 + ms))).filter (·.2)).length →
      exec (.shadowLoss c) s = .next (s.setCore c { s.core c with st := 4, cause := 1, shadow := true }))
  ∧ (∀ (s : State) (e : Nat), engOk e = true → (s.core (engCore e)).st = 4 → (tget {} s.ledger e : Led).overdue = false →
      engFenced s e = false → s.ctGated (coreCt (engCore e)) = false →
      s.rd F.CC_PART_STAT_phase (s.partOf (engField e)) = 0 → s.fieldLive (engField e) = true →
      coreOverdue s (engCore e) = true →
      ∃ t : State, t = s.toWt ((tget {} s.ledger e : Led).lastWt + periodNs s (engField e) + 1) ∧
        exec (.stripOverdue e) s = .next (stripSync (engField e)
          { t with ledger := tput {} t.ledger e { tget {} s.ledger e with overdue := true, epochOverdue := true } }))
  ∧ (∀ (s : State) (c : Nat), coreOk c = true → (s.core c).granted = true → (s.core c).req = false →
      exec (.yieldGrantDrop c) s = .next (s.setCore c { s.core c with
        granted := false
        req := (s.core c).again
        again := false
        force := (s.core c).again && (s.core c).force }))

/-- O12. A granted request of kind strip enters strip mode; with no pair wait its strip starts alone, else with the core
it can be paired with, and without one it waits for a partner. A grant that was not asked for changes nothing. At
the end of the pair wait or of the replay wait the core runs against the array alone. Results of a strip that is not
complete are kept with it, those of a quiet CT wait there; 10 ms after the strip began what has not arrived counts
as differing and the strip settles. COMPLETION: exec answers a next state, under conditions on the state and the
operands alone, for: yieldGrant, pairWaitExpire, stripResult, stripResultTimeout, replayWaitExpire. -/
def Obligations.StripRun : Prop :=
  (∀ (s t : State) (c n : Nat) (x : Core), coreOk c = true → (s.core c).req = true → (s.core c).granted = false →
      s.fsWorks (coreField c) = true → (s.core c).kind = 0 → n = tget 0 s.grantNo (coreField c) →
      t = coreWdogs c (State.setCore { s with grantNo := tput 0 s.grantNo (coreField c) (n + 1) } c
        { s.core c with st := 5, granted := true, graceEnd := none, forceEnd := none, ord := n }) →
      x = t.core c → x.suspect = none → x.witness = none →
      (t.rd F.FS_STRIP_CFG_pair_wait_us (coreField c) = 0 →
        exec (.yieldGrant c) s = .next (startStrip (coreField c) [c] x.recipe false false false t [] (some x.bank)))
      ∧ (t.rd F.FS_STRIP_CFG_pair_wait_us (coreField c) ≠ 0 → ∀ p, pairWith t c = some p →
        exec (.yieldGrant c) s = .next (startStrip (coreField c) [p, c] x.recipe false false false t [] (some x.bank)))
      ∧ (t.rd F.FS_STRIP_CFG_pair_wait_us (coreField c) ≠ 0 → pairWith t c = none →
        exec (.yieldGrant c) s = .next (t.setCore c
          { x with pairEnd := some (t.wt + t.rd F.FS_STRIP_CFG_pair_wait_us (coreField c) * 1000) })))
  ∧ (∀ (s : State) (c : Nat), coreOk c = true → (s.core c).req = false → exec (.yieldGrant c) s = .next s)
  ∧ (∀ (s : State) (c d : Nat), coreOk c = true → (s.core c).pairEnd = some d → (s.core c).st = 5 → (s.core c).kind = 0 →
      (s.core c).suspect = none → s.ctGated (coreCt c) = false →
      exec (.pairWaitExpire c) s = .next (startStrip (coreField c) [c] (s.core c).recipe false false false (s.toWt d) []
        (some (s.core c).bank)))
  ∧ (∀ (s : State) (c d e : Nat), coreOk c = true → (s.core c).pairEnd = some d → (s.core c).suspect = some e →
      (s.core c).st = 5 → s.ctGated (coreCt c) = false →
      (fieldCores s (coreField c)).filter (fun w => w.2.witness == some c) = [] →
      exec (.replayWaitExpire c) s = .next (startStrip (coreField c) [c] (replayRecipe (s.toWt d) e) false false false (s.toWt d)))
  ∧ (∀ (s t : State) (c : Nat) (o l : List StripOut) (x y : Strip), coreOk c = true → stripOf s c = some x →
      s.fieldLive (coreField c) = true → l = tget [] s.stripOut c ++ o.filter (fun o => engCore o.eng == c) →
      y = { x with outs := x.outs ++ l } →
      t = { s with
        stripOut := tdel s.stripOut c
        strips := tput [] s.strips (coreField c)
          ((tget [] s.strips (coreField c)).map (fun z => if z.num = x.num then y else z)) } →
      (ctQuiet s (coreCt c) = false →
        exec (.stripResult c o) s = .next (if stripComplete t y = true then stripEnd (coreField c) y t else t))
      ∧ (ctQuiet s (coreCt c) = true → exec (.stripResult c o) s = .next { s with stripOut := tput [] s.stripOut c l }))
  ∧ (∀ (s : State) (c : Nat) (x : Strip), coreOk c = true → stripOf s c = some x → s.fieldLive (coreField c) = true →
      x.cores.any (fun d => s.ctGated (coreCt d)) = false →
      exec (.stripResultTimeout c) s = .next (stripEnd (coreField c) x (s.toWt (x.runAt + 10 * ms))))

/-- O13. A step mark of the owner or the partition's tenant above the last one is kept, shown and posted, and the
suspect lists of the partition follow it; with the mark that completes the epoch the horizon is published and the
next epoch takes the configured length (log entry 53). One that is not above the last is recorded as STEP_REJECTED.
A loss beyond k times the deviation, after 16 accepted ones, is recorded as LOSS_EXCURSION with the statistics
unchanged; a finite one among the first 16 is accepted and moves mean and deviation by a sixteenth (log entry 54).
reset_stats clears the statistics. COMPLETION: exec answers a next state, under conditions on the state and the
operands alone, for: stepMark, lossPost, lossResetStats. -/
def Obligations.StepsAndLosses : Prop :=
  (∀ (s t u : State) (w : Writer) (p v next k : Nat) (x y : StepSt), Granted s w .CC_STEP p → partOk p = true →
      s.ownerOrTenant w p = true → x = tget {} s.steps p → (∀ l, x.last = some l → l < bits v 0 40) →
      next = s.rd F.CC_HORIZON_CFG_epoch_steps p → k = x.w.getD next →
      y = { x with
        last := some (bits v 0 40)
        hist := (s.wt :: x.hist).take 257
        count := if k ≤ x.count + 1 then 0 else x.count + 1
        w := some (if k ≤ x.count + 1 then next else k) } →
      t = ({ s with steps := tput {} s.steps p y } : State).wr F.CC_STEP_STAT_step p (bits v 0 40 % 2 ^ 32) →
      u = suspMark p (notify 128 Code.STEP_MARK t.ccUnit (bits v 0 40 + 2 ^ 40 * p) t) →
      exec (.stepMark w p v) s = .next (wrote w .CC_STEP p (if k ≤ x.count + 1 then epochClose p k y u else u)))
  ∧ (∀ (s : State) (w : Writer) (p v l : Nat), Granted s w .CC_STEP p → partOk p = true → s.ownerOrTenant w p = true →
      (tget {} s.steps p : StepSt).last = some l → bits v 0 40 ≤ l →
      exec (.stepMark w p v) s = .next (wrote w .CC_STEP p (raiseCc
        { code := Code.STEP_REJECTED, unit := s.ccUnit, params := bits v 0 40 + 2 ^ 40 * p } s)))
  ∧ (∀ (s : State) (w : Writer) (p v : Nat) (x : StepSt), Granted s w .CC_LOSS p → partOk p = true →
      s.ownerOrTenant w p = true → x = tget {} s.steps p → (fp32.dec (v % 2 ^ 32)).isFin = true →
      16 ≤ s.rd F.CC_LOSS_CFG_accepted p → s.rd F.CC_LOSS_CFG_k p ≠ 0 → (fp32.dec x.delta).isZero = false →
      (f32 ((cntU (s.rd F.CC_LOSS_CFG_k p)).mul (fp32.dec x.delta))).lt
        (sub32 (fp32.dec (v % 2 ^ 32)) (fp32.dec x.mu)).abs = true →
      exec (.lossPost w p v) s = .next (wrote w .CC_LOSS p (raiseCc
        { code := Code.LOSS_EXCURSION, unit := s.ccUnit,
          params := (x.last.getD 0) % 2 ^ 32 + 2 ^ 32 * ratioClass (sub32 (fp32.dec (v % 2 ^ 32)) (fp32.dec x.mu)).abs
            (fp32.dec x.delta) + 2 ^ 41 * p } s)))
  ∧ (∀ (s t : State) (w : Writer) (p v : Nat) (x : StepSt) (l mu de mu2 de2 : Val), Granted s w .CC_LOSS p → partOk p = true →
      s.ownerOrTenant w p = true → x = tget {} s.steps p → l = fp32.dec (v % 2 ^ 32) → l.isFin = true →
      s.rd F.CC_LOSS_CFG_accepted p < 16 → mu = (if s.rd F.CC_LOSS_CFG_accepted p = 0 then l else fp32.dec x.mu) →
      de = fp32.dec x.delta → de2 = f32 (de.add (sixteenth (sub32 (sub32 l mu).abs de))) →
      mu2 = f32 (mu.add (sixteenth (sub32 l mu))) →
      t = { s with steps := tput {} s.steps p { x with mu := fp32.enc mu2, delta := fp32.enc de2 } } →
      exec (.lossPost w p v) s = .next (wrote w .CC_LOSS p (t.bump F.CC_LOSS_CFG_accepted p)))
  ∧ (∀ (s t : State) (w : Writer) (p v : Nat), Granted s w .CC_LOSS_CFG p → partOk p = true → notTenant w = true →
      bit v 8 = true → t = s.wr F.CC_LOSS_CFG_k p (bits v 0 8) →
      exec (.lossResetStats w p v) s = .next (wrote w .CC_LOSS_CFG p (({ t with
        steps := tput {} t.steps p { tget {} t.steps p with mu := 0, delta := 0 } } : State).wr F.CC_LOSS_CFG_accepted p 0)))

/-- O14. A start with a session open is refused. An accepted push asks for hold and push tokens and waits in arrival
order. A cancel aborts with reason 10. The oldest token request is granted when the budget allows and its session
requests its hold; over the budget nothing changes. A request that waits too long aborts with reason 9, a hold that
is late with reason 8. Returned tokens leave use. A window request holds every core of the field that is not fenced;
a close and the end of win_max_ms close the window. COMPLETION: exec answers a next state, under conditions on the
state and the operands alone, for: brkCmdStart, brkCancel, tokenGrant, tokenWaitExpire, tokenReturn, holdWaitExpire,
maintOpen, maintClose, maintWindowExpire. -/
def Obligations.BracketSessions : Prop :=
  (∀ (s : State) (w : Writer) (f v : Nat), Granted s w .FS_BRK_CMD f → fieldOk f = true → notTenant w = true →
      bit v 30 = false → (s.sess f).isSome = true →
      exec (.brkCmdStart w f v) s = .next (wrote w .FS_BRK_CMD f (s.wr F.FS_BRK_STAT_cmd_refused f 1)))
  ∧ (∀ (s : State) (w : Writer) (f v m n : Nat) (x : Session), Granted s w .FS_BRK_CMD f → fieldOk f = true →
      notTenant w = true → bit v 30 = false → s.sess f = none → s.aonOnly = false → s.fsWorks f = true →
      bits v 0 2 = 0 → bits v 2 6 < Config.nCluster → recipeOk s f (bits v 13 9) = true →
      s.rd F.CC_BRK_ENV_f_steps ≠ 0 →
      m = min (bits v 8 5) (min (s.rd F.CC_BRK_ENV_f_steps) (s.rd F.FS_BRK_LIMIT_f_steps f)) →
      n = s.rd F.CC_TOKEN_COST_hold_tok * (holdSet s f 0 (bits v 2 6)).length + s.rd F.CC_TOKEN_COST_push_tok * m →
      n ≤ s.rd F.CC_TEST_BUDGET_budget →
      x = { kind := 0, cluster := bits v 2 6, smax := m, recipe := bits v 13 9, tTarget := bits v 22 8, phase := 1,
            want := n, bank := reqBank s f (bits v 13 9),
            tokEnd := s.wt + max 1 (s.rd F.FS_BRK_CFG_token_wait_ms f) * ms } →
      exec (.brkCmdStart w f v) s = .next (wrote w .FS_BRK_CMD f
        (({ s.setSess f x with tokQ := s.tokQ ++ [TokReq.mk f n] } : State).wr F.CC_TEST_BUDGET_waiting 0 (s.tokQ.length + 1))))
  ∧ (∀ (s : State) (w : Writer) (f : Nat), Granted s w .FS_BRK_CMD f → fieldOk f = true → notTenant w = true →
      exec (.brkCancel w f) s = .next (wrote w .FS_BRK_CMD f (brkAbort f 10 s)))
  ∧ (∀ (s t : State) (r : TokReq) (l : List TokReq) (x y : Session), s.tokQ = r :: l → s.aonOnly = false →
      s.rd F.CC_TEST_BUDGET_in_use + r.n ≤ s.rd F.CC_TEST_BUDGET_budget →
      t = (({ s with tokQ := l } : State).wr F.CC_TEST_BUDGET_in_use 0 (s.rd F.CC_TEST_BUDGET_in_use + r.n)).wr
        F.CC_TEST_BUDGET_waiting 0 l.length →
      t.sess r.field = some x →
      y = { x with phase := 2, tokens := r.n, holdEnd := t.wt + max 1 (t.rd F.FS_BRK_CFG_hold_wait_ms r.field) * ms } →
      exec .tokenGrant s = .next (holdCheck r.field
        (forAll (holdSet (t.setSess r.field y) r.field x.kind x.cluster) holdReq (t.setSess r.field y))))
  ∧ (∀ (s : State) (r : TokReq) (l : List TokReq), s.tokQ = r :: l →
      s.rd F.CC_TEST_BUDGET_budget < s.rd F.CC_TEST_BUDGET_in_use + r.n → exec .tokenGrant s = .next s)
  ∧ (∀ (s : State) (f : Nat) (x : Session), fieldOk f = true → s.sess f = some x → x.phase = 1 →
      exec (.tokenWaitExpire f) s = .next (brkAbort f 9 (s.toWt x.tokEnd)))
  ∧ (∀ (s : State) (r : TokReq) (l : List TokReq), s.tokRet = r :: l → s.aonOnly = false →
      exec .tokenReturn s = .next (({ s with tokRet := l } : State).wr F.CC_TEST_BUDGET_in_use 0
        (s.rd F.CC_TEST_BUDGET_in_use - r.n)))
  ∧ (∀ (s : State) (f : Nat) (x : Session), fieldOk f = true → s.sess f = some x → x.phase = 2 →
      exec (.holdWaitExpire f) s = .next (brkAbort f 8 (s.toWt x.holdEnd)))
  ∧ (∀ (s t u : State) (w : Writer) (f v : Nat), Granted s w .FS_MAINT f → fieldOk f = true → notTenant w = true →
      bit v 0 = true → bit v 1 = false → t = s.wr F.FS_MAINT_win_max_ms f (bits v 16 16) →
      t.rb F.FS_MAINT_is_open f = false → tfind t.maintHold f = none → t.fieldLive f = true →
      u = { t with maintHold := tput 0 t.maintHold f (t.wt + max 1 (t.rd F.FS_BRK_CFG_hold_wait_ms f) * ms) } →
      exec (.maintOpen w f v) s = .next (wrote w .FS_MAINT f (holdCheck f (forAll (holdSet u f 1 0) holdReq u))))
  ∧ (∀ (s : State) (w : Writer) (f v : Nat), Granted s w .FS_MAINT f → fieldOk f = true → notTenant w = true →
      bit v 0 = false → bit v 1 = true →
      exec (.maintClose w f v) s = .next (wrote w .FS_MAINT f
        (closeWindow f (s.wr F.FS_MAINT_win_max_ms f (bits v 16 16)))))
  ∧ (∀ (s : State) (f d : Nat), fieldOk f = true → tfind s.maintEnd f = some d →
      exec (.maintWindowExpire f) s = .next (closeWindow f (s.toWt d)))

/-- O15. An accepted request leaves the port and its settle time starts; a refusal of the step asked for, also in the
same cycle as an accept, ends the ascent. No answer in time aborts with reason 1, no settled in time with reason 2.
Settled in the ascent runs the step strip, at nominal the rerun or the result. A rerun's outcome classes the failure
as none, marginal or hard. A session whose cluster a stop gates pauses (log entry 101). A step without a failure is
the last pass and the next step is asked for; one with a failure withdraws the stress. A sample is kept as each
cluster's temperature. In heating a cluster of the field at t_max or above aborts with reason 3 and the target
reached runs the heated strip. heat_max_ms runs it as well; cool_ms gives the rerun up with result 3. COMPLETION:
exec answers a next state, under conditions on the state and the operands alone, for: pmAccept, pmRefuse,
pmAnswerTimeout, pmSettled, pmSettleTimeout, brkStepDone, thermalSample, heatMaxExpire, coolExpire. -/
def Obligations.BracketPower : Prop :=
  (∀ (s t : State) (h : PmReq) (l : List PmReq) (x : Session), s.pmQ = h :: l → x.phase = 3 → h.step = x.step → h.step ≠ 0 →
      t = { pmPop s with pmSettle := (pmPop s).pmSettle ++ [h.field] } → t.sess h.field = some x →
      exec (.pmAccept false) s = .next (t.setSess h.field { x with
        settling := true
        applied := h.step
        setEnd := t.wt + max 1 (t.rd F.FS_BRK_CFG_settle_ms h.field) * ms }))
  ∧ (∀ (s : State) (h : PmReq) (l : List PmReq) (x : Session), s.pmQ = h :: l → x.phase = 3 → h.step = x.step →
      (pmPop s).sess h.field = some x →
      exec (.pmAccept true) s = .next (brkWithdraw h.field x (pmPop s))
      ∧ exec .pmRefuse s = .next (brkWithdraw h.field x (pmPop s)))
  ∧ (∀ (s : State), s.pmQ = [] → exec (.pmAccept false) s = .next s ∧ exec .pmRefuse s = .next s
      ∧ exec .pmAnswerTimeout s = .next s)
  ∧ (∀ (s t : State) (h : PmReq) (l : List PmReq) (x : Session), s.pmQ = h :: l → x.phase = 3 → h.step = x.step →
      t = pmPop (s.toWt (h.limit.getD s.wt)) → t.sess h.field = some x →
      exec .pmAnswerTimeout s = .next (brkAbort h.field 1 t))
  ∧ (∀ (s : State) (f : Nat) (l : List Nat) (x : Session), s.pmSettle = f :: l → s.sess f = some x → x.settling = true →
      sessGated s f x = false →
      (x.phase = 3 → exec .pmSettled s = .next (brkStrip f { x with settling := false } { s with pmSettle := l }))
      ∧ (x.phase = 5 → exec .pmSettled s = .next (atNominal f x { s with pmSettle := l })))
  ∧ (∀ (s : State) (f : Nat) (x : Session), fieldOk f = true → s.sess f = some x → x.settling = true → sessGated s f x = false →
      exec (.pmSettleTimeout f) s = .next (brkAbort f 2 { s.toWt x.setEnd with pmSettle := s.pmSettle.erase f }))
  ∧ (∀ (s : State) (f : Nat) (x y : Session), fieldOk f = true → s.sess f = some x → x.done = some [] → x.phase = 3 →
      sessGated s f x = false →
      y = { x with done := none, peak := hotter x.peak (sessTemp s f x) } →
      exec (.brkStepDone f) s = .next (brkNext f { y with lastPass := x.step, step := x.step + 1 } s))
  ∧ (∀ (s : State) (f e : Nat) (l : List Nat) (x y : Session), fieldOk f = true → s.sess f = some x →
      x.done = some (e :: l) → x.phase = 3 → sessGated s f x = false → y = { x with done := none, peak := hotter x.peak (sessTemp s f x) } →
      exec (.brkStepDone f) s = .next (brkWithdraw f { y with firstFail := x.step, fails := e :: l } s))
  ∧ (∀ (s : State) (f : Nat) (l : List Nat) (x y : Session), fieldOk f = true → s.sess f = some x →
      x.done = some l → x.phase = 6 → sessGated s f x = false →
      y = { x with done := none, peak := hotter x.peak (sessTemp s f x) } →
      exec (.brkStepDone f) s = .next (brkFinish f
        (if x.firstFail = 0 then 0 else if l.any (fun e => x.fails.contains e) = true then 2 else 1)
        { y with hard := l.any (fun e => x.fails.contains e) } s))
  ∧ (∀ (s : State) (f : Nat) (x : Session), fieldOk f = true → s.sess f = some x → sessGated s f x = true →
      exec (.brkStepDone f) s = .next s ∧ exec (.pmSettleTimeout f) s = .next s
      ∧ ∀ l, s.pmSettle = f :: l → exec .pmSettled s = .next s)
  ∧ (∀ (s t : State) (f : Nat) (temps : List Nat) (x y : Session), fieldOk f = true →
      t = forAll (List.range (min temps.length Config.nCluster)) (fun i t =>
        { t with ctTemp := tput 0x80 t.ctTemp (64 * f + i) (temps.getD i 0x80 % 256) }) s →
      t.sess f = some x → x.kind = 2 → x.phase = 4 →
      y = { x with peak := hotter x.peak (tget 0x80 t.ctTemp (64 * f + x.cluster)) } →
      (List.range Config.nCluster).any (fun i => decide (tMax (t.setSess f y) ≤
        sext 8 (tget 0x80 (t.setSess f y).ctTemp (64 * f + i)))) = true →
      exec (.thermalSample f temps) s = .next (brkAbort f 3 (t.setSess f y)))
  ∧ (∀ (s : State) (f : Nat) (temps : List Nat), fieldOk f = true → s.sess f = none →
      exec (.thermalSample f temps) s = .next (forAll (List.range (min temps.length Config.nCluster)) (fun i t =>
        { t with ctTemp := tput 0x80 t.ctTemp (64 * f + i) (temps.getD i 0x80 % 256) }) s))
  ∧ (∀ (s : State) (f : Nat) (x : Session), fieldOk f = true → s.sess f = some x → x.phase = 4 →
      s.ctGated (64 * f + x.cluster) = false → exec (.heatMaxExpire f) s = .next (brkHot f x (s.toWt x.heatEnd)))
  ∧ (∀ (s : State) (f : Nat) (x : Session), fieldOk f = true → s.sess f = some x → x.phase = 5 → x.kind = 2 →
      s.ctGated (64 * f + x.cluster) = false → exec (.coolExpire f) s = .next (brkFinish f 3 x (s.toWt x.coolEnd)))

/-- O16. (afterFs adds to an effect what goes with every FS that it stops from working; setAcked ends start-up step 8
with its last acknowledgement.) The oldest confirmation of a unit that is neither listed nor volatile takes the next
entry of the log and is answered with status 0 and its index; one that the CC holds already is answered with status
3 and its index. An engine was confirmed by its FENCE, another unit is now. The answer completes the sequencer's
FENCE. An owner's fence with reason field 0 carries reason 0x0A. A removal of a unit that is not on the list is
refused; one in factory mode of a unit that is not fuse-marked appends an entry with reason 0. The port drives one
update at a time. An acknowledged fence takes its effects and is recorded once, an engine's at its FS, another
unit's at the CC; ack_ms without acknowledgement is recorded once for a unit, and not for one already fenced. A
resync queues the set in front, in place of what is left of an earlier resend. A latent window that ends starts the
next one and posts LATENT_WINDOW. COMPLETION: exec answers a next state, under conditions on the state and the
operands alone, for: fenceConfirmArrive, fenceAnswer, ownerFence, fenceRemove, fenceUpdate, fenceAck,
fenceAckTimeout, fenceResync, latentWindow. -/
def Obligations.FenceCommands : Prop :=
  (∀ (s t u v w : State) (m : Confirm) (l : List Confirm) (i : Nat), s.confQ = m :: l → s.aonOnly = false →
      t = { s with confQ := l } → fenceHeld t m.unit = none →
      logAppend (m.unit % 2 ^ 24 + 2 ^ 24 * m.reason) t = (some i, u) →
      w = { u with
        fset := u.fset.filter (fun x => x.unit != m.unit) ++ [FUnit.mk m.unit m.reason i false false]
        fenceQ := u.fenceQ ++ [FUpd.mk m.unit true m.reason i false] } →
      v = fenceSync (if unitKind m.unit = 0 then w else confirmEffect m.unit w) →
      exec .fenceConfirmArrive s = .next (afterFs (fun _ => { v with ansQ := v.ansQ ++ [FAnswer.mk m.src m.unit 0 i] }) s))
  ∧ (∀ (s : State) (m : Confirm) (l : List Confirm) (i : Nat), s.confQ = m :: l → s.aonOnly = false →
      fenceHeld { s with confQ := l } m.unit = some i →
      exec .fenceConfirmArrive s = .next (afterFs (fun _ => { s with
        confQ := l
        ansQ := s.ansQ ++ [FAnswer.mk m.src m.unit 3 i] }) s))
  ∧ (∀ (s : State) (m : FAnswer) (l : List FAnswer), s.ansQ = m :: l → s.aonOnly = false →
      exec .fenceAnswer s = .next (fenceReturn m.dst m.unit (m.status + 2 ^ 8 * m.idx) { s with ansQ := l }))
  ∧ (∀ (s : State) (w : Writer) (v : Nat), Granted s w .CC_FENCE_CMD 0 → s.isOwner w = true → bit v 32 = false →
      s.scrapped = false → bits v 24 8 = 0 → unitPresent (bits v 0 24) = true → ccFenceRefused s (bits v 0 24) = false →
      exec (.ownerFence w v) s = .next (wrote w .CC_FENCE_CMD 0 (afterFs (fun _ => (storeFence (bits v 0 24) 0x0A s).2) s)))
  ∧ (∀ (s : State) (w : Writer) (v : Nat), Granted s w .CC_FENCE_CMD 0 → s.isOwner w = true → bit v 32 = false →
      unitPresent (bits v 0 24) = false →
      exec (.ownerFence w v) s = .next (wrote w .CC_FENCE_CMD 0 (afterFs (fun _ => s.wr F.CC_FENCE_STAT_refused 0 1) s)))
  ∧ (∀ (s : State) (w : Writer) (v : Nat), Granted s w .CC_FENCE_CMD 0 → s.isOwner w = true → bit v 32 = true →
      logFind s (bits v 0 24) = none →
      exec (.fenceRemove w v) s = .next (wrote w .CC_FENCE_CMD 0 (afterFs (fun _ => s.wr F.CC_FENCE_STAT_refused 0 1) s)))
  ∧ (∀ (s t : State) (w : Writer) (v i j : Nat), Granted s w .CC_FENCE_CMD 0 → s.isOwner w = true → bit v 32 = true →
      logFind s (bits v 0 24) = some j → s.factory = true → s.fuseBad.contains (bits v 0 24) = false →
      logAppend (bits v 0 24 % 2 ^ 24) s = (some i, t) →
      exec (.fenceRemove w v) s = .next (wrote w .CC_FENCE_CMD 0
        (afterFs (fun _ => fenceSync { t with fenceQ := t.fenceQ ++ [FUpd.mk (bits v 0 24) false 0 i false] }) s)))
  ∧ (∀ (s : State) (u : FUpd) (l : List FUpd), s.fencePort = none → s.fenceQ = u :: l →
      exec .fenceUpdate s = .next { s with
        fencePort := some { upd := u, since := s.wt }
        fenceQ := l })
  ∧ (∀ (s : State) (p : FPort), s.fencePort = some p → exec .fenceUpdate s = .next s)
  ∧ (∀ (s t : State) (p : FPort) (x : FUnit), s.fencePort = some p → p.upd.set = true →
      s.fset.find? (fun x => x.unit == p.upd.unit) = some x → x.acked = false →
      t = { s with
        fencePort := none
        fset := s.fset.map (fun y => if y.unit = p.upd.unit then { y with acked := true } else y) } →
      exec .fenceAck s = .next (setAcked (fenceSync (raiseUnit
        { code := Code.UNIT_FENCED, unit := p.upd.unit, params := p.upd.reason + 2 ^ 8 * p.upd.idx }
        (unitAcked p.upd.unit t)))))
  ∧ (∀ (s : State) (p : FPort), s.fencePort = some p → p.timedOut = true → exec .fenceAckTimeout s = .next s)
  ∧ (∀ (s t : State) (p : FPort), s.fencePort = some p → p.timedOut = false →
      t = s.toWt (p.since + max 1 (s.rd F.CC_FIX_POLICY_ack_ms) * ms) →
      ((p.upd.set && s.fset.any (fun x => x.unit == p.upd.unit && (x.acked || x.late))) = false →
        exec .fenceAckTimeout s = .next (raiseCc
          { code := Code.FENCE_ACK_TIMEOUT, unit := p.upd.unit, params := b2n p.upd.set }
          { t with
            fencePort := some { p with timedOut := true }
            fset := s.fset.map (fun x => if x.unit = p.upd.unit then { x with late := true } else x) }))
      ∧ ((p.upd.set && s.fset.any (fun x => x.unit == p.upd.unit && (x.acked || x.late))) = true →
        exec .fenceAckTimeout s = .next { t with fencePort := some { p with timedOut := true } }))
  ∧ (∀ (s : State), exec .fenceResync s = .next (fenceSync { s with
      fenceQ := resendList s ++ s.fenceQ.filter (fun u => !u.resend) }))
  ∧ (∀ (s t : State) (e k : Nat) (x : Latent), engOk e = true → latentAt s e = some (k, x) → x.confirmed = false →
      s.fieldLive (engField e) = true →
      t = s.toWt (x.window + max 1 (s.rd F.FS_FIX_CFG_latent_s (engField e)) * sec) →
      exec (.latentWindow e) s = .next (notifyFs (engField e) Code.LATENT_WINDOW e 0 (setLatent k { x with window := t.wt } t)))

/-- O17. The owner's begin erases the idle bank, counts its wear and receives; while a strip uses that bank it answers
reason 12. Data goes to the received bytes while state is 1. Commit of a whole pack that passes every check within
the wear limit stages it, unless the write of the bank fails (reason 9); a pack with a failed check is rejected with
that reason and state 5, any pack in SCRAPPED with reason 10. Abort ends staging. Swap of a staged pack makes the
idle bank active and switches the fields, else reason 11. Each working field in turn loads its table. The floor only
rises outside factory mode. COMPLETION: exec answers a next state, under conditions on the state and the operands
alone, for: packBegin, packData, packCommit, packAbort, packSwap, packRevert, packFieldAnswer, packFloorWrite. -/
def Obligations.PackLoading : Prop :=
  (∀ (s t : State) (w : Writer) (n : Nat), Granted s w .CC_PACK_CMD 0 → s.isOwner w = true → n < 2 ^ 32 → s.scrapped = false →
      bankInUse s (idleBank s) = false → s.packSw = none →
      t = { s with
        packRecv := some (n, [])
        bankWear := tput 0 s.bankWear (idleBank s) (tget 0 s.bankWear (idleBank s) + 1) }.setBank (idleBank s) [] →
      exec (.packBegin w n) s = .next (wrote w .CC_PACK_CMD 0 (epochSync
        (((t.wr F.CC_PACK_STAT_state 0 1).wr F.CC_PACK_STAT_received 0 0).wr F.CC_PACK_VER_staged 0 0))))
  ∧ (∀ (s : State) (w : Writer) (n : Nat), Granted s w .CC_PACK_CMD 0 → s.isOwner w = true → n < 2 ^ 32 → s.scrapped = false →
      bankInUse s (idleBank s) = true →
      exec (.packBegin w n) s = .next (wrote w .CC_PACK_CMD 0 (epochSync (s.wr F.CC_PACK_STAT_reason 0 12))))
  ∧ (∀ (s : State) (w : Writer) (v n : Nat) (l : List Byte), Granted s w .CC_PACK_DATA 0 → s.isOwner w = true →
      s.packRecv = some (n, l) → s.rd F.CC_PACK_STAT_state = 1 → s.scrapped = false → l.length < 4 * 2 ^ 20 →
      exec (.packData w v) s = .next (wrote w .CC_PACK_DATA 0
        (({ s with packRecv := some (n, l ++ leBytes 8 v) } : State).bump F.CC_PACK_STAT_received 0 8)))
  ∧ (∀ (s t u k : State) (w : Writer) (n : Nat) (l : List Byte) (p : Pack), Granted s w .CC_PACK_CMD 0 → s.isOwner w = true →
      s.rd F.CC_PACK_STAT_state = 1 → t = s.wr F.CC_PACK_STAT_state 0 2 → t.aonOnly = false → t.packRecv = some (n, l) →
      u = { t with packRecv := none } → u.rd F.CC_PACK_STAT_received = (n + 7) / 8 * 8 → n ≤ 4 * 2 ^ 20 → u.scrapped = false →
      (checkPack (u.rd F.CC_PACK_FLOOR_floor) (l.take n)).res = .ok p → tget 0 u.bankWear (idleBank t) ≤ 10000 →
      k = (u.drawFree 1).2 →
      exec (.packCommit w) s = .next (wrote w .CC_PACK_CMD 0 (epochSync (if (u.drawFree 1).1 = 1 then
          packReject p.version 9 false (k.wr F.CC_PACK_STAT_state 0 5)
        else raiseCc
          { code := Code.PACK_STAGED, unit := k.ccUnit,
            params := p.version + 2 ^ 32 * p.recipes.length
              + 2 ^ 40 * (checkPack (u.rd F.CC_PACK_FLOOR_floor) (l.take n)).kid }
          (((k.setBank (idleBank t) (l.take n)).wr F.CC_PACK_STAT_state 0 3).wr F.CC_PACK_VER_staged 0 p.version)))))
  ∧ (∀ (s t u : State) (w : Writer) (n : Nat) (l : List Byte), Granted s w .CC_PACK_CMD 0 → s.isOwner w = true →
      s.rd F.CC_PACK_STAT_state = 1 → t = s.wr F.CC_PACK_STAT_state 0 2 → t.aonOnly = false → t.packRecv = some (n, l) →
      u = { t with packRecv := none } → u.scrapped = true →
      exec (.packCommit w) s = .next (wrote w .CC_PACK_CMD 0 (epochSync
        (packReject 0 10 false (u.wr F.CC_PACK_STAT_state 0 5)))))
  ∧ (∀ (s t u : State) (w : Writer) (n r : Nat) (l : List Byte), Granted s w .CC_PACK_CMD 0 → s.isOwner w = true →
      s.rd F.CC_PACK_STAT_state = 1 → t = s.wr F.CC_PACK_STAT_state 0 2 → t.aonOnly = false → t.packRecv = some (n, l) →
      u = { t with packRecv := none } → u.rd F.CC_PACK_STAT_received = (n + 7) / 8 * 8 → n ≤ 4 * 2 ^ 20 → u.scrapped = false →
      (checkPack (u.rd F.CC_PACK_FLOOR_floor) (l.take n)).res = .error r →
      exec (.packCommit w) s = .next (wrote w .CC_PACK_CMD 0 (epochSync (packReject
        (checkPack (u.rd F.CC_PACK_FLOOR_floor) (l.take n)).version r false (u.wr F.CC_PACK_STAT_state 0 5)))))
  ∧ (∀ (s : State) (w : Writer), Granted s w .CC_PACK_CMD 0 → s.isOwner w = true → s.packSw = none →
      s.rd F.CC_PACK_STAT_state ≠ 0 →
      exec (.packAbort w) s = .next (wrote w .CC_PACK_CMD 0 (epochSync (packEnd s))))
  ∧ (∀ (s : State) (w : Writer), Granted s w .CC_PACK_CMD 0 → s.isOwner w = true → s.rd F.CC_PACK_STAT_state = 3 →
      exec (.packSwap w) s = .next (wrote w .CC_PACK_CMD 0 (epochSync
        (packSwitch (idleBank s) (s.rd F.CC_PACK_VER_staged) false s))))
  ∧ (∀ (s : State) (w : Writer), Granted s w .CC_PACK_CMD 0 → s.isOwner w = true → s.rd F.CC_PACK_STAT_state ≠ 3 →
      exec (.packSwap w) s = .next (wrote w .CC_PACK_CMD 0 (epochSync (s.wr F.CC_PACK_STAT_reason 0 11))))
  ∧ (∀ (s : State) (w : Writer) (p : Pack), Granted s w .CC_PACK_CMD 0 → s.isOwner w = true → s.packSw = none →
      s.packRecv = none → (checkPack (s.rd F.CC_PACK_FLOOR_floor) (s.bank (idleBank s))).res = .ok p →
      exec (.packRevert w) s = .next (wrote w .CC_PACK_CMD 0 (epochSync (packSwitch (idleBank s) p.version true s))))
  ∧ (∀ (s : State) (f : Nat) (l : List Nat) (rv : Bool), s.packSw = some ⟨f :: l, rv⟩ → s.aonOnly = false → s.fsWorks f = true →
      exec .packFieldAnswer s = .next (epochSync (swAdvance l rv
        ((loadTable f s.bankAct (s.rd F.CC_PACK_VER_active) s).bump F.CC_PACK_STAT_switched))))
  ∧ (∀ (s : State) (w : Writer) (v : Nat), Granted s w .CC_PACK_FLOOR 0 → s.isOwner w = true → v < 2 ^ 32 →
      s.rd F.CC_PACK_FLOOR_floor ≤ v →
      exec (.packFloorWrite w v) s = .next (wrote w .CC_PACK_FLOOR 0 (wrPersist F.CC_PACK_FLOOR_floor 0 v s)))
  ∧ (∀ (s : State) (w : Writer) (v : Nat), Granted s w .CC_PACK_FLOOR 0 → s.isOwner w = true → v < 2 ^ 32 →
      v < s.rd F.CC_PACK_FLOOR_floor → s.factory = false →
      exec (.packFloorWrite w v) s = .next (wrote w .CC_PACK_FLOOR 0 s))

/-- O18. An export of a slot that holds nothing ends in state 3; one of a kept negative, of a released slot's negative
or of a summary entry starts in state 1 after the previous export is cancelled. A record that becomes ready, with
its field in service, shows its length and state 2; the payload is given only when it is asked for, kept and not
sealed. A read of the data register advances the offset by 8 and the read that covers the last byte ends the export
and records NEG_EXPORTED. COMPLETION: exec answers a next state, under conditions on the state and the operands
alone, for: lspExport, lspDataRead, lspRecordReady. -/
def Obligations.ListaporExport : Prop :=
  (∀ (s t : State) (w : Writer) (v : Nat), Granted s w .CC_LSP_CMD 0 → s.isOwner w = true →
      t = ((({ endExport s with lsp := none } : State).wr F.CC_LSP_PTR_offset 0 0).wr F.CC_LSP_STAT_length 0 0).wr
        F.CC_LSP_STAT_no_payload 0 0 → tget [] t.negs (bits v 0 7) = [] →
      exec (.lspExport w v) s = .next (wrote w .CC_LSP_CMD 0 (lspSync (t.wr F.CC_LSP_STAT_state 0 3))))
  ∧ (∀ (s t : State) (w : Writer) (v : Nat) (n : Neg), Granted s w .CC_LSP_CMD 0 → s.isOwner w = true →
      t = ((({ endExport s with lsp := none } : State).wr F.CC_LSP_PTR_offset 0 0).wr F.CC_LSP_STAT_length 0 0).wr
        F.CC_LSP_STAT_no_payload 0 0 → t.fieldLive (bits v 0 7) = true → bit v 7 = false →
      (tget [] t.negs (bits v 0 7)).find? (fun n => n.slot == some (bits v 8 4)) = some n →
      exec (.lspExport w v) s = .next (wrote w .CC_LSP_CMD 0 (lspSync (({ t with
        lsp := some ⟨bits v 0 7, false, bits v 8 4, bit v 12, n, none, false⟩ } : State).wr F.CC_LSP_STAT_state 0 1))))
  ∧ (∀ (s t : State) (w : Writer) (v : Nat) (n : Neg), Granted s w .CC_LSP_CMD 0 → s.isOwner w = true →
      t = ((({ endExport s with lsp := none } : State).wr F.CC_LSP_PTR_offset 0 0).wr F.CC_LSP_STAT_length 0 0).wr
        F.CC_LSP_STAT_no_payload 0 0 → t.fieldLive (bits v 0 7) = true → bit v 7 = true →
      (tget [] t.negs (bits v 0 7)).find? (fun n => n.entry == bits v 8 4) = some n →
      exec (.lspExport w v) s = .next (wrote w .CC_LSP_CMD 0 (lspSync (({ t with
        lsp := some ⟨bits v 0 7, true, bits v 8 4, bit v 12, n, none, false⟩ } : State).wr F.CC_LSP_STAT_state 0 1))))
  ∧ (∀ (s t : State) (w : Writer) (v : Nat) (n : Neg), Granted s w .CC_LSP_CMD 0 → s.isOwner w = true →
      t = ((({ endExport s with lsp := none } : State).wr F.CC_LSP_PTR_offset 0 0).wr F.CC_LSP_STAT_length 0 0).wr
        F.CC_LSP_STAT_no_payload 0 0 → t.fieldLive (bits v 0 7) = true → bit v 7 = false →
      (tget [] t.negs (bits v 0 7)).find? (fun n => n.slot == some (bits v 8 4)) = none →
      (tget [] t.negs (bits v 0 7)).find? (fun n => n.was == some (bits v 8 4)) = some n →
      exec (.lspExport w v) s = .next (wrote w .CC_LSP_CMD 0 (lspSync (({ t with
        lsp := some ⟨bits v 0 7, false, bits v 8 4, bit v 12, n, none, false⟩ } : State).wr F.CC_LSP_STAT_state 0 1))))
  ∧ (∀ (s t : State) (x : Lsp) (g : Bool) (d : List Byte), s.lsp = some x → x.data = none → x.ended = false →
      s.fieldLive x.field = true → g = (x.payload && !x.summary && x.neg.slot.isSome && !x.neg.sealed) →
      d = lspRecord s x g → t = { s with lsp := some { x with data := some d, payload := g } } →
      exec .lspRecordReady s = .next (lspSync (((t.wr F.CC_LSP_STAT_state 0 2).wr F.CC_LSP_STAT_length 0 d.length).wr
        F.CC_LSP_STAT_no_payload 0 (b2n (x.payload && !g)))))
  ∧ (∀ (s t : State) (w : Writer) (x : Lsp) (d : List Byte), s.regReach w .CC_LSP_DATA 0 = true → notTenant w = true →
      t = lspSync (s.wr F.CC_LSP_PTR_offset 0 (s.rd F.CC_LSP_PTR_offset + 8)) → s.lsp = some x → x.data = some d →
      d.length ≤ s.rd F.CC_LSP_PTR_offset ∨ s.rd F.CC_LSP_PTR_offset + 8 < d.length →
      exec (.lspDataRead w) s = .next (ownerSeen w t))
  ∧ (∀ (s t : State) (w : Writer) (x : Lsp) (d : List Byte), s.regReach w .CC_LSP_DATA 0 = true → notTenant w = true →
      t = lspSync (s.wr F.CC_LSP_PTR_offset 0 (s.rd F.CC_LSP_PTR_offset + 8)) → s.lsp = some x → x.data = some d →
      x.ended = false → s.rd F.CC_LSP_PTR_offset < d.length → d.length ≤ s.rd F.CC_LSP_PTR_offset + 8 →
      exec (.lspDataRead w) s = .next (ownerSeen w (endExport (raiseCc
        { code := Code.NEG_EXPORTED, unit := t.ccUnit,
          params := x.field + 2 ^ 7 * b2n x.summary + 2 ^ 8 * x.index + 2 ^ 12 * b2n x.payload
            + 2 ^ 13 * b2n x.neg.sealed } t))))

/-- O19. A sequencer that is ready executes an arithmetic instruction as Table 10-5 and R238 give it: rd gets the
result, modulo 2^32, and the next instruction follows; immediates are extended as R238 says; the comparisons write 1
or 0. CLZ counts leading zeros and POPC ones; both trap with ILLEGAL for another rb than g0, and an immediate shift
does for a non-zero imm16 bit above 4 (these bits are required to be zero). COMPLETION: exec answers a next state,
under conditions on the state and the operands alone, for: add, sub, andI, orI, xorI, shl, shr, sra, mul, mulhu,
slt, sltu, clz, popc, addi, andi, ori, xori, shli, shri, srai, slti, sltui, lui. -/
def Obligations.SeqAlu : Prop :=
  ∀ (s : State) (q rd ra rb : Nat) (x : Seq), Ready s q → x = nowSeq s q →
    exec (.add q rd ra rb) s = .next (result s q rd (x.gr ra + x.gr rb))
    ∧ exec (.sub q rd ra rb) s = .next (result s q rd (x.gr ra - x.gr rb))
    ∧ exec (.andI q rd ra rb) s = .next (result s q rd (x.gr ra &&& x.gr rb))
    ∧ exec (.orI q rd ra rb) s = .next (result s q rd (x.gr ra ||| x.gr rb))
    ∧ exec (.xorI q rd ra rb) s = .next (result s q rd (x.gr ra ^^^ x.gr rb))
    ∧ exec (.shl q rd ra rb) s = .next (result s q rd (x.gr ra <<< ((x.gr rb).toNat % 32)))
    ∧ exec (.shr q rd ra rb) s = .next (result s q rd (x.gr ra >>> ((x.gr rb).toNat % 32)))
    ∧ exec (.sra q rd ra rb) s = .next (result s q rd ((x.gr ra).sshiftRight ((x.gr rb).toNat % 32)))
    ∧ exec (.mul q rd ra rb) s = .next (result s q rd (x.gr ra * x.gr rb))
    ∧ exec (.mulhu q rd ra rb) s = .next (result s q rd (BitVec.ofNat 32 ((x.gr ra).toNat * (x.gr rb).toNat / 2 ^ 32)))
    ∧ exec (.slt q rd ra rb) s = .next (result s q rd (if (x.gr ra).toInt < (x.gr rb).toInt then 1 else 0))
    ∧ exec (.sltu q rd ra rb) s = .next (result s q rd (if (x.gr ra).toNat < (x.gr rb).toNat then 1 else 0))
    ∧ (∀ n, n ≤ 32 → (∀ k, k < n → (x.gr ra).getLsbD (31 - k) = false) → (n = 32 ∨ (x.gr ra).getLsbD (31 - n) = true) →
        exec (.clz q rd ra 0) s = .next (result s q rd (BitVec.ofNat 32 n)))
    ∧ exec (.popc q rd ra 0) s = .next (result s q rd
        (BitVec.ofNat 32 ((List.range 32).countP (fun k => (x.gr ra).getLsbD k))))
    ∧ (rb ≠ 0 → exec (.clz q rd ra rb) s = .next (trapped s q 1 rb) ∧ exec (.popc q rd ra rb) s = .next (trapped s q 1 rb))
    ∧ (∀ i, i < 2 ^ 16 →
        exec (.addi q rd ra i) s = .next (result s q rd (x.gr ra + BitVec.ofInt 32 (sext 16 i)))
        ∧ exec (.andi q rd ra i) s = .next (result s q rd (x.gr ra &&& BitVec.ofNat 32 i))
        ∧ exec (.ori q rd ra i) s = .next (result s q rd (x.gr ra ||| BitVec.ofNat 32 i))
        ∧ exec (.xori q rd ra i) s = .next (result s q rd (x.gr ra ^^^ BitVec.ofNat 32 i))
        ∧ exec (.slti q rd ra i) s = .next (result s q rd (if (x.gr ra).toInt < (BitVec.ofInt 32 (sext 16 i)).toInt then 1 else 0))
        ∧ exec (.sltui q rd ra i) s = .next (result s q rd (if (x.gr ra).toNat < (BitVec.ofInt 32 (sext 16 i)).toNat then 1 else 0))
        ∧ exec (.lui q rd i) s = .next (result s q rd (BitVec.ofNat 32 (i * 2 ^ 16))))
    ∧ (∀ i, i < 32 →
        exec (.shli q rd ra i) s = .next (result s q rd (x.gr ra <<< i))
        ∧ exec (.shri q rd ra i) s = .next (result s q rd (x.gr ra >>> i))
        ∧ exec (.srai q rd ra i) s = .next (result s q rd ((x.gr ra).sshiftRight i)))
    ∧ (∀ i, 32 ≤ i →
        exec (.shli q rd ra i) s = .next (trapped s q 1 i)
        ∧ exec (.shri q rd ra i) s = .next (trapped s q 1 i)
        ∧ exec (.srai q rd ra i) s = .next (trapped s q 1 i))

/-- O20. With a = ra + sext(imm16): a load of an address in SRAM or ROM, naturally aligned and without an uncorrectable
error, writes the little-endian bytes, sign- or zero-extended, to rd; a store to SRAM writes its bytes. A misaligned
access traps with ALIGN, one outside Table 10-1 or a store to ROM with ADDR, a load of a bad SRAM word with MEM_UE;
TRAP_INFO is a. A trapping store changes no byte of memory. COMPLETION: exec answers a next state, under conditions
on the state and the operands alone, for: lw, lh, lhu, lb, lbu, sw, sh, sb. -/
def Obligations.SeqLoadsStores : Prop :=
  ∀ (s : State) (q rd ra imm a : Nat) (x : Seq), Ready s q → x = nowSeq s q →
      a = (x.gr ra + BitVec.ofInt 32 (sext 16 imm)).toNat →
    (a % 4 = 0 → (inSram q a || inRom q a) = true →
        exec (.lw q rd ra imm false) s = .next (result s q rd (BitVec.ofNat 32 (x.load q a 4))))
    ∧ (a % 2 = 0 → (inSram q a || inRom q a) = true →
        exec (.lh q rd ra imm false) s = .next (result s q rd (BitVec.ofInt 32 (sext 16 (x.load q a 2)))))
    ∧ (a % 2 = 0 → (inSram q a || inRom q a) = true →
        exec (.lhu q rd ra imm false) s = .next (result s q rd (BitVec.ofNat 32 (x.load q a 2))))
    ∧ ((inSram q a || inRom q a) = true →
        exec (.lb q rd ra imm false) s = .next (result s q rd (BitVec.ofInt 32 (sext 8 (x.load q a 1)))))
    ∧ ((inSram q a || inRom q a) = true →
        exec (.lbu q rd ra imm false) s = .next (result s q rd (BitVec.ofNat 32 (x.load q a 1))))
    ∧ (a % 4 = 0 → inSram q a = true → exec (.lw q rd ra imm true) s = .next (trapped s q 7 a))
    ∧ (a % 4 = 0 → inRom q a = true → inSram q a = false → exec (.lw q rd ra imm true) s = exec (.lw q rd ra imm false) s)
    ∧ (∀ ue, a % 4 ≠ 0 → exec (.lw q rd ra imm ue) s = .next (trapped s q 2 a))
    ∧ (∀ ue, a % 4 = 0 → inSram q a = false → inRom q a = false → exec (.lw q rd ra imm ue) s = .next (trapped s q 3 a))
    ∧ (a % 2 = 0 → inSram q a = true → exec (.lh q rd ra imm true) s = .next (trapped s q 7 a))
    ∧ (a % 2 = 0 → inRom q a = true → inSram q a = false → exec (.lh q rd ra imm true) s = exec (.lh q rd ra imm false) s)
    ∧ (∀ ue, a % 2 ≠ 0 → exec (.lh q rd ra imm ue) s = .next (trapped s q 2 a))
    ∧ (∀ ue, a % 2 = 0 → inSram q a = false → inRom q a = false → exec (.lh q rd ra imm ue) s = .next (trapped s q 3 a))
    ∧ (a % 2 = 0 → inSram q a = true → exec (.lhu q rd ra imm true) s = .next (trapped s q 7 a))
    ∧ (a % 2 = 0 → inRom q a = true → inSram q a = false → exec (.lhu q rd ra imm true) s = exec (.lhu q rd ra imm false) s)
    ∧ (∀ ue, a % 2 ≠ 0 → exec (.lhu q rd ra imm ue) s = .next (trapped s q 2 a))
    ∧ (∀ ue, a % 2 = 0 → inSram q a = false → inRom q a = false → exec (.lhu q rd ra imm ue) s = .next (trapped s q 3 a))
    ∧ (inSram q a = true → exec (.lb q rd ra imm true) s = .next (trapped s q 7 a))
    ∧ (inRom q a = true → inSram q a = false → exec (.lb q rd ra imm true) s = exec (.lb q rd ra imm false) s)
    ∧ (∀ ue, inSram q a = false → inRom q a = false → exec (.lb q rd ra imm ue) s = .next (trapped s q 3 a))
    ∧ (inSram q a = true → exec (.lbu q rd ra imm true) s = .next (trapped s q 7 a))
    ∧ (inRom q a = true → inSram q a = false → exec (.lbu q rd ra imm true) s = exec (.lbu q rd ra imm false) s)
    ∧ (∀ ue, inSram q a = false → inRom q a = false → exec (.lbu q rd ra imm ue) s = .next (trapped s q 3 a))
    ∧ (a % 4 = 0 → inSram q a = true → exec (.sw q rd ra imm) s =
        .next ((now s q).setSeq q (x.store a (leBytes 4 (x.gr rd).toNat)).adv))
    ∧ (a % 4 ≠ 0 → exec (.sw q rd ra imm) s = .next (trapped s q 2 a))
    ∧ (a % 4 = 0 → inSram q a = false → exec (.sw q rd ra imm) s = .next (trapped s q 3 a))
    ∧ (a % 2 = 0 → inSram q a = true → exec (.sh q rd ra imm) s =
        .next ((now s q).setSeq q (x.store a (leBytes 2 (x.gr rd).toNat)).adv))
    ∧ (a % 2 ≠ 0 → exec (.sh q rd ra imm) s = .next (trapped s q 2 a))
    ∧ (a % 2 = 0 → inSram q a = false → exec (.sh q rd ra imm) s = .next (trapped s q 3 a))
    ∧ (inSram q a = true → exec (.sb q rd ra imm) s =
        .next ((now s q).setSeq q (x.store a (leBytes 1 (x.gr rd).toNat)).adv))
    ∧ (inSram q a = false → exec (.sb q rd ra imm) s = .next (trapped s q 3 a))
    ∧ (∀ c b, (s.seq q).inTrap = false → (s.seq q).trapVec ≠ 0 → ((trapped s q c a).seq q).byte q b = (s.seq q).byte q b)

/-- O21. A branch of a ready sequencer goes to its own address plus 4 × sext(off16) when its condition holds, else to
the next instruction. JAL and JALR link and go where R240 says. For every sequencer instruction: with a pc outside
Table 10-1 its execution traps with ADDR and the pc as the trapping address. COMPLETION: exec answers a next state,
under conditions on the state and the operands alone, for: beq, bne, blt, bge, bltu, bgeu, jal, jalr. -/
def Obligations.SeqJumps : Prop :=
  (∀ (s : State) (q rd ra rb off : Nat) (x : Seq), Ready s q → x = nowSeq s q →
    (x.gr ra = x.gr rb → exec (.beq q ra rb off) s = .next (jumped s q (x.pc + BitVec.ofInt 32 (sext 16 off) * 4)))
    ∧ (¬ (x.gr ra = x.gr rb) → exec (.beq q ra rb off) s = .next (jumped s q (x.pc + 4)))
    ∧ (x.gr ra ≠ x.gr rb → exec (.bne q ra rb off) s = .next (jumped s q (x.pc + BitVec.ofInt 32 (sext 16 off) * 4)))
    ∧ (¬ (x.gr ra ≠ x.gr rb) → exec (.bne q ra rb off) s = .next (jumped s q (x.pc + 4)))
    ∧ ((x.gr ra).toInt < (x.gr rb).toInt → exec (.blt q ra rb off) s = .next (jumped s q (x.pc + BitVec.ofInt 32 (sext 16 off) * 4)))
    ∧ (¬ ((x.gr ra).toInt < (x.gr rb).toInt) → exec (.blt q ra rb off) s = .next (jumped s q (x.pc + 4)))
    ∧ ((x.gr rb).toInt ≤ (x.gr ra).toInt → exec (.bge q ra rb off) s = .next (jumped s q (x.pc + BitVec.ofInt 32 (sext 16 off) * 4)))
    ∧ (¬ ((x.gr rb).toInt ≤ (x.gr ra).toInt) → exec (.bge q ra rb off) s = .next (jumped s q (x.pc + 4)))
    ∧ ((x.gr ra).toNat < (x.gr rb).toNat → exec (.bltu q ra rb off) s = .next (jumped s q (x.pc + BitVec.ofInt 32 (sext 16 off) * 4)))
    ∧ (¬ ((x.gr ra).toNat < (x.gr rb).toNat) → exec (.bltu q ra rb off) s = .next (jumped s q (x.pc + 4)))
    ∧ ((x.gr rb).toNat ≤ (x.gr ra).toNat → exec (.bgeu q ra rb off) s = .next (jumped s q (x.pc + BitVec.ofInt 32 (sext 16 off) * 4)))
    ∧ (¬ ((x.gr rb).toNat ≤ (x.gr ra).toNat) → exec (.bgeu q ra rb off) s = .next (jumped s q (x.pc + 4)))
    ∧ exec (.jal q rd off) s = .next ((now s q).setSeq q { (x.setGr rd (x.pc + 4)) with
        pc := x.pc + BitVec.ofInt 32 (sext 22 off) * 4 })
    ∧ exec (.jalr q rd ra off) s = .next ((now s q).setSeq q { (x.setGr rd (x.pc + 4)) with
        pc := (x.gr ra + BitVec.ofInt 32 (sext 16 off)) &&& 0xFFFFFFFC }))
  ∧ (∀ (s : State) (i : Instr) (q : Nat), seqOf i = some q → seqOk q = true → s.seqRuns q = true →
      fetchOk q (s.seq q).pc = false →
      exec i s = .next (seqTrap q 3 (s.seq q).pc.toNat s)
      ∧ ((s.seq q).inTrap = false → (s.seq q).trapVec ≠ 0 →
          ((seqTrap q 3 (s.seq q).pc.toNat s).seq q).trapPc = (s.seq q).pc))

/-- O22. With a handler and no trap being handled, a trap saves the pc, the cause and TRAP_INFO, sets in_trap and goes
to TRAP_VEC (with bits 1:0 clear, log entry 22 and R233); registers, memory and semaphores stay. An undefined word
traps with ILLEGAL, and a word fetched from SRAM with an uncorrectable error (bit 32 of the operand) with MEM_UE,
which drives the unit's SRAM pin (or CC source 0) until TRET. TRET returns to TRAP_PC, and traps with ILLEGAL
outside a handler. A trap in a handler, or with TRAP_VEC 0, is a double trap: a replacement image restarts with the
reference program, which itself halts. COMPLETION: exec answers a next state, under conditions on the state and the
operands alone, for: tret, wdogTrap, undefinedOpcode. -/
def Obligations.SeqTrapEntry : Prop :=
  (∀ (s : State) (q c i : Nat) (x y : Seq), seqOk q = true → x = s.seq q → x.inTrap = false → x.trapVec ≠ 0 →
      y = (trapped s q c i).seq q →
      y.trapPc = x.pc ∧ y.trapCause = c ∧ y.trapInfo = BitVec.ofNat 32 i ∧ y.inTrap = true
      ∧ y.pc = x.trapVec &&& 0xFFFFFFFC ∧ y.g = x.g ∧ y.sram = x.sram ∧ y.sems = x.sems ∧ y.mode = x.mode
      ∧ y.timer = x.timer ∧ y.trapVec = x.trapVec ∧ y.rx = x.rx ∧ y.tx = x.tx ∧ y.noteMask = x.noteMask)
  ∧ (∀ (s t u : State) (q c i : Nat) (x : Seq), x = s.seq q → x.inTrap = true ∨ x.trapVec = 0 →
      u = seqRaise q { code := Code.SEQ_TRAP, unit := seqUnit s q,
                       params := c + 2 ^ 8 * (x.pc.toNat % 2 ^ 20) + 2 ^ 28 * (i % 2 ^ 20) }
        (seqCount q F.FS_SEQ_STAT_traps F.CC_SEQ_STAT_traps
          (seqStat q F.FS_SEQ_STAT_cause F.CC_SEQ_STAT_cause c s)) →
      (c = 7 → t = seqPin q true u) → (c ≠ 7 → t = u) →
      seqTrap q c i s = seqDoubleTrap q c t)
  ∧ (∀ (s t : State) (q c : Nat) (x : Seq), x = s.seq q → x.running ≠ 0 →
      t = seqRaise q { code := Code.SEQ_FALLBACK, unit := seqUnit s q, params := c + 2 ^ 8 * (x.pc.toNat % 2 ^ 20) } s →
      seqDoubleTrap q c s = seqStart q 0 0 [] t)
  ∧ (∀ (s : State) (q c : Nat), (s.seq q).running = 0 → ((seqDoubleTrap q c s).seq q).mode = .halted)
  ∧ (∀ (s : State) (q w : Nat), Ready s q → w < 2 ^ 32 → decodeSeq q w = none →
      exec (.undefinedOpcode q w) s = .next (trapped s q 1 w))
  ∧ (∀ (s : State) (q w : Nat) (x : Seq), Ready s q → w < 2 ^ 32 → x = nowSeq s q → inSram q x.pc.toNat = true →
      exec (.undefinedOpcode q (2 ^ 32 + w)) s = .next (trapped s q 7 x.pc.toNat))
  ∧ (∀ (s : State) (q : Nat) (x : Seq), Ready s q → x = nowSeq s q → x.inTrap = true → x.trapCause ≠ 7 →
      exec (.tret q) s = .next ((now s q).setSeq q { x with inTrap := false, pc := x.trapPc &&& 0xFFFFFFFC }))
  ∧ (∀ (s : State) (q : Nat) (x : Seq), Ready s q → x = nowSeq s q → x.inTrap = true → x.trapCause = 7 →
      exec (.tret q) s = .next (seqPin q false
        ((now s q).setSeq q { x with inTrap := false, pc := x.trapPc &&& 0xFFFFFFFC })))
  ∧ (∀ (s : State) (q : Nat), Ready s q → (s.seq q).inTrap = false → exec (.tret q) s = .next (trapped s q 1 0))
  ∧ (∀ (s : State) (q : Nat) (x : Seq), seqOk q = true → x = s.seq q → s.seqRuns q = true → x.wdog ≠ 0 →
      x.wdog.toNat * 65536 ≤ x.icount →
      exec (.wdogTrap q) s = .next (seqTrap q 11 x.pc.toNat (s.setSeq q { x with icount := 0 })))
  ∧ (∀ (s : State) (q : Nat), seqOk q = true → (s.seq q).wdog = 0 → exec (.wdogTrap q) s = .next s)

/-- O23. While a sequencer sleeps, is halted, or its unit does not work, no sequencer instruction changes anything. -/
def Obligations.SeqIdle : Prop :=
  ∀ (s : State) (i : Instr) (q : Nat), seqOf i = some q → seqOk q = true → s.seqRuns q = false → exec i s = .next s

/-- O24. An arithmetic instruction of a ready sequencer changes no register of the block, no other sequencer, and of its
own only rd, the pc and the watchdog's count; g0 reads zero before and after. -/
def Obligations.SeqFrame : Prop :=
  ∀ (s : State) (i : Instr) (q rd : Nat), aluOf i = some (q, rd) → Ready s q →
    ∃ t, exec i s = .next t ∧ { t with seqs := s.seqs } = s ∧ (∀ p, p ≠ q → t.seq p = s.seq p)
      ∧ (∀ r, r ≠ rd → (t.seq q).gr r = (s.seq q).gr r) ∧ (t.seq q).gr 0 = 0 ∧ (t.seq q).pc = (s.seq q).pc + 4
      ∧ { t.seq q with g := (s.seq q).g, pc := (s.seq q).pc, icount := (s.seq q).icount } = s.seq q

/-- O25. CSRR writes the value of a listed CSR to rd and CSRW writes one; another number traps with ILLEGAL. A write of
TRAP_VEC, TRAP_PC, NOTE_MASK, a WATCH and WDOG stores the value; any write of NOTE_POP removes the oldest
notification; a write of any other listed CSR changes nothing but the pc. UNIT reads the unit ID, PEND the pending
events, NOTE_COUNT the length of the queue, TRAP_CAUSE the cause with in_trap in bit 31. COMPLETION: exec answers a
next state, under conditions on the state and the operands alone, for: csrr, csrw. -/
def Obligations.SeqCsrs : Prop :=
  (∀ (s : State) (q rd n v : Nat), Ready s q → csrRead (now s q) q (nowSeq s q) n = some v →
      exec (.csrr q rd n) s = .next (result s q rd (BitVec.ofNat 32 v)))
  ∧ (∀ (s : State) (q rd n : Nat), Ready s q → csrRead (now s q) q (nowSeq s q) n = none →
      exec (.csrr q rd n) s = .next (trapped s q 1 n) ∧ exec (.csrw q n rd) s = .next (trapped s q 1 n))
  ∧ (∀ (s : State) (q ra : Nat) (x : Seq) (v : W32), Ready s q → x = nowSeq s q → v = x.gr ra →
      exec (.csrw q 0x002 ra) s = .next ((now s q).setSeq q { x with trapVec := v }.adv)
      ∧ exec (.csrw q 0x003 ra) s = .next ((now s q).setSeq q { x with trapPc := v }.adv)
      ∧ exec (.csrw q 0x006 ra) s = .next ((now s q).setSeq q { x with noteMask := v }.adv)
      ∧ exec (.csrw q 0x00C ra) s = .next ((now s q).setSeq q { x with notes := x.notes.drop 1 }.adv)
      ∧ exec (.csrw q 0x014 ra) s = .next ((now s q).setSeq q { x with wdog := v }.adv)
      ∧ (∀ j, j < 4 → exec (.csrw q (0x010 + j) ra) s = .next ((now s q).setSeq q
          { x with watch := tput 0xFFFFFFFF x.watch j v }.adv))
      ∧ (∀ n, n = 0x000 ∨ n = 0x001 ∨ n = 0x004 ∨ n = 0x005 ∨ n = 0x007 ∨ n = 0x015 ∨ n = 0x018 →
          exec (.csrw q n ra) s = .next ((now s q).setSeq q x.adv)))
  ∧ (∀ (s : State) (q : Nat) (x : Seq), csrRead s q x 0x000 = some (seqUnit s q) ∧ csrRead s q x 0x001 = some x.pend
      ∧ csrRead s q x 0x004 = some (x.trapCause + 2 ^ 31 * b2n x.inTrap) ∧ csrRead s q x 0x007 = some x.notes.length
      ∧ csrRead s q x 0x018 = some s.lifecycle ∧ csrRead s q x 0x00D = none ∧ csrRead s q x 0x01C = none)

/-- O26. WAIT with a pending masked event returns the shared bits and clears their edge bits; with timeout 0 it returns
0; else it sleeps until its end on WT and restarts the watchdog. A sleeping WAIT wakes on an event, else at its
timeout with 0. TIME reads WT, arms the timer for a number of µs (0 disarms) or for a WT (one already past makes
TIMER pending at once); a pair that is an odd register traps with ILLEGAL. An expiring timer makes TIMER pending.
The owner's mailbox write stores the value and makes MBOX pending. COMPLETION: exec answers a next state, under
conditions on the state and the operands alone, for: wait, waitWake, timeRead, timeArmRel, timeArmAbs, timerExpire,
mboxWrite. -/
def Obligations.SeqWaitsAndTime : Prop :=
  (∀ (s : State) (q rd ra rb hit : Nat) (x y : Seq), Ready s q → x = nowSeq s q → x.takeEvents (x.gr ra).toNat = (hit, y) →
      hit ≠ 0 → exec (.wait q rd ra rb) s = .next ((now s q).setSeq q (y.setGr rd (BitVec.ofNat 32 hit)).adv))
  ∧ (∀ (s : State) (q rd ra rb : Nat) (x : Seq), Ready s q → x = nowSeq s q → (x.takeEvents (x.gr ra).toNat).1 = 0 →
      x.gr rb = 0 → exec (.wait q rd ra rb) s = .next (result s q rd 0))
  ∧ (∀ (s : State) (q rd ra rb : Nat) (x : Seq), Ready s q → x = nowSeq s q → (x.takeEvents (x.gr ra).toNat).1 = 0 →
      x.gr rb ≠ 0 → exec (.wait q rd ra rb) s = .next ((now s q).setSeq q { x with
        mode := .wait rd (x.gr ra).toNat
          (if x.gr rb = 0xFFFFFFFF then none else some ((now s q).wt + us * (x.gr rb).toNat))
        icount := 0 }))
  ∧ (∀ (s : State) (q rd m hit : Nat) (d : Option Nat) (y : Seq), seqOk q = true → (s.seq q).mode = .wait rd m d →
      (s.seq q).takeEvents m = (hit, y) → hit ≠ 0 →
      exec (.waitWake q) s = .next (s.setSeq q ({ y with mode := .run }.setGr rd (BitVec.ofNat 32 hit)).adv))
  ∧ (∀ (s : State) (q rd m d : Nat), seqOk q = true → (s.seq q).mode = .wait rd m (some d) →
      ((s.seq q).takeEvents m).1 = 0 →
      exec (.waitWake q) s = .next ((s.toWt d).setSeq q ({ s.seq q with mode := .run }.setGr rd 0).adv))
  ∧ (∀ (s : State) (q rd : Nat), Ready s q → rd % 2 = 0 → s.aonOnly = false →
      exec (.timeRead q rd) s = .next ((now s q).setSeq q ((nowSeq s q).setPair rd (now s q).wt).adv))
  ∧ (∀ (s : State) (q r : Nat), Ready s q → r % 2 = 1 → exec (.timeRead q r) s = .next (trapped s q 1 r)
      ∧ exec (.timeArmAbs q r) s = .next (trapped s q 1 r))
  ∧ (∀ (s : State) (q ra : Nat) (x : Seq), Ready s q → x = nowSeq s q →
      exec (.timeArmRel q ra) s = .next ((now s q).setSeq q { x with
        timer := if x.gr ra = 0 then none else some ((now s q).wt + us * (x.gr ra).toNat) }.adv))
  ∧ (∀ (s : State) (q ra : Nat) (x : Seq), Ready s q → x = nowSeq s q → ra % 2 = 0 → (now s q).wt < x.pair ra →
      exec (.timeArmAbs q ra) s = .next ((now s q).setSeq q { x with timer := some (x.pair ra) }.adv))
  ∧ (∀ (s : State) (q ra : Nat) (x : Seq), Ready s q → x = nowSeq s q → ra % 2 = 0 → x.pair ra ≤ (now s q).wt →
      exec (.timeArmAbs q ra) s = .next (seqEdge q 3 ((now s q).setSeq q { x with timer := none }.adv)))
  ∧ (∀ (s : State) (q d : Nat), seqOk q = true → (s.seq q).timer = some d →
      exec (.timerExpire q) s = .next (seqEdge q 3 ((s.toWt d).setSeq q { s.seq q with timer := none })))
  ∧ (∀ (s t : State) (w : Writer) (v : Nat), Granted s w .CC_SEQ_MBOX 0 → s.isOwner w = true →
      t = s.wr F.CC_SEQ_MBOX_value 0 v →
      exec (.mboxWrite w 128 v) s = .next (wrote w .CC_SEQ_MBOX 0
        (seqEdge 128 4 (t.setSeq 128 { t.seq 128 with mbox := BitVec.ofNat 32 v }))))
  ∧ (∀ (s t : State) (w : Writer) (q v : Nat), Granted s w .FS_SEQ_MBOX q → q < 128 → seqOk q = true → s.isOwner w = true →
      t = s.wr F.FS_SEQ_MBOX_value q v →
      exec (.mboxWrite w q v) s = .next (wrote w .FS_SEQ_MBOX q
        (seqEdge q 4 (t.setSeq q { t.seq q with mbox := BitVec.ofNat 32 v }))))

/-- O27. A local add of n (1 to 15) adds to the semaphore of ra bits 5:0; beyond 255 it saturates, is recorded and traps
with SEM_OVERFLOW. A local subtract of no more than the count subtracts; of more changes nothing but is recorded and
traps with SEM_UNDERFLOW. A remote add is sent to the named sequencer and applied on arrival; SEMA becomes pending
there; with a unit ID that names no sequencer it traps with ILLEGAL, in AON-only operation with BUS. WAITS with a
count of at least n subtracts n and writes 1; with timeout 0 writes 0; else sleeps, and wakes on the count, else on
its timeout with 0 and the count unchanged. An n outside 1 to 15 traps with ILLEGAL. The owner's add is applied; an
amount of 0 is ignored. COMPLETION: exec answers a next state, under conditions on the state and the operands alone,
for: sigLocalAdd, sigRemoteAdd, sigLocalSub, semSignalArrive, waits, waitsWake, ownerSemSig. -/
def Obligations.SeqSemaphores : Prop :=
  (∀ (s u : State) (q ra n sem : Nat) (x : Seq), Ready s q → x = nowSeq s q → 1 ≤ n → n ≤ 15 → sem = (x.gr ra).toNat % 64 →
      tget 0 x.sems sem + n ≤ 255 → u = semAdd q sem n 0 (seqUnit (now s q) q) (now s q) →
      exec (.sigLocalAdd q ra n) s = .next (u.setSeq q (u.seq q).adv)
      ∧ u = (now s q).setSeq q { x with sems := tput 0 x.sems sem (tget 0 x.sems sem + n) })
  ∧ (∀ (s : State) (q ra n sem : Nat) (x : Seq), Ready s q → x = nowSeq s q → 1 ≤ n → n ≤ 15 → sem = (x.gr ra).toNat % 64 →
      255 < tget 0 x.sems sem + n →
      exec (.sigLocalAdd q ra n) s = .next (seqTrap q 10 sem (seqRaise q
        { code := Code.SEM_OVERFLOW, unit := seqUnit s q, params := sem + 2 ^ 8 * seqUnit s q }
        ((now s q).setSeq q { x with sems := tput 0 x.sems sem 255 }))))
  ∧ (∀ (s : State) (q ra n sem : Nat) (x : Seq), Ready s q → x = nowSeq s q → 1 ≤ n → n ≤ 15 → sem = (x.gr ra).toNat % 64 →
      n ≤ tget 0 x.sems sem →
      exec (.sigLocalSub q ra n) s = .next ((now s q).setSeq q
        { x with sems := tput 0 x.sems sem (tget 0 x.sems sem - n) }.adv))
  ∧ (∀ (s : State) (q ra n sem : Nat) (x : Seq), Ready s q → x = nowSeq s q → 1 ≤ n → n ≤ 15 → sem = (x.gr ra).toNat % 64 →
      tget 0 x.sems sem < n →
      exec (.sigLocalSub q ra n) s = .next (seqTrap q 9 sem (seqRaise q
        { code := Code.SEM_UNDERFLOW, unit := seqUnit s q, params := sem + 2 ^ 8 * n + 2 ^ 12 * tget 0 x.sems sem }
        (now s q))))
  ∧ (∀ (s : State) (q rt ra n d : Nat) (x : Seq), Ready s q → x = nowSeq s q → 1 ≤ n → n ≤ 15 →
      seqOfUnit (x.gr rt).toNat = some d → (now s q).aonOnly = false →
      exec (.sigRemoteAdd q rt ra n) s = .next { ((now s q).setSeq q x.adv) with
        semQ := (now s q).semQ ++ [⟨q, d, (x.gr ra).toNat % 64, n⟩] })
  ∧ (∀ (s : State) (q rt ra n d : Nat) (x : Seq), Ready s q → x = nowSeq s q → 1 ≤ n → n ≤ 15 →
      seqOfUnit (x.gr rt).toNat = some d → (now s q).aonOnly = true →
      exec (.sigRemoteAdd q rt ra n) s = .next (trapped s q 6 (x.gr rt).toNat))
  ∧ (∀ (s : State) (q rt ra n : Nat), Ready s q → (n = 0 ∨ 15 < n) →
      exec (.sigLocalAdd q ra n) s = .next (trapped s q 1 n) ∧ exec (.sigLocalSub q ra n) s = .next (trapped s q 1 n)
      ∧ exec (.sigRemoteAdd q rt ra n) s = .next (trapped s q 1 n)
      ∧ (∀ rd rb, exec (.waits q rd ra rb n) s = .next (trapped s q 1 n)))
  ∧ (∀ (s : State) (q : Nat) (g : SemSig) (l : List SemSig), q < 128 → seqOk q = true → s.aonOnly = false →
      takeFirst (fun (g : SemSig) => g.dst == q) s.semQ = some (g, l) →
      exec (.semSignalArrive q) s = .next (seqEdge q 6 (semAdd q g.sem g.n 1 (seqUnit s g.src) { s with semQ := l })))
  ∧ (∀ (s : State) (g : SemSig) (l : List SemSig), s.aonOnly = false →
      takeFirst (fun (g : SemSig) => g.dst == 128) s.semQ = some (g, l) →
      exec (.semSignalArrive 128) s = .next (sbSemAdd g.sem g.n
        (seqEdge 128 6 (semAdd 128 g.sem g.n 1 (seqUnit s g.src) { s with semQ := l }))))
  ∧ (∀ (s : State) (q rd ra rb n sem : Nat) (x : Seq), Ready s q → x = nowSeq s q → 1 ≤ n → n ≤ 15 →
      sem = (x.gr ra).toNat % 64 → n ≤ tget 0 x.sems sem →
      exec (.waits q rd ra rb n) s = .next ((now s q).setSeq q
        ({ x with sems := tput 0 x.sems sem (tget 0 x.sems sem - n) }.setGr rd 1).adv))
  ∧ (∀ (s : State) (q rd ra rb n sem : Nat) (x : Seq), Ready s q → x = nowSeq s q → 1 ≤ n → n ≤ 15 →
      sem = (x.gr ra).toNat % 64 → tget 0 x.sems sem < n →
      exec (.waits q rd ra rb n) s = .next (if x.gr rb = 0 then result s q rd 0 else (now s q).setSeq q { x with
        mode := .waits rd sem n (if x.gr rb = 0xFFFFFFFF then none else some ((now s q).wt + us * (x.gr rb).toNat))
        icount := 0 }))
  ∧ (∀ (s : State) (q rd sem n : Nat) (d : Option Nat) (x : Seq), seqOk q = true → x = s.seq q →
      x.mode = .waits rd sem n d → n ≤ tget 0 x.sems sem →
      exec (.waitsWake q) s = .next (s.setSeq q ({ x with
        sems := tput 0 x.sems sem (tget 0 x.sems sem - n)
        mode := .run }.setGr rd 1).adv))
  ∧ (∀ (s : State) (q rd sem n d : Nat) (x : Seq), seqOk q = true → x = s.seq q → x.mode = .waits rd sem n (some d) →
      tget 0 x.sems sem < n →
      exec (.waitsWake q) s = .next ((s.toWt d).setSeq q ({ x with mode := .run }.setGr rd 0).adv))
  ∧ (∀ (s : State) (w : Writer) (v : Nat), Granted s w .CC_SEM_SIG 0 → s.isOwner w = true → bits v 8 4 ≠ 0 →
      exec (.ownerSemSig w 128 v) s = .next (wrote w .CC_SEM_SIG 0 (seqEdge 128 6 (semAdd 128 (bits v 0 6) (bits v 8 4) 2 0 s))))
  ∧ (∀ (s : State) (w : Writer) (q v : Nat), Granted s w .FS_SEM_SIG q → q < 128 → seqOk q = true → s.isOwner w = true →
      bits v 8 4 = 0 → exec (.ownerSemSig w q v) s = .next (wrote w .FS_SEM_SIG q s))

/-- O28. SEND of a well-laid-out message appends it to the send queue and writes 0; with eight waiting it writes 1, in
AON-only operation 5; an uncorrectable error in its buffer (bit 14 of the operand fn) traps with MEM_UE, an illegal
func with ILLEGAL. The oldest message to a sequencer arrives in its receive queue while that has fewer than 16; one
of class 1 or 2 that is lost does not; a full queue counts the drop; what is addressed to the CC the standby
receives too. RECV lays the oldest message out at rb and writes 1, or 0 for an empty queue. LOG records a code from
0x0800 to 0x0FFF; another traps with ILLEGAL. An owner's restart starts an FS sequencer from the boot bank.
COMPLETION: exec answers a next state, under conditions on the state and the operands alone, for: send,
messageArrive, recv, log, seqRestart. -/
def Obligations.SeqMessages : Prop :=
  (∀ (s t : State) (q rd ra rb fn a d : Nat) (x : Seq) (m : Msg), Ready s q → x = nowSeq s q → t = now s q → a = (x.gr rb).toNat →
      fn < 64 → fn / 16 < 3 → fn % 16 ≤ 8 → (fn / 16 = 0 → fn % 16 = 0) → seqOfUnit (x.gr ra).toNat = some d → a % 32 = 0 →
      inSram q a = true → inSram q (a + 31 + 32 * (fn % 16)) = true → 0x8000 ≤ x.load q a 2 → t.aonOnly = false →
      x.tx.length < 8 →
      m = { src := seqUnit t q, dst := d, typ := x.load q a 2, cls := fn / 16, len := fn % 16,
            inl := (List.range 16).map (fun i => x.byte q (a + 16 + i)),
            data := (List.range (32 * (fn % 16))).map (fun i => x.byte q (a + 32 + i)) } →
      exec (.send q rd ra rb fn) s = .next (t.setSeq q ({ x with tx := x.tx ++ [m] }.setGr rd 0).adv))
  ∧ (∀ (s t : State) (q rd ra rb fn a d : Nat) (x : Seq), Ready s q → x = nowSeq s q → t = now s q → a = (x.gr rb).toNat →
      fn < 64 → fn / 16 < 3 → fn % 16 ≤ 8 → (fn / 16 = 0 → fn % 16 = 0) → seqOfUnit (x.gr ra).toNat = some d → a % 32 = 0 →
      inSram q a = true → inSram q (a + 31 + 32 * (fn % 16)) = true → 0x8000 ≤ x.load q a 2 →
      (t.aonOnly = true → exec (.send q rd ra rb fn) s = .next (result s q rd 5))
      ∧ (t.aonOnly = false → 8 ≤ x.tx.length → exec (.send q rd ra rb fn) s = .next (result s q rd 1)))
  ∧ (∀ (s : State) (q rd ra rb fn a d : Nat) (x : Seq), Ready s q → x = nowSeq s q → a = (x.gr rb).toNat →
      fn < 64 → fn / 16 < 3 → fn % 16 ≤ 8 → (fn / 16 = 0 → fn % 16 = 0) → seqOfUnit (x.gr ra).toNat = some d → a % 32 = 0 →
      inSram q a = true → inSram q (a + 31 + 32 * (fn % 16)) = true →
      exec (.send q rd ra rb (2 ^ 14 + fn)) s = .next (trapped s q 7 a))
  ∧ (∀ (s : State) (q rd ra rb fn k : Nat), Ready s q → k = fn % 2 ^ 14 → (64 ≤ k ∨ k / 16 % 4 = 3 ∨ 8 < k % 16) →
      exec (.send q rd ra rb fn) s = .next (trapped s q 1 k))
  ∧ (∀ (s t : State) (src dst : Nat) (m : Msg) (l : List Msg), seqOk src = true → seqOk dst = true → s.aonOnly = false →
      takeFirst (fun (m : Msg) => m.dst == dst) (s.seq src).tx = some (m, l) →
      t = s.setSeq src { s.seq src with tx := l } → dst ≠ 128 →
      exec (.messageArrive src dst false) s = .next (rxOne dst m t)
      ∧ (m.cls ≠ 0 → exec (.messageArrive src dst true) s = .next t)
      ∧ ((t.seq dst).rx.length < 16 → rxOne dst m t = t.setSeq dst { t.seq dst with rx := (t.seq dst).rx ++ [m] })
      ∧ (16 ≤ (t.seq dst).rx.length → dst < 128 → rxOne dst m t = t.bump F.FS_SEQ_STAT_rx_drop dst))
  ∧ (∀ (s t : State) (src : Nat) (m : Msg) (l : List Msg), seqOk src = true → s.aonOnly = false →
      takeFirst (fun (m : Msg) => m.dst == 128) (s.seq src).tx = some (m, l) →
      t = s.setSeq src { s.seq src with tx := l } →
      exec (.messageArrive src 128 false) s = .next (rxOne sbSeq m (rxOne 128 m t)))
  ∧ (∀ (s : State) (q rd rb a : Nat) (x : Seq) (m : Msg) (l : List Msg), Ready s q → x = nowSeq s q → a = (x.gr rb).toNat →
      a % 32 = 0 → x.rx = m :: l → inSram q a = true → inSram q (a + 31 + 32 * m.len) = true →
      exec (.recv q rd rb) s = .next ((now s q).setSeq q (({ x with rx := l }.store a (msgBytes m)).setGr rd 1).adv))
  ∧ (∀ (s : State) (q rd rb : Nat), Ready s q → ((nowSeq s q).gr rb).toNat % 32 = 0 → (s.seq q).rx = [] →
      exec (.recv q rd rb) s = .next (result s q rd 0))
  ∧ (∀ (s : State) (q rd rb a : Nat), Ready s q → a = ((nowSeq s q).gr rb).toNat → a % 32 ≠ 0 →
      exec (.recv q rd rb) s = .next (trapped s q 2 a))
  ∧ (∀ (s : State) (q rs ra i : Nat) (x : Seq), Ready s q → x = nowSeq s q → ra % 2 = 0 → 0x0800 ≤ i → i ≤ 0x0FFF →
      exec (.log q rs ra i) s = .next (seqRaise q
        { code := i, unit := (x.gr rs).toNat % 2 ^ 24, params := x.pair ra % 2 ^ 48, src := some (seqUnit (now s q) q) }
        ((now s q).setSeq q x.adv)))
  ∧ (∀ (s : State) (q rs ra i : Nat), Ready s q → ra % 2 = 0 → (i < 0x0800 ∨ 0x0FFF < i) →
      exec (.log q rs ra i) s = .next (trapped s q 1 i))
  ∧ (∀ (s t : State) (w : Writer) (q : Nat), Granted s w .FS_SEQ_CTL q → q < 128 → seqOk q = true → s.isOwner w = true →
      s.rb F.FS_SEQ_CTL_use_ref q = true → t = s.wr F.FS_SEQ_CTL_use_ref q 1 → t.fsWorks q = true →
      t.rb F.FS_SEQ_CTL_use_ref q = true →
      exec (.seqRestart w q) s = .next (wrote w .FS_SEQ_CTL q (seqStart q 0 0 [] t)))
  ∧ (∀ (s : State) (q : Nat) (t : State), q < 128 → twf ({} : Seq) s.seqs = true → t = seqStart q 0 0 [] s →
      (t.seq q).g = [] ∧ (t.seq q).sems = [] ∧ (t.seq q).timer = none ∧ (t.seq q).edges = 0 ∧ (t.seq q).tx = []
      ∧ (t.seq q).notes = (s.seq q).notes ∧ (t.seq q).rx = (s.seq q).rx ∧ (t.seq q).pc = 0x80000
      ∧ (t.seq q).mode = .run ∧ (t.seq q).inTrap = false)

/-- O29. Words written out from Tables 10-3 to 10-5: of the R format ADD g1, g2, g3; of the I format ADDI g5, g6,
0xFFFF, LW and SIG; of the B format BEQ; of the J format JAL. An undefined opcode, an undefined ALU function and a
non-zero unused bit have none. -/
def Obligations.SeqDecodeWords : Prop :=
  decodeSeq 3 0b000000_0001_0010_0011_00000000000000 = some (.add 3 1 2 3)
  ∧ decodeSeq 3 0b000000_0001_0010_0000_00000000001100 = some (.clz 3 1 2 0)
  ∧ decodeSeq 3 0b000001_0101_0110_00_1111111111111111 = some (.addi 3 5 6 0xFFFF)
  ∧ decodeSeq 3 0b010000_0001_0010_00_0000000000000100 = some (.lw 3 1 2 4 false)
  ∧ decodeSeq 3 0b010101_0001_0010_00_0000000000000100 = some (.sw 3 1 2 4)
  ∧ decodeSeq 3 0b100000_0001_0010_00_1111111111111110 = some (.beq 3 1 2 0xFFFE)
  ∧ decodeSeq 3 0b100110_1111_0000000000000000000001 = some (.jal 3 15 1)
  ∧ decodeSeq 3 0b110001_0100_0010_01_0000000000000011 = some (.sigRemoteAdd 3 4 2 3)
  ∧ decodeSeq 3 0b110010_0001_0010_0011_00000000000101 = some (.waits 3 1 2 3 5)
  ∧ decodeSeq 128 0b111010_0001_0010_0011_00000000000000 = some (.fenceConfirm 128 1 2 3)
  ∧ decodeSeq 3 0b101111_0000_0000_0000_00000000000000 = none
  ∧ decodeSeq 3 0b000000_0001_0010_0011_00000000001110 = none
  ∧ decodeSeq 3 0b000001_0101_0110_01_1111111111111111 = none

/-- O30. For every well-formed sequencer instruction, with every operand at every value its field admits: it has a word
of 32 bits, and that word decodes to the instruction again (without the outside event that a load or a register
access may meet, which no word holds). -/
def Obligations.SeqDecodeEncode : Prop :=
  ∀ (i : Instr) (q : Nat), wellFormed i = true → seqOf i = some q →
    ∃ w, encodeSeq i = some w ∧ w < 2 ^ 32 ∧ decodeSeq q w = some (plain i)

/-- O31. Every 32-bit word that decodes to a sequencer instruction is the word of that instruction, which runs on the
sequencer it was decoded for; so no bit of a word is dropped. -/
def Obligations.SeqEncodeDecode : Prop :=
  ∀ (q w : Nat) (i : Instr), w < 2 ^ 32 → decodeSeq q w = some i → encodeSeq i = some w ∧ seqOf i = some q

/-- O32. Each writes its status to rd. On a unit that Table 10-10 does not list it traps with UNIT. STRIP asks for a
strip. PROOF.SET sets or clears a force bit, draws a key, or writes a rate (above 16, or for no partition: status
2). A FENCE confirm of a unit in reach blocks and is sent to the CC, and confirms an engine that no fence holds yet;
one out of reach returns 2; reason 0 traps with LIMIT, a reserved one with ILLEGAL. Clear of a latent engine returns
0, else 2; make latent returns 0 and replay requests one, or 2, or 1 while the array is suspect, or 5 in AON-only
operation (log entry 103). RESET starts a scope. A RESET or a refused FENCE of the CC that completes takes its
checkpoint. BRACKET starts or cancels a session; with an odd ra it traps with ILLEGAL. COMPLETION: exec answers a
next state, under conditions on the state and the operands alone, for: strip, proofSetForce, proofSetRekey,
proofSetRate, fenceConfirm, fenceClear, fenceMakeLatent, fenceReplay, resetContext, resetEngine, resetPartition,
resetWafer, resetPowerCycle, bracket. -/
def Obligations.SeqReliability : Prop :=
  (∀ (s : State) (q rd ra rb i : Nat) (r : Nat × State) (x : Seq), Ready s q → x = nowSeq s q → q < 128 → i = (x.gr ra).toNat →
      i < 2 ^ 13 → r = stripRequest q (coreOf q i) (x.gr rb).toNat (now s q) →
      exec (.strip q rd ra rb) s = .next (seqRet q rd (BitVec.ofNat 32 r.1) r.2))
  ∧ (∀ (s : State) (q rd ra rb : Nat), Ready s q → 128 ≤ q →
      exec (.strip q rd ra rb) s = .next (trapped s q 8 0) ∧ exec (.proofSetForce q rd ra rb) s = .next (trapped s q 8 0)
      ∧ exec (.proofSetRekey q rd) s = .next (trapped s q 8 1) ∧ exec (.bracket q rd ra) s = .next (trapped s q 8 0))
  ∧ (∀ (s : State) (q rd ra rb : Nat) (r : Nat × State) (x : Seq), Ready s q → x = nowSeq s q → q < 128 →
      r = proofForce q (x.gr ra).toNat (x.gr rb != 0) (now s q) →
      exec (.proofSetForce q rd ra rb) s = .next (seqRet q rd (BitVec.ofNat 32 r.1) r.2))
  ∧ (∀ (s : State) (q rd : Nat), Ready s q → q < 128 → (now s q).aonOnly = false →
      exec (.proofSetRekey q rd) s = .next (seqRet q rd 0 (rekey q (now s q))))
  ∧ (∀ (s : State) (rd ra rb p v : Nat) (x : Seq), Ready s 128 → x = nowSeq s 128 → p = (x.gr ra).toNat → v = (x.gr rb).toNat →
      partOk p = true → v ≤ 16 →
      exec (.proofSetRate 128 rd ra rb) s = .next (seqRet 128 rd 0 (settingWrite (.seq 128) 0 p v (now s 128))))
  ∧ (∀ (s : State) (rd ra rb : Nat) (x : Seq), Ready s 128 → x = nowSeq s 128 →
      16 < (x.gr rb).toNat ∨ partOk (x.gr ra).toNat = false → exec (.proofSetRate 128 rd ra rb) s = .next (seqRet 128 rd 2 (now s 128)))
  ∧ (∀ (s t : State) (q rd ra rb u r : Nat) (x : Seq), Ready s q → x = nowSeq s q → u = (x.gr ra).toNat → r = (x.gr rb).toNat →
      s.scrapped = false → q < 128 → unitPresent u = true → unitKind u = 0 → engField u = q → r ≠ 0 → reasonBad r = false →
      (now s q).aonOnly = false → t = { now s q with confQ := (now s q).confQ ++ [Confirm.mk q u r] } →
      (fenceHeld (now s q) u = none → (now s q).confQ.any (fun m => m.unit == u) = false →
        exec (.fenceConfirm q rd ra rb) s = .next ((confirmEffect u t).setSeq q { x with mode := .fence rd u r }))
      ∧ ((fenceHeld (now s q) u).isSome = true ∨ (now s q).confQ.any (fun m => m.unit == u) = true →
        exec (.fenceConfirm q rd ra rb) s = .next (t.setSeq q { x with mode := .fence rd u r })))
  ∧ (∀ (s : State) (q rd ra rb u r : Nat) (x : Seq), Ready s q → x = nowSeq s q → u = (x.gr ra).toNat → r = (x.gr rb).toNat →
      s.scrapped = false → q < 128 → (unitPresent u = false ∨ unitKind u ≠ 0 ∨ engField u ≠ q) → r ≠ 0 →
      reasonBad r = false → exec (.fenceConfirm q rd ra rb) s = .next (seqRet q rd 2 (now s q)))
  ∧ (∀ (s : State) (rd ra rb u r : Nat) (x : Seq), Ready s 128 → x = nowSeq s 128 → u = (x.gr ra).toNat → r = (x.gr rb).toNat →
      s.scrapped = false → (unitPresent u = false ∨ unitKind u = 0) → r ≠ 0 → reasonBad r = false →
      exec (.fenceConfirm 128 rd ra rb) s = .next (ccCheckpoint (seqRet 128 rd 2 (now s 128))))
  ∧ (∀ (s : State) (q rd ra rb r : Nat), Ready s q → r = ((nowSeq s q).gr rb).toNat →
      (r = 0 → exec (.fenceConfirm q rd ra rb) s = .next (trapped s q 5 0))
      ∧ (s.scrapped = false → r ≠ 0 → reasonBad r = true → exec (.fenceConfirm q rd ra rb) s = .next (trapped s q 1 r)))
  ∧ (∀ (s : State) (q rd ra k : Nat) (l : Latent), Ready s q → q < 128 → s.scrapped = false →
      latentAt (now s q) ((nowSeq s q).gr ra).toNat = some (k, l) → l.confirmed = false → engField l.eng = q →
      exec (.fenceClear q rd ra) s = .next (seqRet q rd 0 (clearLatent k l (now s q)))
      ∧ (∀ c : Core, c = (now s q).core (engCore l.eng) → (now s q).rb F.FS_PROOF_STAT_array_suspect q = false →
          c.suspect ≠ some l.eng → c.next ≠ some l.eng → (now s q).aonOnly = false →
          exec (.fenceReplay q rd ra) s = .next (seqRet q rd 0 (requestReplay k l (now s q))))
      ∧ ((now s q).aonOnly = true → exec (.fenceReplay q rd ra) s = .next (seqRet q rd 5 (now s q)))
      ∧ ((now s q).rb F.FS_PROOF_STAT_array_suspect q = true → (now s q).aonOnly = false →
          exec (.fenceReplay q rd ra) s = .next (seqRet q rd 1 (now s q))))
  ∧ (∀ (s : State) (q rd ra : Nat), Ready s q → q < 128 → s.scrapped = false →
      latentAt (now s q) ((nowSeq s q).gr ra).toNat = none →
      exec (.fenceClear q rd ra) s = .next (seqRet q rd 2 (now s q))
      ∧ exec (.fenceReplay q rd ra) s = .next (seqRet q rd 2 (now s q)))
  ∧ (∀ (s t : State) (q rd ra rb e c : Nat), Ready s q → q < 128 → s.scrapped = false → t = now s q →
      e = ((nowSeq s q).gr ra).toNat → c = ((nowSeq s q).gr rb).toNat → 1 ≤ c → c ≤ 6 → engField e = q → engOk e = true →
      blocked t e = false → latentAt t e = none →
      ((latentSlots t q).length < 64 →
        exec (.fenceMakeLatent q rd ra rb) s = .next (seqRet q rd 0 (makeLatent e 0 c 7 t).2))
      ∧ (64 ≤ (latentSlots t q).length → exec (.fenceMakeLatent q rd ra rb) s = .next (seqRet q rd 1 t)))
  ∧ (∀ (s : State) (q rd ra rb a n : Nat) (r : Nat × State), Ready s q → q < 128 → a = ((nowSeq s q).gr ra).toNat →
      engField a = q → n = ((nowSeq s q).gr rb).toNat % 2 ^ 16 →
      (r = scopeStart 0 a a n 0 (now s q) →
        exec (.resetContext q rd ra rb) s = .next (seqRet q rd (BitVec.ofNat 32 r.1) r.2))
      ∧ (r = scopeStart 1 a a n 0 (now s q) →
        exec (.resetEngine q rd ra rb) s = .next (seqRet q rd (BitVec.ofNat 32 r.1) r.2))
      ∧ exec (.resetPartition q rd ra rb) s = .next (trapped s q 8 2)
      ∧ exec (.resetWafer q rd ra rb) s = .next (trapped s q 8 3)
      ∧ exec (.resetPowerCycle q rd ra rb) s = .next (trapped s q 8 4))
  ∧ (∀ (s : State) (rd ra rb a n : Nat) (r : Nat × State), Ready s 128 → a = ((nowSeq s 128).gr ra).toNat →
      n = ((nowSeq s 128).gr rb).toNat % 2 ^ 16 →
      (r = scopeStart 2 a a n 1 (now s 128) →
        exec (.resetPartition 128 rd ra rb) s = .next (ccCheckpoint (seqRet 128 rd (BitVec.ofNat 32 r.1) r.2)))
      ∧ (r = scopeStart 3 a a n 1 (now s 128) →
        exec (.resetWafer 128 rd ra rb) s = .next (ccCheckpoint (seqRet 128 rd (BitVec.ofNat 32 r.1) r.2)))
      ∧ (r = scopeStart 4 a a n 1 (now s 128) →
        exec (.resetPowerCycle 128 rd ra rb) s = .next (ccCheckpoint (seqRet 128 rd (BitVec.ofNat 32 r.1) r.2))))
  ∧ (∀ (s t : State) (q rd ra v : Nat), Ready s q → q < 128 → ra % 2 = 0 → (now s q).aonOnly = false → v = (nowSeq s q).pair ra →
      bit v 30 = false →
      (brkStart q v (now s q) = (false, t) → exec (.bracket q rd ra) s = .next (seqRet q rd 0 t))
      ∧ (brkStart q v (now s q) = (true, t) →
          exec (.bracket q rd ra) s = .next (seqRet q rd 1 (t.wr F.FS_BRK_STAT_cmd_refused q 1))))
  ∧ (∀ (s : State) (q rd ra v : Nat), Ready s q → q < 128 → ra % 2 = 0 → (now s q).aonOnly = false → v = (nowSeq s q).pair ra →
      bit v 30 = true →
      (((now s q).sess q).isSome = true → exec (.bracket q rd ra) s = .next (seqRet q rd 0 (brkAbort q 10 (now s q))))
      ∧ ((now s q).sess q = none → exec (.bracket q rd ra) s = .next (seqRet q rd 2 (now s q))))
  ∧ (∀ (s : State) (q rd ra : Nat), Ready s q → q < 128 → ra % 2 = 1 → exec (.bracket q rd ra) s = .next (trapped s q 1 ra))

/-- O33. RDR of a register in reach reads it into the pair rd; a reserved offset in reach reads zero. WRR of a register
to which the sequencer holds a right writes the pair by the register's own rule, after the pc advanced. A misaligned
offset traps with ALIGN, one out of reach with ACCESS, one that cannot be reached now or is not answered with BUS, a
write without a right as R242 says, an odd pair with ILLEGAL; TRAP_INFO is the offset. COMPLETION: exec answers a
next state, under conditions on the state and the operands alone, for: rdr, wrr. -/
def Obligations.SeqRegisters : Prop :=
  (∀ (s u : State) (q rd ra imm o a i v : Nat) (r : Reg) (x : Seq), Ready s q → x = nowSeq s q →
      o = (x.gr ra + BitVec.ofInt 32 (sext 16 imm)).toNat → rd % 2 = 0 → accessTrap (now s q) q o false false = none →
      seqAddr q o = some a → regAt a = some (r, i) → readReg (.seq q) r i (now s q) = (v, u) →
      exec (.rdr q rd ra imm false) s = .next (u.setSeq q ((u.seq q).setPair rd v).adv))
  ∧ (∀ (s : State) (q rd ra imm o a : Nat) (x : Seq), Ready s q → x = nowSeq s q →
      o = (x.gr ra + BitVec.ofInt 32 (sext 16 imm)).toNat → rd % 2 = 0 → accessTrap (now s q) q o false false = none →
      seqAddr q o = some a → regAt a = none →
      exec (.rdr q rd ra imm false) s = .next ((now s q).setSeq q (x.setPair rd 0).adv))
  ∧ (∀ (s : State) (q rs ra imm o a i : Nat) (r : Reg) (x : Seq), Ready s q → x = nowSeq s q →
      o = (x.gr ra + BitVec.ofInt 32 (sext 16 imm)).toNat → rs % 2 = 0 → accessTrap (now s q) q o true false = none →
      seqAddr q o = some a → regAt a = some (r, i) →
      (rightTrap (now s q) q r i = none → exec (.wrr q rs ra imm false) s =
        .next (writeReg (.seq q) r i (x.pair rs) ((now s q).setSeq q x.adv)))
      ∧ (∀ c, rightTrap (now s q) q r i = some c → exec (.wrr q rs ra imm false) s = .next (trapped s q c o)))
  ∧ (∀ (s : State) (q r ra imm o c : Nat) (late : Bool), Ready s q →
      o = ((nowSeq s q).gr ra + BitVec.ofInt 32 (sext 16 imm)).toNat → r % 2 = 0 →
      (accessTrap (now s q) q o false late = some c → exec (.rdr q r ra imm late) s = .next (trapped s q c o))
      ∧ (accessTrap (now s q) q o true late = some c → exec (.wrr q r ra imm late) s = .next (trapped s q c o)))
  ∧ (∀ (s : State) (q r ra imm : Nat) (late : Bool), Ready s q → r % 2 = 1 →
      exec (.rdr q r ra imm late) s = .next (trapped s q 1 r) ∧ exec (.wrr q r ra imm late) s = .next (trapped s q 1 r))
  ∧ (∀ (s : State) (q o : Nat) (wr late : Bool), (o % 8 ≠ 0 → accessTrap s q o wr late = some 2)
      ∧ (o % 8 = 0 → 0x1010000 ≤ o → accessTrap s q o wr late = some 4)
      ∧ (∀ a, o % 8 = 0 → seqAddr q o = some a → seqReach q wr a = false → accessTrap s q o wr late = some 4)
      ∧ (∀ a, o % 8 = 0 → seqAddr q o = some a → seqReach q wr a = true → seqLive s a = false →
          accessTrap s q o wr late = some 6)
      ∧ (∀ a, o % 8 = 0 → seqAddr q o = some a → seqReach q wr a = true → accessTrap s q o wr true = some 6))

/-- O34. The owner's begin starts receiving an image of the target. Data goes to the received bytes while state is 1.
Commit sets state 2 and runs the checks; in AON-only operation it waits. Abort ends staging. Apply to one FS uses
the other bank of the staged FS image; nothing staged answers reason 10. Promote stores the boot pointer and ends
staging. Revert to a bank that fails its checks is rejected with that reason. A floor rises when written higher.
COMPLETION: exec answers a next state, under conditions on the state and the operands alone, for: imgBegin, imgData,
imgCommit, imgAbort, imgApply, imgPromote, imgRevert, imgFloorWrite. -/
def Obligations.ImageLoading : Prop :=
  (∀ (s : State) (w : Writer) (n : Nat), Granted s w .CC_IMG_CMD 0 → s.isOwner w = true → n < 2 ^ 32 →
      exec (.imgBegin w false n) s = .next (wrote w .CC_IMG_CMD 0 (epochSync (imgBegin 0 n s)))
      ∧ exec (.imgBegin w true n) s = .next (wrote w .CC_IMG_CMD 0 (epochSync (imgBegin 1 n s))))
  ∧ (∀ (s : State) (w : Writer) (v n : Nat) (l : List Byte), Granted s w .CC_IMG_DATA 0 → s.isOwner w = true →
      s.imgRecv = some (n, l) → s.rd F.CC_IMG_STAT_state = 1 → l.length < imgMax 0 →
      exec (.imgData w v) s = .next (wrote w .CC_IMG_DATA 0
        (({ s with imgRecv := some (n, l ++ leBytes 8 v) } : State).bump F.CC_IMG_STAT_received 0 8)))
  ∧ (∀ (s t : State) (w : Writer), Granted s w .CC_IMG_CMD 0 → s.isOwner w = true → s.rd F.CC_IMG_STAT_state = 1 →
      t = s.wr F.CC_IMG_STAT_state 0 2 →
      (t.aonOnly = false → exec (.imgCommit w) s = .next (wrote w .CC_IMG_CMD 0 (epochSync (imgVerify t))))
      ∧ (t.aonOnly = true → exec (.imgCommit w) s = .next (wrote w .CC_IMG_CMD 0
          (epochSync { t with imgPend := t.imgPend ++ [2] }))))
  ∧ (∀ (s : State) (w : Writer), Granted s w .CC_IMG_CMD 0 → s.isOwner w = true →
      exec (.imgAbort w) s = .next (wrote w .CC_IMG_CMD 0
        (epochSync (({ s with imgRecv := none, imgPend := [] } : State).wr F.CC_IMG_STAT_state 0 0))))
  ∧ (∀ (s : State) (w : Writer) (f : Nat), Granted s w .CC_IMG_CMD 0 → s.isOwner w = true → s.aonOnly = false → f < 128 →
      (staged s 1 = true → exec (.imgApply w true f false) s = .next (wrote w .CC_IMG_CMD 0
        (epochSync (applyOrHold s.imgAt f s))))
      ∧ (staged s 1 = false → exec (.imgApply w true f false) s = .next (wrote w .CC_IMG_CMD 0
        (epochSync (s.wr F.CC_IMG_STAT_reason 0 10)))))
  ∧ (∀ (s : State) (w : Writer), Granted s w .CC_IMG_CMD 0 → s.isOwner w = true → s.aonOnly = false →
      (staged s 1 = true → exec (.imgPromote w true) s = .next (wrote w .CC_IMG_CMD 0
        (epochSync ((wrPersist (bootFld 1) 0 s.imgAt s).wr F.CC_IMG_STAT_state 0 0))))
      ∧ (staged s 0 = true → exec (.imgPromote w false) s = .next (wrote w .CC_IMG_CMD 0
        (epochSync ((wrPersist (bootFld 0) 0 s.imgAt s).wr F.CC_IMG_STAT_state 0 0)))))
  ∧ (∀ (s : State) (w : Writer), Granted s w .CC_IMG_CMD 0 → s.isOwner w = true →
      exec (.imgRevert w true) s = .next (wrote w .CC_IMG_CMD 0 (epochSync (imgRevert 1 s)))
      ∧ (∀ r, (checkBank s 1 (otherBank s 1)).res = .error r → imgRevert 1 s = imgReject 1 (otherBank s 1)
          (checkBank s 1 (otherBank s 1)).version r false (s.wr F.CC_IMG_STAT_reason 0 r))
      ∧ (∀ x t, (checkBank s 1 (otherBank s 1)).res = .ok x → t = wrPersist (bootFld 1) 0 (otherBank s 1) s →
          imgRevert 1 s = t))
  ∧ (∀ (s t : State) (w : Writer) (v : Nat), Granted s w .CC_IMG_FLOOR 0 → s.isOwner w = true → s.factory = true →
      t = wrPersist F.CC_IMG_FLOOR_cc 0 (bits v 0 32) s → t.factory = true →
      exec (.imgFloorWrite w v) s = .next (wrote w .CC_IMG_FLOOR 0
        (imgVerSync (wrPersist F.CC_IMG_FLOOR_fs 0 (bits v 32 32) t))))
  ∧ (∀ (s : State) (w : Writer) (v : Nat), Granted s w .CC_IMG_FLOOR 0 → s.isOwner w = true → s.factory = false →
      bits v 0 32 < s.rd F.CC_IMG_FLOOR_cc → bits v 32 32 < s.rd F.CC_IMG_FLOOR_fs →
      exec (.imgFloorWrite w v) s = .next (wrote w .CC_IMG_FLOOR 0 (imgVerSync s)))

/-- O35. A pulse on a pin of an FS that stands for a unit sets its latch and counts an edge; the first one opens a
handling and records ERR_PIN, one of a latched or stuck input opens none. A CC source latches and is recorded. A
gated cluster's inputs latch nothing. An input that is still active 10 ms after its latch was cleared latches again
without an edge. One active for 1 s is stuck and recorded; one that has been inactive leaves stuck. The FS's
sequencer or the owner closes a handling; the owner closes the CC's. A pin select shows the entry and clears its
edge count; a pin clear clears its latch; a capture shows and clears a CT's edge counts. COMPLETION: exec answers a
next state, under conditions on the state and the operands alone, for: errPinLatch, pinRelatch, pinStuck,
pinUnstuck, fswClose, ccFaultClose, pinSelect, pinClear, ctErrCapture. -/
def Obligations.FaultPins : Prop :=
  (∀ (s t : State) (f i u : Nat) (e h : Bool), fieldOk f = true → pinUnit f i = some u → (s.pin f i).latched = false →
      (s.pin f i).stuck = false → t = s.setPin f i (pinPulse s (s.pin f i) e h) →
      exec (.errPinLatch (.fs f i) e h) s = .next (fsHandling f i t))
  ∧ (∀ (s : State) (f i u : Nat) (e h : Bool), fieldOk f = true → pinUnit f i = some u →
      (s.pin f i).latched = true ∨ (s.pin f i).stuck = true →
      exec (.errPinLatch (.fs f i) e h) s = .next (fswSync f (s.setPin f i (pinPulse s (s.pin f i) e h))))
  ∧ (∀ (s t u : State) (f i host : Nat), t = fswSync f s → t.rb F.FS_FSW_open f = false →
      host = (if i < 64 then t.rd F.CT_ERR_latched (64 * f + i) else 0) →
      u = raiseFs f { code := Code.ERR_PIN, unit := (pinUnit f i).getD (fsUnit f),
                      params := i + 2 ^ 9 * host + 2 ^ 17 * (t.pin f i).edges } (t.wr F.FS_FSW_open f 1) →
      fsHandling f i s = ccHandling (setGlobal f 1 u))
  ∧ (∀ (s t : State) (f i : Nat), t = fswSync f s → t.rb F.FS_FSW_open f = true →
      fsHandling f i s = (t.bump F.FS_FSW_sec_count f).wr F.FS_FSW_merged f 1)
  ∧ (∀ (s : State) (k i : Nat) (e h : Bool), ctOk k = true → s.ctGated k = true →
      exec (.errPinLatch (.host k i) e h) s = .next s ∧ exec (.errPinLatch (.ctInt k i) e h) s = .next s)
  ∧ (∀ (s : State) (i : Nat) (e h : Bool), i < 8 → exec (.errPinLatch (.cc i) e h) s = .next (ccPinLatch i e h s))
  ∧ (∀ (s : State) (p : PinRef) (x : Pin), pinOk p = true → x = pinEntry s p → x.level = true → x.latched = false →
      x.stuck = false → exec (.pinRelatch p) s = .next (pinLatch p false true (s.toWt (x.clearedAt + 10 * ms))))
  ∧ (∀ (s : State) (p : PinRef) (x : Pin), pinOk p = true → x = pinEntry s p → x.level = true → x.stuck = false → pinGated s p = false →
      exec (.pinStuck p) s = .next (stuckRecord p true (latchBit p
        (setPinEntry (s.toWt (x.since + sec)) { x with stuck := true, latched := true } p))))
  ∧ (∀ (s : State) (p : PinRef) (x : Pin), pinOk p = true → x = pinEntry s p → x.stuck = true →
      exec (.pinStuck p) s = .next s
      ∧ (pinGated s p = false → exec (.pinUnstuck p) s =
          .next (stuckRecord p false (setPinEntry s { x with stuck := false, level := false } p)))
      ∧ (pinGated s p = true → exec (.pinUnstuck p) s = .next s))
  ∧ (∀ (s : State) (w : Writer) (f v : Nat), Granted s w .FS_FSW f → fieldOk f = true →
      (isSeq w f = true ∨ s.isOwner w = true) → bit v 33 = true →
      exec (.fswClose w f v) s = .next (wrote w .FS_FSW f
        (setGlobal f 0 (((s.wr F.FS_FSW_open f 0).wr F.FS_FSW_sec_count f 0).wr F.FS_FSW_merged f 0))))
  ∧ (∀ (s : State) (w : Writer), Granted s w .CC_FAULT_CTL 0 → s.isOwner w = true →
      exec (.ccFaultClose w 32) s = .next (wrote w .CC_FAULT_CTL 0
        (((s.wr F.CC_FAULT_CTL_open 0 0).wr F.CC_FAULT_CTL_sec_count 0 0).wr F.CC_FAULT_CTL_merged 0 0)))
  ∧ (∀ (s t : State) (w : Writer) (f i : Nat), Granted s w .FS_PIN_SEL f → fieldOk f = true → notTenant w = true → i < 256 →
      t = (s.wr F.FS_PIN_SEL_index f i).setReg .FS_PIN_DATA f (b2n (s.pin f i).level + 2 * b2n (s.pin f i).latched
        + 4 * (s.pin f i).edges + 2 ^ 6 * b2n (s.pin f i).stuck + 2 ^ 8 * (pinUnit f i).getD 0) →
      exec (.pinSelect w f i) s = .next (wrote w .FS_PIN_SEL f (t.setPin f i { s.pin f i with edges := 0 })))
  ∧ (∀ (s : State) (w : Writer) (f i : Nat), Granted s w .FS_PIN_CLR f → fieldOk f = true → notTenant w = true → i < 256 →
      (s.pin f i).stuck = false →
      exec (.pinClear w f i) s = .next (wrote w .FS_PIN_CLR f
        (fswSync f (s.setPin f i { s.pin f i with latched := false, clearedAt := s.wt }))))
  ∧ (∀ (s : State) (w : Writer) (k : Nat), Granted s w .CT_ERR_CAP k → ctOk k = true → notTenant w = true →
      exec (.ctErrCapture w k 1) s = .next (wrote w .CT_ERR_CAP k
        (forAll (List.range 8) (fun i t => t.setHpin k i { t.hpin k i with edges := 0 })
          (s.wr F.CT_ERR_edges k ((List.range 8).foldl (fun a i => a + 2 ^ (4 * i) * (s.hpin k i).edges) 0)))))

/-- O36. An arming of a checker that Table 11-3 refuses is recorded with its reason; one that is allowed replaces that
checker's and is recorded; a count of 0 cancels. The oldest forwarded record of a field reaches the master copy, a
skip in its numbers is counted and recorded first. A bucket gains a token. Selecting a source releases the old one.
A capture follows the cursor; a read of the last data register advances it. An area is cleared and REC_CLEARED
recorded. A freeze freezes the selected recorder; a release, or max_ms, gives it free. COMPLETION: exec answers a
next state, under conditions on the state and the operands alone, for: injectArm, injectCancel, recordForwardArrive,
bucketRefill, loupeSelect, loupeCapture, loupeAdvance, recClear, recorderFreeze, recorderRelease, freezeMaxExpire. -/
def Obligations.InjectionAndRecorder : Prop :=
  (∀ (s t : State) (w : Writer) (v : Nat), Granted s w .CC_INJ_CMD 0 → s.isOwner w = true → bits v 0 3 ≠ 0 → bits v 32 8 ≠ 0 →
      t = s.wr F.CC_INJ_STAT_checker 0 (bits v 0 3) → injReason s (bits v 0 3) (bits v 8 24) (bits v 40 6) ≠ 0 →
      exec (.injectArm w v) s = .next (wrote w .CC_INJ_CMD 0 (raiseCc
        { code := Code.INJECT_REFUSED, unit := bits v 8 24,
          params := injParams (bits v 0 3) (bits v 32 8) (bits v 40 6) w
            + 2 ^ 19 * injReason s (bits v 0 3) (bits v 8 24) (bits v 40 6) }
        ((t.wr F.CC_INJ_STAT_refused 0 1).wr F.CC_INJ_STAT_reason 0
          (injReason s (bits v 0 3) (bits v 8 24) (bits v 40 6))))))
  ∧ (∀ (s t u : State) (w : Writer) (v : Nat), Granted s w .CC_INJ_CMD 0 → s.isOwner w = true → bits v 0 3 ≠ 0 →
      bits v 32 8 ≠ 0 → t = s.wr F.CC_INJ_STAT_checker 0 (bits v 0 3) →
      injReason s (bits v 0 3) (bits v 8 24) (bits v 40 6) = 0 →
      u = { t with
            injs := (t.injs.filter (fun j => !(j.unit == bits v 8 24 && j.checker == bits v 0 3))).map
              (fun j : Inj => { j with newest := false })
              ++ [Inj.mk (bits v 0 3) (bits v 8 24) (bits v 32 8) (bits v 40 6) (bits v 32 8) true] } →
      exec (.injectArm w v) s = .next (wrote w .CC_INJ_CMD 0 (raiseCc
        { code := Code.INJECT_ARMED, unit := bits v 8 24,
          params := injParams (bits v 0 3) (bits v 32 8) (bits v 40 6) w }
        ((u.wr F.CC_INJ_STAT_remaining 0 (bits v 32 8)).bumpWrap F.CC_INJ_STAT_armings))))
  ∧ (∀ (s t : State) (w : Writer) (v : Nat), Granted s w .CC_INJ_CMD 0 → s.isOwner w = true → bits v 32 8 = 0 →
      t = s.wr F.CC_INJ_STAT_checker 0 (bits v 0 3) →
      exec (.injectCancel w v) s = .next (wrote w .CC_INJ_CMD 0 (raiseCc
        { code := Code.INJECT_ARMED, unit := bits v 8 24, params := injParams 0 0 (bits v 40 6) w }
        { t with injs := t.injs.filter (fun j =>
            !(j.unit == bits v 8 24 && (bits v 0 3 == 0 || j.checker == bits v 0 3))) })))
  ∧ (∀ (s t : State) (f : Nat) (x : Fwd) (l : List Fwd) (r : Rec), fieldOk f = true → s.aonOnly = false →
      takeFirst (fun (x : Fwd) => x.field == f) s.fwdQ = some (x, l) → x.seq ≤ tget 0 s.fwdNext f →
      r = { x.rcd with fwd := true } → t = { s with fwdQ := l, fwdNext := tput 0 s.fwdNext f (x.seq + 1) } →
      exec (.recordForwardArrive f) s = .next (standbyCopy r (recNumber ccRec r (notifyAt r.wt ccSeq r.code r.unit r.params t))))
  ∧ (∀ (s : State) (r code n : Nat) (b : Bucket), fieldOk r = true → b = (s.rcdr r).bucket code → b.tokens = some n →
      n + 1 < recBurst s r →
      exec (.bucketRefill r code) s = .next ((s.toWt b.due).setRcdr r ((s.rcdr r).setBucket code
        { b with tokens := some (n + 1), due := b.due + recPeriod s r })))
  ∧ (∀ (s : State) (w : Writer) (v : Nat), Granted s w .CC_LOUPE_SEL 0 → s.isOwner w = true →
      loupeRec (s.rd F.CC_LOUPE_SEL_source) = none →
      exec (.loupeSelect w v) s = .next (wrote w .CC_LOUPE_SEL 0
        (((s.wr F.CC_LOUPE_FRZ_freeze 0 0).wr F.CC_LOUPE_SEL_source 0 (bits v 0 8)).wr F.CC_LOUPE_SEL_area 0 (bits v 8 2))))
  ∧ (∀ (s : State) (w : Writer) (v : Nat), Granted s w .CC_LOUPE_CUR 0 → s.isOwner w = true →
      exec (.loupeCapture w v) s = .next (wrote w .CC_LOUPE_CUR 0 (loupeCapture (bits v 0 32) s)))
  ∧ (∀ (s : State) (w : Writer), s.regReach w .CC_LOUPE_DATA 3 = true → notTenant w = true →
      exec (.loupeAdvance w) s = .next (ownerSeen w (loupeCapture ((s.rd F.CC_LOUPE_CUR_cursor + 1) % 2 ^ 32) s)))
  ∧ (∀ (s : State) (w : Writer), Granted s w .CC_REC_CLR 0 → s.isOwner w = true → loupeReach s 0 = true → fieldOk 0 = true →
      exec (.recClear w 2) s = .next (wrote w .CC_REC_CLR 0 (raiseFs 0
        { code := Code.REC_CLEARED, unit := fsUnit 0, params := 2 + 4 * masterNum w }
        (s.setRcdr 0 { s.rcdr 0 with last := [] }))))
  ∧ (∀ (s t : State) (w : Writer) (v r : Nat), Granted s w .CC_LOUPE_FRZ 0 → s.isOwner w = true → bit v 0 = true →
      t = s.wr F.CC_LOUPE_FRZ_max_ms 0 (bits v 16 16) → loupeRec (t.rd F.CC_LOUPE_SEL_source) = some r → r < 128 →
      loupeReach t (t.rd F.CC_LOUPE_SEL_source) = true →
      exec (.recorderFreeze w v) s = .next (wrote w .CC_LOUPE_FRZ 0
        (((t.setRcdr r { t.rcdr r with frozen := true, frzEnd := t.wt + ms * max 1 (bits v 16 16) }).wr
          F.FS_REC_STAT_frozen r 1).wr F.CC_LOUPE_FRZ_freeze 0 1)))
  ∧ (∀ (s t : State) (w : Writer) (v r : Nat), Granted s w .CC_LOUPE_FRZ 0 → s.isOwner w = true → bit v 0 = false →
      t = s.wr F.CC_LOUPE_FRZ_max_ms 0 (bits v 16 16) → loupeRec (t.rd F.CC_LOUPE_SEL_source) = some r →
      exec (.recorderRelease w v) s = .next (wrote w .CC_LOUPE_FRZ 0 (recRelease r (t.wr F.CC_LOUPE_FRZ_freeze 0 0))))
  ∧ (∀ (s : State) (r : Nat), fieldOk r = true → (s.rcdr r).frozen = true →
      exec (.freezeMaxExpire r) s = .next (recRelease r ((s.toWt (s.rcdr r).frzEnd).wr F.CC_LOUPE_FRZ_freeze 0 0)))
  ∧ (∀ (s : State) (r : Nat), (s.rcdr r).frozen = false → exec (.freezeMaxExpire r) s = onUnit (fieldOk r || r == 128) s)

/-- O37. A watchdog that reaches its interval, with the engine not still, suspends the suspect list, counts and records
HANG once; with interval 0 it does nothing. A context change of an engine moves its signal; the same level moves
only the cycle count. The owner's command of each scope starts it and shows the status; an absent engine gives 2,
AON-only operation 5. Returning to service needs phase out of service, else 2; clearing the hold empties the outage
log. An acknowledgement completes the step on the port. A timeout of a step is raised once. COMPLETION: exec answers
a next state, under conditions on the state and the operands alone, for: hang, contextChange, cmdResetContext,
cmdResetEngine, cmdResetPartition, cmdResetWafer, cmdResetPowerCycle, returnToService, clearBudgetHold, resetAck,
resetTimeout. -/
def Obligations.ResetSteps : Prop :=
  (∀ (s t u : State) (e iv : Nat) (w : Wdog), engOk e = true → iv = s.setting (engField e) 3 → t = wdogSync e s →
      w = tget {} t.wdogs e → wdogStill t e = false → w.fired = false → iv ≠ 0 → quarantined t (engCore e) = false →
      oldest u e = none →
      u = (((suspFreeze e { t.toWt (w.base + iv * (100 * us)) with
          wdogs := tput {} t.wdogs e { w with fired := true } }).bump F.CT_WDOG_STAT_hangs (engCt e)).wr
          F.CT_WDOG_STAT_engine (engCt e) (engInCt e)).wr F.CT_WDOG_STAT_context (engCt e) (tget 0 t.ctxSig e % 2 ^ 16) →
      exec (.hang e) s = .next (raiseCt (engCt e)
        { code := Code.HANG, unit := e,
          params := tget 0 t.ctxSig e % 2 ^ 16 + 2 ^ 25 * sat 16 ((u.wt - w.at_) / ms) } u))
  ∧ (∀ (s : State) (e : Nat), engOk e = true → s.setting (engField e) 3 = 0 → exec (.hang e) s = .next (wdogSync e s))
  ∧ (∀ (s : State) (e cyc ctx : Nat) (a : Bool), engOk e = true → s.ctGated (engCt e) = true →
      exec (.contextChange e cyc a ctx) s = .next s)
  ∧ (∀ (s u v : State) (e cyc ctx : Nat), engOk e = true → s.ctGated (engCt e) = false → u = advCyc (engCt e) cyc s →
      tget 0 u.ctxSig e = 0 → ctx < 2 ^ 16 → v = wdogSync e u →
      exec (.contextChange e cyc true ctx) s = .next (let t := suspAdd e ctx (wdogRestart e (traceEv (engCt e) 3 e (ctx + 2 ^ 16)
          { v with ctxSig := tput 0 v.ctxSig e (ctx + 2 ^ 16) }))
        if ctx = 0 then t else barSwitch e t))
  ∧ (∀ (s t : State) (w : Writer) (v n : Nat), Granted s w .CC_RESET_CMD 0 → s.isOwner w = true →
      (bits v 0 3 = 0 → scopeStart 0 (bits v 16 22) (bits v 8 6) (bits v 38 16) 2 s = (n, t) →
        exec (.cmdResetContext w v) s = .next (wrote w .CC_RESET_CMD 0 (t.wr F.CC_RESET_STAT_status 0 n)))
      ∧ (bits v 0 3 = 1 → scopeStart 1 (bits v 16 22) (bits v 8 6) (bits v 38 16) 2 s = (n, t) →
        exec (.cmdResetEngine w v) s = .next (wrote w .CC_RESET_CMD 0 (t.wr F.CC_RESET_STAT_status 0 n)))
      ∧ (bits v 0 3 = 2 → partStart (bits v 8 6) 2 s = (n, t) →
        exec (.cmdResetPartition w v) s = .next (wrote w .CC_RESET_CMD 0 (t.wr F.CC_RESET_STAT_status 0 n)))
      ∧ (bits v 0 3 = 3 → waferStart 2 s = (n, t) →
        exec (.cmdResetWafer w v) s = .next (wrote w .CC_RESET_CMD 0 (t.wr F.CC_RESET_STAT_status 0 n)))
      ∧ (bits v 0 3 = 4 → powerStart 2 s = (n, t) →
        exec (.cmdResetPowerCycle w v) s = .next (wrote w .CC_RESET_CMD 0 (t.wr F.CC_RESET_STAT_status 0 n)))
      ∧ (bits v 0 3 = 5 → returnPart (bits v 8 6) s = (n, t) →
        exec (.returnToService w v) s = .next (wrote w .CC_RESET_CMD 0 (t.wr F.CC_RESET_STAT_status 0 n)))
      ∧ (bits v 0 3 = 6 → s.scrapped = false →
        exec (.clearBudgetHold w v) s = .next (wrote w .CC_RESET_CMD 0
          ((wrPersist F.CC_BUDGET_STAT_hold 0 0 { s with outLog := [] }).wr F.CC_RESET_STAT_status 0 0))))
  ∧ (∀ (s : State) (scope e p ctx req : Nat), scope < 4 → s.aonOnly = true → scopeStart scope e p ctx req s = (5, s))
  ∧ (∀ (s : State) (e p ctx req : Nat), s.aonOnly = false → engOk e = false →
      scopeStart 0 e p ctx req s = (2, s) ∧ scopeStart 1 e p ctx req s = (2, s))
  ∧ (∀ (s : State) (p : Nat), s.aonOnly = false → s.phase p ≠ 5 → returnPart p s = (2, s))
  ∧ (∀ (s t u : State) (e ctx req : Nat), stepRefusal s 0 e ctx = none →
      t = { s with
        rsteps := s.rsteps ++ [RStep.mk 0 e ctx s.wt (if s.ctGated (engCt e) = true then some s.wt else none) false false] } →
      u = wdogSync e (portNext (engCore e) t) →
      scopeStart 0 e e ctx req s = (0, raiseCc
        { code := Code.RESET_STARTED, unit := e,
          params := 2 ^ 3 * s.partOf (engField e) + 2 ^ 9 * t.gen (s.partOf (engField e)) + 2 ^ 17 * req + 2 ^ 32 * ctx } u))
  ∧ (∀ (s t : State) (c : Nat) (r : RStep) (l : List RStep), coreOk c = true → s.ctGated (coreCt c) = false →
      takeFirst (fun (r : RStep) => engCore r.eng == c && r.onPort) s.rsteps = some (r, l) →
      t = portNext c (wdogRestart r.eng (abandonEngine r.eng { s with rsteps := l })) →
      exec (.resetAck c) s = .next (resetDone r.scope (s.partOf (engField r.eng)) (t.gen (s.partOf (engField r.eng)))
        (if r.scope = 0 then r.ctx else 0) r.eng [engField r.eng] t))
  ∧ (∀ (s : State) (c : Nat), coreOk c = true → s.ctGated (coreCt c) = true → exec (.resetAck c) s = .next s)
  ∧ (∀ (s t u : State) (e : Nat) (r : RStep), engOk e = true →
      s.rsteps.find? (fun r => r.scope == 0 && r.eng == e && !r.fired && r.paused.isNone) = some r →
      t = s.toWt (r.base + 2 * ms) →
      u = { t with rsteps := t.rsteps.map (fun (y : RStep) => if y = r then { y with fired := true } else y) } →
      exec (.resetTimeout 0 e) s = .next (resetLate 0 (u.partOf (engField e)) 0 r.ctx e [engField e] u))
  ∧ (∀ (s t : State) (p : Nat) (y : PReset), partOk p = true → s.preset? p = some y → y.kind = .reset → s.phase p ≤ 2 →
      y.fired0 = false → y.paused = none → t = (s.toWt (y.base + 3 * sec)).setPreset p { y with fired0 := true } →
      exec (.resetTimeout 2 p) s = .next (resetLate 2 p 0 0 t.ccUnit (t.fieldsOf p) t))

/-- O38. At T_iso a partition that is isolating is isolated; in another phase nothing changes. Drained, or 20 µs later,
the compute reset is asserted and phase 2 shown. The host's acknowledgement of the request starts retraining; one of
an outage leaves it out of service. When every channel has a training record in use, releasing begins; 12 s after
the acknowledgement RESET_TIMEOUT is raised once. The releasing phase ends in phase 0. A map entry that names a unit
of a partition in service is refused; by another than the owner nothing changes. COMPLETION: exec answers a next
state, under conditions on the state and the operands alone, for: partitionIsolate, resetDrained, partitionResetAck,
retrainDone, retrainTimeout, partitionRelease, partitionMapWrite. -/
def Obligations.PartitionResets : Prop :=
  (∀ (s : State) (p : Nat) (x : PReset), partOk p = true → s.preset? p = some x → s.phase p = 1 → x.iso = false →
      exec (.partitionIsolate p) s = .next (isolate p s))
  ∧ (∀ (s : State) (p : Nat), partOk p = true → s.phase p ≠ 1 → exec (.partitionIsolate p) s = .next s)
  ∧ (∀ (s : State) (p : Nat) (x : PReset), partOk p = true → s.preset? p = some x → s.phase p = 1 → x.iso = true →
      x.kind ≠ .scrub →
      exec (.resetDrained p true) s = .next (({ s with
        prtReq := s.prtReq.filter (· != p) ++ [p]
        prtScrub := s.prtScrub.filter (· != p) } : State).setPhase p 2))
  ∧ (∀ (s t : State) (p : Nat) (x : PReset), partOk p = true → s.preset? p = some x → s.phase p = 1 → x.iso = true →
      x.kind ≠ .scrub → t = s.toWt (x.tIso + 20 * us) →
      exec (.resetDrained p false) s = .next (({ t with
        prtReq := t.prtReq.filter (· != p) ++ [p]
        prtScrub := t.prtScrub.filter (· != p) } : State).setPhase p 2))
  ∧ (∀ (s t : State) (p : Nat) (x : PReset), partOk p = true → s.preset? p = some x → s.phase p = 2 → s.prtReq.contains p = true →
      partGated s p = false → x.kind ≠ .scrub → t = forAll (s.chansOf p) trainRead s →
      (x.kind ≠ .outage → exec (.partitionResetAck p) s = .next (epochSync (wdogSyncAll (((prtDrop p t).setPreset p
          { x with ackAt := some t.wt, left := t.chansOf p }).setPhase p 3))))
      ∧ (x.kind = .outage → exec (.partitionResetAck p) s = .next (epochSync (wdogSyncAll
          ((s.setPreset p { x with ackAt := some s.wt }).setPhase p 5)))))
  ∧ (∀ (s : State) (p : Nat) (x : PReset), partOk p = true → s.preset? p = some x → s.phase p = 3 → x.releasing = false →
      s.aonOnly = false → x.left.all (fun m => trained s m) = true →
      exec (.retrainDone p []) s = .next ((s.setPreset p { x with left := [], full := false, releasing := true }).wr
        F.CC_PART_STAT_full p 0))
  ∧ (∀ (s t : State) (p a : Nat) (x : PReset), partOk p = true → s.preset? p = some x → x.ackAt = some a → s.phase p = 3 →
      x.releasing = false → x.fired1 = false → x.paused = none →
      t = (s.toWt (a + 12 * sec)).setPreset p { x with fired1 := true } →
      exec (.retrainTimeout p) s = .next (resetLate 2 p 1 0 t.ccUnit (t.fieldsOf p) t))
  ∧ (∀ (s : State) (p : Nat) (x : PReset), partOk p = true → s.preset? p = some x → x.releasing = true →
      tfind s.deseals p = none → s.aonOnly = false → x.kind ≠ .scrub →
      exec (.partitionRelease p) s = .next (epochSync (runHolds (partRelease p s))))
  ∧ (∀ (s : State) (p : Nat) (x : PReset), partOk p = true → s.preset? p = some x → x.releasing = false →
      exec (.partitionRelease p) s = .next s)
  ∧ (∀ (s : State) (w : Writer) (j v : Nat), Granted s w .CC_PART_FIELD j → j < 16 → s.isOwner w = true →
      exec (.partitionMapWrite w false j v) s = .next (wrote w .CC_PART_FIELD j
        (forAll (List.range 8) (fun i t => mapEntry false j v i t) s)))
  ∧ (∀ (s : State) (w : Writer) (j v : Nat), s.regReach w .CC_PART_CHAN j = true → s.mayWrite w .CC_PART_CHAN j = false →
      j < 128 → exec (.partitionMapWrite w true j v) s = .next (noRight w .CC_PART_CHAN s))
  ∧ (∀ (s : State) (j v i p q : Nat), p = bits (s.regVal .CC_PART_FIELD j) (8 * i) 8 % 2 ^ 6 → q = bits v (8 * i) 6 →
      fieldOk (8 * j + i) = true → bits (s.regVal .CC_PART_FIELD j) (8 * i) 8 ≠ q → partOk q = true →
      (fieldHeld s (8 * j + i) = false ∨ s.phase q < 4) → mapEntry false j v i s = s.wr F.CC_RESET_STAT_refused 0 1)

/-- O39. A select shows an engine's frozen flag, count, overflow and its context IDs; with release the list is no longer
frozen. A start while a replay is open is refused; with no core of the field fit for it, it ends with outcome 6. A
replay that is not granted in time ends with 6, at its limit, or when the watchdog of an engine of its core expires,
with 2, on replay-done with 1 (or 3 when its core was found at fault meanwhile or has become latent), on
replay-unable with 4, on a cancel with 5. COMPLETION: exec answers a next state, under conditions on the state and
the operands alone, for: suspectSelect, suspectListRelease, creplayStart, creplayCancel, creplayWaitExpire,
creplayLimitExpire, replayDone. -/
def Obligations.SuspectsAndReplays : Prop :=
  (∀ (s t : State) (w : Writer) (k v : Nat) (x : Susp), Granted s w .CT_SUSP_SEL k → ctOk k = true → notTenant w = true →
      bit v 9 = false → x = s.suspOf (512 * k + v % 512) →
      t = s.setReg .CT_SUSP_SEL k (v % 512 + 2 ^ 10 * b2n x.frozen + 2 ^ 11 * x.ids.length + 2 ^ 15 * b2n x.ovf) →
      exec (.suspectSelect w k v) s = .next (wrote w .CT_SUSP_SEL k
        ((t.setReg .CT_SUSP_DATA0 k (leNat (((x.ids.take 4).map (leBytes 2)).flatten))).setReg .CT_SUSP_DATA1 k
          (leNat (((x.ids.drop 4).map (leBytes 2)).flatten)))))
  ∧ (∀ (s t u : State) (w : Writer) (k v e : Nat) (x : Susp), Granted s w .CT_SUSP_SEL k → ctOk k = true → notTenant w = true →
      bit v 9 = true → e = 512 * k + v % 512 → t = s.setSusp e { s.suspOf e with frozen := false } → x = t.suspOf e →
      u = t.setReg .CT_SUSP_SEL k (v % 512 + 2 ^ 10 * b2n x.frozen + 2 ^ 11 * x.ids.length + 2 ^ 15 * b2n x.ovf) →
      exec (.suspectListRelease w k v) s = .next (wrote w .CT_SUSP_SEL k
        ((u.setReg .CT_SUSP_DATA0 k (leNat (((x.ids.take 4).map (leBytes 2)).flatten))).setReg .CT_SUSP_DATA1 k
          (leNat (((x.ids.drop 4).map (leBytes 2)).flatten)))))
  ∧ (∀ (s : State) (w : Writer) (f v : Nat) (x : CRep), Granted s w .FS_CREPLAY_CMD f → fieldOk f = true → notTenant w = true →
      s.fsWorks f = true → tfind s.crep f = some x →
      (bit v 31 = false → exec (.creplayStart w f v) s = .next (wrote w .FS_CREPLAY_CMD f (s.wr F.FS_CREPLAY_STAT_refused f 1)))
      ∧ (bit v 31 = true → exec (.creplayCancel w f v) s = .next (wrote w .FS_CREPLAY_CMD f (crepEnd f 5 false s))))
  ∧ (∀ (s : State) (w : Writer) (f v : Nat), Granted s w .FS_CREPLAY_CMD f → fieldOk f = true → notTenant w = true →
      s.fsWorks f = true → tfind s.crep f = none → bit v 31 = false → s.aonOnly = false →
      witnessOf s (engCore (f * 2 ^ 15 + v % 2 ^ 15)) = none →
      exec (.creplayStart w f v) s = .next (wrote w .FS_CREPLAY_CMD f
        (crepRefuse f (f * 2 ^ 15 + v % 2 ^ 15) (bits v 15 16) 6 0 s)))
  ∧ (∀ (s t u : State) (w : Writer) (f v c : Nat) (x : CRep), Granted s w .FS_CREPLAY_CMD f → fieldOk f = true →
      notTenant w = true → s.fsWorks f = true → tfind s.crep f = none → bit v 31 = false → s.aonOnly = false →
      witnessOf s (engCore (f * 2 ^ 15 + v % 2 ^ 15)) = some c → tryForce c s = (true, t) →
      x = { eng := f * 2 ^ 15 + v % 2 ^ 15, ctx := bits v 15 16, core := c,
            limit := t.wt + t.rd F.FS_CREPLAY_CFG_wait_ms f * ms } →
      u = (t.wr F.FS_CREPLAY_STAT_state f 1).wr F.FS_CREPLAY_STAT_core f (coreIdx c) →
      exec (.creplayStart w f v) s = .next (wrote w .FS_CREPLAY_CMD f
        (({ u with crep := tins u.crep f x } : State).setCore c (raiseReq (u.core c) 2 0 false))))
  ∧ (∀ (s : State) (f : Nat) (x : CRep), fieldOk f = true → tfind s.crep f = some x → x.running = false →
      exec (.creplayWaitExpire f) s = .next (crepEnd f 6 false (s.toWt x.limit))
      ∧ (∀ b, exec (.creplayLimitExpire f b) s = .next s) ∧ (∀ b, exec (.replayDone f b) s = .next s))
  ∧ (∀ (s : State) (f : Nat) (x : CRep), fieldOk f = true → tfind s.crep f = some x → x.running = true →
      exec (.creplayWaitExpire f) s = .next s
      ∧ exec (.creplayLimitExpire f true) s = .next (crepEnd f 2 true (s.toWt x.limit))
      ∧ exec (.creplayLimitExpire f false) s = .next (crepWatchdog f x s)
      ∧ (∀ (t : State) (e b : Nat) (w : Wdog), t = coreWdogs x.core s → nextExpiry t x.core = some (e, b) →
          w = tget {} t.wdogs e → crepWatchdog f x s = crepEnd f 2 false { t.toWt b with
            wdogs := tput {} t.wdogs e { w with fired := true } })
      ∧ (nextExpiry (coreWdogs x.core s) x.core = none → crepWatchdog f x s = coreWdogs x.core s)
      ∧ exec (.replayDone f true) s = .next (crepEnd f 4 false s)
      ∧ exec (.replayDone f false) s = .next (crepEnd f (if x.hit = true ∨ coreLatent s x.core = true then 3 else 1) false s))

/-- O40. A table register of an entry not in use takes the written word; of one in use, or in SCRAPPED, it is refused. A
save with one open sets busy; with no shard it ends with result 11; when a partner is outside it fails with cause
10. The last accepted open starts the drain; a refusal below the quorum fails it with cause 4. A drain waits for
staging buffers; one with a bad block fails it with cause 3, else verification starts with its limit. A mismatch
below the quorum fails it with cause 5; a quorum in every shard builds the manifest, and a quorum of
acknowledgements commits. The limit fails it with cause 6; an abort with 8. A failure discards the receiving slots
this wafer opened for it (log entry 62), is recorded and shown with its cause. COMPLETION: exec answers a next
state, under conditions on the state and the operands alone, for: ckptTableWrite, ckptSave, ckptOpenReply,
ckptDrainDone, ckptVerifyAnswer, ckptManifestAck, ckptAckTimeout, ckptAbort. -/
def Obligations.CheckpointSave : Prop :=
  (∀ (s : State) (w : Writer) (word v : Nat), word < 4 → Granted s w (ckptReg false word) 0 → s.isOwner w = true →
      s.scrapped = false → shardBusy s (s.rd F.CC_CKPT_SHARD_SEL_index) = false →
      exec (.ckptTableWrite w false word v) s = .next (wrote w (ckptReg false word) 0 (showShard { s with
        shards := tput {} s.shards (s.rd F.CC_CKPT_SHARD_SEL_index)
          ((s.shard (s.rd F.CC_CKPT_SHARD_SEL_index)).setWord word (shardWord word v)) })))
  ∧ (∀ (s : State) (w : Writer) (word v : Nat), word < 4 → Granted s w (ckptReg true word) 0 → s.isOwner w = true →
      hostBusy s (s.rd F.CC_CKPT_HOST_SEL_index) = true →
      exec (.ckptTableWrite w true word v) s = .next (wrote w (ckptReg true word) 0
        (s.wr F.CC_CKPT_STAT_refused (s.host (s.rd F.CC_CKPT_HOST_SEL_index)).hPart 1)))
  ∧ (∀ (s : State) (w : Writer) (word v : Nat), word < 4 → Granted s w (ckptReg true word) 0 → s.isOwner w = true →
      s.scrapped = false → hostBusy s (s.rd F.CC_CKPT_HOST_SEL_index) = false →
      exec (.ckptTableWrite w true word v) s = .next (wrote w (ckptReg true word) 0 (showHost { s with
        hosts := tput {} s.hosts (s.rd F.CC_CKPT_HOST_SEL_index)
          ((s.host (s.rd F.CC_CKPT_HOST_SEL_index)).setWord word
            (hostWord word ((s.host (s.rd F.CC_CKPT_HOST_SEL_index)).word word) v)) })))
  ∧ (∀ (s : State) (w : Writer) (v : Nat) (o : Bool) (tab : List MemRd), Granted s w .CC_CKPT_CMD 0 →
      partOk (bits v 3 6) = true → s.ownerOrTenant w (bits v 3 6) = true → s.scrapped = false →
      (ckptOpen s (bits v 3 6) = true →
        exec (.ckptSave w v o tab) s = .next (wrote w .CC_CKPT_CMD 0 (s.wr F.CC_CKPT_STAT_busy (bits v 3 6) 1)))
      ∧ (ckptOpen s (bits v 3 6) = false → tfind s.scrubs (bits v 3 6) = none → partShards s (bits v 3 6) = [] →
        exec (.ckptSave w v o tab) s = .next (wrote w .CC_CKPT_CMD 0
          ((s.wr F.CC_CKPT_STAT_busy (bits v 3 6) 0).wr F.CC_CKPT_STAT_result (bits v 3 6) 11))))
  ∧ (∀ (s t : State) (w : Writer) (v p : Nat) (tab : List MemRd) (l : List (Nat × Words4)), Granted s w .CC_CKPT_CMD 0 →
      p = bits v 3 6 → partOk p = true → s.ownerOrTenant w p = true → s.scrapped = false → ckptOpen s p = false →
      tfind s.scrubs p = none → l = partShards s p → 1 ≤ l.length → l.length ≤ 26 → bits v 13 9 ≤ 256 →
      t = s.wr F.CC_CKPT_STAT_captured p 0 → ckptBar t p l = none →
      exec (.ckptSave w v true tab) s = .next (wrote w .CC_CKPT_CMD 0
        (saveFail p 10 (s.rd F.CC_CKPT_ARG1_d p % 2 ^ 40) t)))
  ∧ (∀ (s t u r : State) (w : Writer) (v p m k a : Nat) (tab : List MemRd) (b : List Byte) (l : List (Nat × Words4)) (x : Save),
      Granted s w .CC_CKPT_CMD 0 →
      p = bits v 3 6 → partOk p = true → s.ownerOrTenant w p = true → s.scrapped = false → ckptOpen s p = false →
      tfind s.scrubs p = none → l = partShards s p → 1 ≤ l.length → l.length ≤ 26 → bits v 13 9 ≤ 256 →
      t = s.wr F.CC_CKPT_STAT_captured p 0 → ckptBar t p l = none →
      l.any (fun e => shardShort (quorum t p) e.2) = false → a = t.rd F.CC_CKPT_ARG2_d p → m = bits a 0 10 →
      (t.chansOf p).contains m = true → bits a 16 29 + 4 ≤ chanBlocks t m →
      readTable m (bits a 16 29) tab [0, 1, 2, 3] t = (some b, u) → u.drawKey = (k, r) →
      x = { buf := bits v 9 1, step := s.rd F.CC_CKPT_ARG1_d p % 2 ^ 40, d := r.rd F.CC_CKPT_ARG0_d p, wt := r.wt,
            gen := r.rd F.CC_PART_STAT_gen p, sealed := r.rb F.CC_PART_SEAL_sealed p, key := 1 + k % (2 ^ 128 - 1),
            streams := readStreams b (bits v 13 9) (r.rd F.CC_CKPT_ARG0_d p),
            shards := l.map (fun e => { idx := e.1, ent := e.2, wait := e.2.partners }) } →
      exec (.ckptSave w v false tab) s = .next (wrote w .CC_CKPT_CMD 0
        (((putSave p x r).wr F.CC_CKPT_STAT_state p 1).wr F.CC_CKPT_STAT_captured p 1)))
  ∧ (∀ (s : State) (p shard partner : Nat) (ok : Bool) (x y : Save), partOk p = true → tfind s.saves p = some x →
      s.rd F.CC_CKPT_STAT_state p = 1 → x.waits shard partner = true →
      y = x.shard shard (fun z => { z with
        wait := z.wait.filter (· != partner)
        acc := if ok = true then z.acc ++ [partner] else z.acc }) →
      (y.shards.any (fun z => z.acc.length + z.wait.length < quorum s p) = true →
        exec (.ckptOpenReply p shard partner ok) s = .next (saveFail p 4 x.step s))
      ∧ (y.shards.any (fun z => z.acc.length + z.wait.length < quorum s p) = false →
          exec (.ckptOpenReply p shard partner ok) s = .next
            (if y.shards.all (fun z => z.wait.isEmpty) = true then (putSave p y s).wr F.CC_CKPT_STAT_state p 2
             else putSave p y s)))
  ∧ (∀ (s t : State) (p : Nat) (l : List MemRd) (x : Save) (ys : List SavShard) (ok : Bool), partOk p = true →
      tfind s.saves p = some x → s.rd F.CC_CKPT_STAT_state p = 2 → drainStalls s = false → stageFree s x.chans = true →
      x.shards.foldl (fun a y =>
        (a.1 ++ [{ y with root := (drainShard x.key x.buf y.ent l a.2.2).1, wait := y.acc }],
          a.2.1 && (drainShard x.key x.buf y.ent l a.2.2).2.1, (drainShard x.key x.buf y.ent l a.2.2).2.2))
        (([] : List SavShard), true, s) = (ys, ok, t) →
      exec (.ckptDrainDone p l) s = .next (if ok = true then
        (putSave p { x with shards := ys, ackEnd := t.wt + max 1 (t.rd F.CC_CKPT_CFG_ack_ms p) * ms } t).wr
          F.CC_CKPT_STAT_state p 3
        else saveFail p 3 x.step t))
  ∧ (∀ (s : State) (p : Nat) (l : List MemRd) (x : Save), partOk p = true → tfind s.saves p = some x →
      stageFree s x.chans = false → exec (.ckptDrainDone p l) s = .next s)
  ∧ (∀ (s : State) (p shard partner : Nat) (ok : Bool) (x y z : Save), partOk p = true → tfind s.saves p = some x →
      s.rd F.CC_CKPT_STAT_state p = 3 → x.waits shard partner = true →
      y = x.shard shard (fun z => { z with
        wait := z.wait.filter (· != partner)
        mat := if ok = true then z.mat ++ [partner] else z.mat }) →
      z = { y with shards := y.shards.map (fun (u : SavShard) => { u with wait := u.mat }) } →
      (y.shards.any (fun z => z.mat.length + z.wait.length < quorum s p) = true →
        exec (.ckptVerifyAnswer p shard partner ok) s = .next (saveFail p 5 x.step s))
      ∧ (y.shards.any (fun z => z.mat.length + z.wait.length < quorum s p) = false →
          y.shards.all (fun z => quorum s p ≤ z.mat.length) = true →
          exec (.ckptVerifyAnswer p shard partner ok) s = .next
            ((putSave p { z with man := manifest (s.rd F.CC_BUILD1_wafer_id) p z false } s).wr F.CC_CKPT_STAT_state p 4)))
  ∧ (∀ (s : State) (p shard partner : Nat) (x y : Save), partOk p = true → tfind s.saves p = some x →
      s.rd F.CC_CKPT_STAT_state p = 4 → x.waits shard partner = true →
      y = x.shard shard (fun z => { z with wait := z.wait.filter (· != partner), ack := z.ack ++ [partner] }) →
      exec (.ckptManifestAck p shard partner) s = .next
        (if y.shards.all (fun z => quorum s p ≤ z.ack.length) = true then saveCommit p y s else putSave p y s))
  ∧ (∀ (s : State) (p : Nat) (x : Save), partOk p = true → tfind s.saves p = some x → 3 ≤ s.rd F.CC_CKPT_STAT_state p →
      drainStalls s = false → exec (.ckptAckTimeout p) s = .next (saveFail p 6 x.step (s.toWt x.ackEnd)))
  ∧ (∀ (s : State) (w : Writer) (v p : Nat), Granted s w .CC_CKPT_CMD 0 → p = bits v 3 6 → partOk p = true →
      s.ownerOrTenant w p = true → exec (.ckptAbort w v) s = .next (wrote w .CC_CKPT_CMD 0 (ckptStop p 8 s)))
  ∧ (∀ (s : State) (p cause step : Nat), saveFail p cause step s = raiseCc
      { code := Code.CKPT_FAILED, unit := (dropHosting p s).ccUnit, params := step % 2 ^ 36 + 2 ^ 36 * cause + 2 ^ 40 * p }
      (ckptResult p 2 cause { dropHosting p s with saves := tdel (dropHosting p s).saves p }))

/-- O41. An open that matches its hosting entry gets the free slot and a yes; another a no, and what is being received
goes on. A block of an open slot is written, digested and counted; one of an entry that hosts nothing changes
nothing. A root that equals the computed one is answered yes; another is answered no and the receiving slot is
discarded (log entry 62). A manifest that checks, of a matched slot, makes that slot the committed one; another is
answered no. A restore request is served from a committed copy, each block of it read (its bytes are free values,
the model's choice, log entry 118), counted and its sleeve checked; without one it is refused. A restore with one
open sets busy; from a partner it waits for the data; the newest of two manifests is that of the higher step;
without an answer of the partner it is refused with cause 6, and in a partition that cannot restore with cause 7.
COMPLETION: exec answers a next state, under conditions on the state and the operands alone, for: ckptOpenArrive,
shadowBlockArrive, ckptRootArrive, ckptManifestArrive, ckptRestore, restoreDataComplete, restoreServeRequest. -/
def Obligations.CheckpointHost : Prop :=
  (∀ (s : State) (h wafer part shard count len key step : Nat) (x : Words4), x = s.host h → x.hValid = true → x.hWafer = wafer →
      x.hPart = part → x.hShard = shard → x.hChans.length = count → len ≤ x.hLen →
      x.hChans.all (fun m => mtOk m && s.chanFree m && !mtOrphan s m) = true → s.aonOnly = false → s.scrapped = false →
      exec (.ckptOpenArrive h wafer part shard count len key step) s = .next (hostSay h true { s with
        hosting := tins (tdel s.hosting h) h
          { slot := if x.hHeld = true then 1 - x.hCommitted else 0, len := len, key := key, step := step } }))
  ∧ (∀ (s : State) (h wafer part shard count len key step : Nat), (s.host h).hWafer ≠ wafer →
      exec (.ckptOpenArrive h wafer part shard count len key step) s =
        .next (hostSay h false s))
  ∧ (∀ (s t u : State) (h k j slv m b : Nat) (data : List Byte) (x : HSess), tfind s.hosting h = some x →
      (s.host h).hChans[k]? = some m → s.aonOnly = false → drainStalls s = false → mtOrphan s m = false → j < x.len →
      stageFree s [m] = true →
      b = (s.host h).hSlot x.slot + j → t = (mtWriteAs true m b slv data s).bumpWrap F.MT_SHADOW_STAT_in m →
      u = (if (slvFog (getSlv t m b) || !slvOk slv) = true then t.bump F.MT_SHADOW_ERR_bad_block m else t) →
      exec (.shadowBlockArrive h k j slv data) s = .next { u with
        hosting := tins (tdel u.hosting h) h { x with
          digs := x.digs.filter (fun d => !(d.1 == k && d.2.1 == j)) ++ [(k, j, blockDigest x.key k j data)] } })
  ∧ (∀ (s : State) (h k j slv : Nat) (data : List Byte), tfind s.hosting h = none →
      exec (.shadowBlockArrive h k j slv data) s = .next s)
  ∧ (∀ (s : State) (h root : Nat) (x : HSess), tfind s.hosting h = some x →
      (hostRoot (s.host h).hChans.length x = some root →
        exec (.ckptRootArrive h root) s = .next (hostSay h true
          { s with hosting := tins (tdel s.hosting h) h { x with matched := true } }))
      ∧ (hostRoot (s.host h).hChans.length x ≠ some root →
        exec (.ckptRootArrive h root) s = .next (hostSay h false { s with hosting := tdel s.hosting h })))
  ∧ (∀ (s : State) (h : Nat) (man : List Byte) (x : HSess), tfind s.hosting h = some x → x.matched = false →
      exec (.ckptManifestArrive h man) s = .next (hostSay h false s))
  ∧ (∀ (s : State) (h m : Nat) (man : List Byte) (x : HSess) (y : Words4) (put : Nat → State → State), tfind s.hosting h = some x →
      x.matched = true → beNat (man.drop 4048) = Config.sha384 (man.take 4048) → y = s.host h → m = y.hChans.headD 0 →
      put = (fun i t => putSlv m (y.hSlot x.slot + y.hLen + i)
        (mkSlv (crc48 (slice man (2048 * i) 2048)) 30 false 1 y.hPart) t) →
      exec (.ckptManifestArrive h man) s = .next (hostSay h true { put 1 (put 0 s) with
        hosts := tput {} s.hosts h { y with w2 := setBits y.w2 61 2 (x.slot % 2 + 2), w3 := x.step }
        copyLen := tput 0 s.copyLen h x.len
        hosting := tdel s.hosting h }))
  ∧ (∀ (s : State) (h : Nat) (x : Words4), x = s.host h → x.hValid = true → x.hHeld = true →
      s.aonOnly = false → x.hChans.all (fun m => !mtOrphan s m) = true →
      exec (.restoreServeRequest h) s = .next (hostSay h true
        (forAll x.hChans (fun m t => forAll (List.range (tget 0 s.copyLen h))
          (fun j t => serveBlock m (x.hSlot x.hCommitted + j) t) t) s)))
  ∧ (∀ (s : State) (h : Nat), (s.host h).hHeld = false →
      exec (.restoreServeRequest h) s = .next (hostSay h false s))
  ∧ (∀ (s t k u : State) (m b v : Nat), t = s.bumpWrap F.MT_SHADOW_STAT_out m → k = (t.drawFree 16384).2 →
      mtRead m b (leBytes 2048 (t.drawFree 16384).1) ((k.drawFree 1).1 == 1) (k.drawFree 1).2 = (v, u) →
      serveBlock m b s = if slvFog v = true then u.bump F.MT_SHADOW_ERR_bad_block m else u)
  ∧ (∀ (s : State) (w : Writer) (v p : Nat), Granted s w .CC_CKPT_CMD 0 → p = bits v 3 6 → partOk p = true →
      s.ownerOrTenant w p = true → s.scrapped = false → ckptOpen s p = true →
      exec (.ckptRestore w v) s = .next (wrote w .CC_CKPT_CMD 0 (s.wr F.CC_CKPT_STAT_busy p 1)))
  ∧ (∀ (s : State) (w : Writer) (v p : Nat) (r : Restore), Granted s w .CC_CKPT_CMD 0 → p = bits v 3 6 → partOk p = true →
      s.ownerOrTenant w p = true → s.scrapped = false → ckptOpen s p = false → tfind s.scrubs p = none →
      restoreBar s p (partShards s p) = none → bits v 11 2 ≠ 0 →
      r = { buf := bits v 9 1, src := bits v 11 2, realign := bit v 10 } →
      exec (.ckptRestore w v) s = .next (wrote w .CC_CKPT_CMD 0
        (({ s with restores := tins s.restores p r } : State).wr F.CC_CKPT_STAT_state p 5)))
  ∧ (∀ (s : State) (p : Nat) (r : Restore) (man : List Byte) (l : List MemRd), partOk p = true →
      tfind s.restores p = some r → drainStalls s = false → stageFree s (partShadowChans s p) = true →
      (r.src = 0 → exec (.restoreDataComplete p true man l) s = .next (restoreRun p r (tget [] s.ckptMan p) l s))
      ∧ (r.src = 1 ∨ r.src = 2 → exec (.restoreDataComplete p true man l) s = .next (restoreRun p r man l s))
      ∧ (r.src = 3 → exec (.restoreDataComplete p true man l) s = .next (restoreRun p r (newestMan (man.take 4096) (man.drop 4096)) l s))
      ∧ (r.src ≠ 0 → exec (.restoreDataComplete p false man l) s = .next (restoreRefuse p 6 0 s)))
  ∧ (∀ a b : List Byte, a ≠ [] → b ≠ [] →
      newestMan a b = if leNat (slice a 16 8) < leNat (slice b 16 8) then b else a)
  ∧ (∀ (s : State) (w : Writer) (v p : Nat) (r : Restore), Granted s w .CC_CKPT_CMD 0 → p = bits v 3 6 → partOk p = true →
      s.ownerOrTenant w p = true → s.scrapped = false → ckptOpen s p = false → tfind s.scrubs p = none →
      (restoreBar s p (partShards s p)).isSome = true → r = { buf := bits v 9 1, src := bits v 11 2, realign := bit v 10 } →
      exec (.ckptRestore w v) s = .next (wrote w .CC_CKPT_CMD 0 (restoreRefuse p 7 0
        (({ s with restores := tins s.restores p r } : State).wr F.CC_CKPT_STAT_state p 5))))

/-- O42. On a disabled channel, or one of another partition, an operation is misuse with cause 0 or 1. A join adds the
engine with no entry. An entry counts for the round, an entry more counts early for the next, a third overruns, with
a pulse on barrier_err. A leave removes the engine; of one that has not joined it is misuse with cause 2. When every
participant has entered, and no release still waits, the sense toggles and the release is applied at every cluster;
else nothing changes. 600 ns after a release and 1.2 µs later the tree's phases follow. A write of the channel's
register clears it. COMPLETION: exec answers a next state, under conditions on the state and the operands alone,
for: barrierJoin, barrierEnter, barrierLeave, barrierRelease, barrierReleaseTimer, barCfgWrite. -/
def Obligations.Barriers : Prop :=
  (∀ (s u : State) (e cyc c r : Nat), engOk e = true → s.ctGated (engCt e) = false → u = advCyc (engCt e) cyc s →
      barBad u e c = some r → exec (.barrierJoin e cyc c) s = .next (barMisuse e c r u)
        ∧ exec (.barrierEnter e cyc c) s = .next (barMisuse e c r u)
        ∧ exec (.barrierLeave e cyc c) s = .next (barMisuse e c r u))
  ∧ (∀ (s : State) (e c : Nat), (barOn s c = false → barBad s e c = some 0)
      ∧ (barOn s c = true → barPart s c ≠ s.partOf (engField e) → barBad s e c = some 1)
      ∧ (barOn s c = true → barPart s c = s.partOf (engField e) → barBad s e c = none))
  ∧ (∀ (s u : State) (e cyc c : Nat), engOk e = true → s.ctGated (engCt e) = false → u = advCyc (engCt e) cyc s →
      barBad u e c = none → tfind u.bars (barKey e c) = none →
      exec (.barrierJoin e cyc c) s = .next (putBar e c {} u)
      ∧ exec (.barrierEnter e cyc c) s = .next u
      ∧ exec (.barrierLeave e cyc c) s = .next (barMisuse e c 2 u))
  ∧ (∀ (s u : State) (e cyc c k r : Nat), engOk e = true → s.ctGated (engCt e) = false → u = advCyc (engCt e) cyc s →
      barBad u e c = none → tfind u.bars (barKey e c) = some ⟨k, r⟩ →
      exec (.barrierJoin e cyc c) s = .next u
      ∧ exec (.barrierLeave e cyc c) s = .next { u with bars := tdel u.bars (barKey e c) }
      ∧ (k = 0 → exec (.barrierEnter e cyc c) s = .next (traceEv (engCt e) 4 e c (putBar e c ⟨1, (r + 1) % 4⟩ u)))
      ∧ (k = 1 → exec (.barrierEnter e cyc c) s = .next (raiseCt (engCt e)
          { code := Code.BARRIER_EARLY, unit := e, params := c + 2 ^ 5 * ((r + 1) % 4) }
          (traceEv (engCt e) 4 e c (putBar e c ⟨2, (r + 1) % 4⟩ (u.bump F.CT_BAR_STAT_early (engCt e))))))
      ∧ (2 ≤ k → exec (.barrierEnter e cyc c) s = .next (raiseCt (engCt e)
          { code := Code.BARRIER_OVERRUN, unit := e, params := c + 2 ^ 5 * r }
          (barErrPulse e (u.bump F.CT_BAR_STAT_overrun (engCt e))))))
  ∧ (∀ (s t : State) (c : Nat) (l : List (Nat × BarPart)), l = barMembers s c → s.aonOnly = false → barOn s c = true → l ≠ [] →
      l.all (fun e => decide (1 ≤ e.2.k)) = true → (tget {} s.barCh c : BarCh).phase = 0 →
      l.any (fun e => tget false s.barWait (32 * engCt (e.1 / 32) + c)) = false →
      t = { s with
        barSense := tput false s.barSense c (!tget false s.barSense c)
        barCh := tput {} s.barCh c { phase := 1, at_ := s.wt } } →
      exec (.barrierRelease c) s = .next (forAll (barClusters s c) (fun k u =>
        if u.ctGated k = true then { u with barWait := tput false u.barWait (32 * k + c) true } else barApply k c u) t))
  ∧ (∀ (s : State) (c : Nat), (barMembers s c).any (fun e => e.2.k == 0) = true ∨ barOn s c = false →
      exec (.barrierRelease c) s = .next s)
  ∧ (∀ (s : State) (c : Nat) (x : BarCh), x = tget {} s.barCh c →
      (x.phase = 1 → exec (.barrierReleaseTimer c) s =
        .next { s.toWt (x.at_ + 600) with barCh := tput {} s.barCh c { x with phase := 2 } })
      ∧ (x.phase = 2 → exec (.barrierReleaseTimer c) s =
        .next { s.toWt (x.at_ + 1800) with barCh := tdel s.barCh c }))
  ∧ (∀ (s : State) (w : Writer) (c v : Nat), Granted s w .CC_BAR_CFG c → c < 32 → notTenant w = true →
      exec (.barCfgWrite w c v) s = .next (wrote w .CC_BAR_CFG c
        (barClear c ((s.wr F.CC_BAR_CFG_enable c (v % 2)).wr F.CC_BAR_CFG_partition c (bits v 1 6)))))

/-- O43. A write of the owner or the CC sequencer. A stop with one in progress is refused with reason 1, in AON-only
operation with 2; else T_stop is fixed and announced. A cancel with no stop gives reason 3, after the sample 5, else
it cancels. Freeze, release and resume with no stop in force give reason 3; a freeze raises the wire and takes a
planned T_run back; a release drops it; a resume of a frozen wafer gives 4, else fixes T_run. A joined stop and a
joined resume are also sent to the peers with their lead. A force release needs the owner. COMPLETION: exec answers
a next state, under conditions on the state and the operands alone, for: stopRequest, stopCancel, stopFreeze,
stopRelease, stopResume, forceRelease. -/
def Obligations.StopCommands : Prop :=
  (∀ (s : State) (w : Writer) (j f : Bool), Granted s w .CC_STOP_CMD 0 → (s.isOwner w = true ∨ isSeq w 128 = true) →
      exec (.stopRequest w j f) s = .next (wrote w .CC_STOP_CMD 0 (stopRequest j f s))
      ∧ (s.stop.isSome = true → stopRequest j f s = stopRefuse 1 s)
      ∧ (s.stop = none → s.aonOnly = true → stopRequest j f s = stopRefuse 2 s)
      ∧ (∀ id, s.stop = none → s.aonOnly = false → id = s.rd F.CC_BUILD1_wafer_id + 2 ^ 10 * (s.stopCount % 64) →
          stopRequest false f s = stopOpen { id := id, tStop := s.wt + localLead s, joined := false, freeze := f, late := false }
            { s with stopCount := s.stopCount + 1 }
          ∧ ∀ lead, lead = max (s.rd F.CC_STOP_CFG_join_lead_us * us) minLead →
            stopRequest true f s = ltControlAll none 0 id lead (stopOpen
              { id := id, tStop := s.wt + lead, joined := true, freeze := f, late := false }
              { s with stopCount := s.stopCount + 1, joinIds := (id :: s.joinIds).take 16 })))
  ∧ (∀ (s : State) (w : Writer), Granted s w .CC_STOP_CMD 0 → (s.isOwner w = true ∨ isSeq w 128 = true) →
      (s.stop = none → exec (.stopCancel w) s = .next (wrote w .CC_STOP_CMD 0 (stopRefuse 3 s)))
      ∧ (∀ x, s.stop = some x → x.sampled = true → exec (.stopCancel w) s = .next (wrote w .CC_STOP_CMD 0 (stopRefuse 5 s)))
      ∧ (∀ x, s.stop = some x → x.sampled = false → exec (.stopCancel w) s = .next (wrote w .CC_STOP_CMD 0 (stopCancel 0 s))))
  ∧ (∀ (s : State) (w : Writer), Granted s w .CC_STOP_CMD 0 → (s.isOwner w = true ∨ isSeq w 128 = true) → inForce s = none →
      exec (.stopFreeze w) s = .next (wrote w .CC_STOP_CMD 0 (stopRefuse 3 s))
      ∧ exec (.stopRelease w) s = .next (wrote w .CC_STOP_CMD 0 (stopRefuse 3 s))
      ∧ exec (.stopResume w) s = .next (wrote w .CC_STOP_CMD 0 (stopRefuse 3 s)))
  ∧ (∀ (s : State) (w : Writer) (x : Stop), Granted s w .CC_STOP_CMD 0 → (s.isOwner w = true ∨ isSeq w 128 = true) →
      inForce s = some x →
      exec (.stopFreeze w) s = .next (wrote w .CC_STOP_CMD 0 (stopState 3 { s with
        freezeWire := true
        stop := some { x with tRun := none, auto := false } }))
      ∧ (s.freezeWire = true → exec (.stopRelease w) s = .next (wrote w .CC_STOP_CMD 0
          (stopState 2 { s with freezeWire := false })))
      ∧ (s.freezeWire = false → exec (.stopRelease w) s = .next (wrote w .CC_STOP_CMD 0 s))
      ∧ (s.freezeWire = true → exec (.stopResume w) s = .next (wrote w .CC_STOP_CMD 0 (stopRefuse 4 s)))
      ∧ (s.freezeWire = false → s.aonOnly = false → x.tRun = none → exec (.stopResume w) s = .next (wrote w .CC_STOP_CMD 0
          (resumeForward none x (s.wt + localLead s) (stopState 4 { s with
            stop := some { x with tRun := some (s.wt + localLead s), auto := false } })))))
  ∧ (∀ (s : State) (w : Writer), Granted s w .CC_STOP_CMD 0 →
      (s.isOwner w = true → exec (.forceRelease w) s = .next (wrote w .CC_STOP_CMD 0 (forceRelease s)))
      ∧ (s.isOwner w = false → exec (.forceRelease w) s = .next (wrote w .CC_STOP_CMD 0 s)
          ∧ (isSeq w 128 = false → ∀ j f, exec (.stopRequest w j f) s = .next (wrote w .CC_STOP_CMD 0 s))))

/-- O44. An announcement makes a reached tap quiet. At the sample every reachable tap is quiet, or the stop is cancelled
with cause 1. At T_stop the clusters gate. A peer's marker closes its port. The capture window ends once with
STOP_DONE. A ping sets a trained port's latency. A join seen before changes nothing; one not accepted is counted;
another opens a joined stop and goes on to the other peers. A joined resume and the end of max_ms fix T_run; at
T_run the clusters ungate, and 1 µs later the wire drops. A sheet without a frozen wafer is refused; an abort ends
one as aborted; a complete one ends it, truncated when the region is too small. COMPLETION: exec answers a next
state, under conditions on the state and the operands alone, for: stopAnnounceArrive, stopSample, stopGate,
joinArrive, stopMarkArrive, captureWindowExpire, linkLatencyPing, stopAutoResume, resumeArrive, stopRun,
stopWireDrop, sheetCapture, sheetAbort, sheetComplete. -/
def Obligations.StopCourse : Prop :=
  (∀ (s : State) (k f : Nat) (x : Stop), unitPresent (ctUnit k) = true → unitKind (ctUnit k) = 1 → unitType (ctUnit k) = 2 →
      unitInst (ctUnit k) = k → s.stop = some x → unitField (ctUnit k) = some f → x.sampled = false → s.fieldLive f = true →
      exec (.stopAnnounceArrive (ctUnit k)) s = .next
        (({ s.toWt (x.tStop - localLead s) with stopWire := true } : State).wr F.CT_STOP_STAT_quiet k 1))
  ∧ (∀ (s t : State) (x : Stop), s.stop = some x → x.sampled = false → s.aonOnly = false → t = { s.toWt (x.tStop - 300) with stopWire := true } →
      exec .stopSample s = .next (if tapsQuiet t = true then { t with stop := some { x with sampled := true } }
        else stopCancel 1 t))
  ∧ (∀ (s : State) (txs : List MtTx), s.aonOnly = false → exec (.stopGate txs) s = .next (gate false txs s))
  ∧ (∀ (s : State) (txs : List MtTx), s.stop = none → gate false txs s = s)
  ∧ (∀ (s : State) (l id : Nat) (x : Stop), ltOk l = true → s.stop = some x → x.joined = true → x.id = id → x.done = false →
      x.tRun = none → exec (.stopMarkArrive l id) s = .next (s.wr F.LT_STOP_STAT_closed l 1))
  ∧ (∀ (s : State) (x : Stop), inForce s = some x →
      (x.done = false → exec .captureWindowExpire s = .next (captureEnd x s))
      ∧ (x.done = true → exec .captureWindowExpire s = .next s))
  ∧ (∀ (s : State) (l rtt turn : Nat), ltOk l = true → tget false s.ltUp l = true →
      exec (.linkLatencyPing l rtt turn) s = .next (s.wr F.LT_STOP_STAT_lat_ns l (sat 16 ((rtt - turn) / 2))))
  ∧ (∀ (s : State) (l id lead : Nat), ltOk l = true →
      (s.joinIds.contains id = true → exec (.joinArrive l id lead) s = .next s)
      ∧ (s.joinIds.contains id = false → s.rd F.CC_STOP_CFG_accept_joined = 0 →
          exec (.joinArrive l id lead) s = .next
            (({ s with joinIds := (id :: s.joinIds).take 16 } : State).bump F.LT_STOP_STAT_joins_ignored l))
      ∧ (s.joinIds.contains id = false → s.rd F.CC_STOP_CFG_accept_joined ≠ 0 → s.stop = none → s.aonOnly = false →
          minLead ≤ lead - s.rd F.LT_STOP_STAT_lat_ns l →
          exec (.joinArrive l id lead) s = .next (ltControlAll (some l) 0 id (lead - s.rd F.LT_STOP_STAT_lat_ns l) (stopOpen
            { id := id, tStop := s.wt + (lead - s.rd F.LT_STOP_STAT_lat_ns l), joined := true, freeze := false, late := false }
            { s with joinIds := (id :: s.joinIds).take 16 }))))
  ∧ (∀ (s : State) (l id lead : Nat) (x : Stop), ltOk l = true → inForce s = some x →
      (s.freezeWire = true → exec (.resumeArrive l id lead) s = .next s)
      ∧ (∀ t, s.freezeWire = false → x.id = id → x.tRun = none → s.aonOnly = false →
          t = s.wt + max minLead (lead - s.rd F.LT_STOP_STAT_lat_ns l) →
          exec (.resumeArrive l id lead) s = .next (resumeForward (some l) x t (resumeAt t false x s))))
  ∧ (∀ (s t : State) (x : Stop), inForce s = some x → s.freezeWire = false → x.tRun = none → s.aonOnly = false →
      t = s.toWt (x.tStop + max 1 (s.rd F.CC_STOP_CFG_max_ms) * ms) →
      exec .stopAutoResume s = .next (resumeAt (t.wt + localLead t) true x t))
  ∧ (∀ (s : State) (x : Stop) (d : Nat), inForce s = some x → x.tRun = some d → s.aonOnly = false →
      exec .stopRun s = .next (ungate false x (s.toWt d)))
  ∧ (∀ (s : State) (x : Stop) (d : Nat), s.stop = some x → x.tRun = some d → x.gated = false →
      exec .stopWireDrop s = .next (stopState 0 { s.toWt (d + 1000) with stop := none, stopWire := false }))
  ∧ (∀ (s : State) (w : Writer) (v : Nat), Granted s w .CC_SHEET_CMD 0 → s.isOwner w = true → bits v 0 2 = 1 →
      (inForce s = none ∨ s.freezeWire = false ∨ s.sheet.isSome = true) →
      exec (.sheetCapture w v) s = .next (wrote w .CC_SHEET_CMD 0 (s.wr F.CC_SHEET_STAT_refused 0 1)))
  ∧ (∀ (s : State) (w : Writer), Granted s w .CC_SHEET_CMD 0 → s.isOwner w = true →
      (s.sheet.isSome = true → exec (.sheetAbort w) s = .next (wrote w .CC_SHEET_CMD 0
        (sheetEnd 0 (s.rd F.CC_SHEET_STAT_blocks) false true s)))
      ∧ (s.sheet = none → exec (.sheetAbort w) s = .next (wrote w .CC_SHEET_CMD 0 s)))
  ∧ (∀ (s : State) (w : Writer) (v : Nat) (x : Sheet), Granted s w .CC_SHEET_CMD 0 → s.isOwner w = true → bits v 0 2 = 1 →
      (inForce s).isSome = true → s.freezeWire = true → s.sheet = none → bit v 2 = true →
      (List.range Config.nPart).any (fun p => s.sealed p) = false →
      x = { all := bit v 3, part := bits v 4 6, content := bits v 10 4, dest := 1, auto := bit v 14, desealed := false } →
      exec (.sheetCapture w v) s = .next (wrote w .CC_SHEET_CMD 0 (epochSync (sheetCheck
        (({ (s.wr F.CC_SHEET_STAT_blocks 0 0).wr F.CC_SHEET_STAT_truncated 0 0 with sheet := some x } : State).wr
          F.CC_SHEET_STAT_state 0 1)))))
  ∧ (∀ (s : State) (n need : Nat) (x : Sheet), s.rd F.CC_SHEET_STAT_state = 2 → s.aonOnly = false → s.sheet = some x →
      (x.dest = 0 → sheetCap s < need → exec (.sheetComplete n need) s = .next (sheetEnd n (sheetCap s) true false s))
      ∧ (x.dest ≠ 0 ∨ need ≤ sheetCap s → exec (.sheetComplete n need) s = .next (sheetEnd n need false false s)))

/-- O45. A write of the lifecycle that is not the owner's, not confirmed, not one step forward and not to SCRAPPED
changes nothing; one to a state before RMA takes effect at once: fuse, taint of every partition, LIFECYCLE_CHANGED.
One to RMA or SCRAPPED while a partition is sealed waits for its deseal. The trust group is taken only from the
owner and while nothing is sealed; while a port is up its peer's group is kept and the own group is sent to it. A
region of a channel with a key is left as it is; otherwise the word is written unless it makes a bad region. The key
commands begin, take 8 bytes, load and abort: a blob with a wrong header gives reason 1, an unknown nonce reason 2,
another epoch reason 3; a checked key fills the slot, seals the partition and reaches its channels. COMPLETION: exec
answers a next state, under conditions on the state and the operands alone, for: lifecycleTransition,
trustGroupWrite, trustGroupSend, keyBegin, keyData, keyLoad, keyAbort, sealRegionWrite. -/
def Obligations.SealLifecycleAndKeys : Prop :=
  (∀ (s : State) (w : Writer) (v : Nat), Granted s w .CC_LIFECYCLE 0 →
      (s.isOwner w = false ∨ bits v 16 8 ≠ 0xA5 ∨ (bits v 8 3 ≠ s.lifecycle + 1 ∧ bits v 8 3 ≠ 4) ∨ s.lifecycle = 4 ∨
        s.lifeNext.isSome = true) →
      exec (.lifecycleTransition w v) s = .next (wrote w .CC_LIFECYCLE 0 s))
  ∧ (∀ (s t : State) (w : Writer) (v : Nat), Granted s w .CC_LIFECYCLE 0 → s.isOwner w = true → bits v 16 8 = 0xA5 →
      s.lifeNext = none → bits v 8 3 = s.lifecycle + 1 → bits v 8 3 < 3 →
      t = forAll (List.range Config.nPart) taint (({ s with
          lifeNext := none } : State).wr F.CC_LIFECYCLE_state 0 (s.lifecycle + 1)) →
      exec (.lifecycleTransition w v) s = .next (wrote w .CC_LIFECYCLE 0 (epochSync (imgVerSync (raiseCc
        { code := Code.LIFECYCLE_CHANGED, unit := t.ccUnit,
          params := s.lifecycle + 2 ^ 3 * (s.lifecycle + 1) + 2 ^ 6 * masterNum w } t)))))
  ∧ (∀ (s t : State) (w : Writer) (v : Nat), Granted s w .CC_LIFECYCLE 0 → s.isOwner w = true → bits v 16 8 = 0xA5 →
      s.lifeNext = none → s.lifecycle < 4 → bits v 8 3 = 4 → t = lifecycleClear s → t.deseals ≠ [] →
      exec (.lifecycleTransition w v) s = .next (wrote w .CC_LIFECYCLE 0 (epochSync { t with
        lifeNext := some (4, masterNum w) })))
  ∧ (∀ (s : State) (w : Writer) (v : Nat),
      (Granted s w .CC_TRUST_GROUP 0 → s.isOwner w = true → (∀ p, p < Config.nPart → s.sealed p = false) →
        exec (.trustGroupWrite w v) s = .next (wrote w .CC_TRUST_GROUP 0
          (epochSync (wrPersist F.CC_TRUST_GROUP_group 0 (bits v 0 16) s))))
      ∧ (s.regReach w .CC_TRUST_GROUP 0 = true → s.mayWrite w .CC_TRUST_GROUP 0 = false →
        exec (.trustGroupWrite w v) s = .next (noRight w .CC_TRUST_GROUP s)))
  ∧ (∀ (s : State) (w : Writer) (v p : Nat), Granted s w .CC_TRUST_GROUP 0 → p < Config.nPart → s.sealed p = true →
      exec (.trustGroupWrite w v) s = .next (wrote w .CC_TRUST_GROUP 0 s))
  ∧ (∀ (s : State) (l peer : Nat), ltOk l = true →
      (tget false s.ltUp l = true →
        exec (.trustGroupSend l peer) s = .next (ltControl l 3 (s.rd F.CC_TRUST_GROUP_group) 0
          ((s.wr F.LT_TRUST_peer l peer).wr F.LT_TRUST_known l 1)))
      ∧ (tget false s.ltUp l = false → exec (.trustGroupSend l peer) s = .next s))
  ∧ (∀ (s t : State) (w : Writer) (m i v : Nat), Granted s w .MT_SEAL_RGN_A (8 * m + i) → mtOk m = true → i < 8 →
      (s.rb F.MT_SEAL_STAT_key m = true →
        exec (.sealRegionWrite w m i false v) s = .next (wrote w .MT_SEAL_RGN_A (8 * m + i) s))
      ∧ (s.rb F.MT_SEAL_STAT_key m = false → s.isOwner w = true → (s.chanFree m = true ∨ s.sealed (s.partOfChan m) = false) →
        t = ((s.wr F.MT_SEAL_RGN_A_base (8 * m + i) (bits v 0 29)).wr F.MT_SEAL_RGN_A_valid (8 * m + i) (bits v 29 1)).wr
          F.MT_SEAL_RGN_A_region_id (8 * m + i) (bits v 32 32) →
        (rgnValid t m i = true → regionBad t m i = true →
          exec (.sealRegionWrite w m i false v) s = .next (wrote w .MT_SEAL_RGN_A (8 * m + i) s))
        ∧ ((rgnValid t m i = true → regionBad t m i = false) →
          exec (.sealRegionWrite w m i false v) s = .next (wrote w .MT_SEAL_RGN_A (8 * m + i) { t with
            noKey := tdel t.noKey (8 * m + i) }))))
  ∧ (∀ (s t : State) (w : Writer) (m i v : Nat), Granted s w .MT_SEAL_RGN_B (8 * m + i) → mtOk m = true → i < 8 →
      s.rb F.MT_SEAL_STAT_key m = false → s.isOwner w = true → (s.chanFree m = true ∨ s.sealed (s.partOfChan m) = false) →
      t = (s.wr F.MT_SEAL_RGN_B_length (8 * m + i) (bits v 0 29)).wr F.MT_SEAL_RGN_B_tag_base (8 * m + i) (bits v 32 29) →
      (rgnValid t m i = true → regionBad t m i = false) →
      exec (.sealRegionWrite w m i true v) s = .next (wrote w .MT_SEAL_RGN_B (8 * m + i) { t with
        noKey := tdel t.noKey (8 * m + i) }))
  ∧ (∀ (s : State) (w : Writer) (p : Nat), Granted s w .CC_KEY_CMD 0 → partOk p = true → p < 64 →
      s.ownerOrTenant w p = true →
      exec (.keyBegin w p) s = .next (wrote w .CC_KEY_CMD 0 ((({ s with
        keyRecv := some (p, []) } : State).wr F.CC_KEY_STAT_state 0 1).wr F.CC_KEY_STAT_received 0 0))
      ∧ exec (.keyAbort w p) s = .next (wrote w .CC_KEY_CMD 0 (({ s with
        keyRecv := none } : State).wr F.CC_KEY_STAT_state 0 0)))
  ∧ (∀ (s : State) (w : Writer) (v p : Nat) (l : List Byte), Granted s w .CC_KEY_DATA 0 → s.keyRecv = some (p, l) →
      s.ownerOrTenant w p = true → l.length ≤ 192 →
      exec (.keyData w v) s = .next (wrote w .CC_KEY_DATA 0 (({ s with
        keyRecv := some (p, l ++ leBytes 8 v) } : State).bump F.CC_KEY_STAT_received 0 8)))
  ∧ (∀ (s : State) (w : Writer) (v : Nat), Granted s w .CC_KEY_DATA 0 → s.keyRecv = none →
      exec (.keyData w v) s = .next (wrote w .CC_KEY_DATA 0 s))
  ∧ (∀ (s t : State) (w : Writer) (p r : Nat) (l : List Byte), Granted s w .CC_KEY_CMD 0 → partOk p = true → p < 64 →
      s.ownerOrTenant w p = true → s.keyRecv = some (p, l) → t = epochSync s → keyCheck p l t = .error r →
      exec (.keyLoad w p) s = .next (wrote w .CC_KEY_CMD 0 (raiseCc
        { code := Code.KEY_REFUSED, unit := t.ccUnit, params := p + 2 ^ 6 * r + 2 ^ 10 * entryByte0 t p }
        (((({ t with keyRecv := none } : State).wr F.CC_KEY_STAT_state 0 0).wr F.CC_KEY_STAT_reason 0 r).wr
          F.CC_KEY_STAT_refused 0 1))))
  ∧ (∀ (s t u v : State) (w : Writer) (p k : Nat) (l : List Byte), Granted s w .CC_KEY_CMD 0 → partOk p = true → p < 64 →
      s.ownerOrTenant w p = true → s.keyRecv = some (p, l) → t = epochSync s → keyCheck p l t = .ok k →
      u = { t with
        keyRecv := none
        keySlots := tput 0 t.keySlots p (k % 2 ^ 256 + 1)
        linkBlk := t.linkBlk.filter (fun e => e.1 % 64 != p) } →
      v = forAll ((( u.wr F.CC_KEY_STAT_state 0 0).wr F.CC_PART_SEAL_sealed p 1).chansOf p)
        (fun m t => t.wr F.MT_SEAL_STAT_key m 1) ((u.wr F.CC_KEY_STAT_state 0 0).wr F.CC_PART_SEAL_sealed p 1) →
      exec (.keyLoad w p) s = .next (wrote w .CC_KEY_CMD 0 (epochSync (injCancelPart p (raiseCc
        { code := Code.KEY_LOADED, unit := v.ccUnit,
          params := p + 2 ^ 6 * b2n (t.sealed p) + 2 ^ 7 * t.rd F.CC_PART_SEAL_epoch p } v)))))
  ∧ (∀ (s : State) (w : Writer) (p : Nat), Granted s w .CC_KEY_CMD 0 → partOk p = true → p < 64 →
      s.ownerOrTenant w p = false →
      exec (.keyBegin w p) s = .next (wrote w .CC_KEY_CMD 0 s) ∧ exec (.keyLoad w p) s = .next (wrote w .CC_KEY_CMD 0 s)
      ∧ exec (.keyAbort w p) s = .next (wrote w .CC_KEY_CMD 0 s))
  ∧ (∀ (s : State) (p : Nat) (l : List Byte), l.length ≠ 192 → keyCheck p l s = .error 1)
  ∧ (∀ (s : State) (p : Nat) (l : List Byte), l.length = 192 → leNat (l.take 4) = 0x574B5931 → leNat (slice l 4 1) = 1 →
      leNat (slice l 5 1) = p →
      (nonceOf s (leNat (slice l 8 32)) = none → keyCheck p l s = .error 2)
      ∧ (∀ x, nonceOf s (leNat (slice l 8 32)) = some x →
          s.wt ≤ x.wt + max 1 (s.rd F.CC_SEAL_CFG_nonce_s) * sec → x.epochs.getD p 0 ≠ s.rd F.CC_PART_SEAL_epoch p →
          keyCheck p l s = .error 3))

/-- O46. Debug of a partition that is not sealed takes effect at once, with taint and DEBUG_CHANGED; of a sealed one it
first deseals: the key slot is emptied, sealed reads 0, the channels drop the key, the partition is tainted, its
proof-path blocks are zeroed and the host is asked to clear the SRAM. A write of 0 ends debug. The acknowledgement
records DESEAL and lets debug take effect; an absent one is recorded once. A scrub empties the partition's trace and
starts in the isolating phase, ends incomplete (clearing the region entries once it has begun to isolate) on an
abort, on no acknowledgement in 3 s or on a block that reads wrong; its passes wait for staging buffers and advance
the phase, and the last clears the region entries and releases. A command that is not the owner's changes nothing.
COMPLETION: exec answers a next state, under conditions on the state and the operands alone, for: debugEnable,
debugDisable, sramClearAck, sramClearTimeout, scrubStart, scrubAbort, scrubPhaseDone, scrubAckTimeout. -/
def Obligations.SealDebugAndScrub : Prop :=
  (∀ (s : State) (w : Writer) (p : Nat), partOk p = true → s.regReach w .CC_PART_SEAL p = true →
      s.mayWrite w .CC_PART_SEAL p = false → exec (.debugEnable w p) s = .next (noRight w .CC_PART_SEAL s)
        ∧ exec (.debugDisable w p) s = .next (noRight w .CC_PART_SEAL s))
  ∧ (∀ (s : State) (w : Writer) (p : Nat), Granted s w .CC_PART_SEAL p → partOk p = true →
      (s.isOwner w = true → s.rb F.CC_PART_SEAL_debug p = true →
        exec (.debugEnable w p) s = .next (wrote w .CC_PART_SEAL p (epochSync s)))
      ∧ (s.isOwner w = true → s.rb F.CC_PART_SEAL_debug p = false → s.scrapped = false → s.sealed p = false →
          tfind s.deseals p = none →
        exec (.debugEnable w p) s = .next (wrote w .CC_PART_SEAL p (epochSync (raiseCc
          { code := Code.DEBUG_CHANGED, unit := s.ccUnit, params := p + 2 ^ 6 + 2 ^ 7 * masterNum w }
          (taint p (s.wr F.CC_PART_SEAL_debug p 1))))))
      ∧ (s.isOwner w = true → s.rb F.CC_PART_SEAL_debug p = false → s.scrapped = false → s.sealed p = true →
          tfind s.deseals p = none → (s.wr F.CC_PART_SEAL_desealing p 1).aonOnly = false →
        exec (.debugEnable w p) s = .next (wrote w .CC_PART_SEAL p (epochSync
          (desealRun p ({ cause := 0, debug := some (masterNum w) } : Deseal) (s.wr F.CC_PART_SEAL_desealing p 1)))))
      ∧ (s.isOwner w = true → tfind s.deseals p = none → s.rb F.CC_PART_SEAL_debug p = true →
        exec (.debugDisable w p) s = .next (wrote w .CC_PART_SEAL p (epochSync (raiseCc
          { code := Code.DEBUG_CHANGED, unit := s.ccUnit, params := p + 2 ^ 7 * masterNum w }
          (s.wr F.CC_PART_SEAL_debug p 0)))))
      ∧ (s.isOwner w = true → tfind s.deseals p = none → s.rb F.CC_PART_SEAL_debug p = false →
        exec (.debugDisable w p) s = .next (wrote w .CC_PART_SEAL p (epochSync s))))
  ∧ (∀ (s t u : State) (p : Nat) (x : Deseal),
      t = ({ s with keySlots := tdel s.keySlots p } : State).wr F.CC_PART_SEAL_sealed p 0 →
      u = zeroProofPath p (zeroSealed p (taint p (forAll (t.chansOf p) (fun m t => t.wr F.MT_SEAL_STAT_key m 0) t))) →
      desealRun p x s = { u with
        deseals := tins (tdel u.deseals p) p { x with
          asked := true
          due := u.wt + max 1 (u.rd F.CC_SEAL_CFG_clear_ms) * ms } })
  ∧ (∀ (s t u : State) (p : Nat) (x : Deseal), partOk p = true → tfind s.deseals p = some x → x.asked = true →
      t = ({ s with deseals := tdel s.deseals p } : State).wr F.CC_PART_SEAL_desealing p 0 →
      u = raiseCc { code := Code.DESEAL, unit := t.ccUnit, params := p + 2 ^ 6 * x.cause } t →
      u.sheet = none → u.lifeNext = none → tfind u.scrubs p = none → x.debug = none →
      exec (.sramClearAck p) s = .next (epochSync u))
  ∧ (∀ (s : State) (p : Nat), partOk p = true → tfind s.deseals p = none →
      exec (.sramClearAck p) s = .next s ∧ exec (.sramClearTimeout p) s = .next s)
  ∧ (∀ (s t : State) (p : Nat) (x : Deseal), partOk p = true → tfind s.deseals p = some x → t = s.toWt x.due →
      (x.asked = true → x.late = false →
        exec (.sramClearTimeout p) s = .next (raiseCc { code := Code.SRAM_CLEAR_TIMEOUT, unit := t.ccUnit, params := p }
          { t with deseals := tins (tdel t.deseals p) p { x with late := true } }))
      ∧ (x.late = true → exec (.sramClearTimeout p) s = .next s))
  ∧ (∀ (s : State) (w : Writer) (p : Nat), partOk p = true → s.regReach w .CC_SCRUB_CMD 0 = true →
      s.mayWrite w .CC_SCRUB_CMD 0 = false → exec (.scrubStart w p) s = .next (noRight w .CC_SCRUB_CMD s)
        ∧ exec (.scrubAbort w p) s = .next (noRight w .CC_SCRUB_CMD s))
  ∧ (∀ (s : State) (w : Writer) (p : Nat), Granted s w .CC_SCRUB_CMD 0 → partOk p = true → p < 64 →
      (s.isOwner w = true → exec (.scrubStart w p) s = .next (wrote w .CC_SCRUB_CMD 0 (epochSync (scrubStart p s))))
      ∧ (s.isOwner w = true → scrubbing s p = true →
        exec (.scrubAbort w p) s = .next (wrote w .CC_SCRUB_CMD 0 (epochSync (scrubFail p 1 0 s))))
      ∧ (s.isOwner w = true → scrubbing s p = false →
        exec (.scrubAbort w p) s = .next (wrote w .CC_SCRUB_CMD 0 s)))
  ∧ (∀ (s : State) (p : Nat), (s.scrapped = true ∨ scrubbing s p = true ∨ (s.phase p ≠ 0 ∧ s.phase p ≠ 4)) →
      scrubStart p s = s)
  ∧ (∀ (s t u v : State) (p : Nat), s.scrapped = false → scrubbing s p = false → (s.phase p = 0 ∨ s.phase p = 4) →
      s.aonOnly = false →
      t = setScrubPhase p 0 ((wrPersist F.CC_SCRUB_STAT_state p 1 { s with
        scrubs := tins s.scrubs p {} }).wr F.CC_SCRUB_STAT_cause p 0) →
      t.aonOnly = false → (t.chansOf p).find? (mtOrphan t) = none →
      t.rb F.CC_TRACE_CFG_enable p = false →
      v = ckptStop p 8 ((({ t with traceW := tdel t.traceW p } : State).wr F.CC_TRACE_HEAD_head p 0).wr
        F.CC_TRACE_TAIL_tail p 0) →
      u = setScrubPhase p 0 { v with scrubs := tins (tdel v.scrubs p) p {} } →
      u.sealed p = false → tfind u.deseals p = none →
      scrubStart p s = isolateStart p .scrub (setScrubPhase p 1 u))
  ∧ (∀ (s t u : State) (p cause chan : Nat),
      u = (if 1 ≤ s.rd F.CC_SCRUB_STAT_phase p then clearRegions p s else s) →
      t = (wrPersist F.CC_SCRUB_STAT_state p 3 { u with
        scrubs := tdel u.scrubs p }).wr F.CC_SCRUB_STAT_cause p cause →
      scrubFail p cause chan s = scrubRelease p (raiseCc
        { code := Code.SCRUB_INCOMPLETE, unit := t.ccUnit,
          params := p + 2 ^ 6 * cause + 2 ^ 10 * s.rd F.CC_SCRUB_STAT_phase p + 2 ^ 13 * chan } t))
  ∧ (∀ (s : State) (p : Nat) (y : Scrub) (x : PReset), partOk p = true → tfind s.scrubs p = some y → s.preset? p = some x →
      x.kind = .scrub → s.rd F.CC_SCRUB_STAT_phase p = 1 → x.paused = none →
      exec (.scrubAckTimeout p) s = .next (epochSync (scrubFail p 2 0 (s.toWt (x.base + 3 * sec)))))
  ∧ (∀ (s : State) (p : Nat), partOk p = true → tfind s.scrubs p = none →
      exec (.scrubAckTimeout p) s = .next s ∧ ∀ bad, exec (.scrubPhaseDone p bad) s = .next s)
  ∧ (∀ (s : State) (p : Nat) (y : Scrub) (x : PReset), partOk p = true → tfind s.scrubs p = some y → s.preset? p = some x →
      x.kind = .scrub → s.aonOnly = false → drainStalls s = false →
      (stageFree s (s.chansOf p) = false → ∀ bad, exec (.scrubPhaseDone p bad) s = .next s)
      ∧ (stageFree s (s.chansOf p) = true →
        ((s.rd F.CC_SCRUB_STAT_phase p = 2 ∨ s.rd F.CC_SCRUB_STAT_phase p = 3) →
        exec (.scrubPhaseDone p none) s = .next (setScrubPhase p (s.rd F.CC_SCRUB_STAT_phase p + 1) s))
      ∧ (s.rd F.CC_SCRUB_STAT_phase p = 4 → ∀ bad,
        exec (.scrubPhaseDone p bad) s = .next (setScrubPhase p 5 { s with
          slvRand := s.slvRand.filter (fun e => !(s.chansOf p).contains e.1) }))
      ∧ (s.rd F.CC_SCRUB_STAT_phase p = 5 →
        exec (.scrubPhaseDone p none) s = .next (scrubRelease p (setScrubPhase p 6 (clearRegions p s))))
      ∧ ((s.rd F.CC_SCRUB_STAT_phase p = 3 ∨ s.rd F.CC_SCRUB_STAT_phase p = 5) → ∀ m,
        exec (.scrubPhaseDone p (some m)) s = .next (scrubFail p 3 m s))))

/-- O47. GET_VERSION answers versions 1.2 and 1.3 and opens the connection, whatever went before. Until GET_VERSION
after a CC swap every other request is answered with RequestResynch; out of order it is unexpected. Capabilities and
algorithms advance the connection; the digest, the certificate, the challenge and the measurements answer as the
tables say, sign with the identity key and use a fresh nonce; index 0xFF gives all nine blocks and, when signed,
keeps the nonce with WT and every partition's epoch. Every other request is unsupported. The message layouts are
those of the named standard, presumed (log entry 40). COMPLETION: exec answers a next state, under conditions on the
state and the operands alone, for: getVersion, getCapabilities, negotiateAlgorithms, getDigests, getCertificate,
challenge, getMeasurements, spdmUnsupported. -/
def Obligations.SpdmResponder : Prop :=
  (∀ (s : State), exec .getVersion s = .next { s with
      spdm := 1
      spdmVer := 0
      spdmOut := [0x10, 0x04, 0, 0, 0, 2, 0x00, 0x12, 0x00, 0x13] })
  ∧ (∀ (s : State) (ver code slot off len i : Nat) (b : Bool) (n : List Byte), s.spdm = 4 →
      exec (.getCapabilities ver) s = .next (spdmErr ver 0x43 0 s)
      ∧ exec (.negotiateAlgorithms ver) s = .next (spdmErr ver 0x43 0 s)
      ∧ exec (.getDigests ver) s = .next (spdmErr ver 0x43 0 s)
      ∧ exec (.getCertificate ver slot off len) s = .next (spdmErr ver 0x43 0 s)
      ∧ exec (.challenge ver slot b n) s = .next (spdmErr ver 0x43 0 s)
      ∧ exec (.getMeasurements ver b i n) s = .next (spdmErr ver 0x43 0 s)
      ∧ exec (.spdmUnsupported ver code) s = .next (spdmErr ver 0x43 0 s))
  ∧ (∀ (s : State) (ver slot off len i : Nat) (b : Bool) (n : List Byte), s.spdm = 0 →
      exec (.getCapabilities ver) s = .next (spdmErr ver 0x04 0 s)
      ∧ exec (.negotiateAlgorithms ver) s = .next (spdmErr ver 0x04 0 s)
      ∧ exec (.getDigests ver) s = .next (spdmErr ver 0x04 0 s)
      ∧ exec (.getCertificate ver slot off len) s = .next (spdmErr ver 0x04 0 s)
      ∧ exec (.challenge ver slot b n) s = .next (spdmErr ver 0x04 0 s)
      ∧ exec (.getMeasurements ver b i n) s = .next (spdmErr ver 0x04 0 s))
  ∧ (∀ (s : State) (ver code : Nat), s.spdm ≠ 4 → exec (.spdmUnsupported ver code) s = .next { s with
      spdmOut := leBytes 1 ver ++ [0x7F] ++ leBytes 1 0x07 ++ leBytes 1 code })
  ∧ (∀ (s t u : State) (ver ct mx : Nat), s.spdm ≠ 0 → s.spdm ≠ 4 → (ver = 0x12 ∨ ver = 0x13) →
      s.drawFree 8 = (ct, t) → t.drawFree 32 = (mx, u) →
      exec (.getCapabilities ver) s = .next { u with
        spdm := 2
        spdmVer := ver
        spdmOut := leBytes 1 ver ++ [0x61, 0, 0, 0] ++ leBytes 1 ct ++ leBytes 2 0 ++ leBytes 4 0x20016 ++ leBytes 4 4096
          ++ leBytes 4 mx })
  ∧ (∀ (s : State), 2 ≤ s.spdm → s.spdm ≠ 4 → exec (.negotiateAlgorithms s.spdmVer) s = .next { s with
      spdm := 3
      spdmOut := leBytes 1 s.spdmVer ++ [0x63, 0, 0] ++ leBytes 2 36 ++ [1, 0] ++ leBytes 4 1 ++ leBytes 4 0x80
        ++ leBytes 4 2 ++ leBytes 16 0 })
  ∧ (∀ (s : State) (ver : Nat), 3 ≤ s.spdm → s.spdm ≠ 4 → ver ≠ s.spdmVer →
      exec (.getDigests ver) s = .next (spdmErr s.spdmVer 0x41 0 s))
  ∧ (∀ (s : State), s.spdm = 3 → exec (.getDigests s.spdmVer) s = .next { s with
      spdmOut := leBytes 1 s.spdmVer ++ [0x01, 0, 1] ++ beBytes 48 (Config.sha384 Config.certChain) })
  ∧ (∀ (s : State) (off len n : Nat), s.spdm = 3 → off ≤ Config.certChain.length →
      n = min len (min (Config.certChain.length - off) 4088) →
      exec (.getCertificate s.spdmVer 0 off len) s = .next { s with
        spdmOut := leBytes 1 s.spdmVer ++ [0x02, 0, 0] ++ leBytes 2 n ++ leBytes 2 (Config.certChain.length - off - n)
          ++ (Config.certChain.drop off).take n })
  ∧ (∀ (s : State) (slot off len : Nat) (b : Bool) (n : List Byte), s.spdm = 3 → slot ≠ 0 →
      exec (.getCertificate s.spdmVer slot off len) s = .next (spdmErr s.spdmVer 0x01 0 s)
      ∧ exec (.challenge s.spdmVer slot b n) s = .next (spdmErr s.spdmVer 0x01 0 s))
  ∧ (∀ (s t : State) (b : Bool) (nonce n h body : List Byte), s.spdm = 3 → spdmNonce s = (n, t) →
      h = (if b = true then beBytes 48 (Config.sha384 ((List.range 9).map (fun i => measBlock t (i + 1))).flatten) else []) →
      body = leBytes 1 s.spdmVer ++ [0x03, 0, 1] ++ beBytes 48 (Config.sha384 Config.certChain) ++ n ++ h ++ leBytes 2 0 →
      exec (.challenge s.spdmVer 0 b nonce) s = .next { t with
        spdmOut := body ++ Config.ecdsaSign 0 (nonce ++ body) })
  ∧ (∀ (s : State) (b : Bool) (i : Nat) (nonce : List Byte), s.spdm = 3 → 9 < i → i ≠ 0xFF →
      exec (.getMeasurements s.spdmVer b i nonce) s = .next (spdmErr s.spdmVer 0x01 0 s))
  ∧ (∀ (s t u : State) (b : Bool) (i : Nat) (nonce n rec body : List Byte), s.spdm = 3 → 1 ≤ i → i ≤ 9 →
      t = epochSync s → rec = measBlock t i → spdmNonce t = (n, u) →
      body = leBytes 1 s.spdmVer ++ [0x60] ++ leBytes 1 0 ++ [0] ++ leBytes 1 1 ++ leBytes 3 rec.length ++ rec ++ n
        ++ leBytes 2 0 →
      exec (.getMeasurements s.spdmVer b i nonce) s = .next { u with
        spdmOut := body ++ if b = true then Config.ecdsaSign 0 (nonce ++ body) else [] })
  ∧ (∀ (s t u : State) (nonce n rec body : List Byte), s.spdm = 3 → t = epochSync s →
      rec = ((List.range 9).map (fun i => measBlock t (i + 1))).flatten → spdmNonce t = (n, u) →
      body = leBytes 1 s.spdmVer ++ [0x60] ++ leBytes 1 0 ++ [0] ++ leBytes 1 9 ++ leBytes 3 rec.length ++ rec ++ n
        ++ leBytes 2 0 →
      exec (.getMeasurements s.spdmVer true 0xFF nonce) s = .next { u with
        nonces := (Nonce.mk (leNat (nonce.take 32)) u.wt
          ((List.range Config.nPart).map (fun p => u.rd F.CC_PART_SEAL_epoch p)) :: u.nonces).take 16
        spdmOut := body ++ Config.ecdsaSign 0 (nonce ++ body) })

/-- O48. A CT's report moves its ten counts to its FS, and nothing when it cannot travel; an FS's credits the partition
and the wafer with the field's counts, with those of its MTs and LTs, and shows the oldest report. A selection by a
master or sequencer with a right captures the counter, sum or programmable counter; by another it only counts a
denial. Writing a counter's configuration clears it; clearing clears all 32 and sets freeze. COMPLETION: exec
answers a next state, under conditions on the state and the operands alone, for: safelightCtReport,
safelightFsReport, safeSelect, ccSafeSelect, pcntSelect, pcntCfgWrite, pcntClear. -/
def Obligations.SafelightAndCounters : Prop :=
  (∀ (s : State) (k : Nat), ctOk k = true →
      (s.fieldLive (ctField k) = true → ctQuiet s k = false →
        exec (.safelightCtReport k) s = .next (forAll (List.range 10) (fun i t => { t with
          safeCt := tdel t.safeCt (16 * k + i)
          safeFs := tput 0 t.safeFs (16 * ctField k + i)
            (tget 0 t.safeFs (16 * ctField k + i) + tget 0 t.safeCt (16 * k + i)) }) s))
      ∧ ((s.fieldLive (ctField k) = false ∨ ctQuiet s k = true) → exec (.safelightCtReport k) s = .next s))
  ∧ (∀ (s : State) (f : Nat), fieldOk f = true → s.fieldLive f = false → exec (.safelightFsReport f) s = .next s)
  ∧ (∀ (s t u v : State) (f : Nat), fieldOk f = true → s.fieldLive f = true →
      t = forAll (List.range 10) (fun i t => safeCredit 64 i (tget 0 t.safeFs (16 * f + i))
        (safeCredit (s.partOf f) i (tget 0 t.safeFs (16 * f + i)) { t with
          safeFs := tdel t.safeFs (16 * f + i) })) s →
      u = forAll (mtsOf f) (fun m t => if s.chanFree m = true then
          safeCredit 64 4 (tget 0 t.safeTap m) { t with safeTap := tdel t.safeTap m }
        else safeCredit (s.partOfChan m) 4 (tget 0 t.safeTap m)
          (safeCredit 64 4 (tget 0 t.safeTap m) { t with safeTap := tdel t.safeTap m })) t →
      v = forAll (ltsOf f) (fun l t => safeCredit 64 4 (tget 0 t.safeTap (1024 + l)) { t with
          safeTap := tdel t.safeTap (1024 + l) }) u →
      exec (.safelightFsReport f) s = .next (
        let z : State := { v with safeAt := tput 0 v.safeAt f s.wt }
        z.setReg .CC_SAFE_AT 0 (((List.range Config.nField).filter z.fsWorks).foldl
          (fun a g => min a (tget 0 z.safeAt g)) s.wt)))
  ∧ (∀ (s : State) (w : Writer) (k v : Nat), ctOk k = true →
      (Granted s w .CT_SAFE_SEL k → obsOk s w (s.partOf (ctField k)) = true →
        exec (.safeSelect w k v) s = .next (wrote w .CT_SAFE_SEL k
          ((s.wr F.CT_SAFE_SEL_index k (bits v 0 4)).wr F.CT_SAFE_VAL_value k (tget 0 s.safe (16 * k + bits v 0 4)))))
      ∧ (s.regReach w .CT_SAFE_SEL k = true → s.mayWrite w .CT_SAFE_SEL k = false →
        exec (.safeSelect w k v) s = .next s.denied))
  ∧ (∀ (s : State) (w : Writer) (v : Nat), Granted s w .CC_SAFE_SEL 0 → s.isOwner w = true →
      (bits v 8 7 = 127 → exec (.ccSafeSelect w v) s = .next (wrote w .CC_SAFE_SEL 0
        (((s.wr F.CC_SAFE_SEL_index 0 (bits v 0 4)).wr F.CC_SAFE_SEL_scope 0 127).wr F.CC_SAFE_VAL_value 0
          (tget 0 s.safeSum (1024 + bits v 0 4)))))
      ∧ (bits v 8 7 < 64 → exec (.ccSafeSelect w v) s = .next (wrote w .CC_SAFE_SEL 0
        (((s.wr F.CC_SAFE_SEL_index 0 (bits v 0 4)).wr F.CC_SAFE_SEL_scope 0 (bits v 8 7)).wr F.CC_SAFE_VAL_value 0
          (tget 0 s.safeSum (16 * bits v 8 7 + bits v 0 4))))))
  ∧ (∀ (s : State) (p v : Nat), Granted s (.tenant p) .CC_SAFE_SEL 0 → s.isOwner (.tenant p) = false → bits v 8 7 ≠ p →
      exec (.ccSafeSelect (.tenant p) v) s = .next (wrote (.tenant p) .CC_SAFE_SEL 0 s.denied))
  ∧ (∀ (s : State) (w : Writer) (k v : Nat), Granted s w .CT_PCNT_SEL k → ctOk k = true →
      obsOk s w (s.partOf (ctField k)) = true →
      exec (.pcntSelect w k v) s = .next (wrote w .CT_PCNT_SEL k (
        let c := tget {} s.pcnt (32 * k + bits v 0 5)
        ((((s.wr F.CT_PCNT_SEL_counter k (bits v 0 5)).setReg .CT_PCNT_CFG k c.cfg).wr F.CT_PCNT_VAL_value k c.value).wr
          F.CT_PCNT_VAL_wrapped k (b2n c.wrapped)))))
  ∧ (∀ (s : State) (w : Writer) (k v c : Nat), Granted s w .CT_PCNT_CFG k → ctOk k = true →
      obsOk s w (s.partOf (ctField k)) = true → c = setBits v 31 1 0 % 2 ^ 64 →
      exec (.pcntCfgWrite w k v) s = .next (wrote w .CT_PCNT_CFG k (({ s with
        pcnt := tput {} s.pcnt (32 * k + s.rd F.CT_PCNT_SEL_counter k) ⟨c, 0, false⟩ } : State).setReg .CT_PCNT_CFG k c)))
  ∧ (∀ (s : State) (w : Writer) (k v : Nat), Granted s w .CT_PCNT_CTL k → ctOk k = true →
      obsOk s w (s.partOf (ctField k)) = true →
      (bit v 0 = true → exec (.pcntClear w k v) s = .next (wrote w .CT_PCNT_CTL k
        (forAll (List.range 32) (fun j t => { t with
          pcnt := tput {} t.pcnt (32 * k + j) { tget {} t.pcnt (32 * k + j) with
            value := 0
            wrapped := false } })
          (s.wr F.CT_PCNT_CTL_freeze k (bits v 1 1)))))
      ∧ (bit v 0 = false → exec (.pcntClear w k v) s = .next (wrote w .CT_PCNT_CTL k
        (s.wr F.CT_PCNT_CTL_freeze k (bits v 1 1)))))

/-- O49. Enabling trace of a partition whose ring is allowed zeroes head and tail; with a ring that is not, trace stays
as it was and the refusal is recorded; a write without a right is denied. A mark is written while trace is on, by
the owner or the tenant. A record that reaches the writer is placed in the block, or counted lost; the block is
written when it is full or 50 µs after its first record: padded to 128 records, its sleeve made of its checksum, and
head moved on by 128. COMPLETION: exec answers a next state, under conditions on the state and the operands alone,
for: traceEnable, traceMark, traceBlockWrite, traceRecordArrive. -/
def Obligations.TraceWriting : Prop :=
  (∀ (s t : State) (w : Writer) (p v : Nat), Granted s w .CC_TRACE_CFG p → partOk p = true → s.isOwner w = true →
      t = (s.wr F.CC_TRACE_CFG_stop_mode p (bits v 1 1)).wr F.CC_TRACE_CFG_events p (bits v 8 7) →
      (bit v 0 = false → exec (.traceEnable w p v) s = .next (wrote w .CC_TRACE_CFG p (t.wr F.CC_TRACE_CFG_enable p 0)))
      ∧ (bit v 0 = true → ringOk s p = true → exec (.traceEnable w p v) s = .next (wrote w .CC_TRACE_CFG p
        (((({ t with traceW := tdel t.traceW p } : State).wr F.CC_TRACE_CFG_enable p 1).wr F.CC_TRACE_HEAD_head p 0).wr
          F.CC_TRACE_TAIL_tail p 0)))
      ∧ (bit v 0 = true → ringOk s p = false → exec (.traceEnable w p v) s = .next (wrote w .CC_TRACE_CFG p
        ((traceDisable p 2 t).wr F.CC_TRACE_CFG_enable p (s.rd F.CC_TRACE_CFG_enable p)))))
  ∧ (∀ (s : State) (w : Writer) (p v : Nat), s.regReach w .CC_TRACE_CFG p = true → s.mayWrite w .CC_TRACE_CFG p = false →
      partOk p = true → exec (.traceEnable w p v) s = .next s.denied)
  ∧ (∀ (s : State) (w : Writer) (p v : Nat), Granted s w .CC_TRACE_MARK p → partOk p = true → s.ownerOrTenant w p = true →
      (s.rb F.CC_TRACE_CFG_enable p = true → exec (.traceMark w p v) s = .next (wrote w .CC_TRACE_MARK p
        (writerTake p ⟨s.wt, 7, 0, v % 2 ^ 48⟩ s)))
      ∧ (s.rb F.CC_TRACE_CFG_enable p = false → exec (.traceMark w p v) s = .next (wrote w .CC_TRACE_MARK p s)))
  ∧ (∀ (s : State) (w : Writer) (p v : Nat), s.regReach w .CC_TRACE_MARK p = true → s.mayWrite w .CC_TRACE_MARK p = false →
      partOk p = true → exec (.traceMark w p v) s = .next s.denied)
  ∧ (∀ (s : State) (p : Nat) (r : TRec), writerOk s p = false → writerTake p r s = ({ s with
      traceW := tput ({} : TWriter) s.traceW p { s.trW p with
        lost := (s.trW p).lost + 1 } } : State).bump F.CC_TRACE_STAT_lost p)
  ∧ (∀ (s : State) (p : Nat) (r : TRec), twf ({} : TWriter) s.traceW = true → writerOk s p = true → (s.trW p).lost = 0 →
      (s.trW p).recs ≠ [] → (s.trW p).recs.length < 127 →
      ((writerTake p r s).trW p).recs = (s.trW p).recs ++ [r] ∧ ((writerTake p r s).trW p).lost = 0
      ∧ ((writerTake p r s).trW p).firstWt = (s.trW p).firstWt)
  ∧ (∀ (s : State) (p : Nat), partOk p = true → (s.trW p).recs = [] → exec (.traceBlockWrite p) s = .next s)
  ∧ (∀ (s t : State) (p : Nat) (bytes : List Byte), partOk p = true → (s.trW p).recs ≠ [] →
      t = s.toWt ((s.trW p).firstWt + 50 * us) → writerOk t p = true →
      bytes = (((t.trW p).recs ++ List.replicate (128 - (t.trW p).recs.length) (TRec.mk t.wt 15 0 0)).map TRec.bytes).flatten →
      exec (.traceBlockWrite p) s = .next (putSlv (ringBlock t p (t.rd F.CC_TRACE_HEAD_head p / 128)).1
        (ringBlock t p (t.rd F.CC_TRACE_HEAD_head p / 128)).2 (mkSlv (crc48 bytes) 30 false 1 p)
        (({ t with
          traceW := tput ({} : TWriter) t.traceW p { lost := (t.trW p).lost }
          traceOut := tput [] t.traceOut p bytes } : State).wr F.CC_TRACE_HEAD_head p (t.rd F.CC_TRACE_HEAD_head p + 128))))
  ∧ (∀ (s : State) (k : Nat), ctOk k = true → s.trQ k = [] → exec (.traceRecordArrive k) s = .next s)
  ∧ (∀ (s : State) (k : Nat) (r : TRec) (q : List TRec), ctOk k = true → s.trQ k = r :: q →
      (s.fieldLive (ctField k) = true → ctQuiet s k = false →
        exec (.traceRecordArrive k) s = .next (writerTake (s.partOf (ctField k)) r (setTrQ k q s)))
      ∧ (ctQuiet s k = true → exec (.traceRecordArrive k) s = .next s))

/-- O50. Writing a selector stores the index and captures what it names into its data registers: an engine's ledger, a
latent entry, a fence-list entry (zero past the entries in use), a shard or hosting entry, the end of a start-up
step, a unit's self-test result, the home of a tap, an archive word with its wear. A write without a right to the
selector changes nothing, or counts a denial. COMPLETION: exec answers a next state, under conditions on the state
and the operands alone, for: ledgerSelect, fixSelect, fenceIndexSelect, shardSelect, hostSelect, bootSelect,
bistSelect, homeSelect, archiveSelect. -/
def Obligations.SelectorCaptures : Prop :=
  (∀ (s : State) (w : Writer) (f v : Nat), fieldOk f = true →
      (Granted s w .FS_LEDGER_SEL f → obsOk s w (s.partOf f) = true →
        exec (.ledgerSelect w f v) s = .next (wrote w .FS_LEDGER_SEL f
        (ledgerShow f (2 ^ 15 * f + bits v 0 15) (s.wr F.FS_LEDGER_SEL_engine f (bits v 0 15)))))
      ∧ (s.regReach w .FS_LEDGER_SEL f = true → s.mayWrite w .FS_LEDGER_SEL f = false →
        exec (.ledgerSelect w f v) s = .next s.denied))
  ∧ (∀ (s : State) (f e : Nat), engOk e = true → ledgerShow f e s =
      (((s.setReg .FS_LEDGER_DATA0 f (tget {} s.ledger e).lastWt).setReg .FS_LEDGER_DATA1 f
          ((tget {} s.ledger e).retired % 2 ^ 32 + 2 ^ 32 * ((tget {} s.ledger e).proved % 2 ^ 32))).setReg .FS_LEDGER_DATA2 f
          ((tget {} s.ledger e).checked % 2 ^ 32 + 2 ^ 32 * ((tget {} s.ledger e).unchecked % 2 ^ 32))).setReg
        .FS_LEDGER_DATA3 f ((tget {} s.ledger e).epochProved % 2 ^ 32 + 2 ^ 32 * b2n (tget {} s.ledger e).epochActive
          + 2 ^ 33 * (s.core (engCore e)).st + 2 ^ 36 * b2n (tget {} s.ledger e).overdue
          + 2 ^ 37 * b2n (tget {} s.ledger e).epochOverdue + 2 ^ 48 * (tget {} s.ledger e).fails))
  ∧ (∀ (s : State) (w : Writer) (f v : Nat), fieldOk f = true →
      (Granted s w .FS_FIX_SEL f → notTenant w = true →
        exec (.fixSelect w f v) s = .next (wrote w .FS_FIX_SEL f
        ((s.wr F.FS_FIX_SEL_entry f (bits v 0 6)).setReg .FS_FIX_DATA f (fixWord s f (bits v 0 6)))))
      ∧ (s.regReach w .FS_FIX_SEL f = true → s.mayWrite w .FS_FIX_SEL f = false →
        exec (.fixSelect w f v) s = .next (noRight w .FS_FIX_SEL s)))
  ∧ (∀ (s : State) (w : Writer) (v : Nat), Granted s w .CC_FENCE_IDX 0 → notTenant w = true →
      (bits v 0 13 < s.flogUsed → exec (.fenceIndexSelect w v) s = .next (wrote w .CC_FENCE_IDX 0
        ((s.wr F.CC_FENCE_IDX_index 0 (bits v 0 13)).wr F.CC_FENCE_ENTRY_entry 0 (logEntry s (bits v 0 13)))))
      ∧ (s.flogUsed ≤ bits v 0 13 → exec (.fenceIndexSelect w v) s = .next (wrote w .CC_FENCE_IDX 0
        ((s.wr F.CC_FENCE_IDX_index 0 (bits v 0 13)).wr F.CC_FENCE_ENTRY_entry 0 0))))
  ∧ (∀ (s : State) (w : Writer) (v : Nat),
      (Granted s w .CC_CKPT_SHARD_SEL 0 → s.isOwner w = true → exec (.shardSelect w v) s = .next (wrote w .CC_CKPT_SHARD_SEL 0
        (showShard (s.wr F.CC_CKPT_SHARD_SEL_index 0 (bits v 0 F.CC_CKPT_SHARD_SEL_index.w)))))
      ∧ (s.regReach w .CC_CKPT_SHARD_SEL 0 = true → s.mayWrite w .CC_CKPT_SHARD_SEL 0 = false →
        exec (.shardSelect w v) s = .next (noRight w .CC_CKPT_SHARD_SEL s)))
  ∧ (∀ (s : State) (w : Writer) (v : Nat),
      (Granted s w .CC_CKPT_HOST_SEL 0 → s.isOwner w = true → exec (.hostSelect w v) s = .next (wrote w .CC_CKPT_HOST_SEL 0
        (showHost (s.wr F.CC_CKPT_HOST_SEL_index 0 (bits v 0 F.CC_CKPT_HOST_SEL_index.w)))))
      ∧ (s.regReach w .CC_CKPT_HOST_SEL 0 = true → s.mayWrite w .CC_CKPT_HOST_SEL 0 = false →
        exec (.hostSelect w v) s = .next (noRight w .CC_CKPT_HOST_SEL s)))
  ∧ (∀ (s : State) (w : Writer) (v : Nat),
      (Granted s w .CC_BOOT_SEL 0 → notTenant w = true → exec (.bootSelect w v) s = .next (wrote w .CC_BOOT_SEL 0
        ((s.wr F.CC_BOOT_SEL_step 0 (bits v 0 4)).wr F.CC_BOOT_T_wt 0 (tget 0 s.boot.ends (bits v 0 4)))))
      ∧ (s.regReach w .CC_BOOT_SEL 0 = true → s.mayWrite w .CC_BOOT_SEL 0 = false →
        exec (.bootSelect w v) s = .next (noRight w .CC_BOOT_SEL s)))
  ∧ (∀ (s : State) (w : Writer) (v : Nat) (r : W64 × W64), Granted s w .CC_BIST_SEL 0 → notTenant w = true →
      tfind s.bist (bits v 0 24) = some r →
      exec (.bistSelect w v) s = .next (wrote w .CC_BIST_SEL 0 (((s.wr F.CC_BIST_SEL_unit 0 (bits v 0 24)).setReg
        .CC_BIST_DATA0 0 r.1.toNat).setReg .CC_BIST_DATA1 0 r.2.toNat)))
  ∧ (∀ (s : State) (w : Writer) (v : Nat), Granted s w .CC_BIST_SEL 0 → notTenant w = true →
      tfind s.bist (bits v 0 24) = none → bistRan s (bits v 0 24) = false →
      exec (.bistSelect w v) s = .next (wrote w .CC_BIST_SEL 0 (((s.wr F.CC_BIST_SEL_unit 0 (bits v 0 24)).setReg
        .CC_BIST_DATA0 0 0).setReg .CC_BIST_DATA1 0 0)))
  ∧ (∀ (s : State) (w : Writer) (v : Nat), Granted s w .CC_HOME_SEL 0 → notTenant w = true →
      exec (.homeSelect w v) s = .next (wrote w .CC_HOME_SEL 0 (((s.wr F.CC_HOME_SEL_index 0 (bits v 0 10)).wr
        F.CC_HOME_SEL_kind 0 (bits v 10 1)).setReg .CC_HOME_DATA 0 (homeWord (bit v 10) (bits v 0 10)))))
  ∧ (∀ m : Nat, mtOk m = true → homeWord false m = Config.mtHome m + 2 ^ 8 * Config.mtStack m + 2 ^ 31)
  ∧ (∀ (s t : State) (w : Writer) (v : Nat) (bad ue : Bool), Granted s w .CC_ARCH_SEL 0 → s.isOwner w = true →
      archRead (bits v 0 15) bad (s.wr F.CC_ARCH_SEL_word 0 (bits v 0 15)) = (ue, t) →
      exec (.archiveSelect w v bad) s = .next (wrote w .CC_ARCH_SEL 0
        ((t.setReg .CC_ARCH_DATA 0 (tget 0 t.arch (bits v 0 15)).toNat).setReg .CC_ARCH_WEAR 0
          (tget 0 t.wear (bits v 0 15) + 2 ^ 17 * b2n (decide (wearLimit ≤ tget 0 t.wear (bits v 0 15))) + 2 ^ 18 * b2n ue))))
  ∧ (∀ (s : State) (w : Writer) (v : Nat) (bad : Bool), s.regReach w .CC_ARCH_SEL 0 = true →
      s.mayWrite w .CC_ARCH_SEL 0 = false → exec (.archiveSelect w v bad) s = .next (noRight w .CC_ARCH_SEL s))

/-- O51. Power-up and a supply reset have one effect; it keeps the queue, the archive, the firmware and the pack, drops
every tile, and WT starts again (its steps 1 and 2 at their typical times, log entry 10). Each later event acts only
in its own step: it stores the step's end and starts the next. Self-test chooses CC-A unless it fails, with both
lost the service level is 0 and start-up stops. A core that does not grant is released and recorded. The set that
step 8 forms is driven by the port. A passing image ends an FS's wait; the third bad copy leaves it on the reference
program. A report of a channel takes it off the list; the limit ends the step. Release waits for the fence updates
of the fields; it sets the done time, records BOOT_DONE and opens the fields. An array self-test starts at the
owner's write and ends with its result. PROBE's own run is taken only in MANUFACTURE and RMA. COMPLETION: exec
answers a next state, under conditions on the state and the operands alone, for: powerOnReset, ccBistDone,
bistWaveDone, bootStripWaitExpire, startStripsDone, fsImageVerified, broadcastDone, trainReport, trainLimitExpire,
fieldRelease, arraySelftestStart, arraySelftestDone, probeBistRun, supplyReset. -/
def Obligations.StartUpSteps : Prop :=
  (∀ (s : State) (id sa : Nat) (bad : List Nat), exec (.powerOnReset id sa bad) s = .next (powerUp id sa bad s)
      ∧ exec (.supplyReset id sa bad) s = .next (powerUp id sa bad s))
  ∧ (∀ (s : State) (id sa : Nat), (powerUp id sa [] s).pending = s.pending ∧ (powerUp id sa [] s).arch = s.arch
      ∧ (powerUp id sa [] s).imgBank = s.imgBank ∧ (powerUp id sa [] s).bank0 = s.bank0
      ∧ (powerUp id sa [] s).tiles = [] ∧ (powerUp id sa [] s).wt = 5 * ms / 2)
  ∧ (∀ (s : State) (a b : BistRes), s.step ≠ 4 ∨ s.ccLost = true → exec (.ccBistDone a b) s = .next s)
  ∧ (∀ (s t : State) (a b : BistRes), s.step = 4 → s.ccLost = false → bistPass a = true → bistPass b = true →
      t = ((bistResult false { b with unit := ccInstUnit 1 } (bistResult false { a with unit := ccInstUnit 0 } s)).wr
        F.CC_ROLE_active 0 0).wr F.CC_ROLE_standby_ok 0 1 →
      exec (.ccBistDone a b) s = .next (waveStart (archPinSync (forAll t.boot.log ccStore { endStep 5 t with
        boot := { (endStep 5 t).boot with log := [] } }))))
  ∧ (∀ (s : State) (a b : BistRes), s.step = 4 → s.ccLost = false → bistPass a = false → bistPass b = false →
      exec (.ccBistDone a b) s = .next (bothCcLost (bootFail (ccInstUnit 1) (bootFail (ccInstUnit 0)
        (bistResult false { b with unit := ccInstUnit 1 } (bistResult false { a with unit := ccInstUnit 0 } s))))))
  ∧ (∀ s : State, bothCcLost s = ({ s with ccLost := true }.wr F.CC_SERVICE_level 0 0).wr F.CC_SERVICE_oos 0 1)
  ∧ (∀ (s t u : State) (res : List BistRes), s.step = 5 → s.boot.wave ≠ [] → t = forAll s.boot.wave (fieldBist res) s →
      u = t.wr F.CC_TEST_BUDGET_in_use 0 (t.rd F.CC_TEST_BUDGET_in_use - s.boot.wave.length * bistTok s) →
      (u.boot.next < Config.nField → exec (.bistWaveDone res) s = .next (waveStart { u with
        boot := { u.boot with wave := [] } }))
      ∧ (Config.nField ≤ u.boot.next → exec (.bistWaveDone res) s = .next (fuseRead (endStep 6 { u with
        boot := { u.boot with wave := [] } }))))
  ∧ (∀ (s : State) (res : List BistRes), s.step ≠ 5 → exec (.bistWaveDone res) s = .next s)
  ∧ (∀ (s t : State) (c : Nat), coreOk c = true → s.step = 7 → (s.core c).kind = 3 → (s.core c).req = true →
      (s.core c).granted = false →
      t = (releaseCore c (s.toWt (s.boot.began + max 1 (s.rd F.CC_BOOT_CFG_strip_wait_ms) * ms))).bump
        F.CC_BOOT_STAT_strips_missed →
      exec (.bootStripWaitExpire c) s = .next (bootCheck (coreField c) (raiseFs (coreField c)
        { code := Code.BOOT_STRIP_MISSED, unit := coreEng c, params := coreIdx c } t)))
  ∧ (∀ (s : State) (c : Nat), coreOk c = true → (s.core c).granted = true → exec (.bootStripWaitExpire c) s = .next s)
  ∧ (∀ s : State, s.step = 7 → (∀ f, f < Config.nField → s.fsWorks f = true → (s.bootStrip f).done = true) →
      exec .startStripsDone s = .next (reconcile (endStep 8 s)))
  ∧ (∀ s : State, s.step ≠ 7 → exec .startStripsDone s = .next s)
  ∧ (∀ (s : State) (f : Nat) (copy : List Byte), fieldOk f = true → s.step = 9 → s.boot.wait.contains f = true →
      s.aonOnly = false →
      (∀ x, (checkImage 1 (imgFloor s 1) s.lifecycle copy).res = .ok x →
        exec (.fsImageVerified f copy) s = .next { s with
          boot := { s.boot with wait := s.boot.wait.filter (· != f) } })
      ∧ (∀ r, (checkImage 1 (imgFloor s 1) s.lifecycle copy).res = .error r → tget 0 s.boot.tries f < 2 →
        exec (.fsImageVerified f copy) s = .next { s with
          boot := { s.boot with tries := tput 0 s.boot.tries f (tget 0 s.boot.tries f + 1) } }))
  ∧ (∀ (s : State) (f : Nat) (copy : List Byte), fieldOk f = true → s.boot.wait.contains f = false →
      exec (.fsImageVerified f copy) s = .next s)
  ∧ (∀ s : State, s.step = 9 → s.boot.wait = [] → s.aonOnly = false → exec .broadcastDone s = .next (broadcastDone s))
  ∧ (∀ s : State, s.boot.wait ≠ [] → exec .broadcastDone s = .next s)
  ∧ (∀ (s t : State) (i : Nat) (full tried : Bool) (data : List Byte), mtOk i = true → s.step = 10 →
      s.boot.left.contains i = true → s.aonOnly = false → t = { s with
        boot := { s.boot with left := s.boot.left.filter (· != i) } } → t.boot.left ≠ [] →
      (full = true → ((trainAppend i data t).wr F.CC_BOOT_STAT_full_train 0 1).boot.left ≠ [] →
        exec (.trainReport false i true full tried data) s = .next ((trainAppend i data t).wr
          F.CC_BOOT_STAT_full_train 0 1))
      ∧ (full = false → s.rb F.CC_BOOT_CFG_full_train = false → trained t i = true → t.rb F.CC_BOOT_CFG_full_train = false →
        exec (.trainReport false i true full tried data) s = .next t)
      ∧ ((trainFail i tried t).boot.left ≠ [] →
        exec (.trainReport false i false full tried data) s = .next (trainFail i tried t)))
  ∧ (∀ (s : State) (i : Nat) (ok full tried : Bool) (data : List Byte), ltOk i = true → s.step ≠ 10 →
      exec (.trainReport true i ok full tried data) s = .next s)
  ∧ (∀ s : State, s.step ≠ 10 → exec .trainLimitExpire s = .next s)
  ∧ (∀ s t : State, s.step = 10 → t = s.toWt (s.boot.began + max 1 (s.rd F.CC_BOOT_CFG_train_s) * sec) →
      exec .trainLimitExpire s = .next (trainEnd (forAll t.boot.left (fun u t => trainFail u false t) { t with
        boot := { t.boot with left := [] } })))
  ∧ (∀ s : State, (s.step = 11 → (∀ f, f < Config.nField → fieldPending s f = false) →
        exec .fieldRelease s = .next (fieldRelease s))
      ∧ ((∃ f, f < Config.nField ∧ fieldPending s f = true) → exec .fieldRelease s = .next s)
      ∧ (s.step ≠ 11 → exec .fieldRelease s = .next s))
  ∧ (∀ (s t : State) (w : Writer) (f : Nat), Granted s w .FS_SELFTEST f → fieldOk f = true → s.isOwner w = true →
      s.scrapped = false → selfTesting s f = false →
      t = ({ s with selfReq := tput false s.selfReq f true } : State).wr F.FS_SELFTEST_busy f 1 →
      (t.entries f = [] → exec (.arraySelftestStart w f) s = .next (wrote w .FS_SELFTEST f { t with
        selfEnd := tput 0 t.selfEnd f (t.wt + 2 * ms) }))
      ∧ (t.entries f ≠ [] → exec (.arraySelftestStart w f) s = .next (wrote w .FS_SELFTEST f t)))
  ∧ (∀ (s t : State) (f : Nat) (pass : Bool), fieldOk f = true → tget false s.selfReq f = true → s.entries f = [] →
      s.fieldLive f = true → t = s.toWt ((tfind s.selfEnd f).getD (tget 0 s.arrIdle f + 2 * ms)) →
      exec (.arraySelftestDone f pass) s = .next ((({ t with
        selfReq := tdel t.selfReq f
        selfEnd := tdel t.selfEnd f } : State).wr F.FS_SELFTEST_busy f 0).wr F.FS_SELFTEST_result f
          (if pass = true then 1 else 2)))
  ∧ (∀ (s : State) (f : Nat) (pass : Bool), fieldOk f = true → tget false s.selfReq f = false →
      exec (.arraySelftestDone f pass) s = .next s)
  ∧ (∀ (s : State) (r : BistRes), unitKind r.unit = 1 → unitPresent r.unit = true →
      (s.factory = true → s.preCc = false → exec (.probeBistRun r) s = .next (bistResult true r s))
      ∧ (s.factory = false → exec (.probeBistRun r) s = .next s))

/-- O52. A window stores both counts and steps every pair of awake clocks; with no disagreement the judgement follows,
with two pairs of one clock that clock is condemned, with all three there is no majority. A clock with no edge is
condemned at once, unless it is condemned already or a sleeping BKCLK. Condemning the TAPCLK source switches to the
other reference when that is ready, else TAPCLK stops. A locked PLL of a judged reference makes it ready, and ends
AON-only operation. The preferred source is switched to after 1 s. BKCLK is stable 200 µs after a cold start. Loss
of AONCLK condemns it and resets the AON domain. A spread above 10 keeps the one in force (log entry 88).
COMPLETION: exec answers a next state, under conditions on the state and the operands alone, for: clockWindow,
clockEdgeLoss, pllReady, sourceReturn, bkclkStable, aonClockLoss, aonSelfReset, sscCfgWrite. -/
def Obligations.ClockJudgement : Prop :=
  (∀ (s t u : State) (ref bk : Nat) (live : List Nat), t = (s.wr F.CC_CLK_CNT_ref 0 ref).wr F.CC_CLK_CNT_bk 0 bk →
      live = [0, 1, 2].filter (fun i => (pairClks i).all (clkAwake t)) →
      u = forAll live (fun i v => v.setPairs i (pairWindow i ref bk (v.pair i)).2) t → u.bkRun ≠ .stable →
      (∀ i, i ∈ live → (pairClks i).all (fun c => !clkCondemned t c) = true → (pairWindow i ref bk (t.pair i)).1 = false) →
      exec (.clockWindow ref bk) s = .next (clkSync (pardon u)))
  ∧ (∀ (s t u : State) (ref bk i j c : Nat), t = (s.wr F.CC_CLK_CNT_ref 0 ref).wr F.CC_CLK_CNT_bk 0 bk →
      (∀ d, d < 3 → clkAwake t d = true ∧ clkCondemned t d = false) →
      [0, 1, 2].filter (fun i => (pairWindow i ref bk (t.pair i)).1) = [i, j] →
      (pairClks i).find? (fun c => (pairClks j).contains c) = some c →
      u = forAll [0, 1, 2] (fun i v => v.setPairs i (pairWindow i ref bk (v.pair i)).2) t → u.bkRun ≠ .stable →
      exec (.clockWindow ref bk) s = .next (condemn c 1 u))
  ∧ (∀ (s t u : State) (ref bk : Nat), t = (s.wr F.CC_CLK_CNT_ref 0 ref).wr F.CC_CLK_CNT_bk 0 bk →
      (∀ d, d < 3 → clkAwake t d = true ∧ clkCondemned t d = false) →
      [0, 1, 2].filter (fun i => (pairWindow i ref bk (t.pair i)).1) = [0, 1, 2] →
      u = forAll [0, 1, 2] (fun i v => v.setPairs i (pairWindow i ref bk (v.pair i)).2) t → u.bkRun ≠ .stable →
      exec (.clockWindow ref bk) s = .next (noMajority u))
  ∧ (∀ (ref bk i : Nat) (x : ClkPair) (m : Nat × Nat), x.ref = some m → near 1000 (pairRatio i ref bk) m = false →
      pairWindow i ref bk x = (true, {}))
  ∧ (∀ (s : State) (bk : Bool), (clkCondemned s (refClk bk) = true → exec (.clockEdgeLoss bk) s = .next s)
      ∧ (bk = false → clkCondemned s 1 = false → exec (.clockEdgeLoss bk) s = .next (condemn 1 0 s))
      ∧ (bk = true → clkCondemned s 2 = false → (s.bkRun = .on ∨ s.bkRun = .stable) →
          exec (.clockEdgeLoss bk) s = .next (condemn 2 0 s))
      ∧ (bk = true → s.bkRun = .asleep → exec (.clockEdgeLoss bk) s = .next s))
  ∧ (∀ (s t : State) (cause : Nat), t = unsettle 1 (setCondemned 1 true s) → t.rd F.CC_CLK_STAT_src = 0 →
      (clkReady t true = true → condemn 1 cause s = clkSync (clkSwitch 1 0 true
        ((clkTrip 1 cause (s.rd F.CC_CLK_CNT_ref) false t).wr F.CC_CLK_STAT_src 0 1)))
      ∧ (clkReady t true = false → condemn 1 cause s = clkSync (enterAon (clkTrip 1 cause (s.rd F.CC_CLK_CNT_ref) true t))))
  ∧ (∀ (s : State) (bk : Bool), clkJudged s (refClk bk) = false → exec (.pllReady bk) s = .next s)
  ∧ (∀ (s t : State), clkJudged s 1 = true → t = { s with pllRef := true } → t.step ≠ 3 →
      (t.aonOnly = false → exec (.pllReady false) s = .next (clkSync t))
      ∧ (t.aonOnly = true → prefBk t = false → (leaveAon false t).step ≠ 3 →
          exec (.pllReady false) s = .next (clkSync (leaveAon false t))))
  ∧ (∀ s : State, s.srcReady = none → exec .sourceReturn s = .next s)
  ∧ (∀ (s t : State) (d : Nat), s.srcReady = some d → t = s.toWt (d + sec) →
      exec .sourceReturn s = .next (clkSync (clkSwitch (b2n (prefBk t)) (t.rd F.CC_CLK_STAT_src) true
        (t.wr F.CC_CLK_STAT_src 0 (b2n (prefBk t))))))
  ∧ (∀ (s : State) (d : Nat), s.bkRun = .cold d → exec .bkclkStable s = .next { s.toWt (d + 200 * us) with
      bkRun := .stable })
  ∧ (∀ s : State, s.bkRun = .on → exec .bkclkStable s = .next s)
  ∧ (∀ s : State, s.aonOnly = false → s.aonLost = none →
      (clkCondemned s 0 = true → exec .aonClockLoss s = .next { s with
        aonLost := some (s.wt + 10 * us) })
      ∧ (clkCondemned s 0 = false → exec .aonClockLoss s = .next { condemn 0 0 s with
        aonLost := some ((condemn 0 0 s).wt + 10 * us) }))
  ∧ (∀ (s : State) (id sa : Nat) (bad : List Nat),
      (s.aonLost.isSome = true → exec (.aonSelfReset id sa bad) s = .next (powerUp id sa bad s))
      ∧ (s.aonLost = none → exec (.aonSelfReset id sa bad) s = .next s))
  ∧ (∀ (s t : State) (w : Writer) (v : Nat), Granted s w .CC_SSC_CFG 0 → s.limitOk w = true →
      (bits (v % 2 ^ 7) 1 4 ≤ 10 → t = setPersist .CC_SSC_CFG 0 (v % 2 ^ 7) s →
        exec (.sscCfgWrite w v) s = .next (wrote w .CC_SSC_CFG 0 { t with sscNow := t.regVal .CC_SSC_CFG 0 }))
      ∧ (10 < bits (v % 2 ^ 7) 1 4 → t = setPersist .CC_SSC_CFG 0 (setBits (v % 2 ^ 7) 1 4 (s.rd F.CC_SSC_CFG_spread)) s →
        exec (.sscCfgWrite w v) s = .next (wrote w .CC_SSC_CFG 0 { t with sscNow := t.regVal .CC_SSC_CFG 0 })))
  ∧ (∀ (s : State) (w : Writer) (v : Nat), Granted s w .CC_SSC_CFG 0 → s.limitOk w = false →
      exec (.sscCfgWrite w v) s = .next (wrote w .CC_SSC_CFG 0 s))

/-- O53. The AON supply falling through 0.70 V sets the warning once, counts and records it, ends sessions and saves the
newest records; above 0.72 V the warning clears. A droop below droop_mv for droop_ns of a field that is monitored is
shown, counted and recorded, and ends a droop session whose step is applied. A capture samples the host cycle count
and WT together. A temperature older than 1 ms reads unavailable, and heating on that cluster ends with reason 3.
COMPLETION: exec answers a next state, under conditions on the state and the operands alone, for: vddWarn,
vddWarnClear, vddDroop, cycleCapture, tempStale. -/
def Obligations.SuppliesAndCycles : Prop :=
  (∀ (s t u : State) (mv : Nat), t = s.wr F.CC_VDD_STAT_aon_mv 0 mv →
      (700 ≤ mv → exec (.vddWarn mv) s = .next t)
      ∧ (t.rb F.CC_VDD_STAT_warn = true → exec (.vddWarn mv) s = .next t)
      ∧ (mv < 700 → t.rb F.CC_VDD_STAT_warn = false →
          u = (t.wr F.CC_VDD_STAT_warn 0 1).bump F.CC_VDD_STAT_warns →
          exec (.vddWarn mv) s = .next (saveRecords (forAll (List.range Config.nField) (fun f t => brkEvent f 4 t)
            (raiseCc { code := Code.VDD_WARN, unit := u.ccUnit, params := mv + 2 ^ 16 } u))))
      ∧ (mv ≤ 720 → exec (.vddWarnClear mv) s = .next t)
      ∧ (t.rb F.CC_VDD_STAT_warn = false → exec (.vddWarnClear mv) s = .next t)
      ∧ (720 < mv → t.rb F.CC_VDD_STAT_warn = true → u = t.wr F.CC_VDD_STAT_warn 0 0 →
          exec (.vddWarnClear mv) s = .next (raiseCc { code := Code.VDD_WARN, unit := u.ccUnit, params := mv } u)))
  ∧ (∀ (s t : State) (f mv ns : Nat), fieldOk f = true → mv < s.rd F.CC_VDD_CFG_droop_mv →
      s.rd F.CC_VDD_CFG_droop_ns ≤ ns → 2 ≤ ns → s.fieldLive f = true →
      t = raiseFs f { code := Code.VDD_DROOP, unit := fsUnit f, params := f + 2 ^ 7 * mv + 2 ^ 23 * sat 16 ns }
        (((s.wr F.FS_VMON_mv f mv).wr F.FS_VMON_last_min f mv).bump F.FS_VMON_droops f) →
      (t.sess f = none → exec (.vddDroop f mv ns) s = .next t)
      ∧ (∀ x, t.sess f = some x → x.kind = 1 → x.applied ≠ 0 → exec (.vddDroop f mv ns) s = .next (brkAbort f 4 t)))
  ∧ (∀ (s : State) (f mv ns : Nat), fieldOk f = true → s.rd F.CC_VDD_CFG_droop_mv ≤ mv ∨ s.fieldLive f = false →
      exec (.vddDroop f mv ns) s = .next s)
  ∧ (∀ (s t : State) (w : Writer) (k cyc : Nat), Granted s w .CT_CYC k → ctOk k = true → t = advCyc k cyc s →
      t.mayWrite w .CT_CYC k = true →
      exec (.cycleCapture w k cyc) s = .next (wrote w .CT_CYC k
        ((t.wr F.CT_CYC_cycles k (t.cycOf k % 2 ^ 32)).setReg .CT_CYC_WT k (t.wt % 2 ^ 64))))
  ∧ (∀ (s t : State) (k : Nat), ctOk k = true → t = { s with ctTemp := tput 0x80 s.ctTemp k 0x80 } →
      (t.sess (ctField k) = none → exec (.tempStale k) s = .next t)
      ∧ (∀ x, t.sess (ctField k) = some x → x.kind = 2 → x.phase = 4 → x.cluster = k % 64 →
          exec (.tempStale k) s = .next (brkAbort (ctField k) 3 t)))

/-- O54. A claim by a master while there is no owner makes it owner, TRAY's claim takes over a stale one, and any other
changes nothing; a release is the owner's only; an accept is the named target's, within 100 ms. Five seconds without
an owner's access set stale. The owner starts, replaces or cancels a handover, which lapses after 100 ms and is
recorded. Every change of owner ends a pending handover, clears stale, is counted and recorded. COMPLETION: exec
answers a next state, under conditions on the state and the operands alone, for: ownerClaim, ownerRelease,
ownerAccept, ownerStale, handoverStart, handoverLapsed. -/
def Obligations.Ownership : Prop :=
  (∀ (s t : State) (new how : Nat), t = endHandover (((s.wr F.CC_OWNER_owner 0 new).wr F.CC_OWNER_stale 0 0).bump
        F.CC_OWNER_changes) →
      ownerChange new how s = raiseCc
        { code := Code.OWNER_CHANGED, unit := t.ccUnit, params := new + 2 ^ 2 * s.rd F.CC_OWNER_owner + 2 ^ 4 * how }
        { t with ownAt := t.wt })
  ∧ (∀ (s : State) (w : Writer), Granted s w .CC_OWNER 0 →
      (masterNum w ≠ 3 → s.rd F.CC_OWNER_owner = 3 →
        exec (.ownerClaim w) s = .next (wrote w .CC_OWNER 0 (ownerChange (masterNum w) 0 s)))
      ∧ (s.rd F.CC_OWNER_owner ≠ 3 → s.rb F.CC_OWNER_stale = false →
        exec (.ownerClaim w) s = .next (wrote w .CC_OWNER 0 s))
      ∧ (w = .tray → s.rd F.CC_OWNER_owner ≠ 3 → s.rb F.CC_OWNER_stale = true → s.isOwner w = false →
        exec (.ownerClaim w) s = .next (wrote w .CC_OWNER 0 (ownerChange 1 2 s)))
      ∧ (w ≠ .tray → s.rd F.CC_OWNER_owner ≠ 3 → exec (.ownerClaim w) s = .next (wrote w .CC_OWNER 0 s))
      ∧ (s.isOwner w = true → exec (.ownerRelease w) s = .next (wrote w .CC_OWNER 0 (ownerChange 3 3 s)))
      ∧ (s.isOwner w = false → exec (.ownerRelease w) s = .next (wrote w .CC_OWNER 0 s))
      ∧ (s.rb F.CC_OWNER_HO_pending = true → masterNum w ≠ 3 → s.rd F.CC_OWNER_HO_target = masterNum w →
          s.wt ≤ s.hoAt + 100 * ms →
        exec (.ownerAccept w) s = .next (wrote w .CC_OWNER 0 (ownerChange (masterNum w) 1 s)))
      ∧ ((s.rb F.CC_OWNER_HO_pending = false ∨ s.rd F.CC_OWNER_HO_target ≠ masterNum w ∨ s.hoAt + 100 * ms < s.wt) →
        exec (.ownerAccept w) s = .next (wrote w .CC_OWNER 0 s)))
  ∧ (∀ s : State, (s.rd F.CC_OWNER_owner ≠ 3 → s.rb F.CC_OWNER_stale = false →
        exec .ownerStale s = .next ((s.toWt (s.ownAt + 5 * sec)).wr F.CC_OWNER_stale 0 1))
      ∧ (s.rd F.CC_OWNER_owner = 3 → exec .ownerStale s = .next s)
      ∧ (s.rb F.CC_OWNER_stale = true → exec .ownerStale s = .next s))
  ∧ (∀ (s : State) (w : Writer) (target : Nat), s.regReach w .CC_OWNER_HO 0 = true → s.mayWrite w .CC_OWNER_HO 0 = false →
      exec (.handoverStart w target) s = .next (noRight w .CC_OWNER_HO s))
  ∧ (∀ (s : State) (w : Writer) (target : Nat), Granted s w .CC_OWNER_HO 0 → target < 4 →
      (target = s.rd F.CC_OWNER_owner → exec (.handoverStart w target) s = .next (wrote w .CC_OWNER_HO 0 s))
      ∧ (s.isOwner w = true → target ≠ s.rd F.CC_OWNER_owner → target ≠ 3 →
        exec (.handoverStart w target) s = .next (wrote w .CC_OWNER_HO 0
          ((({ s with hoAt := s.wt } : State).wr F.CC_OWNER_HO_target 0 target).wr F.CC_OWNER_HO_pending 0 1)))
      ∧ (s.isOwner w = true → target = 3 → s.rd F.CC_OWNER_owner ≠ 3 →
        exec (.handoverStart w target) s = .next (wrote w .CC_OWNER_HO 0
          ((s.wr F.CC_OWNER_HO_target 0 3).wr F.CC_OWNER_HO_pending 0 0))))
  ∧ (∀ (s t : State), t = s.toWt (s.hoAt + 100 * ms) →
      (s.rb F.CC_OWNER_HO_pending = true → exec .handoverLapsed s = .next (raiseCc
        { code := Code.HANDOVER_LAPSED, unit := t.ccUnit,
          params := s.rd F.CC_OWNER_HO_target + 2 ^ 2 * s.rd F.CC_OWNER_owner } (endHandover t)))
      ∧ (s.rb F.CC_OWNER_HO_pending = false → exec .handoverLapsed s = .next s))

/-- O55. A host request is answered at once with its status and data, and its write takes effect; during a swap it
waits, at most 16, and the oldest is answered with error 3 after its limit. A swap waits for its trigger; then the
other CC is active with the checkpointed sequencer, and the waiting requests are answered in order. A trained port
is up, one that goes down forgets its peer. A sensor request answers the sensor's value, with none for one that is
not there; the endpoint's address and ID are stored. Before the CC is chosen, and with both CCs lost, the management
port does not answer; with both lost the host register port neither. COMPLETION: exec answers a next state, under
conditions on the state and the operands alone, for: ccSwap, hregRequest, hregTimeout, linkTrained, linkDown,
pldmRequest, mctpControlRequest, i3cAddressAssign. -/
def Obligations.PortsAndSwap : Prop :=
  (∀ (s : State) (b : Bool) (addr data : Nat) (part : Option Nat), s.swapping = none → s.hregQ = [] → s.ccLost = false →
      exec (.hregRequest b addr data part) s = .next { (hregDo
        { write := b, addr := addr, data := data, part := part, at_ := s.wt } s).2 with
        hregOut := [(hregDo { write := b, addr := addr, data := data, part := part, at_ := s.wt } s).1] })
  ∧ (∀ (s : State) (q : HReq), (q.write = true → hregDo q s =
        (⟨(writeAt (hregBy q.part) q.addr q.data s).1, 0⟩, (writeAt (hregBy q.part) q.addr q.data s).2))
      ∧ (q.write = false → hregDo q s = readAt (hregBy q.part) q.addr s))
  ∧ (∀ (s : State) (b : Bool) (addr data : Nat) (part : Option Nat), s.swapping.isSome = true → s.ccLost = false →
      (s.hregQ.length < 16 → exec (.hregRequest b addr data part) s = .next { s with
        hregQ := s.hregQ ++ [{ write := b, addr := addr, data := data, part := part, at_ := s.wt }] })
      ∧ (16 ≤ s.hregQ.length → exec (.hregRequest b addr data part) s = .next s))
  ∧ (∀ (s : State) (q : HReq) (l : List HReq), s.hregQ = q :: l →
      exec .hregTimeout s = .next { s.toWt (q.at_ + 270 * us) with
        hregQ := l
        hregOut := [⟨3, 0⟩] })
  ∧ (∀ s : State, s.hregQ = [] → exec .hregTimeout s = .next s)
  ∧ (∀ s : State, (s.swapping = none → exec .ccSwap s = .next s)
      ∧ (∀ n, s.swapping = some n → exec .ccSwap s = .next (swapNow n s)))
  ∧ (∀ (s t u : State) (n : Nat),
      t = (((s.setSeq ccSeq (s.seq sbSeq)).setRcdr ccRec (s.rcdr sbRec)).wr F.CC_ROLE_active 0
        (1 - s.rd F.CC_ROLE_active)).wr F.CC_ROLE_standby_ok 0 0 →
      u = ((t.bump F.CC_ROLE_swap_count).wr F.CC_REC_STAT_frozen 0 0).wr F.CC_REC_STAT_first_used 0
        (s.rcdr sbRec).first.length →
      u.rd F.CC_LOUPE_SEL_source ≠ 0xFF →
      (∀ v : State, v = raiseCc { code := Code.CC_SWAP, unit := u.ccUnit,
                                  params := 1 - s.rd F.CC_ROLE_active + 2 * n } { u with
          swapping := none
          nonces := []
          spdm := 4
          ansQ := u.ansQ.filter (fun m => m.dst != ccSeq)
          confQ := u.confQ.map (fun m => if m.src = ccSeq then { m with src := 255 } else m) } →
        v.stop = none → v.rd F.CC_PACK_STAT_state ≠ 1 → v.rd F.CC_PACK_STAT_state ≠ 2 →
        swapNow n s = hregDrain (epochSync (bootRepeat v))))
  ∧ (∀ s : State, s.hregQ = [] → hregDrain s = s)
  ∧ (∀ (s : State) (q : HReq), s.hregQ = [q] → hregDrain s = { (hregDo q { s with hregQ := [] }).2 with
      hregOut := [(hregDo q { s with hregQ := [] }).1] })
  ∧ (∀ (s : State) (l : Nat), ltOk l = true →
      (s.wstep = none → exec (.linkTrained l) s = .next { s with
        ltUp := tput false s.ltUp l true })
      ∧ exec (.linkDown l) s = .next ((({ s with
        ltUp := tput false s.ltUp l false } : State).wr F.LT_TRUST_known l 0).wr F.LT_TRUST_peer l 0))
  ∧ (∀ (s : State) (x : WStep) (l : Nat), ltOk l = true → s.wstep = some x →
      exec (.linkTrained l) s = .next (waferDone { s with
        ltUp := tput false s.ltUp l true
        wstep := some { x with ports := x.ports.filter (· != l) } }))
  ∧ (∀ (s : State) (n cmd v : Nat), s.preCc = true ∨ s.ccLost = true → exec (.pldmRequest n) s = .next s
      ∧ exec (.mctpControlRequest cmd v) s = .next s)
  ∧ (∀ s : State, s.preCc = false → s.ccLost = false →
      exec (.pldmRequest 0) s = .next { s with mgmtOut := [0, s.rd F.CC_VDD_STAT_aon_mv] }
      ∧ exec (.pldmRequest 255) s = .next { s with mgmtOut := [255, s.rd F.CC_SERVICE_level] }
      ∧ (∀ f, fieldOk f = true → f < 254 → exec (.pldmRequest (f + 1)) s = .next { s with
          mgmtOut := [f + 1, hottest s f] })
      ∧ (∀ n, n ≠ 0 → n ≠ 255 → fieldOk (n - 1) = false → exec (.pldmRequest n) s = .next { s with mgmtOut := [n] }))
  ∧ (∀ (s : State) (v : Nat), s.preCc = false → s.ccLost = false →
      (8 ≤ v → v ≤ 254 → exec (.mctpControlRequest 1 v) s = .next { s with
        mctpEid := v
        mgmtOut := [0, 0, v, 0] })
      ∧ exec (.mctpControlRequest 2 v) s = .next { s with mgmtOut := [0, s.mctpEid, 0, 0] })
  ∧ (∀ (s : State) (a : Nat), exec (.i3cAddressAssign a) s = .next { s with i3cAddr := some a })
  ∧ (∀ (s : State) (b : Bool) (addr data : Nat) (part : Option Nat), s.ccLost = true →
      exec (.hregRequest b addr data part) s = .next s)

/-- O56. Before the CC is chosen or with both CCs lost, at a misaligned or a reserved offset, and in a window that
cannot be reached, a write changes no register: only the owner's heartbeat is seen. Elsewhere a writer with a right
to the register has the register's own effect, one without has none. A field that is RW or RP takes the bits
written, a W1C field loses the bits written one, a field without the right stays. An FS that works and fails is
marked failed, with all that goes with it; one that does not work is left. A free core's port takes the core's
oldest waiting reset. COMPLETION: exec answers a next state, under conditions on the state and the operands alone,
for: registerWrite, resetRequestRaise, fsFailure. -/
def Obligations.AccessAndFailure : Prop :=
  (∀ (s : State) (w : Writer) (a v : Nat), (∀ q, w ≠ .seq q) → (s.preCc = true ∨ s.ccLost = true ∨ a % 8 ≠ 0 ∨ winAt a = none) →
      exec (.registerWrite w a v) s = .next (ownerSeen w s))
  ∧ (∀ (s : State) (w : Writer) (a v u o : Nat) (c : UnitCls), (∀ q, w ≠ .seq q) → winAt a = some (c, u, o) →
      s.winReach c u = false → exec (.registerWrite w a v) s = .next (ownerSeen w s))
  ∧ (∀ (s : State) (w : Writer) (a v u o i : Nat) (c : UnitCls) (r : Reg), (∀ q, w ≠ .seq q) → s.preCc = false → s.ccLost = false →
      a % 8 = 0 → winAt a = some (c, u, o) → s.winReach c u = true → regInWin c u o = some (r, i) →
      (s.mayWrite w r i = true → r.place.unit = .cc →
        exec (.registerWrite w a v) s = .next (wrote w r i (putCc w r i v s)))
      ∧ (s.mayWrite w r i = true → r.place.unit ≠ .cc →
        exec (.registerWrite w a v) s = .next (wrote w r i (putUnit w r i v s)))
      ∧ (s.mayWrite w r i = false → exec (.registerWrite w a v) s = .next (noRight w r s)))
  ∧ (∀ (s : State) (q a v i : Nat) (r : Reg), (seqAddr q a).bind regAt = some (r, i) → rightTrap s q r i = none →
      (accessTrap s q a true false = none →
        exec (.registerWrite (.seq q) a v) s = .next (writeReg (.seq q) r i v s))
      ∧ (∀ c, accessTrap s q a true false = some c → exec (.registerWrite (.seq q) a v) s = .next s))
  ∧ (∀ (s : State) (w : Writer) (i v a : Nat) (f : Fld),
      (fieldRight s w f i = false → fieldPut s w i v a f = a)
      ∧ (fieldRight s w f i = true → (f.acc = .rw ∨ f.acc = .rp) → valueOk f (bits v f.lo f.w) = true →
          fieldPut s w i v a f = setBits a f.lo f.w (bits v f.lo f.w))
      ∧ (fieldRight s w f i = true → f.acc = .w1c → fieldPut s w i v a f = setBits a f.lo f.w
          (bits a f.lo f.w - Nat.land (bits a f.lo f.w) (bits v f.lo f.w)))
      ∧ (f.acc = .ro → fieldPut s w i v a f = a))
  ∧ (∀ (s : State) (f : Nat), fieldOk f = true → (s.fsWorks f = false → exec (.fsFailure f) s = .next s)
      ∧ (s.fsWorks f = true → exec (.fsFailure f) s = .next (afterFs (fun t => fsStopped f 3 true { t with
          fsHw := tput ({} : FsHw) t.fsHw f { tget {} t.fsHw f with failed := true } }) s)))
  ∧ (∀ (s t : State) (g : State → State), t = g s → (∀ f, f < Config.nField → s.fsWorks f = true → t.fsWorks f = true) →
      afterFs g s = t)
  ∧ (∀ (s : State) (c : Nat), coreOk c = true →
      (s.rsteps.any (fun r => engCore r.eng == c && r.onPort) = true → exec (.resetRequestRaise c) s = .next s)
      ∧ (∀ r l, s.rsteps.any (fun r => engCore r.eng == c && r.onPort) = false →
          takeFirst (fun (r : RStep) => engCore r.eng == c) s.rsteps = some (r, l) →
          exec (.resetRequestRaise c) s = .next { s with
            rsteps := s.rsteps.map (fun (x : RStep) => if x = r then { x with onPort := true } else x) }))

/-- O57. With a command at the front of the queue a step is that command's effect on the state with the rest of the
queue, whatever its outcome. With an empty queue the block idles: wafer time moves on by its resolution, 1 ns, or 20
ns in AON-only operation (the model's choice, log entry 13), and the block's sensors are sampled, whose readings are
free values (log entry 26). -/
def Obligations.StepTakesTheFront : Prop :=
  (∀ (c : Instr) (l : List Instr) (s : State), s.pending = c :: l → step s = exec c { s with pending := l })
  ∧ (∀ s : State, s.pending = [] → s.aonOnly = false → step s = .next (sampleAll { s with wt := s.wt + 1 }))
  ∧ (∀ s : State, s.pending = [] → s.aonOnly = true → step s = .next (sampleAll { s with wt := s.wt + 20 }))

/-- O58. After reset every register reads its reset value of the tables; there is no owner, no service, TAPCLK does not
run, WT is 0, every recorder and queue is empty, no sequencer runs, no field is released and no FS works; and the
recorders are within their areas. -/
def Obligations.ResetState : Prop :=
  (∀ (r : Reg) (i : Nat), State.reset.regVal r i = r.rst)
  ∧ State.reset.regVal .CC_OWNER 0 = 3 ∧ State.reset.regVal .CC_OWNER_HO 0 = 3 ∧ State.reset.regVal .CC_SERVICE 0 = 5
  ∧ State.reset.regVal .CC_SAFE_SEL 0 = 0x7F00
  ∧ State.reset.aonOnly = true ∧ State.reset.checkDegraded = true ∧ State.reset.wt = 0 ∧ State.reset.pending = []
  ∧ State.reset.tiles = [] ∧ State.reset.fset = [] ∧ State.reset.swapping = none
  ∧ (∀ f, State.reset.released f = false ∧ State.reset.fsWorks f = false)
  ∧ (∀ r, (State.reset.rcdr r).first = [] ∧ (State.reset.rcdr r).last = [] ∧ (State.reset.rcdr r).nextSeq = 0)
  ∧ RecordersFit State.reset ∧ tsorted none State.reset.regs = true

/-- O59. A register reads back the whole 64-bit value last written to it, and every other register, and every other copy
of it, reads as before; a field reads back the low bits written to it, and the fields beside it keep their values;
the register file keeps its canonical form. -/
def Obligations.RegisterFile : Prop :=
  (∀ (s : State) (r : Reg) (i v : Nat), tsorted none s.regs = true →
      (s.setReg r i v).regVal r i = v % 2 ^ 64 ∧ tsorted none (s.setReg r i v).regs = true)
  ∧ (∀ (s : State) (r r' : Reg) (i i' v : Nat), (r ≠ r' ∨ i ≠ i') → (s.setReg r i v).regVal r' i' = s.regVal r' i')
  ∧ (∀ (s : State) (f : Fld) (i v : Nat), tsorted none s.regs = true → f.lo + f.w ≤ 64 → (s.wr f i v).rd f i = v % 2 ^ f.w)
  ∧ (∀ (s : State) (f g : Fld) (i v : Nat), tsorted none s.regs = true → f.reg = g.reg → f.lo + f.w ≤ 64 → g.lo + g.w ≤ 64 →
      (f.lo + f.w ≤ g.lo ∨ g.lo + g.w ≤ f.lo) → (s.wr f i v).rd g i = s.rd g i)

/-- O60. Numbering a record at a recorder keeps every recorder within its areas, keeps the first area's records, and
gives the record the next 32-bit number, whether it is stored, held or missed; a recorder that is not frozen has the
record, with its CRC, newest in its last area; the other recorders do not change. -/
def Obligations.RecorderAreas : Prop :=
  (∀ (s : State) (r : Nat) (x : Rec), RecordersFit s → RecordersFit (recNumber r x s))
  ∧ (∀ (s : State) (r : Nat) (x : Rec), RecordersFit s →
      ((recNumber r x s).rcdr r).nextSeq = ((s.rcdr r).nextSeq + 1) % 2 ^ 32
      ∧ (∀ e ∈ (s.rcdr r).first, e ∈ ((recNumber r x s).rcdr r).first)
      ∧ ((s.rcdr r).frozen = true → ((recNumber r x s).rcdr r).last = (s.rcdr r).last
          ∧ ((recNumber r x s).rcdr r).first = (s.rcdr r).first)
      ∧ ((s.rcdr r).frozen = false → ((recNumber r x s).rcdr r).last.head? = some ((s.rcdr r).nextSeq, recSealed x)))
  ∧ (∀ (s : State) (r r' : Nat) (x : Rec), r' ≠ r → (recNumber r x s).rcdr r' = s.rcdr r')
end

