-- ==== Sys2Proof/Laws/Encode.lean ====
section
/-!
SUPPORT. The fields of an encoded sequencer word are the operands it was encoded from (Table 10-3).
-/
namespace Sys2Proof
open Sys2Proof.Machine

variable {op rd ra rb fn sub imm off : Nat}

theorem encR_op (h0 : op < 64) (h1 : rd < 16) (h2 : ra < 16) (h3 : rb < 16) (h4 : fn < 2 ^ 14)
    : fOp (encR op rd ra rb fn) = op := by
  simp only [fOp, bits, encR]; omega
theorem encR_rd (h1 : rd < 16) (h2 : ra < 16) (h3 : rb < 16) (h4 : fn < 2 ^ 14)
    : fRd (encR op rd ra rb fn) = rd := by
  simp only [fRd, bits, encR]; omega
theorem encR_ra (h2 : ra < 16) (h3 : rb < 16) (h4 : fn < 2 ^ 14)
    : fRa (encR op rd ra rb fn) = ra := by
  simp only [fRa, bits, encR]; omega
theorem encR_rb (h3 : rb < 16) (h4 : fn < 2 ^ 14)
    : fRb (encR op rd ra rb fn) = rb := by
  simp only [fRb, bits, encR]; omega
theorem encR_func (h4 : fn < 2 ^ 14)
    : fFunc (encR op rd ra rb fn) = fn := by
  simp only [fFunc, bits, encR]; omega
theorem encR_lt (h0 : op < 64) (h1 : rd < 16) (h2 : ra < 16) (h3 : rb < 16) (h4 : fn < 2 ^ 14)
    : encR op rd ra rb fn < 2 ^ 32 := by
  simp only [encR]; omega
theorem encI_op (h0 : op < 64) (h1 : rd < 16) (h2 : ra < 16) (h3 : sub < 4) (h4 : imm < 2 ^ 16)
    : fOp (encI op rd ra sub imm) = op := by
  simp only [fOp, bits, encI]; omega
theorem encI_rd (h1 : rd < 16) (h2 : ra < 16) (h3 : sub < 4) (h4 : imm < 2 ^ 16)
    : fRd (encI op rd ra sub imm) = rd := by
  simp only [fRd, bits, encI]; omega
theorem encI_ra (h2 : ra < 16) (h3 : sub < 4) (h4 : imm < 2 ^ 16)
    : fRa (encI op rd ra sub imm) = ra := by
  simp only [fRa, bits, encI]; omega
theorem encI_sub (h3 : sub < 4) (h4 : imm < 2 ^ 16)
    : fSub (encI op rd ra sub imm) = sub := by
  simp only [fSub, bits, encI]; omega
theorem encI_imm (h4 : imm < 2 ^ 16)
    : fImm (encI op rd ra sub imm) = imm := by
  simp only [fImm, bits, encI]; omega
theorem encI_lt (h0 : op < 64) (h1 : rd < 16) (h2 : ra < 16) (h3 : sub < 4) (h4 : imm < 2 ^ 16)
    : encI op rd ra sub imm < 2 ^ 32 := by
  simp only [encI]; omega
theorem encJ_op (h1 : rd < 16) (h4 : off < 2 ^ 22) (h0 : op < 64)
    : fOp (encJ op rd off) = op := by
  simp only [fOp, bits, encJ]; omega
theorem encJ_rd (h1 : rd < 16) (h4 : off < 2 ^ 22)
    : fRd (encJ op rd off) = rd := by
  simp only [fRd, bits, encJ]; omega
theorem encJ_off (h4 : off < 2 ^ 22)
    : fOff22 (encJ op rd off) = off := by
  simp only [fOff22, bits, encJ]; omega
theorem encJ_lt (h1 : rd < 16) (h4 : off < 2 ^ 22) (h0 : op < 64)
    : encJ op rd off < 2 ^ 32 := by
  simp only [encJ]; omega

end Sys2Proof
end

