-- ==== Sys2Proof/Laws/Frame.lean ====
section
/-!
SUPPORT. What the shared operations do, said once.
-/
namespace Sys2Proof.Machine

/-- A check that no arming stands for is not inverted and takes nothing. -/
theorem injTake_none {s : State} {c u p : Nat} (h : NoInj s c u p) : injTake c u p s = (false, s) := by
  unfold NoInj at h; unfold injTake; rw [h]

end Sys2Proof.Machine
end

