-- ==== Sys2Proof/Laws/Tbl.lean ====
section
/-!
SUPPORT. Sparse tables: what a read gives after a write or a removal, and that every operation keeps the canonical form.
-/
namespace Sys2Proof.Machine

variable {α : Type}

theorem tfind_tins_same (t : Tbl α) (k : Nat) (v : α) : tfind (tins t k v) k = some v := by
  induction t with
  | nil => simp [tins, tfind]
  | cons e t ih =>
    obtain ⟨j, w⟩ := e
    simp only [tins]
    split
    · simp [tfind]
    · split
      · simp [tfind]
      · rename_i h1 h2; simp [tfind, Ne.symm h2, ih]

theorem tfind_tins_other (t : Tbl α) {k j : Nat} (v : α) (h : j ≠ k) : tfind (tins t k v) j = tfind t j := by
  induction t with
  | nil => simp [tins, tfind, Ne.symm h]
  | cons e t ih =>
    obtain ⟨i, w⟩ := e
    simp only [tins]
    split
    · simp [tfind, Ne.symm h]
    · split
      · rename_i h1 h2; subst h2; simp [tfind, Ne.symm h]
      · simp [tfind, ih]

theorem tfind_tdel_other (t : Tbl α) {k j : Nat} (h : j ≠ k) : tfind (tdel t k) j = tfind t j := by
  induction t with
  | nil => rfl
  | cons e t ih =>
    obtain ⟨i, w⟩ := e
    simp only [tdel]
    split
    · rename_i h1; subst h1; simp [tfind, Ne.symm h]
    · simp [tfind, ih]

/-- Below its bound a rising table lists nothing. -/
theorem tfind_low {t : Tbl α} {l k : Nat} (h : tsorted (some l) t = true) (hk : k ≤ l) : tfind t k = none := by
  induction t generalizing l with
  | nil => rfl
  | cons e t ih =>
    obtain ⟨j, w⟩ := e
    simp only [tsorted, Bool.and_eq_true, decide_eq_true_eq] at h
    have hj : j ≠ k := by omega
    simp only [tfind, hj, if_false]
    exact ih h.2 (by omega)

theorem tsorted_some {t : Tbl α} {l : Nat} (h : tsorted (some l) t = true) : tsorted none t = true := by
  cases t with
  | nil => rfl
  | cons e t => simp only [tsorted, Bool.and_eq_true] at h ⊢; exact h.2

theorem tsorted_lower {t : Tbl α} {l m : Nat} (h : tsorted (some l) t = true) (hm : m ≤ l) :
    tsorted (some m) t = true := by
  cases t with
  | nil => rfl
  | cons e t =>
    simp only [tsorted, Bool.and_eq_true, decide_eq_true_eq] at h ⊢
    exact ⟨by omega, h.2⟩

theorem tfind_tdel_same {t : Tbl α} (k : Nat) (h : tsorted none t = true) : tfind (tdel t k) k = none := by
  induction t with
  | nil => rfl
  | cons e t ih =>
    obtain ⟨j, w⟩ := e
    simp only [tsorted] at h
    simp only [tdel]
    split
    · rename_i h1; subst h1; exact tfind_low h (Nat.le_refl _)
    · rename_i h1; simp only [tfind, h1, if_false]; exact ih (tsorted_some h)

theorem tsorted_tdel_above {t : Tbl α} {l : Nat} (k : Nat) (h : tsorted (some l) t = true) :
    tsorted (some l) (tdel t k) = true := by
  induction t generalizing l with
  | nil => rfl
  | cons e t ih =>
    obtain ⟨j, w⟩ := e
    simp only [tsorted, Bool.and_eq_true, decide_eq_true_eq] at h
    simp only [tdel]
    split
    · exact tsorted_lower h.2 (by omega)
    · simp only [tsorted, Bool.and_eq_true, decide_eq_true_eq]; exact ⟨h.1, ih h.2⟩

theorem tsorted_tdel {t : Tbl α} (k : Nat) (h : tsorted none t = true) : tsorted none (tdel t k) = true := by
  cases t with
  | nil => rfl
  | cons e t =>
    simp only [tsorted] at h
    simp only [tdel]
    split
    · exact tsorted_some h
    · simp only [tsorted]; exact tsorted_tdel_above k h

theorem tsorted_tins_above {t : Tbl α} {l k : Nat} (v : α) (h : tsorted (some l) t = true) (hk : l < k) :
    tsorted (some l) (tins t k v) = true := by
  induction t generalizing l with
  | nil => simp [tins, tsorted, hk]
  | cons e t ih =>
    obtain ⟨j, w⟩ := e
    simp only [tsorted, Bool.and_eq_true, decide_eq_true_eq] at h
    simp only [tins]
    split
    · simp only [tsorted, Bool.and_eq_true, decide_eq_true_eq]; exact ⟨hk, ‹_›, h.2⟩
    · split
      · rename_i h2; subst h2; simp only [tsorted, Bool.and_eq_true, decide_eq_true_eq]; exact ⟨hk, h.2⟩
      · simp only [tsorted, Bool.and_eq_true, decide_eq_true_eq]; exact ⟨h.1, ih h.2 (by omega)⟩

theorem tsorted_tins {t : Tbl α} (k : Nat) (v : α) (h : tsorted none t = true) : tsorted none (tins t k v) = true := by
  cases t with
  | nil => rfl
  | cons e t =>
    simp only [tsorted] at h
    simp only [tins]
    split
    · simp only [tsorted, Bool.and_eq_true, decide_eq_true_eq]; exact ⟨‹_›, h⟩
    · split
      · rename_i h2; subst h2; exact h
      · simp only [tsorted]; exact tsorted_tins_above v h (by omega)

theorem tsorted_tput [DecidableEq α] (d : α) {t : Tbl α} (k : Nat) (v : α) (h : tsorted none t = true) :
    tsorted none (tput d t k v) = true := by
  unfold tput; split
  · exact tsorted_tdel k h
  · exact tsorted_tins k v h

theorem mem_tdel {t : Tbl α} {k : Nat} {e : Nat × α} (h : e ∈ tdel t k) : e ∈ t := by
  induction t with
  | nil => exact h
  | cons a t ih =>
    obtain ⟨j, w⟩ := a
    simp only [tdel] at h
    split at h
    · exact List.mem_cons_of_mem _ h
    · rcases List.mem_cons.mp h with h | h
      · exact h ▸ List.mem_cons_self
      · exact List.mem_cons_of_mem _ (ih h)

theorem mem_tins {t : Tbl α} {k : Nat} {v : α} {e : Nat × α} (h : e ∈ tins t k v) : e = (k, v) ∨ e ∈ t := by
  induction t with
  | nil => simp only [tins, List.mem_singleton] at h; exact .inl h
  | cons a t ih =>
    obtain ⟨j, w⟩ := a
    simp only [tins] at h
    split at h
    · rcases List.mem_cons.mp h with h | h
      · exact .inl h
      · exact .inr h
    · split at h
      · rcases List.mem_cons.mp h with h | h
        · exact .inl h
        · exact .inr (List.mem_cons_of_mem _ h)
      · rcases List.mem_cons.mp h with h | h
        · exact .inr (h ▸ List.mem_cons_self)
        · rcases ih h with h | h
          · exact .inl h
          · exact .inr (List.mem_cons_of_mem _ h)

/-- The canonical write keeps the canonical form. -/
theorem twf_tput [DecidableEq α] (d : α) {t : Tbl α} (k : Nat) (v : α) (h : twf d t = true) :
    twf d (tput d t k v) = true := by
  simp only [twf, Bool.and_eq_true, List.all_eq_true, decide_eq_true_eq] at h ⊢
  refine ⟨tsorted_tput d k v h.1, ?_⟩
  unfold tput
  split
  · exact fun e he => h.2 e (mem_tdel he)
  · rename_i hv
    exact fun e he => (mem_tins he).elim (fun h => h ▸ hv) (h.2 e)

/-- A read of what was written. -/
theorem tget_tput_same [DecidableEq α] (d : α) {t : Tbl α} (k : Nat) (v : α) (h : tsorted none t = true) :
    tget d (tput d t k v) k = v := by
  unfold tget tput; split
  · rename_i hv; rw [tfind_tdel_same k h, hv]; rfl
  · rw [tfind_tins_same]; rfl

/-- A write at one key leaves every other key. -/
theorem tget_tput_other [DecidableEq α] (d : α) (t : Tbl α) {k j : Nat} (v : α) (h : j ≠ k) :
    tget d (tput d t k v) j = tget d t j := by
  unfold tget tput; split
  · rw [tfind_tdel_other t h]
  · rw [tfind_tins_other t v h]

end Sys2Proof.Machine
end

