-- ==== Sys2Proof/Laws/Regs.lean ====
section
/-!
SUPPORT. The register file: different registers or copies have different keys, so that a write of one leaves what is read of
the others.
-/
namespace Sys2Proof.Machine

theorem reg_num_lt (r : Reg) : r.num < 256 := by cases r <;> decide
theorem reg_num_idx (r : Reg) : r.num = r.ctorIdx := by cases r <;> rfl
theorem reg_num_inj {r t : Reg} (h : r.num = t.num) : r = t := by
  rw [reg_num_idx, reg_num_idx] at h
  rw [← Reg.ofNat_ctorIdx r, ← Reg.ofNat_ctorIdx t, h]

theorem regKey_inj {r t : Reg} {i j : Nat} (h : regKey r i = regKey t j) : r = t ∧ i = j := by
  have h1 := reg_num_lt r
  have h2 := reg_num_lt t
  unfold regKey at h
  exact ⟨reg_num_inj (by omega), by omega⟩

/-- A reset value fits its register. -/
theorem reg_rst_lt (r : Reg) : r.rst < 2 ^ 64 := by cases r <;> decide

/-- A write of one register leaves the others: the one lemma that reads of status rest on. -/
theorem regVal_other (s : State) {r t : Reg} {i j : Nat} (v : Nat) (h : t ≠ r ∨ j ≠ i) :
    (s.setReg r i v).regVal t j = s.regVal t j := by
  have hk : regKey t j ≠ regKey r i := fun e => by
    have := regKey_inj e
    rcases h with h | h
    · exact h this.1
    · exact h this.2
  have ht : tfind (s.setReg r i v).regs (regKey t j) = tfind s.regs (regKey t j) := by
    unfold State.setReg tput
    dsimp only
    split
    · exact tfind_tdel_other _ hk
    · exact tfind_tins_other _ _ hk
  unfold State.regVal; rw [ht]

theorem rd_wr_otherReg (s : State) {f g : Fld} {i j : Nat} (v : Nat) (h : g.reg ≠ f.reg ∨ j ≠ i) :
    (s.wr f i v).rd g j = s.rd g j := by
  unfold State.rd State.wr; rw [regVal_other s _ h]

/-- The active CC's unit is not changed by a write of another register. -/
theorem ccUnit_wr (s : State) {f : Fld} (i v : Nat) (h : f.reg ≠ .CC_ROLE) : (s.wr f i v).ccUnit = s.ccUnit := by
  unfold State.ccUnit; rw [rd_wr_otherReg s v (.inl (fun e => h e.symm))]
/-- The TAPCLK source is not changed by a write of another register. -/
theorem aonOnly_wr (s : State) {f : Fld} (i v : Nat) (h : f.reg ≠ .CC_CLK_STAT) : (s.wr f i v).aonOnly = s.aonOnly := by
  unfold State.aonOnly; rw [rd_wr_otherReg s v (.inl (fun e => h e.symm))]
/-- The lifecycle state is not changed by a write of another register. -/
theorem lifecycle_wr (s : State) {f : Fld} (i v : Nat) (h : f.reg ≠ .CC_LIFECYCLE) :
    (s.wr f i v).lifecycle = s.lifecycle := by
  unfold State.lifecycle; rw [rd_wr_otherReg s v (.inl (fun e => h e.symm))]
/-- The partition map is not changed by a write of another register. -/
theorem partOf_wr (s : State) {f : Fld} (i v n : Nat) (h : f.reg ≠ .CC_PART_FIELD) : (s.wr f i v).partOf n = s.partOf n := by
  unfold State.partOf State.wr; rw [regVal_other s _ (.inl (fun e => h e.symm))]
theorem ctGated_wr (s : State) {f : Fld} (i v k : Nat) (h : f.reg ≠ .CT_STOP_STAT) : (s.wr f i v).ctGated k = s.ctGated k := by
  unfold State.ctGated State.rb; rw [rd_wr_otherReg s v (.inl (fun e => h e.symm))]
/-- Which FSs work does not rest on a register. -/
theorem fsWorks_setReg (s : State) (r : Reg) (i v f : Nat) : (s.setReg r i v).fsWorks f = s.fsWorks f := rfl

end Sys2Proof.Machine
end

