-- ==== Sys2Proof/Laws/Seq.lean ====
section
/-!
SUPPORT. What the sequencer's common operations do, said once.
-/
namespace Sys2Proof.Machine

/-- An instruction of a ready sequencer that completes answers its effect. -/
theorem ready_done {s t : State} {q : Nat} {f : Seq → State → SeqEff} (h : Ready s q)
    (hf : f (nowSeq s q) (now s q) = .done t) : onUnit (seqOk q) (seqInstr q f s) = .next t := by
  obtain ⟨h1, h2, h3⟩ := h
  unfold now nowSeq at hf
  simp only [onUnit, h1, seqInstr, h2, h3, if_true, hf]

/-- An instruction of a ready sequencer that traps takes the trap. -/
theorem ready_trap {s : State} {q c i : Nat} {f : Seq → State → SeqEff} (h : Ready s q)
    (hf : f (nowSeq s q) (now s q) = .trap c i) : onUnit (seqOk q) (seqInstr q f s) = .next (trapped s q c i) := by
  obtain ⟨h1, h2, h3⟩ := h
  unfold now nowSeq at hf
  simp only [onUnit, h1, seqInstr, h2, h3, if_true, hf, trapped, now, nowSeq]

end Sys2Proof.Machine
end

