-- ==== Sys2Proof/Laws/State.lean ====
section
/-!
SUPPORT. What an update of State leaves alone, one lemma per field and update, all true by computation.
-/
namespace Sys2Proof.Machine

/-! ### `State.setReg` -/
section
variable (s : State) (r : Reg) (i v : Nat)
@[simp] theorem State.setReg_pending : (s.setReg r i v).pending = s.pending := rfl
@[simp] theorem State.setReg_freeCtr : (s.setReg r i v).freeCtr = s.freeCtr := rfl
@[simp] theorem State.setReg_entCtr : (s.setReg r i v).entCtr = s.entCtr := rfl
@[simp] theorem State.setReg_wt : (s.setReg r i v).wt = s.wt := rfl
@[simp] theorem State.setReg_cyc : (s.setReg r i v).cyc = s.cyc := rfl
@[simp] theorem State.setReg_ctTemp : (s.setReg r i v).ctTemp = s.ctTemp := rfl
@[simp] theorem State.setReg_recs : (s.setReg r i v).recs = s.recs := rfl
@[simp] theorem State.setReg_fwdQ : (s.setReg r i v).fwdQ = s.fwdQ := rfl
@[simp] theorem State.setReg_fwdNext : (s.setReg r i v).fwdNext = s.fwdNext := rfl
@[simp] theorem State.setReg_pins : (s.setReg r i v).pins = s.pins := rfl
@[simp] theorem State.setReg_errIn : (s.setReg r i v).errIn = s.errIn := rfl
@[simp] theorem State.setReg_injs : (s.setReg r i v).injs = s.injs := rfl
@[simp] theorem State.setReg_seqs : (s.setReg r i v).seqs = s.seqs := rfl
@[simp] theorem State.setReg_semQ : (s.setReg r i v).semQ = s.semQ := rfl
@[simp] theorem State.setReg_arch : (s.setReg r i v).arch = s.arch := rfl
@[simp] theorem State.setReg_wear : (s.setReg r i v).wear = s.wear := rfl
@[simp] theorem State.setReg_fsHw : (s.setReg r i v).fsHw = s.fsHw := rfl
@[simp] theorem State.setReg_bist : (s.setReg r i v).bist = s.bist := rfl
@[simp] theorem State.setReg_fuseBad : (s.setReg r i v).fuseBad = s.fuseBad := rfl
@[simp] theorem State.setReg_fset : (s.setReg r i v).fset = s.fset := rfl
@[simp] theorem State.setReg_fenceQ : (s.setReg r i v).fenceQ = s.fenceQ := rfl
@[simp] theorem State.setReg_fencePort : (s.setReg r i v).fencePort = s.fencePort := rfl
@[simp] theorem State.setReg_confQ : (s.setReg r i v).confQ = s.confQ := rfl
@[simp] theorem State.setReg_ansQ : (s.setReg r i v).ansQ = s.ansQ := rfl
@[simp] theorem State.setReg_latent : (s.setReg r i v).latent = s.latent := rfl
@[simp] theorem State.setReg_clears : (s.setReg r i v).clears = s.clears := rfl
@[simp] theorem State.setReg_clkPairs : (s.setReg r i v).clkPairs = s.clkPairs := rfl
@[simp] theorem State.setReg_bkRun : (s.setReg r i v).bkRun = s.bkRun := rfl
@[simp] theorem State.setReg_pllRef : (s.setReg r i v).pllRef = s.pllRef := rfl
@[simp] theorem State.setReg_pllBk : (s.setReg r i v).pllBk = s.pllBk := rfl
@[simp] theorem State.setReg_aonSince : (s.setReg r i v).aonSince = s.aonSince := rfl
@[simp] theorem State.setReg_aonNs : (s.setReg r i v).aonNs = s.aonNs := rfl
@[simp] theorem State.setReg_sscNow : (s.setReg r i v).sscNow = s.sscNow := rfl
@[simp] theorem State.setReg_trainRecs : (s.setReg r i v).trainRecs = s.trainRecs := rfl
@[simp] theorem State.setReg_dsFieldOpen : (s.setReg r i v).dsFieldOpen = s.dsFieldOpen := rfl
@[simp] theorem State.setReg_dsChanOpen : (s.setReg r i v).dsChanOpen = s.dsChanOpen := rfl
@[simp] theorem State.setReg_checkDegraded : (s.setReg r i v).checkDegraded = s.checkDegraded := rfl
@[simp] theorem State.setReg_pwrCycleReq : (s.setReg r i v).pwrCycleReq = s.pwrCycleReq := rfl
@[simp] theorem State.setReg_flogUsed : (s.setReg r i v).flogUsed = s.flogUsed := rfl
@[simp] theorem State.setReg_outLog : (s.setReg r i v).outLog = s.outLog := rfl
@[simp] theorem State.setReg_repairs : (s.setReg r i v).repairs = s.repairs := rfl
@[simp] theorem State.setReg_savedSlots : (s.setReg r i v).savedSlots = s.savedSlots := rfl
@[simp] theorem State.setReg_hbAt : (s.setReg r i v).hbAt = s.hbAt := rfl
@[simp] theorem State.setReg_swapping : (s.setReg r i v).swapping = s.swapping := rfl
@[simp] theorem State.setReg_ccLost : (s.setReg r i v).ccLost = s.ccLost := rfl
@[simp] theorem State.setReg_trogDrops : (s.setReg r i v).trogDrops = s.trogDrops := rfl
@[simp] theorem State.setReg_trogSeen : (s.setReg r i v).trogSeen = s.trogSeen := rfl
@[simp] theorem State.setReg_trogUnacked : (s.setReg r i v).trogUnacked = s.trogUnacked := rfl
@[simp] theorem State.setReg_trogIn : (s.setReg r i v).trogIn = s.trogIn := rfl
@[simp] theorem State.setReg_rendezvous : (s.setReg r i v).rendezvous = s.rendezvous := rfl
@[simp] theorem State.setReg_replayFails : (s.setReg r i v).replayFails = s.replayFails := rfl
@[simp] theorem State.setReg_arrWake : (s.setReg r i v).arrWake = s.arrWake := rfl
@[simp] theorem State.setReg_arrIdle : (s.setReg r i v).arrIdle = s.arrIdle := rfl
@[simp] theorem State.setReg_mtOut : (s.setReg r i v).mtOut = s.mtOut := rfl
@[simp] theorem State.setReg_ltOut : (s.setReg r i v).ltOut = s.ltOut := rfl
@[simp] theorem State.setReg_ltIn : (s.setReg r i v).ltIn = s.ltIn := rfl
@[simp] theorem State.setReg_ltErr : (s.setReg r i v).ltErr = s.ltErr := rfl
@[simp] theorem State.setReg_slvLate : (s.setReg r i v).slvLate = s.slvLate := rfl
@[simp] theorem State.setReg_sealLate : (s.setReg r i v).sealLate = s.sealLate := rfl
@[simp] theorem State.setReg_safe : (s.setReg r i v).safe = s.safe := rfl
@[simp] theorem State.setReg_safeCt : (s.setReg r i v).safeCt = s.safeCt := rfl
@[simp] theorem State.setReg_safeFs : (s.setReg r i v).safeFs = s.safeFs := rfl
@[simp] theorem State.setReg_safeSum : (s.setReg r i v).safeSum = s.safeSum := rfl
@[simp] theorem State.setReg_safeTap : (s.setReg r i v).safeTap = s.safeTap := rfl
@[simp] theorem State.setReg_safeAt : (s.setReg r i v).safeAt = s.safeAt := rfl
@[simp] theorem State.setReg_pcnt : (s.setReg r i v).pcnt = s.pcnt := rfl
@[simp] theorem State.setReg_traceQ : (s.setReg r i v).traceQ = s.traceQ := rfl
@[simp] theorem State.setReg_traceLoss : (s.setReg r i v).traceLoss = s.traceLoss := rfl
@[simp] theorem State.setReg_traceW : (s.setReg r i v).traceW = s.traceW := rfl
@[simp] theorem State.setReg_traceOut : (s.setReg r i v).traceOut = s.traceOut := rfl
@[simp] theorem State.setReg_kills : (s.setReg r i v).kills = s.kills := rfl
@[simp] theorem State.setReg_ingOut : (s.setReg r i v).ingOut = s.ingOut := rfl
@[simp] theorem State.setReg_egrOut : (s.setReg r i v).egrOut = s.egrOut := rfl
@[simp] theorem State.setReg_engRst : (s.setReg r i v).engRst = s.engRst := rfl
@[simp] theorem State.setReg_ctxSig : (s.setReg r i v).ctxSig = s.ctxSig := rfl
@[simp] theorem State.setReg_ctSet : (s.setReg r i v).ctSet = s.ctSet := rfl
@[simp] theorem State.setReg_selKey : (s.setReg r i v).selKey = s.selKey := rfl
@[simp] theorem State.setReg_descCnt : (s.setReg r i v).descCnt = s.descCnt := rfl
@[simp] theorem State.setReg_tiles : (s.setReg r i v).tiles = s.tiles := rfl
@[simp] theorem State.setReg_tileSq : (s.setReg r i v).tileSq = s.tileSq := rfl
@[simp] theorem State.setReg_skip : (s.setReg r i v).skip = s.skip := rfl
@[simp] theorem State.setReg_fifo : (s.setReg r i v).fifo = s.fifo := rfl
@[simp] theorem State.setReg_foldRr : (s.setReg r i v).foldRr = s.foldRr := rfl
@[simp] theorem State.setReg_stampQ : (s.setReg r i v).stampQ = s.stampQ := rfl
@[simp] theorem State.setReg_stampCyc : (s.setReg r i v).stampCyc = s.stampCyc := rfl
@[simp] theorem State.setReg_stampOut : (s.setReg r i v).stampOut = s.stampOut := rfl
@[simp] theorem State.setReg_mirBuf : (s.setReg r i v).mirBuf = s.mirBuf := rfl
@[simp] theorem State.setReg_rsvQ : (s.setReg r i v).rsvQ = s.rsvQ := rfl
@[simp] theorem State.setReg_abnQ : (s.setReg r i v).abnQ = s.abnQ := rfl
@[simp] theorem State.setReg_rplQ : (s.setReg r i v).rplQ = s.rplQ := rfl
@[simp] theorem State.setReg_vrdQ : (s.setReg r i v).vrdQ = s.vrdQ := rfl
@[simp] theorem State.setReg_store : (s.setReg r i v).store = s.store := rfl
@[simp] theorem State.setReg_early : (s.setReg r i v).early = s.early := rfl
@[simp] theorem State.setReg_rdySeq : (s.setReg r i v).rdySeq = s.rdySeq := rfl
@[simp] theorem State.setReg_negs : (s.setReg r i v).negs = s.negs := rfl
@[simp] theorem State.setReg_negWait : (s.setReg r i v).negWait = s.negWait := rfl
@[simp] theorem State.setReg_segLeft : (s.setReg r i v).segLeft = s.segLeft := rfl
@[simp] theorem State.setReg_segEnd : (s.setReg r i v).segEnd = s.segEnd := rfl
@[simp] theorem State.setReg_selfReq : (s.setReg r i v).selfReq = s.selfReq := rfl
@[simp] theorem State.setReg_selfEnd : (s.setReg r i v).selfEnd = s.selfEnd := rfl
@[simp] theorem State.setReg_ledger : (s.setReg r i v).ledger = s.ledger := rfl
@[simp] theorem State.setReg_cores : (s.setReg r i v).cores = s.cores := rfl
@[simp] theorem State.setReg_strips : (s.setReg r i v).strips = s.strips := rfl
@[simp] theorem State.setReg_stripNo : (s.setReg r i v).stripNo = s.stripNo := rfl
@[simp] theorem State.setReg_grantNo : (s.setReg r i v).grantNo = s.grantNo := rfl
@[simp] theorem State.setReg_stripOut : (s.setReg r i v).stripOut = s.stripOut := rfl
@[simp] theorem State.setReg_steps : (s.setReg r i v).steps = s.steps := rfl
@[simp] theorem State.setReg_shards : (s.setReg r i v).shards = s.shards := rfl
@[simp] theorem State.setReg_hosts : (s.setReg r i v).hosts = s.hosts := rfl
@[simp] theorem State.setReg_slv : (s.setReg r i v).slv = s.slv := rfl
@[simp] theorem State.setReg_slvCache : (s.setReg r i v).slvCache = s.slvCache := rfl
@[simp] theorem State.setReg_slvBad : (s.setReg r i v).slvBad = s.slvBad := rfl
@[simp] theorem State.setReg_slvGather : (s.setReg r i v).slvGather = s.slvGather := rfl
@[simp] theorem State.setReg_wdogs : (s.setReg r i v).wdogs = s.wdogs := rfl
@[simp] theorem State.setReg_sessions : (s.setReg r i v).sessions = s.sessions := rfl
@[simp] theorem State.setReg_pmQ : (s.setReg r i v).pmQ = s.pmQ := rfl
@[simp] theorem State.setReg_pmSettle : (s.setReg r i v).pmSettle = s.pmSettle := rfl
@[simp] theorem State.setReg_stressEn : (s.setReg r i v).stressEn = s.stressEn := rfl
@[simp] theorem State.setReg_tokQ : (s.setReg r i v).tokQ = s.tokQ := rfl
@[simp] theorem State.setReg_tokRet : (s.setReg r i v).tokRet = s.tokRet := rfl
@[simp] theorem State.setReg_maintEnd : (s.setReg r i v).maintEnd = s.maintEnd := rfl
@[simp] theorem State.setReg_maintHold : (s.setReg r i v).maintHold = s.maintHold := rfl
@[simp] theorem State.setReg_lsp : (s.setReg r i v).lsp = s.lsp := rfl
@[simp] theorem State.setReg_bank0 : (s.setReg r i v).bank0 = s.bank0 := rfl
@[simp] theorem State.setReg_bank1 : (s.setReg r i v).bank1 = s.bank1 := rfl
@[simp] theorem State.setReg_bankAct : (s.setReg r i v).bankAct = s.bankAct := rfl
@[simp] theorem State.setReg_bankWear : (s.setReg r i v).bankWear = s.bankWear := rfl
@[simp] theorem State.setReg_packRecv : (s.setReg r i v).packRecv = s.packRecv := rfl
@[simp] theorem State.setReg_packSw : (s.setReg r i v).packSw = s.packSw := rfl
@[simp] theorem State.setReg_fsPack : (s.setReg r i v).fsPack = s.fsPack := rfl
@[simp] theorem State.setReg_imgBank : (s.setReg r i v).imgBank = s.imgBank := rfl
@[simp] theorem State.setReg_imgWear : (s.setReg r i v).imgWear = s.imgWear := rfl
@[simp] theorem State.setReg_imgRecv : (s.setReg r i v).imgRecv = s.imgRecv := rfl
@[simp] theorem State.setReg_imgAt : (s.setReg r i v).imgAt = s.imgAt := rfl
@[simp] theorem State.setReg_imgPend : (s.setReg r i v).imgPend = s.imgPend := rfl
@[simp] theorem State.setReg_imgHold : (s.setReg r i v).imgHold = s.imgHold := rfl
@[simp] theorem State.setReg_rsteps : (s.setReg r i v).rsteps = s.rsteps := rfl
@[simp] theorem State.setReg_presets : (s.setReg r i v).presets = s.presets := rfl
@[simp] theorem State.setReg_wstep : (s.setReg r i v).wstep = s.wstep := rfl
@[simp] theorem State.setReg_partHist : (s.setReg r i v).partHist = s.partHist := rfl
@[simp] theorem State.setReg_prtReq : (s.setReg r i v).prtReq = s.prtReq := rfl
@[simp] theorem State.setReg_prtScrub : (s.setReg r i v).prtScrub = s.prtScrub := rfl
@[simp] theorem State.setReg_susp : (s.setReg r i v).susp = s.susp := rfl
@[simp] theorem State.setReg_crep : (s.setReg r i v).crep = s.crep := rfl
@[simp] theorem State.setReg_ltReq : (s.setReg r i v).ltReq = s.ltReq := rfl
@[simp] theorem State.setReg_ltUntr : (s.setReg r i v).ltUntr = s.ltUntr := rfl
@[simp] theorem State.setReg_ltUp : (s.setReg r i v).ltUp = s.ltUp := rfl
@[simp] theorem State.setReg_saves : (s.setReg r i v).saves = s.saves := rfl
@[simp] theorem State.setReg_restores : (s.setReg r i v).restores = s.restores := rfl
@[simp] theorem State.setReg_ckptMan : (s.setReg r i v).ckptMan = s.ckptMan := rfl
@[simp] theorem State.setReg_skews : (s.setReg r i v).skews = s.skews := rfl
@[simp] theorem State.setReg_ckptTab : (s.setReg r i v).ckptTab = s.ckptTab := rfl
@[simp] theorem State.setReg_hosting : (s.setReg r i v).hosting = s.hosting := rfl
@[simp] theorem State.setReg_hostAns : (s.setReg r i v).hostAns = s.hostAns := rfl
@[simp] theorem State.setReg_copyLen : (s.setReg r i v).copyLen = s.copyLen := rfl
@[simp] theorem State.setReg_stop : (s.setReg r i v).stop = s.stop := rfl
@[simp] theorem State.setReg_stopWire : (s.setReg r i v).stopWire = s.stopWire := rfl
@[simp] theorem State.setReg_freezeWire : (s.setReg r i v).freezeWire = s.freezeWire := rfl
@[simp] theorem State.setReg_stopCount : (s.setReg r i v).stopCount = s.stopCount := rfl
@[simp] theorem State.setReg_joinIds : (s.setReg r i v).joinIds = s.joinIds := rfl
@[simp] theorem State.setReg_quiet : (s.setReg r i v).quiet = s.quiet := rfl
@[simp] theorem State.setReg_heldQ : (s.setReg r i v).heldQ = s.heldQ := rfl
@[simp] theorem State.setReg_ledWait : (s.setReg r i v).ledWait = s.ledWait := rfl
@[simp] theorem State.setReg_mtSnap : (s.setReg r i v).mtSnap = s.mtSnap := rfl
@[simp] theorem State.setReg_ltRing : (s.setReg r i v).ltRing = s.ltRing := rfl
@[simp] theorem State.setReg_sheet : (s.setReg r i v).sheet = s.sheet := rfl
@[simp] theorem State.setReg_sheetHead : (s.setReg r i v).sheetHead = s.sheetHead := rfl
@[simp] theorem State.setReg_bars : (s.setReg r i v).bars = s.bars := rfl
@[simp] theorem State.setReg_barCh : (s.setReg r i v).barCh = s.barCh := rfl
@[simp] theorem State.setReg_barSense : (s.setReg r i v).barSense = s.barSense := rfl
@[simp] theorem State.setReg_barWait : (s.setReg r i v).barWait = s.barWait := rfl
@[simp] theorem State.setReg_barErr : (s.setReg r i v).barErr = s.barErr := rfl
@[simp] theorem State.setReg_keySlots : (s.setReg r i v).keySlots = s.keySlots := rfl
@[simp] theorem State.setReg_noKey : (s.setReg r i v).noKey = s.noKey := rfl
@[simp] theorem State.setReg_linkBlk : (s.setReg r i v).linkBlk = s.linkBlk := rfl
@[simp] theorem State.setReg_deseals : (s.setReg r i v).deseals = s.deseals := rfl
@[simp] theorem State.setReg_scrubs : (s.setReg r i v).scrubs = s.scrubs := rfl
@[simp] theorem State.setReg_scrubWt : (s.setReg r i v).scrubWt = s.scrubWt := rfl
@[simp] theorem State.setReg_lifeNext : (s.setReg r i v).lifeNext = s.lifeNext := rfl
@[simp] theorem State.setReg_keyRecv : (s.setReg r i v).keyRecv = s.keyRecv := rfl
@[simp] theorem State.setReg_slvRand : (s.setReg r i v).slvRand = s.slvRand := rfl
@[simp] theorem State.setReg_tagCache : (s.setReg r i v).tagCache = s.tagCache := rfl
@[simp] theorem State.setReg_nonces : (s.setReg r i v).nonces = s.nonces := rfl
@[simp] theorem State.setReg_epochSeen : (s.setReg r i v).epochSeen = s.epochSeen := rfl
@[simp] theorem State.setReg_spdm : (s.setReg r i v).spdm = s.spdm := rfl
@[simp] theorem State.setReg_spdmVer : (s.setReg r i v).spdmVer = s.spdmVer := rfl
@[simp] theorem State.setReg_spdmOut : (s.setReg r i v).spdmOut = s.spdmOut := rfl
@[simp] theorem State.setReg_boot : (s.setReg r i v).boot = s.boot := rfl
@[simp] theorem State.setReg_ownAt : (s.setReg r i v).ownAt = s.ownAt := rfl
@[simp] theorem State.setReg_hoAt : (s.setReg r i v).hoAt = s.hoAt := rfl
@[simp] theorem State.setReg_hregQ : (s.setReg r i v).hregQ = s.hregQ := rfl
@[simp] theorem State.setReg_hregOut : (s.setReg r i v).hregOut = s.hregOut := rfl
@[simp] theorem State.setReg_srcReady : (s.setReg r i v).srcReady = s.srcReady := rfl
@[simp] theorem State.setReg_aonLost : (s.setReg r i v).aonLost = s.aonLost := rfl
@[simp] theorem State.setReg_i3cAddr : (s.setReg r i v).i3cAddr = s.i3cAddr := rfl
@[simp] theorem State.setReg_i3cSa : (s.setReg r i v).i3cSa = s.i3cSa := rfl
@[simp] theorem State.setReg_mctpEid : (s.setReg r i v).mctpEid = s.mctpEid := rfl
@[simp] theorem State.setReg_mgmtOut : (s.setReg r i v).mgmtOut = s.mgmtOut := rfl
@[simp] theorem State.setReg_ibiNo : (s.setReg r i v).ibiNo = s.ibiNo := rfl
@[simp] theorem State.setReg_pwrReport : (s.setReg r i v).pwrReport = s.pwrReport := rfl
end

/-! ### `State.wr` -/
section
variable (s : State) (f : Fld) (i v : Nat)
@[simp] theorem State.wr_pending : (s.wr f i v).pending = s.pending := rfl
@[simp] theorem State.wr_freeCtr : (s.wr f i v).freeCtr = s.freeCtr := rfl
@[simp] theorem State.wr_entCtr : (s.wr f i v).entCtr = s.entCtr := rfl
@[simp] theorem State.wr_wt : (s.wr f i v).wt = s.wt := rfl
@[simp] theorem State.wr_cyc : (s.wr f i v).cyc = s.cyc := rfl
@[simp] theorem State.wr_ctTemp : (s.wr f i v).ctTemp = s.ctTemp := rfl
@[simp] theorem State.wr_recs : (s.wr f i v).recs = s.recs := rfl
@[simp] theorem State.wr_fwdQ : (s.wr f i v).fwdQ = s.fwdQ := rfl
@[simp] theorem State.wr_fwdNext : (s.wr f i v).fwdNext = s.fwdNext := rfl
@[simp] theorem State.wr_pins : (s.wr f i v).pins = s.pins := rfl
@[simp] theorem State.wr_errIn : (s.wr f i v).errIn = s.errIn := rfl
@[simp] theorem State.wr_injs : (s.wr f i v).injs = s.injs := rfl
@[simp] theorem State.wr_seqs : (s.wr f i v).seqs = s.seqs := rfl
@[simp] theorem State.wr_semQ : (s.wr f i v).semQ = s.semQ := rfl
@[simp] theorem State.wr_arch : (s.wr f i v).arch = s.arch := rfl
@[simp] theorem State.wr_wear : (s.wr f i v).wear = s.wear := rfl
@[simp] theorem State.wr_fsHw : (s.wr f i v).fsHw = s.fsHw := rfl
@[simp] theorem State.wr_bist : (s.wr f i v).bist = s.bist := rfl
@[simp] theorem State.wr_fuseBad : (s.wr f i v).fuseBad = s.fuseBad := rfl
@[simp] theorem State.wr_fset : (s.wr f i v).fset = s.fset := rfl
@[simp] theorem State.wr_fenceQ : (s.wr f i v).fenceQ = s.fenceQ := rfl
@[simp] theorem State.wr_fencePort : (s.wr f i v).fencePort = s.fencePort := rfl
@[simp] theorem State.wr_confQ : (s.wr f i v).confQ = s.confQ := rfl
@[simp] theorem State.wr_ansQ : (s.wr f i v).ansQ = s.ansQ := rfl
@[simp] theorem State.wr_latent : (s.wr f i v).latent = s.latent := rfl
@[simp] theorem State.wr_clears : (s.wr f i v).clears = s.clears := rfl
@[simp] theorem State.wr_clkPairs : (s.wr f i v).clkPairs = s.clkPairs := rfl
@[simp] theorem State.wr_bkRun : (s.wr f i v).bkRun = s.bkRun := rfl
@[simp] theorem State.wr_pllRef : (s.wr f i v).pllRef = s.pllRef := rfl
@[simp] theorem State.wr_pllBk : (s.wr f i v).pllBk = s.pllBk := rfl
@[simp] theorem State.wr_aonSince : (s.wr f i v).aonSince = s.aonSince := rfl
@[simp] theorem State.wr_aonNs : (s.wr f i v).aonNs = s.aonNs := rfl
@[simp] theorem State.wr_sscNow : (s.wr f i v).sscNow = s.sscNow := rfl
@[simp] theorem State.wr_trainRecs : (s.wr f i v).trainRecs = s.trainRecs := rfl
@[simp] theorem State.wr_dsFieldOpen : (s.wr f i v).dsFieldOpen = s.dsFieldOpen := rfl
@[simp] theorem State.wr_dsChanOpen : (s.wr f i v).dsChanOpen = s.dsChanOpen := rfl
@[simp] theorem State.wr_checkDegraded : (s.wr f i v).checkDegraded = s.checkDegraded := rfl
@[simp] theorem State.wr_pwrCycleReq : (s.wr f i v).pwrCycleReq = s.pwrCycleReq := rfl
@[simp] theorem State.wr_flogUsed : (s.wr f i v).flogUsed = s.flogUsed := rfl
@[simp] theorem State.wr_outLog : (s.wr f i v).outLog = s.outLog := rfl
@[simp] theorem State.wr_repairs : (s.wr f i v).repairs = s.repairs := rfl
@[simp] theorem State.wr_savedSlots : (s.wr f i v).savedSlots = s.savedSlots := rfl
@[simp] theorem State.wr_hbAt : (s.wr f i v).hbAt = s.hbAt := rfl
@[simp] theorem State.wr_swapping : (s.wr f i v).swapping = s.swapping := rfl
@[simp] theorem State.wr_ccLost : (s.wr f i v).ccLost = s.ccLost := rfl
@[simp] theorem State.wr_trogDrops : (s.wr f i v).trogDrops = s.trogDrops := rfl
@[simp] theorem State.wr_trogSeen : (s.wr f i v).trogSeen = s.trogSeen := rfl
@[simp] theorem State.wr_trogUnacked : (s.wr f i v).trogUnacked = s.trogUnacked := rfl
@[simp] theorem State.wr_trogIn : (s.wr f i v).trogIn = s.trogIn := rfl
@[simp] theorem State.wr_rendezvous : (s.wr f i v).rendezvous = s.rendezvous := rfl
@[simp] theorem State.wr_replayFails : (s.wr f i v).replayFails = s.replayFails := rfl
@[simp] theorem State.wr_arrWake : (s.wr f i v).arrWake = s.arrWake := rfl
@[simp] theorem State.wr_arrIdle : (s.wr f i v).arrIdle = s.arrIdle := rfl
@[simp] theorem State.wr_mtOut : (s.wr f i v).mtOut = s.mtOut := rfl
@[simp] theorem State.wr_ltOut : (s.wr f i v).ltOut = s.ltOut := rfl
@[simp] theorem State.wr_ltIn : (s.wr f i v).ltIn = s.ltIn := rfl
@[simp] theorem State.wr_ltErr : (s.wr f i v).ltErr = s.ltErr := rfl
@[simp] theorem State.wr_slvLate : (s.wr f i v).slvLate = s.slvLate := rfl
@[simp] theorem State.wr_sealLate : (s.wr f i v).sealLate = s.sealLate := rfl
@[simp] theorem State.wr_safe : (s.wr f i v).safe = s.safe := rfl
@[simp] theorem State.wr_safeCt : (s.wr f i v).safeCt = s.safeCt := rfl
@[simp] theorem State.wr_safeFs : (s.wr f i v).safeFs = s.safeFs := rfl
@[simp] theorem State.wr_safeSum : (s.wr f i v).safeSum = s.safeSum := rfl
@[simp] theorem State.wr_safeTap : (s.wr f i v).safeTap = s.safeTap := rfl
@[simp] theorem State.wr_safeAt : (s.wr f i v).safeAt = s.safeAt := rfl
@[simp] theorem State.wr_pcnt : (s.wr f i v).pcnt = s.pcnt := rfl
@[simp] theorem State.wr_traceQ : (s.wr f i v).traceQ = s.traceQ := rfl
@[simp] theorem State.wr_traceLoss : (s.wr f i v).traceLoss = s.traceLoss := rfl
@[simp] theorem State.wr_traceW : (s.wr f i v).traceW = s.traceW := rfl
@[simp] theorem State.wr_traceOut : (s.wr f i v).traceOut = s.traceOut := rfl
@[simp] theorem State.wr_kills : (s.wr f i v).kills = s.kills := rfl
@[simp] theorem State.wr_ingOut : (s.wr f i v).ingOut = s.ingOut := rfl
@[simp] theorem State.wr_egrOut : (s.wr f i v).egrOut = s.egrOut := rfl
@[simp] theorem State.wr_engRst : (s.wr f i v).engRst = s.engRst := rfl
@[simp] theorem State.wr_ctxSig : (s.wr f i v).ctxSig = s.ctxSig := rfl
@[simp] theorem State.wr_ctSet : (s.wr f i v).ctSet = s.ctSet := rfl
@[simp] theorem State.wr_selKey : (s.wr f i v).selKey = s.selKey := rfl
@[simp] theorem State.wr_descCnt : (s.wr f i v).descCnt = s.descCnt := rfl
@[simp] theorem State.wr_tiles : (s.wr f i v).tiles = s.tiles := rfl
@[simp] theorem State.wr_tileSq : (s.wr f i v).tileSq = s.tileSq := rfl
@[simp] theorem State.wr_skip : (s.wr f i v).skip = s.skip := rfl
@[simp] theorem State.wr_fifo : (s.wr f i v).fifo = s.fifo := rfl
@[simp] theorem State.wr_foldRr : (s.wr f i v).foldRr = s.foldRr := rfl
@[simp] theorem State.wr_stampQ : (s.wr f i v).stampQ = s.stampQ := rfl
@[simp] theorem State.wr_stampCyc : (s.wr f i v).stampCyc = s.stampCyc := rfl
@[simp] theorem State.wr_stampOut : (s.wr f i v).stampOut = s.stampOut := rfl
@[simp] theorem State.wr_mirBuf : (s.wr f i v).mirBuf = s.mirBuf := rfl
@[simp] theorem State.wr_rsvQ : (s.wr f i v).rsvQ = s.rsvQ := rfl
@[simp] theorem State.wr_abnQ : (s.wr f i v).abnQ = s.abnQ := rfl
@[simp] theorem State.wr_rplQ : (s.wr f i v).rplQ = s.rplQ := rfl
@[simp] theorem State.wr_vrdQ : (s.wr f i v).vrdQ = s.vrdQ := rfl
@[simp] theorem State.wr_store : (s.wr f i v).store = s.store := rfl
@[simp] theorem State.wr_early : (s.wr f i v).early = s.early := rfl
@[simp] theorem State.wr_rdySeq : (s.wr f i v).rdySeq = s.rdySeq := rfl
@[simp] theorem State.wr_negs : (s.wr f i v).negs = s.negs := rfl
@[simp] theorem State.wr_negWait : (s.wr f i v).negWait = s.negWait := rfl
@[simp] theorem State.wr_segLeft : (s.wr f i v).segLeft = s.segLeft := rfl
@[simp] theorem State.wr_segEnd : (s.wr f i v).segEnd = s.segEnd := rfl
@[simp] theorem State.wr_selfReq : (s.wr f i v).selfReq = s.selfReq := rfl
@[simp] theorem State.wr_selfEnd : (s.wr f i v).selfEnd = s.selfEnd := rfl
@[simp] theorem State.wr_ledger : (s.wr f i v).ledger = s.ledger := rfl
@[simp] theorem State.wr_cores : (s.wr f i v).cores = s.cores := rfl
@[simp] theorem State.wr_strips : (s.wr f i v).strips = s.strips := rfl
@[simp] theorem State.wr_stripNo : (s.wr f i v).stripNo = s.stripNo := rfl
@[simp] theorem State.wr_grantNo : (s.wr f i v).grantNo = s.grantNo := rfl
@[simp] theorem State.wr_stripOut : (s.wr f i v).stripOut = s.stripOut := rfl
@[simp] theorem State.wr_steps : (s.wr f i v).steps = s.steps := rfl
@[simp] theorem State.wr_shards : (s.wr f i v).shards = s.shards := rfl
@[simp] theorem State.wr_hosts : (s.wr f i v).hosts = s.hosts := rfl
@[simp] theorem State.wr_slv : (s.wr f i v).slv = s.slv := rfl
@[simp] theorem State.wr_slvCache : (s.wr f i v).slvCache = s.slvCache := rfl
@[simp] theorem State.wr_slvBad : (s.wr f i v).slvBad = s.slvBad := rfl
@[simp] theorem State.wr_slvGather : (s.wr f i v).slvGather = s.slvGather := rfl
@[simp] theorem State.wr_wdogs : (s.wr f i v).wdogs = s.wdogs := rfl
@[simp] theorem State.wr_sessions : (s.wr f i v).sessions = s.sessions := rfl
@[simp] theorem State.wr_pmQ : (s.wr f i v).pmQ = s.pmQ := rfl
@[simp] theorem State.wr_pmSettle : (s.wr f i v).pmSettle = s.pmSettle := rfl
@[simp] theorem State.wr_stressEn : (s.wr f i v).stressEn = s.stressEn := rfl
@[simp] theorem State.wr_tokQ : (s.wr f i v).tokQ = s.tokQ := rfl
@[simp] theorem State.wr_tokRet : (s.wr f i v).tokRet = s.tokRet := rfl
@[simp] theorem State.wr_maintEnd : (s.wr f i v).maintEnd = s.maintEnd := rfl
@[simp] theorem State.wr_maintHold : (s.wr f i v).maintHold = s.maintHold := rfl
@[simp] theorem State.wr_lsp : (s.wr f i v).lsp = s.lsp := rfl
@[simp] theorem State.wr_bank0 : (s.wr f i v).bank0 = s.bank0 := rfl
@[simp] theorem State.wr_bank1 : (s.wr f i v).bank1 = s.bank1 := rfl
@[simp] theorem State.wr_bankAct : (s.wr f i v).bankAct = s.bankAct := rfl
@[simp] theorem State.wr_bankWear : (s.wr f i v).bankWear = s.bankWear := rfl
@[simp] theorem State.wr_packRecv : (s.wr f i v).packRecv = s.packRecv := rfl
@[simp] theorem State.wr_packSw : (s.wr f i v).packSw = s.packSw := rfl
@[simp] theorem State.wr_fsPack : (s.wr f i v).fsPack = s.fsPack := rfl
@[simp] theorem State.wr_imgBank : (s.wr f i v).imgBank = s.imgBank := rfl
@[simp] theorem State.wr_imgWear : (s.wr f i v).imgWear = s.imgWear := rfl
@[simp] theorem State.wr_imgRecv : (s.wr f i v).imgRecv = s.imgRecv := rfl
@[simp] theorem State.wr_imgAt : (s.wr f i v).imgAt = s.imgAt := rfl
@[simp] theorem State.wr_imgPend : (s.wr f i v).imgPend = s.imgPend := rfl
@[simp] theorem State.wr_imgHold : (s.wr f i v).imgHold = s.imgHold := rfl
@[simp] theorem State.wr_rsteps : (s.wr f i v).rsteps = s.rsteps := rfl
@[simp] theorem State.wr_presets : (s.wr f i v).presets = s.presets := rfl
@[simp] theorem State.wr_wstep : (s.wr f i v).wstep = s.wstep := rfl
@[simp] theorem State.wr_partHist : (s.wr f i v).partHist = s.partHist := rfl
@[simp] theorem State.wr_prtReq : (s.wr f i v).prtReq = s.prtReq := rfl
@[simp] theorem State.wr_prtScrub : (s.wr f i v).prtScrub = s.prtScrub := rfl
@[simp] theorem State.wr_susp : (s.wr f i v).susp = s.susp := rfl
@[simp] theorem State.wr_crep : (s.wr f i v).crep = s.crep := rfl
@[simp] theorem State.wr_ltReq : (s.wr f i v).ltReq = s.ltReq := rfl
@[simp] theorem State.wr_ltUntr : (s.wr f i v).ltUntr = s.ltUntr := rfl
@[simp] theorem State.wr_ltUp : (s.wr f i v).ltUp = s.ltUp := rfl
@[simp] theorem State.wr_saves : (s.wr f i v).saves = s.saves := rfl
@[simp] theorem State.wr_restores : (s.wr f i v).restores = s.restores := rfl
@[simp] theorem State.wr_ckptMan : (s.wr f i v).ckptMan = s.ckptMan := rfl
@[simp] theorem State.wr_skews : (s.wr f i v).skews = s.skews := rfl
@[simp] theorem State.wr_ckptTab : (s.wr f i v).ckptTab = s.ckptTab := rfl
@[simp] theorem State.wr_hosting : (s.wr f i v).hosting = s.hosting := rfl
@[simp] theorem State.wr_hostAns : (s.wr f i v).hostAns = s.hostAns := rfl
@[simp] theorem State.wr_copyLen : (s.wr f i v).copyLen = s.copyLen := rfl
@[simp] theorem State.wr_stop : (s.wr f i v).stop = s.stop := rfl
@[simp] theorem State.wr_stopWire : (s.wr f i v).stopWire = s.stopWire := rfl
@[simp] theorem State.wr_freezeWire : (s.wr f i v).freezeWire = s.freezeWire := rfl
@[simp] theorem State.wr_stopCount : (s.wr f i v).stopCount = s.stopCount := rfl
@[simp] theorem State.wr_joinIds : (s.wr f i v).joinIds = s.joinIds := rfl
@[simp] theorem State.wr_quiet : (s.wr f i v).quiet = s.quiet := rfl
@[simp] theorem State.wr_heldQ : (s.wr f i v).heldQ = s.heldQ := rfl
@[simp] theorem State.wr_ledWait : (s.wr f i v).ledWait = s.ledWait := rfl
@[simp] theorem State.wr_mtSnap : (s.wr f i v).mtSnap = s.mtSnap := rfl
@[simp] theorem State.wr_ltRing : (s.wr f i v).ltRing = s.ltRing := rfl
@[simp] theorem State.wr_sheet : (s.wr f i v).sheet = s.sheet := rfl
@[simp] theorem State.wr_sheetHead : (s.wr f i v).sheetHead = s.sheetHead := rfl
@[simp] theorem State.wr_bars : (s.wr f i v).bars = s.bars := rfl
@[simp] theorem State.wr_barCh : (s.wr f i v).barCh = s.barCh := rfl
@[simp] theorem State.wr_barSense : (s.wr f i v).barSense = s.barSense := rfl
@[simp] theorem State.wr_barWait : (s.wr f i v).barWait = s.barWait := rfl
@[simp] theorem State.wr_barErr : (s.wr f i v).barErr = s.barErr := rfl
@[simp] theorem State.wr_keySlots : (s.wr f i v).keySlots = s.keySlots := rfl
@[simp] theorem State.wr_noKey : (s.wr f i v).noKey = s.noKey := rfl
@[simp] theorem State.wr_linkBlk : (s.wr f i v).linkBlk = s.linkBlk := rfl
@[simp] theorem State.wr_deseals : (s.wr f i v).deseals = s.deseals := rfl
@[simp] theorem State.wr_scrubs : (s.wr f i v).scrubs = s.scrubs := rfl
@[simp] theorem State.wr_scrubWt : (s.wr f i v).scrubWt = s.scrubWt := rfl
@[simp] theorem State.wr_lifeNext : (s.wr f i v).lifeNext = s.lifeNext := rfl
@[simp] theorem State.wr_keyRecv : (s.wr f i v).keyRecv = s.keyRecv := rfl
@[simp] theorem State.wr_slvRand : (s.wr f i v).slvRand = s.slvRand := rfl
@[simp] theorem State.wr_tagCache : (s.wr f i v).tagCache = s.tagCache := rfl
@[simp] theorem State.wr_nonces : (s.wr f i v).nonces = s.nonces := rfl
@[simp] theorem State.wr_epochSeen : (s.wr f i v).epochSeen = s.epochSeen := rfl
@[simp] theorem State.wr_spdm : (s.wr f i v).spdm = s.spdm := rfl
@[simp] theorem State.wr_spdmVer : (s.wr f i v).spdmVer = s.spdmVer := rfl
@[simp] theorem State.wr_spdmOut : (s.wr f i v).spdmOut = s.spdmOut := rfl
@[simp] theorem State.wr_boot : (s.wr f i v).boot = s.boot := rfl
@[simp] theorem State.wr_ownAt : (s.wr f i v).ownAt = s.ownAt := rfl
@[simp] theorem State.wr_hoAt : (s.wr f i v).hoAt = s.hoAt := rfl
@[simp] theorem State.wr_hregQ : (s.wr f i v).hregQ = s.hregQ := rfl
@[simp] theorem State.wr_hregOut : (s.wr f i v).hregOut = s.hregOut := rfl
@[simp] theorem State.wr_srcReady : (s.wr f i v).srcReady = s.srcReady := rfl
@[simp] theorem State.wr_aonLost : (s.wr f i v).aonLost = s.aonLost := rfl
@[simp] theorem State.wr_i3cAddr : (s.wr f i v).i3cAddr = s.i3cAddr := rfl
@[simp] theorem State.wr_i3cSa : (s.wr f i v).i3cSa = s.i3cSa := rfl
@[simp] theorem State.wr_mctpEid : (s.wr f i v).mctpEid = s.mctpEid := rfl
@[simp] theorem State.wr_mgmtOut : (s.wr f i v).mgmtOut = s.mgmtOut := rfl
@[simp] theorem State.wr_ibiNo : (s.wr f i v).ibiNo = s.ibiNo := rfl
@[simp] theorem State.wr_pwrReport : (s.wr f i v).pwrReport = s.pwrReport := rfl
end

/-! ### `State.setSeq` -/
section
variable (s : State) (q : Nat) (x : Seq)
@[simp] theorem State.setSeq_pending : (s.setSeq q x).pending = s.pending := rfl
@[simp] theorem State.setSeq_freeCtr : (s.setSeq q x).freeCtr = s.freeCtr := rfl
@[simp] theorem State.setSeq_entCtr : (s.setSeq q x).entCtr = s.entCtr := rfl
@[simp] theorem State.setSeq_wt : (s.setSeq q x).wt = s.wt := rfl
@[simp] theorem State.setSeq_regs : (s.setSeq q x).regs = s.regs := rfl
@[simp] theorem State.setSeq_cyc : (s.setSeq q x).cyc = s.cyc := rfl
@[simp] theorem State.setSeq_ctTemp : (s.setSeq q x).ctTemp = s.ctTemp := rfl
@[simp] theorem State.setSeq_recs : (s.setSeq q x).recs = s.recs := rfl
@[simp] theorem State.setSeq_fwdQ : (s.setSeq q x).fwdQ = s.fwdQ := rfl
@[simp] theorem State.setSeq_fwdNext : (s.setSeq q x).fwdNext = s.fwdNext := rfl
@[simp] theorem State.setSeq_pins : (s.setSeq q x).pins = s.pins := rfl
@[simp] theorem State.setSeq_errIn : (s.setSeq q x).errIn = s.errIn := rfl
@[simp] theorem State.setSeq_injs : (s.setSeq q x).injs = s.injs := rfl
@[simp] theorem State.setSeq_semQ : (s.setSeq q x).semQ = s.semQ := rfl
@[simp] theorem State.setSeq_arch : (s.setSeq q x).arch = s.arch := rfl
@[simp] theorem State.setSeq_wear : (s.setSeq q x).wear = s.wear := rfl
@[simp] theorem State.setSeq_fsHw : (s.setSeq q x).fsHw = s.fsHw := rfl
@[simp] theorem State.setSeq_bist : (s.setSeq q x).bist = s.bist := rfl
@[simp] theorem State.setSeq_fuseBad : (s.setSeq q x).fuseBad = s.fuseBad := rfl
@[simp] theorem State.setSeq_fset : (s.setSeq q x).fset = s.fset := rfl
@[simp] theorem State.setSeq_fenceQ : (s.setSeq q x).fenceQ = s.fenceQ := rfl
@[simp] theorem State.setSeq_fencePort : (s.setSeq q x).fencePort = s.fencePort := rfl
@[simp] theorem State.setSeq_confQ : (s.setSeq q x).confQ = s.confQ := rfl
@[simp] theorem State.setSeq_ansQ : (s.setSeq q x).ansQ = s.ansQ := rfl
@[simp] theorem State.setSeq_latent : (s.setSeq q x).latent = s.latent := rfl
@[simp] theorem State.setSeq_clears : (s.setSeq q x).clears = s.clears := rfl
@[simp] theorem State.setSeq_clkPairs : (s.setSeq q x).clkPairs = s.clkPairs := rfl
@[simp] theorem State.setSeq_bkRun : (s.setSeq q x).bkRun = s.bkRun := rfl
@[simp] theorem State.setSeq_pllRef : (s.setSeq q x).pllRef = s.pllRef := rfl
@[simp] theorem State.setSeq_pllBk : (s.setSeq q x).pllBk = s.pllBk := rfl
@[simp] theorem State.setSeq_aonSince : (s.setSeq q x).aonSince = s.aonSince := rfl
@[simp] theorem State.setSeq_aonNs : (s.setSeq q x).aonNs = s.aonNs := rfl
@[simp] theorem State.setSeq_sscNow : (s.setSeq q x).sscNow = s.sscNow := rfl
@[simp] theorem State.setSeq_trainRecs : (s.setSeq q x).trainRecs = s.trainRecs := rfl
@[simp] theorem State.setSeq_dsFieldOpen : (s.setSeq q x).dsFieldOpen = s.dsFieldOpen := rfl
@[simp] theorem State.setSeq_dsChanOpen : (s.setSeq q x).dsChanOpen = s.dsChanOpen := rfl
@[simp] theorem State.setSeq_checkDegraded : (s.setSeq q x).checkDegraded = s.checkDegraded := rfl
@[simp] theorem State.setSeq_pwrCycleReq : (s.setSeq q x).pwrCycleReq = s.pwrCycleReq := rfl
@[simp] theorem State.setSeq_flogUsed : (s.setSeq q x).flogUsed = s.flogUsed := rfl
@[simp] theorem State.setSeq_outLog : (s.setSeq q x).outLog = s.outLog := rfl
@[simp] theorem State.setSeq_repairs : (s.setSeq q x).repairs = s.repairs := rfl
@[simp] theorem State.setSeq_savedSlots : (s.setSeq q x).savedSlots = s.savedSlots := rfl
@[simp] theorem State.setSeq_hbAt : (s.setSeq q x).hbAt = s.hbAt := rfl
@[simp] theorem State.setSeq_swapping : (s.setSeq q x).swapping = s.swapping := rfl
@[simp] theorem State.setSeq_ccLost : (s.setSeq q x).ccLost = s.ccLost := rfl
@[simp] theorem State.setSeq_trogDrops : (s.setSeq q x).trogDrops = s.trogDrops := rfl
@[simp] theorem State.setSeq_trogSeen : (s.setSeq q x).trogSeen = s.trogSeen := rfl
@[simp] theorem State.setSeq_trogUnacked : (s.setSeq q x).trogUnacked = s.trogUnacked := rfl
@[simp] theorem State.setSeq_trogIn : (s.setSeq q x).trogIn = s.trogIn := rfl
@[simp] theorem State.setSeq_rendezvous : (s.setSeq q x).rendezvous = s.rendezvous := rfl
@[simp] theorem State.setSeq_replayFails : (s.setSeq q x).replayFails = s.replayFails := rfl
@[simp] theorem State.setSeq_arrWake : (s.setSeq q x).arrWake = s.arrWake := rfl
@[simp] theorem State.setSeq_arrIdle : (s.setSeq q x).arrIdle = s.arrIdle := rfl
@[simp] theorem State.setSeq_mtOut : (s.setSeq q x).mtOut = s.mtOut := rfl
@[simp] theorem State.setSeq_ltOut : (s.setSeq q x).ltOut = s.ltOut := rfl
@[simp] theorem State.setSeq_ltIn : (s.setSeq q x).ltIn = s.ltIn := rfl
@[simp] theorem State.setSeq_ltErr : (s.setSeq q x).ltErr = s.ltErr := rfl
@[simp] theorem State.setSeq_slvLate : (s.setSeq q x).slvLate = s.slvLate := rfl
@[simp] theorem State.setSeq_sealLate : (s.setSeq q x).sealLate = s.sealLate := rfl
@[simp] theorem State.setSeq_safe : (s.setSeq q x).safe = s.safe := rfl
@[simp] theorem State.setSeq_safeCt : (s.setSeq q x).safeCt = s.safeCt := rfl
@[simp] theorem State.setSeq_safeFs : (s.setSeq q x).safeFs = s.safeFs := rfl
@[simp] theorem State.setSeq_safeSum : (s.setSeq q x).safeSum = s.safeSum := rfl
@[simp] theorem State.setSeq_safeTap : (s.setSeq q x).safeTap = s.safeTap := rfl
@[simp] theorem State.setSeq_safeAt : (s.setSeq q x).safeAt = s.safeAt := rfl
@[simp] theorem State.setSeq_pcnt : (s.setSeq q x).pcnt = s.pcnt := rfl
@[simp] theorem State.setSeq_traceQ : (s.setSeq q x).traceQ = s.traceQ := rfl
@[simp] theorem State.setSeq_traceLoss : (s.setSeq q x).traceLoss = s.traceLoss := rfl
@[simp] theorem State.setSeq_traceW : (s.setSeq q x).traceW = s.traceW := rfl
@[simp] theorem State.setSeq_traceOut : (s.setSeq q x).traceOut = s.traceOut := rfl
@[simp] theorem State.setSeq_kills : (s.setSeq q x).kills = s.kills := rfl
@[simp] theorem State.setSeq_ingOut : (s.setSeq q x).ingOut = s.ingOut := rfl
@[simp] theorem State.setSeq_egrOut : (s.setSeq q x).egrOut = s.egrOut := rfl
@[simp] theorem State.setSeq_engRst : (s.setSeq q x).engRst = s.engRst := rfl
@[simp] theorem State.setSeq_ctxSig : (s.setSeq q x).ctxSig = s.ctxSig := rfl
@[simp] theorem State.setSeq_ctSet : (s.setSeq q x).ctSet = s.ctSet := rfl
@[simp] theorem State.setSeq_selKey : (s.setSeq q x).selKey = s.selKey := rfl
@[simp] theorem State.setSeq_descCnt : (s.setSeq q x).descCnt = s.descCnt := rfl
@[simp] theorem State.setSeq_tiles : (s.setSeq q x).tiles = s.tiles := rfl
@[simp] theorem State.setSeq_tileSq : (s.setSeq q x).tileSq = s.tileSq := rfl
@[simp] theorem State.setSeq_skip : (s.setSeq q x).skip = s.skip := rfl
@[simp] theorem State.setSeq_fifo : (s.setSeq q x).fifo = s.fifo := rfl
@[simp] theorem State.setSeq_foldRr : (s.setSeq q x).foldRr = s.foldRr := rfl
@[simp] theorem State.setSeq_stampQ : (s.setSeq q x).stampQ = s.stampQ := rfl
@[simp] theorem State.setSeq_stampCyc : (s.setSeq q x).stampCyc = s.stampCyc := rfl
@[simp] theorem State.setSeq_stampOut : (s.setSeq q x).stampOut = s.stampOut := rfl
@[simp] theorem State.setSeq_mirBuf : (s.setSeq q x).mirBuf = s.mirBuf := rfl
@[simp] theorem State.setSeq_rsvQ : (s.setSeq q x).rsvQ = s.rsvQ := rfl
@[simp] theorem State.setSeq_abnQ : (s.setSeq q x).abnQ = s.abnQ := rfl
@[simp] theorem State.setSeq_rplQ : (s.setSeq q x).rplQ = s.rplQ := rfl
@[simp] theorem State.setSeq_vrdQ : (s.setSeq q x).vrdQ = s.vrdQ := rfl
@[simp] theorem State.setSeq_store : (s.setSeq q x).store = s.store := rfl
@[simp] theorem State.setSeq_early : (s.setSeq q x).early = s.early := rfl
@[simp] theorem State.setSeq_rdySeq : (s.setSeq q x).rdySeq = s.rdySeq := rfl
@[simp] theorem State.setSeq_negs : (s.setSeq q x).negs = s.negs := rfl
@[simp] theorem State.setSeq_negWait : (s.setSeq q x).negWait = s.negWait := rfl
@[simp] theorem State.setSeq_segLeft : (s.setSeq q x).segLeft = s.segLeft := rfl
@[simp] theorem State.setSeq_segEnd : (s.setSeq q x).segEnd = s.segEnd := rfl
@[simp] theorem State.setSeq_selfReq : (s.setSeq q x).selfReq = s.selfReq := rfl
@[simp] theorem State.setSeq_selfEnd : (s.setSeq q x).selfEnd = s.selfEnd := rfl
@[simp] theorem State.setSeq_ledger : (s.setSeq q x).ledger = s.ledger := rfl
@[simp] theorem State.setSeq_cores : (s.setSeq q x).cores = s.cores := rfl
@[simp] theorem State.setSeq_strips : (s.setSeq q x).strips = s.strips := rfl
@[simp] theorem State.setSeq_stripNo : (s.setSeq q x).stripNo = s.stripNo := rfl
@[simp] theorem State.setSeq_grantNo : (s.setSeq q x).grantNo = s.grantNo := rfl
@[simp] theorem State.setSeq_stripOut : (s.setSeq q x).stripOut = s.stripOut := rfl
@[simp] theorem State.setSeq_steps : (s.setSeq q x).steps = s.steps := rfl
@[simp] theorem State.setSeq_shards : (s.setSeq q x).shards = s.shards := rfl
@[simp] theorem State.setSeq_hosts : (s.setSeq q x).hosts = s.hosts := rfl
@[simp] theorem State.setSeq_slv : (s.setSeq q x).slv = s.slv := rfl
@[simp] theorem State.setSeq_slvCache : (s.setSeq q x).slvCache = s.slvCache := rfl
@[simp] theorem State.setSeq_slvBad : (s.setSeq q x).slvBad = s.slvBad := rfl
@[simp] theorem State.setSeq_slvGather : (s.setSeq q x).slvGather = s.slvGather := rfl
@[simp] theorem State.setSeq_wdogs : (s.setSeq q x).wdogs = s.wdogs := rfl
@[simp] theorem State.setSeq_sessions : (s.setSeq q x).sessions = s.sessions := rfl
@[simp] theorem State.setSeq_pmQ : (s.setSeq q x).pmQ = s.pmQ := rfl
@[simp] theorem State.setSeq_pmSettle : (s.setSeq q x).pmSettle = s.pmSettle := rfl
@[simp] theorem State.setSeq_stressEn : (s.setSeq q x).stressEn = s.stressEn := rfl
@[simp] theorem State.setSeq_tokQ : (s.setSeq q x).tokQ = s.tokQ := rfl
@[simp] theorem State.setSeq_tokRet : (s.setSeq q x).tokRet = s.tokRet := rfl
@[simp] theorem State.setSeq_maintEnd : (s.setSeq q x).maintEnd = s.maintEnd := rfl
@[simp] theorem State.setSeq_maintHold : (s.setSeq q x).maintHold = s.maintHold := rfl
@[simp] theorem State.setSeq_lsp : (s.setSeq q x).lsp = s.lsp := rfl
@[simp] theorem State.setSeq_bank0 : (s.setSeq q x).bank0 = s.bank0 := rfl
@[simp] theorem State.setSeq_bank1 : (s.setSeq q x).bank1 = s.bank1 := rfl
@[simp] theorem State.setSeq_bankAct : (s.setSeq q x).bankAct = s.bankAct := rfl
@[simp] theorem State.setSeq_bankWear : (s.setSeq q x).bankWear = s.bankWear := rfl
@[simp] theorem State.setSeq_packRecv : (s.setSeq q x).packRecv = s.packRecv := rfl
@[simp] theorem State.setSeq_packSw : (s.setSeq q x).packSw = s.packSw := rfl
@[simp] theorem State.setSeq_fsPack : (s.setSeq q x).fsPack = s.fsPack := rfl
@[simp] theorem State.setSeq_imgBank : (s.setSeq q x).imgBank = s.imgBank := rfl
@[simp] theorem State.setSeq_imgWear : (s.setSeq q x).imgWear = s.imgWear := rfl
@[simp] theorem State.setSeq_imgRecv : (s.setSeq q x).imgRecv = s.imgRecv := rfl
@[simp] theorem State.setSeq_imgAt : (s.setSeq q x).imgAt = s.imgAt := rfl
@[simp] theorem State.setSeq_imgPend : (s.setSeq q x).imgPend = s.imgPend := rfl
@[simp] theorem State.setSeq_imgHold : (s.setSeq q x).imgHold = s.imgHold := rfl
@[simp] theorem State.setSeq_rsteps : (s.setSeq q x).rsteps = s.rsteps := rfl
@[simp] theorem State.setSeq_presets : (s.setSeq q x).presets = s.presets := rfl
@[simp] theorem State.setSeq_wstep : (s.setSeq q x).wstep = s.wstep := rfl
@[simp] theorem State.setSeq_partHist : (s.setSeq q x).partHist = s.partHist := rfl
@[simp] theorem State.setSeq_prtReq : (s.setSeq q x).prtReq = s.prtReq := rfl
@[simp] theorem State.setSeq_prtScrub : (s.setSeq q x).prtScrub = s.prtScrub := rfl
@[simp] theorem State.setSeq_susp : (s.setSeq q x).susp = s.susp := rfl
@[simp] theorem State.setSeq_crep : (s.setSeq q x).crep = s.crep := rfl
@[simp] theorem State.setSeq_ltReq : (s.setSeq q x).ltReq = s.ltReq := rfl
@[simp] theorem State.setSeq_ltUntr : (s.setSeq q x).ltUntr = s.ltUntr := rfl
@[simp] theorem State.setSeq_ltUp : (s.setSeq q x).ltUp = s.ltUp := rfl
@[simp] theorem State.setSeq_saves : (s.setSeq q x).saves = s.saves := rfl
@[simp] theorem State.setSeq_restores : (s.setSeq q x).restores = s.restores := rfl
@[simp] theorem State.setSeq_ckptMan : (s.setSeq q x).ckptMan = s.ckptMan := rfl
@[simp] theorem State.setSeq_skews : (s.setSeq q x).skews = s.skews := rfl
@[simp] theorem State.setSeq_ckptTab : (s.setSeq q x).ckptTab = s.ckptTab := rfl
@[simp] theorem State.setSeq_hosting : (s.setSeq q x).hosting = s.hosting := rfl
@[simp] theorem State.setSeq_hostAns : (s.setSeq q x).hostAns = s.hostAns := rfl
@[simp] theorem State.setSeq_copyLen : (s.setSeq q x).copyLen = s.copyLen := rfl
@[simp] theorem State.setSeq_stop : (s.setSeq q x).stop = s.stop := rfl
@[simp] theorem State.setSeq_stopWire : (s.setSeq q x).stopWire = s.stopWire := rfl
@[simp] theorem State.setSeq_freezeWire : (s.setSeq q x).freezeWire = s.freezeWire := rfl
@[simp] theorem State.setSeq_stopCount : (s.setSeq q x).stopCount = s.stopCount := rfl
@[simp] theorem State.setSeq_joinIds : (s.setSeq q x).joinIds = s.joinIds := rfl
@[simp] theorem State.setSeq_quiet : (s.setSeq q x).quiet = s.quiet := rfl
@[simp] theorem State.setSeq_heldQ : (s.setSeq q x).heldQ = s.heldQ := rfl
@[simp] theorem State.setSeq_ledWait : (s.setSeq q x).ledWait = s.ledWait := rfl
@[simp] theorem State.setSeq_mtSnap : (s.setSeq q x).mtSnap = s.mtSnap := rfl
@[simp] theorem State.setSeq_ltRing : (s.setSeq q x).ltRing = s.ltRing := rfl
@[simp] theorem State.setSeq_sheet : (s.setSeq q x).sheet = s.sheet := rfl
@[simp] theorem State.setSeq_sheetHead : (s.setSeq q x).sheetHead = s.sheetHead := rfl
@[simp] theorem State.setSeq_bars : (s.setSeq q x).bars = s.bars := rfl
@[simp] theorem State.setSeq_barCh : (s.setSeq q x).barCh = s.barCh := rfl
@[simp] theorem State.setSeq_barSense : (s.setSeq q x).barSense = s.barSense := rfl
@[simp] theorem State.setSeq_barWait : (s.setSeq q x).barWait = s.barWait := rfl
@[simp] theorem State.setSeq_barErr : (s.setSeq q x).barErr = s.barErr := rfl
@[simp] theorem State.setSeq_keySlots : (s.setSeq q x).keySlots = s.keySlots := rfl
@[simp] theorem State.setSeq_noKey : (s.setSeq q x).noKey = s.noKey := rfl
@[simp] theorem State.setSeq_linkBlk : (s.setSeq q x).linkBlk = s.linkBlk := rfl
@[simp] theorem State.setSeq_deseals : (s.setSeq q x).deseals = s.deseals := rfl
@[simp] theorem State.setSeq_scrubs : (s.setSeq q x).scrubs = s.scrubs := rfl
@[simp] theorem State.setSeq_scrubWt : (s.setSeq q x).scrubWt = s.scrubWt := rfl
@[simp] theorem State.setSeq_lifeNext : (s.setSeq q x).lifeNext = s.lifeNext := rfl
@[simp] theorem State.setSeq_keyRecv : (s.setSeq q x).keyRecv = s.keyRecv := rfl
@[simp] theorem State.setSeq_slvRand : (s.setSeq q x).slvRand = s.slvRand := rfl
@[simp] theorem State.setSeq_tagCache : (s.setSeq q x).tagCache = s.tagCache := rfl
@[simp] theorem State.setSeq_nonces : (s.setSeq q x).nonces = s.nonces := rfl
@[simp] theorem State.setSeq_epochSeen : (s.setSeq q x).epochSeen = s.epochSeen := rfl
@[simp] theorem State.setSeq_spdm : (s.setSeq q x).spdm = s.spdm := rfl
@[simp] theorem State.setSeq_spdmVer : (s.setSeq q x).spdmVer = s.spdmVer := rfl
@[simp] theorem State.setSeq_spdmOut : (s.setSeq q x).spdmOut = s.spdmOut := rfl
@[simp] theorem State.setSeq_boot : (s.setSeq q x).boot = s.boot := rfl
@[simp] theorem State.setSeq_ownAt : (s.setSeq q x).ownAt = s.ownAt := rfl
@[simp] theorem State.setSeq_hoAt : (s.setSeq q x).hoAt = s.hoAt := rfl
@[simp] theorem State.setSeq_hregQ : (s.setSeq q x).hregQ = s.hregQ := rfl
@[simp] theorem State.setSeq_hregOut : (s.setSeq q x).hregOut = s.hregOut := rfl
@[simp] theorem State.setSeq_srcReady : (s.setSeq q x).srcReady = s.srcReady := rfl
@[simp] theorem State.setSeq_aonLost : (s.setSeq q x).aonLost = s.aonLost := rfl
@[simp] theorem State.setSeq_i3cAddr : (s.setSeq q x).i3cAddr = s.i3cAddr := rfl
@[simp] theorem State.setSeq_i3cSa : (s.setSeq q x).i3cSa = s.i3cSa := rfl
@[simp] theorem State.setSeq_mctpEid : (s.setSeq q x).mctpEid = s.mctpEid := rfl
@[simp] theorem State.setSeq_mgmtOut : (s.setSeq q x).mgmtOut = s.mgmtOut := rfl
@[simp] theorem State.setSeq_ibiNo : (s.setSeq q x).ibiNo = s.ibiNo := rfl
@[simp] theorem State.setSeq_pwrReport : (s.setSeq q x).pwrReport = s.pwrReport := rfl
end

/-! ### `State.setRcdr` -/
section
variable (s : State) (r : Nat) (x : Recorder)
@[simp] theorem State.setRcdr_pending : (s.setRcdr r x).pending = s.pending := rfl
@[simp] theorem State.setRcdr_freeCtr : (s.setRcdr r x).freeCtr = s.freeCtr := rfl
@[simp] theorem State.setRcdr_entCtr : (s.setRcdr r x).entCtr = s.entCtr := rfl
@[simp] theorem State.setRcdr_wt : (s.setRcdr r x).wt = s.wt := rfl
@[simp] theorem State.setRcdr_regs : (s.setRcdr r x).regs = s.regs := rfl
@[simp] theorem State.setRcdr_cyc : (s.setRcdr r x).cyc = s.cyc := rfl
@[simp] theorem State.setRcdr_ctTemp : (s.setRcdr r x).ctTemp = s.ctTemp := rfl
@[simp] theorem State.setRcdr_fwdQ : (s.setRcdr r x).fwdQ = s.fwdQ := rfl
@[simp] theorem State.setRcdr_fwdNext : (s.setRcdr r x).fwdNext = s.fwdNext := rfl
@[simp] theorem State.setRcdr_pins : (s.setRcdr r x).pins = s.pins := rfl
@[simp] theorem State.setRcdr_errIn : (s.setRcdr r x).errIn = s.errIn := rfl
@[simp] theorem State.setRcdr_injs : (s.setRcdr r x).injs = s.injs := rfl
@[simp] theorem State.setRcdr_seqs : (s.setRcdr r x).seqs = s.seqs := rfl
@[simp] theorem State.setRcdr_semQ : (s.setRcdr r x).semQ = s.semQ := rfl
@[simp] theorem State.setRcdr_arch : (s.setRcdr r x).arch = s.arch := rfl
@[simp] theorem State.setRcdr_wear : (s.setRcdr r x).wear = s.wear := rfl
@[simp] theorem State.setRcdr_fsHw : (s.setRcdr r x).fsHw = s.fsHw := rfl
@[simp] theorem State.setRcdr_bist : (s.setRcdr r x).bist = s.bist := rfl
@[simp] theorem State.setRcdr_fuseBad : (s.setRcdr r x).fuseBad = s.fuseBad := rfl
@[simp] theorem State.setRcdr_fset : (s.setRcdr r x).fset = s.fset := rfl
@[simp] theorem State.setRcdr_fenceQ : (s.setRcdr r x).fenceQ = s.fenceQ := rfl
@[simp] theorem State.setRcdr_fencePort : (s.setRcdr r x).fencePort = s.fencePort := rfl
@[simp] theorem State.setRcdr_confQ : (s.setRcdr r x).confQ = s.confQ := rfl
@[simp] theorem State.setRcdr_ansQ : (s.setRcdr r x).ansQ = s.ansQ := rfl
@[simp] theorem State.setRcdr_latent : (s.setRcdr r x).latent = s.latent := rfl
@[simp] theorem State.setRcdr_clears : (s.setRcdr r x).clears = s.clears := rfl
@[simp] theorem State.setRcdr_clkPairs : (s.setRcdr r x).clkPairs = s.clkPairs := rfl
@[simp] theorem State.setRcdr_bkRun : (s.setRcdr r x).bkRun = s.bkRun := rfl
@[simp] theorem State.setRcdr_pllRef : (s.setRcdr r x).pllRef = s.pllRef := rfl
@[simp] theorem State.setRcdr_pllBk : (s.setRcdr r x).pllBk = s.pllBk := rfl
@[simp] theorem State.setRcdr_aonSince : (s.setRcdr r x).aonSince = s.aonSince := rfl
@[simp] theorem State.setRcdr_aonNs : (s.setRcdr r x).aonNs = s.aonNs := rfl
@[simp] theorem State.setRcdr_sscNow : (s.setRcdr r x).sscNow = s.sscNow := rfl
@[simp] theorem State.setRcdr_trainRecs : (s.setRcdr r x).trainRecs = s.trainRecs := rfl
@[simp] theorem State.setRcdr_dsFieldOpen : (s.setRcdr r x).dsFieldOpen = s.dsFieldOpen := rfl
@[simp] theorem State.setRcdr_dsChanOpen : (s.setRcdr r x).dsChanOpen = s.dsChanOpen := rfl
@[simp] theorem State.setRcdr_checkDegraded : (s.setRcdr r x).checkDegraded = s.checkDegraded := rfl
@[simp] theorem State.setRcdr_pwrCycleReq : (s.setRcdr r x).pwrCycleReq = s.pwrCycleReq := rfl
@[simp] theorem State.setRcdr_flogUsed : (s.setRcdr r x).flogUsed = s.flogUsed := rfl
@[simp] theorem State.setRcdr_outLog : (s.setRcdr r x).outLog = s.outLog := rfl
@[simp] theorem State.setRcdr_repairs : (s.setRcdr r x).repairs = s.repairs := rfl
@[simp] theorem State.setRcdr_savedSlots : (s.setRcdr r x).savedSlots = s.savedSlots := rfl
@[simp] theorem State.setRcdr_hbAt : (s.setRcdr r x).hbAt = s.hbAt := rfl
@[simp] theorem State.setRcdr_swapping : (s.setRcdr r x).swapping = s.swapping := rfl
@[simp] theorem State.setRcdr_ccLost : (s.setRcdr r x).ccLost = s.ccLost := rfl
@[simp] theorem State.setRcdr_trogDrops : (s.setRcdr r x).trogDrops = s.trogDrops := rfl
@[simp] theorem State.setRcdr_trogSeen : (s.setRcdr r x).trogSeen = s.trogSeen := rfl
@[simp] theorem State.setRcdr_trogUnacked : (s.setRcdr r x).trogUnacked = s.trogUnacked := rfl
@[simp] theorem State.setRcdr_trogIn : (s.setRcdr r x).trogIn = s.trogIn := rfl
@[simp] theorem State.setRcdr_rendezvous : (s.setRcdr r x).rendezvous = s.rendezvous := rfl
@[simp] theorem State.setRcdr_replayFails : (s.setRcdr r x).replayFails = s.replayFails := rfl
@[simp] theorem State.setRcdr_arrWake : (s.setRcdr r x).arrWake = s.arrWake := rfl
@[simp] theorem State.setRcdr_arrIdle : (s.setRcdr r x).arrIdle = s.arrIdle := rfl
@[simp] theorem State.setRcdr_mtOut : (s.setRcdr r x).mtOut = s.mtOut := rfl
@[simp] theorem State.setRcdr_ltOut : (s.setRcdr r x).ltOut = s.ltOut := rfl
@[simp] theorem State.setRcdr_ltIn : (s.setRcdr r x).ltIn = s.ltIn := rfl
@[simp] theorem State.setRcdr_ltErr : (s.setRcdr r x).ltErr = s.ltErr := rfl
@[simp] theorem State.setRcdr_slvLate : (s.setRcdr r x).slvLate = s.slvLate := rfl
@[simp] theorem State.setRcdr_sealLate : (s.setRcdr r x).sealLate = s.sealLate := rfl
@[simp] theorem State.setRcdr_safe : (s.setRcdr r x).safe = s.safe := rfl
@[simp] theorem State.setRcdr_safeCt : (s.setRcdr r x).safeCt = s.safeCt := rfl
@[simp] theorem State.setRcdr_safeFs : (s.setRcdr r x).safeFs = s.safeFs := rfl
@[simp] theorem State.setRcdr_safeSum : (s.setRcdr r x).safeSum = s.safeSum := rfl
@[simp] theorem State.setRcdr_safeTap : (s.setRcdr r x).safeTap = s.safeTap := rfl
@[simp] theorem State.setRcdr_safeAt : (s.setRcdr r x).safeAt = s.safeAt := rfl
@[simp] theorem State.setRcdr_pcnt : (s.setRcdr r x).pcnt = s.pcnt := rfl
@[simp] theorem State.setRcdr_traceQ : (s.setRcdr r x).traceQ = s.traceQ := rfl
@[simp] theorem State.setRcdr_traceLoss : (s.setRcdr r x).traceLoss = s.traceLoss := rfl
@[simp] theorem State.setRcdr_traceW : (s.setRcdr r x).traceW = s.traceW := rfl
@[simp] theorem State.setRcdr_traceOut : (s.setRcdr r x).traceOut = s.traceOut := rfl
@[simp] theorem State.setRcdr_kills : (s.setRcdr r x).kills = s.kills := rfl
@[simp] theorem State.setRcdr_ingOut : (s.setRcdr r x).ingOut = s.ingOut := rfl
@[simp] theorem State.setRcdr_egrOut : (s.setRcdr r x).egrOut = s.egrOut := rfl
@[simp] theorem State.setRcdr_engRst : (s.setRcdr r x).engRst = s.engRst := rfl
@[simp] theorem State.setRcdr_ctxSig : (s.setRcdr r x).ctxSig = s.ctxSig := rfl
@[simp] theorem State.setRcdr_ctSet : (s.setRcdr r x).ctSet = s.ctSet := rfl
@[simp] theorem State.setRcdr_selKey : (s.setRcdr r x).selKey = s.selKey := rfl
@[simp] theorem State.setRcdr_descCnt : (s.setRcdr r x).descCnt = s.descCnt := rfl
@[simp] theorem State.setRcdr_tiles : (s.setRcdr r x).tiles = s.tiles := rfl
@[simp] theorem State.setRcdr_tileSq : (s.setRcdr r x).tileSq = s.tileSq := rfl
@[simp] theorem State.setRcdr_skip : (s.setRcdr r x).skip = s.skip := rfl
@[simp] theorem State.setRcdr_fifo : (s.setRcdr r x).fifo = s.fifo := rfl
@[simp] theorem State.setRcdr_foldRr : (s.setRcdr r x).foldRr = s.foldRr := rfl
@[simp] theorem State.setRcdr_stampQ : (s.setRcdr r x).stampQ = s.stampQ := rfl
@[simp] theorem State.setRcdr_stampCyc : (s.setRcdr r x).stampCyc = s.stampCyc := rfl
@[simp] theorem State.setRcdr_stampOut : (s.setRcdr r x).stampOut = s.stampOut := rfl
@[simp] theorem State.setRcdr_mirBuf : (s.setRcdr r x).mirBuf = s.mirBuf := rfl
@[simp] theorem State.setRcdr_rsvQ : (s.setRcdr r x).rsvQ = s.rsvQ := rfl
@[simp] theorem State.setRcdr_abnQ : (s.setRcdr r x).abnQ = s.abnQ := rfl
@[simp] theorem State.setRcdr_rplQ : (s.setRcdr r x).rplQ = s.rplQ := rfl
@[simp] theorem State.setRcdr_vrdQ : (s.setRcdr r x).vrdQ = s.vrdQ := rfl
@[simp] theorem State.setRcdr_store : (s.setRcdr r x).store = s.store := rfl
@[simp] theorem State.setRcdr_early : (s.setRcdr r x).early = s.early := rfl
@[simp] theorem State.setRcdr_rdySeq : (s.setRcdr r x).rdySeq = s.rdySeq := rfl
@[simp] theorem State.setRcdr_negs : (s.setRcdr r x).negs = s.negs := rfl
@[simp] theorem State.setRcdr_negWait : (s.setRcdr r x).negWait = s.negWait := rfl
@[simp] theorem State.setRcdr_segLeft : (s.setRcdr r x).segLeft = s.segLeft := rfl
@[simp] theorem State.setRcdr_segEnd : (s.setRcdr r x).segEnd = s.segEnd := rfl
@[simp] theorem State.setRcdr_selfReq : (s.setRcdr r x).selfReq = s.selfReq := rfl
@[simp] theorem State.setRcdr_selfEnd : (s.setRcdr r x).selfEnd = s.selfEnd := rfl
@[simp] theorem State.setRcdr_ledger : (s.setRcdr r x).ledger = s.ledger := rfl
@[simp] theorem State.setRcdr_cores : (s.setRcdr r x).cores = s.cores := rfl
@[simp] theorem State.setRcdr_strips : (s.setRcdr r x).strips = s.strips := rfl
@[simp] theorem State.setRcdr_stripNo : (s.setRcdr r x).stripNo = s.stripNo := rfl
@[simp] theorem State.setRcdr_grantNo : (s.setRcdr r x).grantNo = s.grantNo := rfl
@[simp] theorem State.setRcdr_stripOut : (s.setRcdr r x).stripOut = s.stripOut := rfl
@[simp] theorem State.setRcdr_steps : (s.setRcdr r x).steps = s.steps := rfl
@[simp] theorem State.setRcdr_shards : (s.setRcdr r x).shards = s.shards := rfl
@[simp] theorem State.setRcdr_hosts : (s.setRcdr r x).hosts = s.hosts := rfl
@[simp] theorem State.setRcdr_slv : (s.setRcdr r x).slv = s.slv := rfl
@[simp] theorem State.setRcdr_slvCache : (s.setRcdr r x).slvCache = s.slvCache := rfl
@[simp] theorem State.setRcdr_slvBad : (s.setRcdr r x).slvBad = s.slvBad := rfl
@[simp] theorem State.setRcdr_slvGather : (s.setRcdr r x).slvGather = s.slvGather := rfl
@[simp] theorem State.setRcdr_wdogs : (s.setRcdr r x).wdogs = s.wdogs := rfl
@[simp] theorem State.setRcdr_sessions : (s.setRcdr r x).sessions = s.sessions := rfl
@[simp] theorem State.setRcdr_pmQ : (s.setRcdr r x).pmQ = s.pmQ := rfl
@[simp] theorem State.setRcdr_pmSettle : (s.setRcdr r x).pmSettle = s.pmSettle := rfl
@[simp] theorem State.setRcdr_stressEn : (s.setRcdr r x).stressEn = s.stressEn := rfl
@[simp] theorem State.setRcdr_tokQ : (s.setRcdr r x).tokQ = s.tokQ := rfl
@[simp] theorem State.setRcdr_tokRet : (s.setRcdr r x).tokRet = s.tokRet := rfl
@[simp] theorem State.setRcdr_maintEnd : (s.setRcdr r x).maintEnd = s.maintEnd := rfl
@[simp] theorem State.setRcdr_maintHold : (s.setRcdr r x).maintHold = s.maintHold := rfl
@[simp] theorem State.setRcdr_lsp : (s.setRcdr r x).lsp = s.lsp := rfl
@[simp] theorem State.setRcdr_bank0 : (s.setRcdr r x).bank0 = s.bank0 := rfl
@[simp] theorem State.setRcdr_bank1 : (s.setRcdr r x).bank1 = s.bank1 := rfl
@[simp] theorem State.setRcdr_bankAct : (s.setRcdr r x).bankAct = s.bankAct := rfl
@[simp] theorem State.setRcdr_bankWear : (s.setRcdr r x).bankWear = s.bankWear := rfl
@[simp] theorem State.setRcdr_packRecv : (s.setRcdr r x).packRecv = s.packRecv := rfl
@[simp] theorem State.setRcdr_packSw : (s.setRcdr r x).packSw = s.packSw := rfl
@[simp] theorem State.setRcdr_fsPack : (s.setRcdr r x).fsPack = s.fsPack := rfl
@[simp] theorem State.setRcdr_imgBank : (s.setRcdr r x).imgBank = s.imgBank := rfl
@[simp] theorem State.setRcdr_imgWear : (s.setRcdr r x).imgWear = s.imgWear := rfl
@[simp] theorem State.setRcdr_imgRecv : (s.setRcdr r x).imgRecv = s.imgRecv := rfl
@[simp] theorem State.setRcdr_imgAt : (s.setRcdr r x).imgAt = s.imgAt := rfl
@[simp] theorem State.setRcdr_imgPend : (s.setRcdr r x).imgPend = s.imgPend := rfl
@[simp] theorem State.setRcdr_imgHold : (s.setRcdr r x).imgHold = s.imgHold := rfl
@[simp] theorem State.setRcdr_rsteps : (s.setRcdr r x).rsteps = s.rsteps := rfl
@[simp] theorem State.setRcdr_presets : (s.setRcdr r x).presets = s.presets := rfl
@[simp] theorem State.setRcdr_wstep : (s.setRcdr r x).wstep = s.wstep := rfl
@[simp] theorem State.setRcdr_partHist : (s.setRcdr r x).partHist = s.partHist := rfl
@[simp] theorem State.setRcdr_prtReq : (s.setRcdr r x).prtReq = s.prtReq := rfl
@[simp] theorem State.setRcdr_prtScrub : (s.setRcdr r x).prtScrub = s.prtScrub := rfl
@[simp] theorem State.setRcdr_susp : (s.setRcdr r x).susp = s.susp := rfl
@[simp] theorem State.setRcdr_crep : (s.setRcdr r x).crep = s.crep := rfl
@[simp] theorem State.setRcdr_ltReq : (s.setRcdr r x).ltReq = s.ltReq := rfl
@[simp] theorem State.setRcdr_ltUntr : (s.setRcdr r x).ltUntr = s.ltUntr := rfl
@[simp] theorem State.setRcdr_ltUp : (s.setRcdr r x).ltUp = s.ltUp := rfl
@[simp] theorem State.setRcdr_saves : (s.setRcdr r x).saves = s.saves := rfl
@[simp] theorem State.setRcdr_restores : (s.setRcdr r x).restores = s.restores := rfl
@[simp] theorem State.setRcdr_ckptMan : (s.setRcdr r x).ckptMan = s.ckptMan := rfl
@[simp] theorem State.setRcdr_skews : (s.setRcdr r x).skews = s.skews := rfl
@[simp] theorem State.setRcdr_ckptTab : (s.setRcdr r x).ckptTab = s.ckptTab := rfl
@[simp] theorem State.setRcdr_hosting : (s.setRcdr r x).hosting = s.hosting := rfl
@[simp] theorem State.setRcdr_hostAns : (s.setRcdr r x).hostAns = s.hostAns := rfl
@[simp] theorem State.setRcdr_copyLen : (s.setRcdr r x).copyLen = s.copyLen := rfl
@[simp] theorem State.setRcdr_stop : (s.setRcdr r x).stop = s.stop := rfl
@[simp] theorem State.setRcdr_stopWire : (s.setRcdr r x).stopWire = s.stopWire := rfl
@[simp] theorem State.setRcdr_freezeWire : (s.setRcdr r x).freezeWire = s.freezeWire := rfl
@[simp] theorem State.setRcdr_stopCount : (s.setRcdr r x).stopCount = s.stopCount := rfl
@[simp] theorem State.setRcdr_joinIds : (s.setRcdr r x).joinIds = s.joinIds := rfl
@[simp] theorem State.setRcdr_quiet : (s.setRcdr r x).quiet = s.quiet := rfl
@[simp] theorem State.setRcdr_heldQ : (s.setRcdr r x).heldQ = s.heldQ := rfl
@[simp] theorem State.setRcdr_ledWait : (s.setRcdr r x).ledWait = s.ledWait := rfl
@[simp] theorem State.setRcdr_mtSnap : (s.setRcdr r x).mtSnap = s.mtSnap := rfl
@[simp] theorem State.setRcdr_ltRing : (s.setRcdr r x).ltRing = s.ltRing := rfl
@[simp] theorem State.setRcdr_sheet : (s.setRcdr r x).sheet = s.sheet := rfl
@[simp] theorem State.setRcdr_sheetHead : (s.setRcdr r x).sheetHead = s.sheetHead := rfl
@[simp] theorem State.setRcdr_bars : (s.setRcdr r x).bars = s.bars := rfl
@[simp] theorem State.setRcdr_barCh : (s.setRcdr r x).barCh = s.barCh := rfl
@[simp] theorem State.setRcdr_barSense : (s.setRcdr r x).barSense = s.barSense := rfl
@[simp] theorem State.setRcdr_barWait : (s.setRcdr r x).barWait = s.barWait := rfl
@[simp] theorem State.setRcdr_barErr : (s.setRcdr r x).barErr = s.barErr := rfl
@[simp] theorem State.setRcdr_keySlots : (s.setRcdr r x).keySlots = s.keySlots := rfl
@[simp] theorem State.setRcdr_noKey : (s.setRcdr r x).noKey = s.noKey := rfl
@[simp] theorem State.setRcdr_linkBlk : (s.setRcdr r x).linkBlk = s.linkBlk := rfl
@[simp] theorem State.setRcdr_deseals : (s.setRcdr r x).deseals = s.deseals := rfl
@[simp] theorem State.setRcdr_scrubs : (s.setRcdr r x).scrubs = s.scrubs := rfl
@[simp] theorem State.setRcdr_scrubWt : (s.setRcdr r x).scrubWt = s.scrubWt := rfl
@[simp] theorem State.setRcdr_lifeNext : (s.setRcdr r x).lifeNext = s.lifeNext := rfl
@[simp] theorem State.setRcdr_keyRecv : (s.setRcdr r x).keyRecv = s.keyRecv := rfl
@[simp] theorem State.setRcdr_slvRand : (s.setRcdr r x).slvRand = s.slvRand := rfl
@[simp] theorem State.setRcdr_tagCache : (s.setRcdr r x).tagCache = s.tagCache := rfl
@[simp] theorem State.setRcdr_nonces : (s.setRcdr r x).nonces = s.nonces := rfl
@[simp] theorem State.setRcdr_epochSeen : (s.setRcdr r x).epochSeen = s.epochSeen := rfl
@[simp] theorem State.setRcdr_spdm : (s.setRcdr r x).spdm = s.spdm := rfl
@[simp] theorem State.setRcdr_spdmVer : (s.setRcdr r x).spdmVer = s.spdmVer := rfl
@[simp] theorem State.setRcdr_spdmOut : (s.setRcdr r x).spdmOut = s.spdmOut := rfl
@[simp] theorem State.setRcdr_boot : (s.setRcdr r x).boot = s.boot := rfl
@[simp] theorem State.setRcdr_ownAt : (s.setRcdr r x).ownAt = s.ownAt := rfl
@[simp] theorem State.setRcdr_hoAt : (s.setRcdr r x).hoAt = s.hoAt := rfl
@[simp] theorem State.setRcdr_hregQ : (s.setRcdr r x).hregQ = s.hregQ := rfl
@[simp] theorem State.setRcdr_hregOut : (s.setRcdr r x).hregOut = s.hregOut := rfl
@[simp] theorem State.setRcdr_srcReady : (s.setRcdr r x).srcReady = s.srcReady := rfl
@[simp] theorem State.setRcdr_aonLost : (s.setRcdr r x).aonLost = s.aonLost := rfl
@[simp] theorem State.setRcdr_i3cAddr : (s.setRcdr r x).i3cAddr = s.i3cAddr := rfl
@[simp] theorem State.setRcdr_i3cSa : (s.setRcdr r x).i3cSa = s.i3cSa := rfl
@[simp] theorem State.setRcdr_mctpEid : (s.setRcdr r x).mctpEid = s.mctpEid := rfl
@[simp] theorem State.setRcdr_mgmtOut : (s.setRcdr r x).mgmtOut = s.mgmtOut := rfl
@[simp] theorem State.setRcdr_ibiNo : (s.setRcdr r x).ibiNo = s.ibiNo := rfl
@[simp] theorem State.setRcdr_pwrReport : (s.setRcdr r x).pwrReport = s.pwrReport := rfl
end

/-! ### `State.toWt` -/
section
variable (s : State) (t : Nat)
@[simp] theorem State.toWt_pending : (s.toWt t).pending = s.pending := rfl
@[simp] theorem State.toWt_freeCtr : (s.toWt t).freeCtr = s.freeCtr := rfl
@[simp] theorem State.toWt_entCtr : (s.toWt t).entCtr = s.entCtr := rfl
@[simp] theorem State.toWt_regs : (s.toWt t).regs = s.regs := rfl
@[simp] theorem State.toWt_cyc : (s.toWt t).cyc = s.cyc := rfl
@[simp] theorem State.toWt_ctTemp : (s.toWt t).ctTemp = s.ctTemp := rfl
@[simp] theorem State.toWt_recs : (s.toWt t).recs = s.recs := rfl
@[simp] theorem State.toWt_fwdQ : (s.toWt t).fwdQ = s.fwdQ := rfl
@[simp] theorem State.toWt_fwdNext : (s.toWt t).fwdNext = s.fwdNext := rfl
@[simp] theorem State.toWt_pins : (s.toWt t).pins = s.pins := rfl
@[simp] theorem State.toWt_errIn : (s.toWt t).errIn = s.errIn := rfl
@[simp] theorem State.toWt_injs : (s.toWt t).injs = s.injs := rfl
@[simp] theorem State.toWt_seqs : (s.toWt t).seqs = s.seqs := rfl
@[simp] theorem State.toWt_semQ : (s.toWt t).semQ = s.semQ := rfl
@[simp] theorem State.toWt_arch : (s.toWt t).arch = s.arch := rfl
@[simp] theorem State.toWt_wear : (s.toWt t).wear = s.wear := rfl
@[simp] theorem State.toWt_fsHw : (s.toWt t).fsHw = s.fsHw := rfl
@[simp] theorem State.toWt_bist : (s.toWt t).bist = s.bist := rfl
@[simp] theorem State.toWt_fuseBad : (s.toWt t).fuseBad = s.fuseBad := rfl
@[simp] theorem State.toWt_fset : (s.toWt t).fset = s.fset := rfl
@[simp] theorem State.toWt_fenceQ : (s.toWt t).fenceQ = s.fenceQ := rfl
@[simp] theorem State.toWt_fencePort : (s.toWt t).fencePort = s.fencePort := rfl
@[simp] theorem State.toWt_confQ : (s.toWt t).confQ = s.confQ := rfl
@[simp] theorem State.toWt_ansQ : (s.toWt t).ansQ = s.ansQ := rfl
@[simp] theorem State.toWt_latent : (s.toWt t).latent = s.latent := rfl
@[simp] theorem State.toWt_clears : (s.toWt t).clears = s.clears := rfl
@[simp] theorem State.toWt_clkPairs : (s.toWt t).clkPairs = s.clkPairs := rfl
@[simp] theorem State.toWt_bkRun : (s.toWt t).bkRun = s.bkRun := rfl
@[simp] theorem State.toWt_pllRef : (s.toWt t).pllRef = s.pllRef := rfl
@[simp] theorem State.toWt_pllBk : (s.toWt t).pllBk = s.pllBk := rfl
@[simp] theorem State.toWt_aonSince : (s.toWt t).aonSince = s.aonSince := rfl
@[simp] theorem State.toWt_aonNs : (s.toWt t).aonNs = s.aonNs := rfl
@[simp] theorem State.toWt_sscNow : (s.toWt t).sscNow = s.sscNow := rfl
@[simp] theorem State.toWt_trainRecs : (s.toWt t).trainRecs = s.trainRecs := rfl
@[simp] theorem State.toWt_dsFieldOpen : (s.toWt t).dsFieldOpen = s.dsFieldOpen := rfl
@[simp] theorem State.toWt_dsChanOpen : (s.toWt t).dsChanOpen = s.dsChanOpen := rfl
@[simp] theorem State.toWt_checkDegraded : (s.toWt t).checkDegraded = s.checkDegraded := rfl
@[simp] theorem State.toWt_pwrCycleReq : (s.toWt t).pwrCycleReq = s.pwrCycleReq := rfl
@[simp] theorem State.toWt_flogUsed : (s.toWt t).flogUsed = s.flogUsed := rfl
@[simp] theorem State.toWt_outLog : (s.toWt t).outLog = s.outLog := rfl
@[simp] theorem State.toWt_repairs : (s.toWt t).repairs = s.repairs := rfl
@[simp] theorem State.toWt_savedSlots : (s.toWt t).savedSlots = s.savedSlots := rfl
@[simp] theorem State.toWt_hbAt : (s.toWt t).hbAt = s.hbAt := rfl
@[simp] theorem State.toWt_swapping : (s.toWt t).swapping = s.swapping := rfl
@[simp] theorem State.toWt_ccLost : (s.toWt t).ccLost = s.ccLost := rfl
@[simp] theorem State.toWt_trogDrops : (s.toWt t).trogDrops = s.trogDrops := rfl
@[simp] theorem State.toWt_trogSeen : (s.toWt t).trogSeen = s.trogSeen := rfl
@[simp] theorem State.toWt_trogUnacked : (s.toWt t).trogUnacked = s.trogUnacked := rfl
@[simp] theorem State.toWt_trogIn : (s.toWt t).trogIn = s.trogIn := rfl
@[simp] theorem State.toWt_rendezvous : (s.toWt t).rendezvous = s.rendezvous := rfl
@[simp] theorem State.toWt_replayFails : (s.toWt t).replayFails = s.replayFails := rfl
@[simp] theorem State.toWt_arrWake : (s.toWt t).arrWake = s.arrWake := rfl
@[simp] theorem State.toWt_arrIdle : (s.toWt t).arrIdle = s.arrIdle := rfl
@[simp] theorem State.toWt_mtOut : (s.toWt t).mtOut = s.mtOut := rfl
@[simp] theorem State.toWt_ltOut : (s.toWt t).ltOut = s.ltOut := rfl
@[simp] theorem State.toWt_ltIn : (s.toWt t).ltIn = s.ltIn := rfl
@[simp] theorem State.toWt_ltErr : (s.toWt t).ltErr = s.ltErr := rfl
@[simp] theorem State.toWt_slvLate : (s.toWt t).slvLate = s.slvLate := rfl
@[simp] theorem State.toWt_sealLate : (s.toWt t).sealLate = s.sealLate := rfl
@[simp] theorem State.toWt_safe : (s.toWt t).safe = s.safe := rfl
@[simp] theorem State.toWt_safeCt : (s.toWt t).safeCt = s.safeCt := rfl
@[simp] theorem State.toWt_safeFs : (s.toWt t).safeFs = s.safeFs := rfl
@[simp] theorem State.toWt_safeSum : (s.toWt t).safeSum = s.safeSum := rfl
@[simp] theorem State.toWt_safeTap : (s.toWt t).safeTap = s.safeTap := rfl
@[simp] theorem State.toWt_safeAt : (s.toWt t).safeAt = s.safeAt := rfl
@[simp] theorem State.toWt_pcnt : (s.toWt t).pcnt = s.pcnt := rfl
@[simp] theorem State.toWt_traceQ : (s.toWt t).traceQ = s.traceQ := rfl
@[simp] theorem State.toWt_traceLoss : (s.toWt t).traceLoss = s.traceLoss := rfl
@[simp] theorem State.toWt_traceW : (s.toWt t).traceW = s.traceW := rfl
@[simp] theorem State.toWt_traceOut : (s.toWt t).traceOut = s.traceOut := rfl
@[simp] theorem State.toWt_kills : (s.toWt t).kills = s.kills := rfl
@[simp] theorem State.toWt_ingOut : (s.toWt t).ingOut = s.ingOut := rfl
@[simp] theorem State.toWt_egrOut : (s.toWt t).egrOut = s.egrOut := rfl
@[simp] theorem State.toWt_engRst : (s.toWt t).engRst = s.engRst := rfl
@[simp] theorem State.toWt_ctxSig : (s.toWt t).ctxSig = s.ctxSig := rfl
@[simp] theorem State.toWt_ctSet : (s.toWt t).ctSet = s.ctSet := rfl
@[simp] theorem State.toWt_selKey : (s.toWt t).selKey = s.selKey := rfl
@[simp] theorem State.toWt_descCnt : (s.toWt t).descCnt = s.descCnt := rfl
@[simp] theorem State.toWt_tiles : (s.toWt t).tiles = s.tiles := rfl
@[simp] theorem State.toWt_tileSq : (s.toWt t).tileSq = s.tileSq := rfl
@[simp] theorem State.toWt_skip : (s.toWt t).skip = s.skip := rfl
@[simp] theorem State.toWt_fifo : (s.toWt t).fifo = s.fifo := rfl
@[simp] theorem State.toWt_foldRr : (s.toWt t).foldRr = s.foldRr := rfl
@[simp] theorem State.toWt_stampQ : (s.toWt t).stampQ = s.stampQ := rfl
@[simp] theorem State.toWt_stampCyc : (s.toWt t).stampCyc = s.stampCyc := rfl
@[simp] theorem State.toWt_stampOut : (s.toWt t).stampOut = s.stampOut := rfl
@[simp] theorem State.toWt_mirBuf : (s.toWt t).mirBuf = s.mirBuf := rfl
@[simp] theorem State.toWt_rsvQ : (s.toWt t).rsvQ = s.rsvQ := rfl
@[simp] theorem State.toWt_abnQ : (s.toWt t).abnQ = s.abnQ := rfl
@[simp] theorem State.toWt_rplQ : (s.toWt t).rplQ = s.rplQ := rfl
@[simp] theorem State.toWt_vrdQ : (s.toWt t).vrdQ = s.vrdQ := rfl
@[simp] theorem State.toWt_store : (s.toWt t).store = s.store := rfl
@[simp] theorem State.toWt_early : (s.toWt t).early = s.early := rfl
@[simp] theorem State.toWt_rdySeq : (s.toWt t).rdySeq = s.rdySeq := rfl
@[simp] theorem State.toWt_negs : (s.toWt t).negs = s.negs := rfl
@[simp] theorem State.toWt_negWait : (s.toWt t).negWait = s.negWait := rfl
@[simp] theorem State.toWt_segLeft : (s.toWt t).segLeft = s.segLeft := rfl
@[simp] theorem State.toWt_segEnd : (s.toWt t).segEnd = s.segEnd := rfl
@[simp] theorem State.toWt_selfReq : (s.toWt t).selfReq = s.selfReq := rfl
@[simp] theorem State.toWt_selfEnd : (s.toWt t).selfEnd = s.selfEnd := rfl
@[simp] theorem State.toWt_ledger : (s.toWt t).ledger = s.ledger := rfl
@[simp] theorem State.toWt_cores : (s.toWt t).cores = s.cores := rfl
@[simp] theorem State.toWt_strips : (s.toWt t).strips = s.strips := rfl
@[simp] theorem State.toWt_stripNo : (s.toWt t).stripNo = s.stripNo := rfl
@[simp] theorem State.toWt_grantNo : (s.toWt t).grantNo = s.grantNo := rfl
@[simp] theorem State.toWt_stripOut : (s.toWt t).stripOut = s.stripOut := rfl
@[simp] theorem State.toWt_steps : (s.toWt t).steps = s.steps := rfl
@[simp] theorem State.toWt_shards : (s.toWt t).shards = s.shards := rfl
@[simp] theorem State.toWt_hosts : (s.toWt t).hosts = s.hosts := rfl
@[simp] theorem State.toWt_slv : (s.toWt t).slv = s.slv := rfl
@[simp] theorem State.toWt_slvCache : (s.toWt t).slvCache = s.slvCache := rfl
@[simp] theorem State.toWt_slvBad : (s.toWt t).slvBad = s.slvBad := rfl
@[simp] theorem State.toWt_slvGather : (s.toWt t).slvGather = s.slvGather := rfl
@[simp] theorem State.toWt_wdogs : (s.toWt t).wdogs = s.wdogs := rfl
@[simp] theorem State.toWt_sessions : (s.toWt t).sessions = s.sessions := rfl
@[simp] theorem State.toWt_pmQ : (s.toWt t).pmQ = s.pmQ := rfl
@[simp] theorem State.toWt_pmSettle : (s.toWt t).pmSettle = s.pmSettle := rfl
@[simp] theorem State.toWt_stressEn : (s.toWt t).stressEn = s.stressEn := rfl
@[simp] theorem State.toWt_tokQ : (s.toWt t).tokQ = s.tokQ := rfl
@[simp] theorem State.toWt_tokRet : (s.toWt t).tokRet = s.tokRet := rfl
@[simp] theorem State.toWt_maintEnd : (s.toWt t).maintEnd = s.maintEnd := rfl
@[simp] theorem State.toWt_maintHold : (s.toWt t).maintHold = s.maintHold := rfl
@[simp] theorem State.toWt_lsp : (s.toWt t).lsp = s.lsp := rfl
@[simp] theorem State.toWt_bank0 : (s.toWt t).bank0 = s.bank0 := rfl
@[simp] theorem State.toWt_bank1 : (s.toWt t).bank1 = s.bank1 := rfl
@[simp] theorem State.toWt_bankAct : (s.toWt t).bankAct = s.bankAct := rfl
@[simp] theorem State.toWt_bankWear : (s.toWt t).bankWear = s.bankWear := rfl
@[simp] theorem State.toWt_packRecv : (s.toWt t).packRecv = s.packRecv := rfl
@[simp] theorem State.toWt_packSw : (s.toWt t).packSw = s.packSw := rfl
@[simp] theorem State.toWt_fsPack : (s.toWt t).fsPack = s.fsPack := rfl
@[simp] theorem State.toWt_imgBank : (s.toWt t).imgBank = s.imgBank := rfl
@[simp] theorem State.toWt_imgWear : (s.toWt t).imgWear = s.imgWear := rfl
@[simp] theorem State.toWt_imgRecv : (s.toWt t).imgRecv = s.imgRecv := rfl
@[simp] theorem State.toWt_imgAt : (s.toWt t).imgAt = s.imgAt := rfl
@[simp] theorem State.toWt_imgPend : (s.toWt t).imgPend = s.imgPend := rfl
@[simp] theorem State.toWt_imgHold : (s.toWt t).imgHold = s.imgHold := rfl
@[simp] theorem State.toWt_rsteps : (s.toWt t).rsteps = s.rsteps := rfl
@[simp] theorem State.toWt_presets : (s.toWt t).presets = s.presets := rfl
@[simp] theorem State.toWt_wstep : (s.toWt t).wstep = s.wstep := rfl
@[simp] theorem State.toWt_partHist : (s.toWt t).partHist = s.partHist := rfl
@[simp] theorem State.toWt_prtReq : (s.toWt t).prtReq = s.prtReq := rfl
@[simp] theorem State.toWt_prtScrub : (s.toWt t).prtScrub = s.prtScrub := rfl
@[simp] theorem State.toWt_susp : (s.toWt t).susp = s.susp := rfl
@[simp] theorem State.toWt_crep : (s.toWt t).crep = s.crep := rfl
@[simp] theorem State.toWt_ltReq : (s.toWt t).ltReq = s.ltReq := rfl
@[simp] theorem State.toWt_ltUntr : (s.toWt t).ltUntr = s.ltUntr := rfl
@[simp] theorem State.toWt_ltUp : (s.toWt t).ltUp = s.ltUp := rfl
@[simp] theorem State.toWt_saves : (s.toWt t).saves = s.saves := rfl
@[simp] theorem State.toWt_restores : (s.toWt t).restores = s.restores := rfl
@[simp] theorem State.toWt_ckptMan : (s.toWt t).ckptMan = s.ckptMan := rfl
@[simp] theorem State.toWt_skews : (s.toWt t).skews = s.skews := rfl
@[simp] theorem State.toWt_ckptTab : (s.toWt t).ckptTab = s.ckptTab := rfl
@[simp] theorem State.toWt_hosting : (s.toWt t).hosting = s.hosting := rfl
@[simp] theorem State.toWt_hostAns : (s.toWt t).hostAns = s.hostAns := rfl
@[simp] theorem State.toWt_copyLen : (s.toWt t).copyLen = s.copyLen := rfl
@[simp] theorem State.toWt_stop : (s.toWt t).stop = s.stop := rfl
@[simp] theorem State.toWt_stopWire : (s.toWt t).stopWire = s.stopWire := rfl
@[simp] theorem State.toWt_freezeWire : (s.toWt t).freezeWire = s.freezeWire := rfl
@[simp] theorem State.toWt_stopCount : (s.toWt t).stopCount = s.stopCount := rfl
@[simp] theorem State.toWt_joinIds : (s.toWt t).joinIds = s.joinIds := rfl
@[simp] theorem State.toWt_quiet : (s.toWt t).quiet = s.quiet := rfl
@[simp] theorem State.toWt_heldQ : (s.toWt t).heldQ = s.heldQ := rfl
@[simp] theorem State.toWt_ledWait : (s.toWt t).ledWait = s.ledWait := rfl
@[simp] theorem State.toWt_mtSnap : (s.toWt t).mtSnap = s.mtSnap := rfl
@[simp] theorem State.toWt_ltRing : (s.toWt t).ltRing = s.ltRing := rfl
@[simp] theorem State.toWt_sheet : (s.toWt t).sheet = s.sheet := rfl
@[simp] theorem State.toWt_sheetHead : (s.toWt t).sheetHead = s.sheetHead := rfl
@[simp] theorem State.toWt_bars : (s.toWt t).bars = s.bars := rfl
@[simp] theorem State.toWt_barCh : (s.toWt t).barCh = s.barCh := rfl
@[simp] theorem State.toWt_barSense : (s.toWt t).barSense = s.barSense := rfl
@[simp] theorem State.toWt_barWait : (s.toWt t).barWait = s.barWait := rfl
@[simp] theorem State.toWt_barErr : (s.toWt t).barErr = s.barErr := rfl
@[simp] theorem State.toWt_keySlots : (s.toWt t).keySlots = s.keySlots := rfl
@[simp] theorem State.toWt_noKey : (s.toWt t).noKey = s.noKey := rfl
@[simp] theorem State.toWt_linkBlk : (s.toWt t).linkBlk = s.linkBlk := rfl
@[simp] theorem State.toWt_deseals : (s.toWt t).deseals = s.deseals := rfl
@[simp] theorem State.toWt_scrubs : (s.toWt t).scrubs = s.scrubs := rfl
@[simp] theorem State.toWt_scrubWt : (s.toWt t).scrubWt = s.scrubWt := rfl
@[simp] theorem State.toWt_lifeNext : (s.toWt t).lifeNext = s.lifeNext := rfl
@[simp] theorem State.toWt_keyRecv : (s.toWt t).keyRecv = s.keyRecv := rfl
@[simp] theorem State.toWt_slvRand : (s.toWt t).slvRand = s.slvRand := rfl
@[simp] theorem State.toWt_tagCache : (s.toWt t).tagCache = s.tagCache := rfl
@[simp] theorem State.toWt_nonces : (s.toWt t).nonces = s.nonces := rfl
@[simp] theorem State.toWt_epochSeen : (s.toWt t).epochSeen = s.epochSeen := rfl
@[simp] theorem State.toWt_spdm : (s.toWt t).spdm = s.spdm := rfl
@[simp] theorem State.toWt_spdmVer : (s.toWt t).spdmVer = s.spdmVer := rfl
@[simp] theorem State.toWt_spdmOut : (s.toWt t).spdmOut = s.spdmOut := rfl
@[simp] theorem State.toWt_boot : (s.toWt t).boot = s.boot := rfl
@[simp] theorem State.toWt_ownAt : (s.toWt t).ownAt = s.ownAt := rfl
@[simp] theorem State.toWt_hoAt : (s.toWt t).hoAt = s.hoAt := rfl
@[simp] theorem State.toWt_hregQ : (s.toWt t).hregQ = s.hregQ := rfl
@[simp] theorem State.toWt_hregOut : (s.toWt t).hregOut = s.hregOut := rfl
@[simp] theorem State.toWt_srcReady : (s.toWt t).srcReady = s.srcReady := rfl
@[simp] theorem State.toWt_aonLost : (s.toWt t).aonLost = s.aonLost := rfl
@[simp] theorem State.toWt_i3cAddr : (s.toWt t).i3cAddr = s.i3cAddr := rfl
@[simp] theorem State.toWt_i3cSa : (s.toWt t).i3cSa = s.i3cSa := rfl
@[simp] theorem State.toWt_mctpEid : (s.toWt t).mctpEid = s.mctpEid := rfl
@[simp] theorem State.toWt_mgmtOut : (s.toWt t).mgmtOut = s.mgmtOut := rfl
@[simp] theorem State.toWt_ibiNo : (s.toWt t).ibiNo = s.ibiNo := rfl
@[simp] theorem State.toWt_pwrReport : (s.toWt t).pwrReport = s.pwrReport := rfl
end

/-! ### What an update sets -/
theorem State.setReg_regs (s : State) (r : Reg) (i v : Nat) :
    (s.setReg r i v).regs = tput (BitVec.ofNat 64 r.rst) s.regs (regKey r i) (BitVec.ofNat 64 v) := rfl
theorem State.setSeq_seqs (s : State) (q : Nat) (x : Seq) : (s.setSeq q x).seqs = tput {} s.seqs q x := rfl
theorem State.setRcdr_recs (s : State) (r : Nat) (x : Recorder) : (s.setRcdr r x).recs = tput {} s.recs r x := rfl
@[simp] theorem State.toWt_wt (s : State) (t : Nat) : (s.toWt t).wt = max s.wt t := rfl

end Sys2Proof.Machine
end

