-- ==== Sys2Proof/Tests/Slice0.lean ====
section
/-!
SUPPORT. The model's own tests: well-formedness refuses each kind of ill-formed command, words and worked values of the
spec, single steps, and the witnesses. A theorem test_witness_<Statement> shows, for every clause of the statement
Obligations.<Statement> that has hypotheses, a state and operands that meet them all together; clauses whose hypotheses another
clause's imply share one witness. No witness can be evaluated for the clauses that need a signature that verifies, a digest of a
manifest or a key blob that unwraps, since Config gives those functions no body: an accepted pack and its swap (PackLoading), an
accepted image (ImageLoading, StartUpSteps), a manifest whose digest agrees (CheckpointHost), an accepted key blob
(SealLifecycleAndKeys).
-/
namespace Sys2Proof
open Sys2Proof.Machine
set_option Elab.async false

/-- A field whose FS works. -/
def fsOk : FsHw := { waveDone := true }
/-- A sequencer that runs, at address 0, with a handler at 16. -/
def seqOn : Seq := { mode := .run, trapVec := 16 }
/-- A block in service: HMP is owner, TAPCLK runs, start-up has ended, the FSs of fields 0 and 1 work and their sequencers run,
partition 0 is in service. -/
def rdy : State :=
  { ((((State.reset.wr F.CC_OWNER_owner 0 0).wr F.CC_BOOT_STAT_step 0 12).wr F.CC_CLK_STAT_src 0 0).wr F.CC_PART_STAT_phase 0 0) with
    fsHw := [(0, fsOk), (1, fsOk)]
    seqs := [(0, seqOn), (128, seqOn)]
    engRst := [(0, false)] }
/-- The same in AON-only operation. -/
def aon : State := rdy.wr F.CC_CLK_STAT_src 0 2
/-- A tile of class 0 whose descriptor has come. -/
def tile0 : Tile := { sq := 0, d0 := 0, slot := true, mode := 1, key := 0, rate := 0, forced := false, cnt := 0, room := true }
def ref0 : TRef := { eng := 0, sq := 0 }
def rsv0 : Rsv := { ref := ref0, d0 := 0, d1 := 0, d2 := 0, d3 := 0, size := 1 }
def ent0 : PEnt := { rsv := rsv0, part := 0, sealed := false }
def pkt0 : LtPkt := { transit := false, sb := 0, field := 0, tag := 0, data := [] }
def part0 (k : PKind) : PReset := { kind := k, tIso := 0, base := 0 }
def sess0 : Session := { kind := 1, cluster := 0, smax := 1, recipe := 0, tTarget := 0, phase := 0 }
def rec0 : Rec := { code := 0x1001, wt := 0, unit := 0, temp := 0x80, mv := 0, params := 0 }

/-- A packet of a header flit of class `c` with a good CRC. -/
def trogOf (c : Nat) : List Byte := leBytes 32 (c * 2 ^ 48 + trogCrcOf (leBytes 32 (c * 2 ^ 48)) * 2 ^ 96)
/-- A block of zeros, and its sleeve. -/
def blk0 : List Byte := List.replicate 2048 0
/-- MT 0 keeps sleeves. -/
def slvOn : State := (rdy.wr F.MT_SLEEVE_CFG_enable 0 1).wr F.MT_SLEEVE_CFG_cap_log2 0 30
/-- Engine 0 with one open tile. -/
def withTile (t : Tile) : State := { rdy with tiles := [(0, [t])] }
/-- A tile whose four beats have come, one that retired in cycle 9, and one whose proof is outstanding. -/
def tile4 : Tile := { tile0 with got := 4, admitted := true, chk := .fold }
def tileR : Tile := { tile4 with retired := true, due := 9, chk := .clean }
def tileP : Tile := { tileR with prf := .out, waitEnd := 20 }
def stamp0 : Stamp := ⟨5, false, 0, 0, 1⟩
/-- Eighteen taps of pool 0 reserve 15 entries each. -/
def pool15 : State := (List.range 18).foldl (fun s m => s.wr F.MT_POOL_CFG_reserved_min m 15) rdy
def pblk0 : PBlk := ⟨0, 0, []⟩
def core0 (c : Core) : State := { rdy with cores := [(0, c)] }
/-- A strip of core 0. -/
def stp0 : Strip := { num := 1, key := 0, recipe := 0, cores := [0], runAt := 0, items := [] }
def strip0 : State := { core0 { st := 6, strip := some 1 } with strips := [(0, [stp0])] }
def sessS (x : Session) : State := { rdy with sessions := [(0, x)] }
def pm0 : PmReq := { field := 0, kind := 0, cluster := 0, step := 1 }
def pmS (x : Session) : State := { sessS x with pmQ := [pm0] }
/-- The PM port of kind 0, step 1. -/
def sess3 : Session := { sess0 with phase := 3 }
def conf0 : Confirm := { src := 0, unit := 0, reason := 1 }
def fupd0 : FUpd := { unit := 0, set := true, reason := 1, idx := 0 }
def fport0 : FPort := { upd := fupd0, since := 0 }
def funit0 : FUnit := { unit := 0, reason := 1, idx := 0 }
/-- The fence log holds one fence of engine 0. -/
def logS : State := (logAppend (2 ^ 24) rdy).2
def neg0 : Neg := { d0 := 0, d1 := 0, d2 := 0, d3 := 0, eng := 0, wt := 0, blocks := [], array := [], diffs := 0, idx := [], part := 0, sealed := false, size := 0, source := 0, slot := some 0 }
def lsp0 : Lsp := { field := 0, summary := false, index := 0, payload := false, neg := neg0 }
def lspD : Lsp := { lsp0 with data := some [1, 2, 3] }
def lat0 : Latent := { eng := 0 }
/-- Sequencer 0 with general registers. -/
def seqS (x : Seq) : State := { rdy with seqs := [(0, x)] }
def seqG (l : Tbl W32) : State := seqS { seqOn with g := l }
/-- A message of 16 bytes inline. -/
def msg0 : Msg := { src := 0x480000, dst := 0, typ := 0x8000, cls := 1, len := 0, inl := [], data := [] }
/-- Sequencer 0 with an image of a message of type 0x8000 at 0, and g1 = the unit ID of FS 1. -/
def msgS : Seq := { seqOn with g := [(1, 0x480001)], sram := [(1, 0x80)] }
def toFs1 : Msg := { msg0 with dst := 1 }
def twoS (x y : Seq) : State := { rdy with seqs := [(0, x), (1, y), (128, seqOn)] }
def latS (l : Latent) : State := { seqG [] with latent := [(0, l)] }
def rwd0 : Recorder := {}
def onW : Rec := rec0
def fwd0 : Fwd := { field := 0, seq := 0, rcd := rec0 }
def pinHi : Pin := { level := true }
def pinSt : Pin := { level := true, stuck := true, latched := true }
def pinS (x : Pin) : State := { rdy with pins := [(0, x)] }
/-- A context runs on engine 0. -/
def ctxS : State := { rdy with ctxSig := [(0, 2 ^ 16)] }
def rst1 : RStep := { scope := 1, eng := 0, ctx := 0, base := 0, onPort := true }
def rst0 : RStep := { rst1 with scope := 0 }
def preS (n : Nat) (x : PReset) : State := { rdy.wr F.CC_PART_STAT_phase 0 n with presets := [(0, x)], prtReq := [0] }
def crep0 : CRep := { eng := 0, ctx := 0, core := 0, limit := 0 }
def svsh0 : SavShard := { idx := 0, ent := {}, wait := [0] }
def save0 : Save := { buf := 0, step := 0, d := 0, wt := 0, gen := 0, sealed := false, key := 1, streams := [], shards := [svsh0] }
def savS (n : Nat) (x : Save) : State := { rdy.wr F.CC_CKPT_STAT_state 0 n with saves := [(0, x)] }
def shardS : State := { rdy with shards := [(0, { w0 := 64, w3 := 2 ^ 20 })] }
theorem pair_of_some {α β : Type} {r : Option α × β} (d : α) (h : r.1.isSome = true) : r = (some (r.1.getD d), r.2) := by
  rcases r with ⟨_ | a, b⟩ <;> simp_all
def host0 : Words4 := { w0 := 2 ^ 26, w1 := 1 }
def hs0 : HSess := { slot := 0, len := 8, key := 1, step := 0 }
def hostS (x : HSess) : State := { rdy with hosts := [(0, { host0 with w2 := 2 ^ 62 })], hosting := [(0, x)] }
/-- Channel 0 is unassigned. -/
def freeS : State := rdy.setReg .CC_PART_CHAN 0 0x80
/-- Barrier channel 0 is enabled for partition 0. -/
def barS : State := rdy.wr F.CC_BAR_CFG_enable 0 1
def stop0 : Stop := { id := 0, tStop := 0, joined := false, freeze := false, late := false, gated := true }
def stopS (x : Stop) : State := { rdy with stop := some x }
def sheet0 : Sheet := { all := true, part := 0, content := 0, dest := 0, auto := false, desealed := false }
def sealS : State := rdy.wr F.CC_PART_SEAL_sealed 0 1
def keyS : State := { rdy with keyRecv := some (0, []) }
def blob0 : List Byte := [0x31, 0x59, 0x4B, 0x57, 1, 0] ++ List.replicate 186 0
def dsl0 : Deseal := { cause := 0, asked := true }
def scrubS (n : Nat) : State := { preS 2 (part0 .scrub) with scrubs := [(0, {})] }.wr F.CC_SCRUB_STAT_phase 0 n
def bootS (n : Nat) : State := rdy.wr F.CC_BOOT_STAT_step 0 n
/-- Step 10 with channels 0 and 1 to report. -/
def boot10 : State := { bootS 10 with boot := { left := [0, 1] }, trainRecs := [⟨0, [], true⟩] }
def boot9 : State := { bootS 9 with boot := { wait := [0] } }
def boot5 (n : Nat) : State := { bootS 5 with boot := { wave := [0], next := n } }
def bres0 : BistRes := { unit := 0x480000 }
def bresF : BistRes := { bres0 with absent := true }
def half : ClkPair := { ref := some (1, 2) }
/-- Partition 0 traces into channel 0. -/
def traceS : State := (((rdy.wr F.CC_TRACE_CFG_enable 0 1).wr F.CC_TRACE_RING0_mask 0 1).wr F.CC_TRACE_RING1_length 0 9)
def trec0 : TRec := { wt := 0, typ := 0, eng := 0, pay := 0 }
def trec1 : State := { traceS with traceW := [(0, { recs := [trec0] })] }
def hreq0 : HReq := { write := true, addr := 0, data := 0, part := none, at_ := 0 }
/-- Cluster 0 is gated. -/
def gatedS : State := rdy.wr F.CT_STOP_STAT_gated 0 1
/-- A sealed partition 0 with a key, and a region of block 0 of channel 0. -/
def sealRgn : State := { (sealS.wr F.MT_SEAL_RGN_A_valid 0 1).wr F.MT_SEAL_RGN_B_length 0 1 with keySlots := [(0, 1)] }
/-- Channel 0 has no free buffer. -/
def noPool : State := ((rdy.wr F.MT_POOL_CFG_reserved_min 0 0).wr F.MT_POOL_CFG_shared_cap 0 0)
theorem rdy_recs : RecordersFit rdy := ⟨by decide +kernel, fun _ => ⟨Nat.zero_le _, Nat.zero_le _, Nat.zero_le _⟩⟩
def frozenS : State := { rdy with recs := [(0, { frozen := true })] }
theorem frozen_recs : RecordersFit frozenS := by
  refine ⟨by decide +kernel, fun r => ?_⟩
  have h : (frozenS.rcdr r).first = [] ∧ (frozenS.rcdr r).last = [] ∧ (frozenS.rcdr r).holdq = [] := by
    simp only [State.rcdr, frozenS, tget, tfind]; repeat' split
    all_goals simp
  simp [h]
theorem crc48Bit_lt (r b : Nat) : crc48Bit r b < 2 ^ 48 := by
  unfold crc48Bit
  dsimp only
  split
  · exact Nat.xor_lt_two_pow (Nat.mod_lt _ (by decide)) (by decide)
  · exact Nat.mod_lt _ (by decide)
theorem crc48Byte_lt : ∀ (n r b : Nat), r < 2 ^ 48 → crc48Byte n r b < 2 ^ 48
  | 0, _, _, h => h
  | n + 1, _, b, _ => crc48Byte_lt n _ b (crc48Bit_lt _ _)
theorem crc48_lt (l : List Byte) : crc48 l < 2 ^ 48 := by
  have h : ∀ (l : List Byte) (r : Nat), r < 2 ^ 48 → l.foldl (fun r b => crc48Byte 8 r b.toNat) r < 2 ^ 48 := by
    intro l
    induction l with
    | nil => exact fun _ h => h
    | cons a l ih => exact fun r h => ih _ (crc48Byte_lt 8 r _ h)
  exact Nat.xor_lt_two_pow (h l _ (by decide)) (by decide)
theorem blk0_length : blk0.length = 2048 := List.length_replicate ..
theorem mkSlv_fields (c v : Nat) (h : c < 2 ^ 48) : slvOk (mkSlv c 0 false v 0) = true ∧ slvFog (mkSlv c 0 false v 0) = false
    ∧ c = slvCrc (mkSlv c 0 false v 0) := by
  simp only [slvOk, slvVersion, slvFog, slvCrc, mkSlv, bit, b2n, beq_iff_eq, Bool.false_eq_true, if_false]
  refine ⟨?_, ?_, ?_⟩
  · omega
  · simp; omega
  · omega
/-- A sleeve of another checksum than the zero block's. -/
def slvBad0 : Nat := if crc48 blk0 = 0 then 2 ^ 16 + 1 else 1
theorem slvBad0_ok : slvOk slvBad0 = true := by unfold slvBad0; split <;> decide
theorem slvBad0_crc : crc48 blk0 ≠ slvCrc slvBad0 := by
  unfold slvBad0
  split
  · rename_i h; rw [h]; decide
  · rename_i h; exact h
theorem produced_ok (d : List Byte) : slvOk (producedSleeve (advCyc (engCt 0) 0 rdy) 0 0 d) = true := by
  have h1 : tagTile (advCyc (engCt 0) 0 rdy) 0 0 (stripMode (advCyc (engCt 0) 0 rdy) (engCore 0)) = none := by decide +kernel
  have h2 : blocked (advCyc (engCt 0) 0 rdy) 0 = false := by decide +kernel
  have h3 : (advCyc (engCt 0) 0 rdy).partOf (engField 0) = 0 := by decide +kernel
  rw [producedSleeve, h1, h2, h3]
  exact (mkSlv_fields _ 2 (crc48_lt _)).1
/-- The CTs of field 0 are fenced. -/
def noCts : State := { rdy with fuseBad := (List.range 64).map ctUnit }
theorem mem_coresOfField {f w : Nat} (h : w ∈ coresOfField f) : ∃ c i, c < 64 ∧ i < 96 ∧ w = 128 * (64 * f + c) + i := by
  simp only [coresOfField, List.mem_flatten, List.mem_map, List.mem_range, coresOfCt] at h
  obtain ⟨l, ⟨c, hc, rfl⟩, hw⟩ := h
  obtain ⟨i, hi, rfl⟩ := List.mem_map.mp hw
  exact ⟨c, i, hc, List.mem_range.mp hi, rfl⟩
theorem noCts_dead (w : Nat) (h : w ∈ coresOfField 0) : (liveEngines noCts w).isEmpty = true := by
  obtain ⟨c, i, hc, hi, rfl⟩ := mem_coresOfField h
  have hk : ∀ k, k < 64 → unitFenced noCts (ctUnit k) = true := by decide +kernel
  rw [List.isEmpty_iff, liveEngines, List.filter_eq_nil_iff]
  intro e he
  obtain ⟨j, hj, rfl⟩ := List.mem_map.mp he
  have hj' : j < 4 := List.mem_range.mp hj
  have : engCt (4 * (128 * (64 * 0 + c) + i) + j) = c := by simp only [engCt]; omega
  have hb : engFenced noCts (4 * (128 * (64 * 0 + c) + i) + j) = true := by
    rw [engFenced, this, hk c hc, Bool.or_true]
  rw [hb]; decide
theorem noCts_witness : witnessOf noCts 0 = none := by
  unfold witnessOf
  have : coreField 0 = 0 := rfl
  rw [this, List.filter_eq_nil_iff.mpr]
  · rfl
  · intro w hw; simp [noCts_dead w hw]
theorem witness_some (s : State) (c : Nat) (h : ∃ w ∈ coresOfField (coreField c), coreCt w ≠ coreCt c
    ∧ (liveEngines s w).isEmpty = false ∧ coreLatent s w = false ∧ (s.core w).req = false
    ∧ (s.core w).again = false) : ∃ w, witnessOf s c = some w ∧ w ∈ coresOfField (coreField c) := by
  obtain ⟨w, hw, h1, h2, h3, h4, h5⟩ := h
  unfold witnessOf
  dsimp only
  generalize hl : (coresOfField (coreField c)).filter _ = l
  have hn : l ≠ [] := by
    subst hl
    exact List.ne_nil_of_mem (a := w) (List.mem_filter.mpr ⟨hw, by simp [h1, h2, h3, h4, h5]⟩)
  have hm : ∀ x ∈ l, x ∈ coresOfField (coreField c) := by subst hl; exact fun x hx => (List.mem_filter.mp hx).1
  clear hl
  obtain ⟨x, l, rfl⟩ := List.exists_cons_of_ne_nil hn
  simp only [List.foldl_cons]
  have hx := hm x (List.mem_cons_self ..)
  replace hm : ∀ y ∈ l, y ∈ coresOfField (coreField c) := fun y hy => hm y (List.mem_cons_of_mem _ hy)
  clear hn
  induction l generalizing x with
  | nil => exact ⟨x, rfl, hx⟩
  | cons y l ih =>
    simp only [List.foldl_cons]
    by_cases hy : oldestWt s y < oldestWt s x
    · rw [if_pos hy]; exact ih y (hm y (List.mem_cons_self ..)) (fun z hz => hm z (List.mem_cons_of_mem _ hz))
    · rw [if_neg hy]; exact ih x hx (fun z hz => hm z (List.mem_cons_of_mem _ hz))
theorem rdy_witness : ∃ c, witnessOf rdy 0 = some c ∧ coreField c = 0 := by
  obtain ⟨w, h1, h2⟩ := witness_some rdy 0 ⟨128, by
    simp only [coresOfField, List.mem_flatten, List.mem_map, List.mem_range, coresOfCt]
    exact ⟨_, ⟨1, by decide, rfl⟩, List.mem_map.mpr ⟨0, by decide, rfl⟩⟩, by decide +kernel, by decide +kernel,
    by decide +kernel, by decide +kernel, by decide +kernel⟩
  obtain ⟨c, i, hc, hi, rfl⟩ := mem_coresOfField h2
  exact ⟨_, h1, by simp only [coreField] at *; omega⟩
theorem rdy_force (c : Nat) (h : coreField c = 0) : (tryForce c rdy).1 = true := by
  have h1 : ¬ forcedOf rdy 0 + 1 > rdy.rd F.FS_PROOF_CFG_shadow_max 0 := by decide +kernel
  unfold tryForce
  rw [h]
  by_cases h2 : forceBit rdy c = true
  · simp [h2]
  · simp only [h2, h1]; rfl
/-- The four blocks of a stream table on channel 0. -/
def tab0 : List MemRd := [0, 1, 2, 3].map (fun i => ⟨0, i, blk0, false, 0⟩)
theorem mkSlv_fog (c f v o : Nat) : slvFog (mkSlv c f false v o) = false := by
  simp only [slvFog, mkSlv, bit, b2n, Bool.false_eq_true, if_false]
  simp
  omega
theorem mtRead_off (m b : Nat) (d : List Byte) (s : State) (h : s.rb F.MT_SLEEVE_CFG_enable m = false) :
    let u := s.bump F.MT_SLEEVE_STAT_created m
    mtRead m b d false s = (mkSlv (crc48 d) (u.rd F.MT_SLEEVE_CFG_dflt_fmt m) false 1 (u.partOfChan m), u) := by
  simp [mtRead, mtEntry, mtLineBad, h, mtReadSlv, slvOk, slvFog, slvVersion, bit, mtCreate]
def tabS : State := (shardS.wr F.MT_SLEEVE_CFG_cap_log2 0 30).wr F.CC_CKPT_STAT_captured 0 0
theorem tab0_find (i : Nat) (h : i < 4) :
    tab0.find? (fun x => x.m == 0 && x.blk == 0 + i && x.data.length == 2048) = some ⟨0, i, blk0, false, 0⟩ := by
  have : i = 0 ∨ i = 1 ∨ i = 2 ∨ i = 3 := by omega
  rcases this with rfl | rfl | rfl | rfl <;> simp [tab0, blk0_length]
theorem tab0_read : (readTable 0 0 tab0 [0, 1, 2, 3] tabS).1.isSome = true := by
  have a0 : tabS.rb F.MT_SLEEVE_CFG_enable 0 = false := by decide +kernel
  have a1 : (tabS.bump F.MT_SLEEVE_STAT_created 0).rb F.MT_SLEEVE_CFG_enable 0 = false := by decide +kernel
  have a2 : ((tabS.bump F.MT_SLEEVE_STAT_created 0).bump F.MT_SLEEVE_STAT_created 0).rb F.MT_SLEEVE_CFG_enable 0 = false := by
    decide +kernel
  have a3 : (((tabS.bump F.MT_SLEEVE_STAT_created 0).bump F.MT_SLEEVE_STAT_created 0).bump F.MT_SLEEVE_STAT_created 0).rb
      F.MT_SLEEVE_CFG_enable 0 = false := by decide +kernel
  simp only [readTable, tab0_find 0 (by decide), tab0_find 1 (by decide), tab0_find 2 (by decide), tab0_find 3 (by decide),
    mtRead_off _ _ _ _ a0, mtRead_off _ _ _ _ a1, mtRead_off _ _ _ _ a2, mtRead_off _ _ _ _ a3, mkSlv_fog]
  rfl


/-! ## WellFormed: each check refuses an ill-formed command -/

theorem test_wf_accepts : [Instr.mtPoolCfgWrite .hmp 767 0, .rekey .hmp 83 0, .killAck (128 * (64 * 83 + 63) + 95) 0,
    .hang (4 * 5 + 3), .linkTrained 47, .partitionIsolate 63, .add 128 15 15 15, .freezeMaxExpire 128,
    .pinStuck (.fs 83 151), .pinStuck (.cc 7)].all wellFormed = true := by decide +kernel
theorem test_wf_fields : [Instr.rekey .hmp 84 0, .stripCmd .hmp 0 (2 ^ 64), .proofReserve 84, .brkStepDone 127].all
    (fun i => !wellFormed i) = true := by decide +kernel
theorem test_wf_mts : [Instr.mtPoolCfgWrite .hmp 768 0, .sleeveLineArrive 0 (2 ^ 29) false, .tagLineArrive 0 0 (2 ^ 128),
    .sealRegionWrite .hmp 0 8 false 0].all (fun i => !wellFormed i) = true := by decide +kernel
theorem test_wf_cts : [Instr.jobKillRaise (64 * 84) 0, .foldDrain (64 * 100) 0, .pinStuck (.host 0 8),
    .pinStuck (.ctInt (64 * 84) 0), .pinStuck (.fs 0 152), .pinStuck (.cc 8)].all (fun i => !wellFormed i) = true := by
  decide +kernel
theorem test_wf_cores : [Instr.killAck 96 0, .stripDue 127, .yieldGrant (128 * 64 * 84)].all (fun i => !wellFormed i) = true := by
  decide +kernel
theorem test_wf_engines : [Instr.hang (4 * 96), .retirePulse (4 * 127) 0, .barrierJoin 0 0 32, .barrierEnter (4 * 96) 0 0].all
    (fun i => !wellFormed i) = true := by decide +kernel
theorem test_wf_links : [Instr.linkTrained 48, .linkDown 63, .stopMarkArrive 0 (2 ^ 16), .ltOutbound 48 pkt0,
    .ltOutbound 0 { pkt0 with sb := 2 ^ 16 }, .ltInbound 0 { pkt0 with field := 84 }].all (fun i => !wellFormed i) = true := by
  decide +kernel
theorem test_wf_parts : [Instr.partitionIsolate 64, .stepMark .hmp 64 0, .resetTimeout 4 0, .resetTimeout 2 64,
    .partitionMapWrite .hmp false 16 0, .partitionMapWrite .hmp true 128 0].all (fun i => !wellFormed i) = true := by
  decide +kernel
theorem test_wf_sequencers : [Instr.add 84 0 0 0, .tret 127, .add 0 16 0 0, .addi 0 0 0 (2 ^ 16), .jal 0 0 (2 ^ 22),
    .waits 0 0 0 0 16, .send 0 0 0 0 (2 ^ 15), .undefinedOpcode 0 (2 ^ 33), .freezeMaxExpire 84].all
    (fun i => !wellFormed i) = true := by decide +kernel
theorem test_wf_lengths : [Instr.trogPacketDeliver (List.replicate 31 0),
    .mtLoad 0 0 (List.replicate 2047 0) false false false 0 false 0 0 false,
    .mtWrite 0 0 true 0 (List.replicate 2049 0) 0 false, .tapBlock 0 0 0 0 0 [], .shadowBlockArrive 0 0 0 0 [],
    .ckptManifestArrive 0 (List.replicate 4095 0), .challenge 0 0 false (List.replicate 31 0),
    .getMeasurements 0 false 0 []].all (fun i => !wellFormed i) = true := by decide +kernel
theorem test_wf_codes : [Instr.sigBeat 0 0 5 0, .sigBeat 0 0 0 0, .ccSettingForward .hmp 4 0 0, .proofArrayFault 0 5,
    .proofArrayFault 0 0, .foldFault 0 0 4, .stripResult 0 [⟨4, 0, 0, List.replicate 2048 0⟩],
    .ckptTableWrite .hmp false 4 0, .handoverStart .hmp 4].all (fun i => !wellFormed i) = true := by decide +kernel
theorem test_wf_ops : [Instr.ownerFence .hmp (2 ^ 32), .fenceRemove .hmp 0, .cmdResetContext .hmp 1, .cmdResetEngine .hmp 0,
    .returnToService .hmp 6, .suspectSelect .hmp 0 (2 ^ 9), .suspectListRelease .hmp 0 0, .creplayStart .hmp 0 (2 ^ 31),
    .creplayCancel .hmp 0 0, .ckptSave .hmp 2 false [], .ckptAbort .hmp 1].all (fun i => !wellFormed i) = true := by
  decide +kernel
theorem test_wf_bist : [Instr.probeBistRun { unit := 0 }, .probeBistRun { unit := 0x480000, mem := [⟨256, 0, 0, false⟩] },
    .probeBistRun { unit := 0x480000, scan := [⟨128, 0⟩] }].all (fun i => !wellFormed i) = true := by decide +kernel

/-! ## Sequencer words, bit by bit from Tables 10-3 to 10-5 -/

/-- The three worked examples below Table 10-4. -/
theorem test_word_examples : decodeSeq 40 0x04C00064 = some (.addi 40 3 0 0x64)
    ∧ decodeSeq 40 0xE159C000 = some (.strip 40 5 6 7) ∧ decodeSeq 40 0x8440FFFD = some (.bne 40 1 0 0xFFFD) := by
  decide +kernel
theorem test_word_alu : decodeSeq 1 0b000000_1111_1110_1101_00000000000001 = some (.sub 1 15 14 13)
    ∧ decodeSeq 1 0b000000_0001_0010_0011_00000000001001 = some (.mulhu 1 1 2 3)
    ∧ decodeSeq 1 0b000000_0001_0010_0011_00000000001011 = some (.sltu 1 1 2 3) := by decide +kernel
theorem test_word_immediate : decodeSeq 1 0b001000_0001_0000_00_0001001000110100 = some (.lui 1 1 0x1234)
    ∧ decodeSeq 1 0b001010_0001_0010_00_1111111111111111 = some (.sltui 1 1 2 0xFFFF)
    ∧ decodeSeq 1 0b000111_0001_0010_00_0000000000011111 = some (.srai 1 1 2 31) := by decide +kernel
theorem test_word_memory : decodeSeq 1 0b010010_0001_0010_00_0000000000000010 = some (.lhu 1 1 2 2 false)
    ∧ decodeSeq 1 0b010111_0001_0010_00_0000000000000011 = some (.sb 1 1 2 3) := by decide +kernel
theorem test_word_csr : decodeSeq 1 0b011000_0011_0000_00_0000000000000101 = some (.csrr 1 3 5)
    ∧ decodeSeq 1 0b011001_0000_0011_00_0000000000000101 = some (.csrw 1 5 3) := by decide +kernel
theorem test_word_block_register : decodeSeq 1 0b011010_0010_0100_00_0000000000001000 = some (.rdr 1 2 4 8 false)
    ∧ decodeSeq 1 0b011011_0010_0100_00_0000000000001000 = some (.wrr 1 2 4 8 false) := by decide +kernel
theorem test_word_control : decodeSeq 1 0b100110_1111_1111111111111111111111 = some (.jal 1 15 0x3FFFFF)
    ∧ decodeSeq 1 0b100111_0001_0010_00_0000000000000100 = some (.jalr 1 1 2 4)
    ∧ decodeSeq 1 0b101000_00000000000000000000000000 = some (.tret 1)
    ∧ decodeSeq 1 0b101000_00000000000000000000000001 = none := by decide +kernel
theorem test_word_events : decodeSeq 1 0b110000_0001_0010_0011_00000000000000 = some (.wait 1 1 2 3)
    ∧ decodeSeq 1 0b110001_0000_0010_00_0000000000000111 = some (.sigLocalAdd 1 2 7)
    ∧ decodeSeq 1 0b110001_0000_0010_10_0000000000000111 = some (.sigLocalSub 1 2 7)
    ∧ decodeSeq 1 0b110011_0001_0010_0011_00000000000001 = some (.send 1 1 2 3 1)
    ∧ decodeSeq 1 0b110100_0001_0000_0011_00000000000000 = some (.recv 1 1 3) := by decide +kernel
theorem test_word_reliability : decodeSeq 1 0b111001_0001_0000_0000_00000000000001 = some (.proofSetRekey 1 1)
    ∧ decodeSeq 1 0b111010_0001_0010_0000_00000000000011 = some (.fenceReplay 1 1 2)
    ∧ decodeSeq 1 0b111011_0001_0010_0011_00000000000100 = some (.resetPowerCycle 1 1 2 3)
    ∧ decodeSeq 1 0b111100_0001_0010_00_0000000000000001 = some (.log 1 1 2 1)
    ∧ decodeSeq 1 0b111101_0001_0010_0000_00000000000000 = some (.bracket 1 1 2)
    ∧ decodeSeq 1 0b111110_0000_0010_0000_00000000000010 = some (.timeArmAbs 1 2) := by decide +kernel

/-! ## Worked values of the spec -/

/-- Table 2-3. -/
theorem test_crc48_values : crc48 [] = 0 ∧ crc48 [0x57] = 0xB369F1974683 := by decide +kernel
/-- "A sleeve from birth to memory": partition 5, FP8 E4M3, then clean, then failed, then fog. -/
theorem test_sleeve_example : mkSlv 0x5E2107AC93D4 4 false 0 5 = 0x5E2107AC93D42015
    ∧ slvSetVerdict 0x5E2107AC93D42015 1 = 0x5E2107AC93D42115 ∧ slvSetVerdict 0x5E2107AC93D42115 3 = 0x5E2107AC93D42315
    ∧ slvSetFog 0x5E2107AC93D42315 = 0x5E2107AC93D42715 := by decide +kernel
/-- Table 3-7. -/
theorem test_generator_values : genG 0 0 0 0 = 0x547791E9 ∧ genG 0x123456789ABCDEF0 0x100 1 3 = 0xDDEC3D0F := by
  decide +kernel
/-- The stochastic rounding example below R90: 0x3F808000 to BF16. -/
theorem test_rounding_example : routCode 2 (.sto (genG 0 0 0 0 % 2 ^ 16)) false (fp32.dec 0x3F808000) = 0x3F81
    ∧ routCode 2 .rne false (fp32.dec 0x3F808000) = 0x3F80 := by decide +kernel
/-- The example tile of "The Checksum Verifier": 128 × 128 × 2048, FP8 E4M3, order 2 with c = 32, FP16 to BF16. -/
def sumTile (h e : Nat) : Tile :=
  { tile0 with got := 4, d1 := 4 * 2 ^ 42 + 4 * 2 ^ 47 + 2 * 2 ^ 52 + 3 * 2 ^ 57,
               d3 := 128 + 128 * 2 ^ 16 + 2048 * 2 ^ 32 + 2 * 2 ^ 56 + 2 * 2 ^ 59,
               fP := 0xC4A0EC00, fS := 0x4A800000, fQ := 0x48000000, fR := 0x47800000, fH := h, fE := e }
/-- Table 5-6: c is 0.021 854 0 to the printed digits, and 1 + θ is 1.022 768 4 and the FP32 roundings upward above it
(three roundings of 2⁻²³ each at most). -/
theorem test_tolerance_example : (certCoef (sumTile 0 0)).any (fun x =>
    (Val.fin false 2185395 0).lt (x.1.mul (.fin false 100000000 0)) && (x.1.mul (.fin false 100000000 0)).lt (.fin false 2185405 0)
    && (Val.fin false 102276835 0).lt (x.2.mul (.fin false 100000000 0))
    && (x.2.mul (.fin false 100000000 0)).lt (.fin false 102276900 0)) = true := by decide +kernel
/-- The example's verdict, and the first fault of Table 5-7: failed by the guard, ratio class 49. -/
theorem test_checksum_example : (chkVerdict (sumTile 0xC4A0F000 0x44A0F000)).chk = .clean
    ∧ (chkVerdict (sumTile 0x60600000 0x60600000)).chk = .failed
    ∧ (chkVerdict (sumTile 0x60600000 0x60600000)).guard = true
    ∧ (chkVerdict (sumTile 0x60600000 0x60600000)).ratio = 49 := by decide +kernel
/-- The check value of the record CRC (R282). -/
theorem test_crc32c_value : crc32c [0x31, 0x32, 0x33, 0x34, 0x35, 0x36, 0x37, 0x38, 0x39] = 0xE3069283 := by decide +kernel
/-- Addresses of "Addressing an instance". -/
theorem test_register_addresses : regAt 0x389188 = some (.CT_ABFT_STAT, 64 * 40 + 17)
    ∧ regAt 0x3800E0 = some (.FS_LEDGER_SEL, 40) ∧ regAt 0x919040 = some (.MT_SLEEVE_CFG, 100)
    ∧ regAt 0xA02460 = some (.LT_GEN_STAT, 9) ∧ regAt 0x050A18 = some (.CC_CHECK_MODE, 3) := by decide +kernel
/-- The unit ID of the Cluster Tap of cluster 17 in field 40, and the homes of MT 100 and LT 9. -/
theorem test_unit_example : ctUnit (40 * 64 + 17) = 0x500A11 ∧ Config.mtHome 100 = 4 ∧ Config.mtStack 100 = 3
    ∧ Config.ltHome 9 = 28 ∧ Config.hopMax = 18 ∧ Config.bcastNs = 1800 := by decide +kernel
/-- The record of the BIST example below Table 17-10. -/
theorem test_bist_record : ((bistResult false { unit := 0x480028, mem := [⟨3, 0x1A2C, 17, true⟩] } rdy).rcdr 128).first.any
    (fun r => r.2.code == 0x6070 && r.2.unit == 0x480028 && r.2.params == 0x0211001A2C03) = true := by decide +kernel

/-! ## One step -/

/-- A step takes the front command and leaves the rest: here g1 becomes g0 + 5, and the pc moves on by 4. -/
theorem test_step_front : (match step { rdy with pending := [.addi 0 1 0 5, .tret 0] } with
    | .next t => t.pending == [.tret 0] && (t.seq 0).gr 1 == 5 && (t.seq 0).pc == 4
    | _ => false) = true := by decide +kernel
/-- ADDI sign-extends imm16 and wraps (R238). -/
theorem test_addi_wraps : (match exec (.addi 0 1 2 0xFFFF) (seqG [(2, 0)]) with
    | .next t => (t.seq 0).gr 1 == 0xFFFFFFFF | _ => false) = true := by decide +kernel
/-- A write to g0 is discarded (R233). -/
theorem test_g0_stays_zero : (match exec (.ori 0 0 0 7) rdy with
    | .next t => (t.seq 0).gr 0 == 0 && (t.seq 0).pc == 4 | _ => false) = true := by decide +kernel
/-- A misaligned LW traps with ALIGN: TRAP_PC is the instruction, the pc goes to TRAP_VEC (R239, R259). -/
theorem test_lw_misaligned : (match exec (.lw 0 1 0 2 false) rdy with
    | .next t => (t.seq 0).trapCause == 2 && (t.seq 0).inTrap && (t.seq 0).trapPc == 0 && (t.seq 0).pc == 16
        && (t.seq 0).gr 1 == 0
    | _ => false) = true := by decide +kernel
/-- With no command waiting, wafer time advances by its resolution, and in AON-only operation by 20 ns (log entry 13). -/
theorem test_idle_step : (match step rdy with | .next t => t.wt == 1 | _ => false) = true
    ∧ (match step aon with | .next t => t.wt == 20 | _ => false) = true := by decide +kernel
theorem test_no_table_word : decodeTableWord 32 0x04C00064 = none := rfl

/-! ## Witnesses -/
theorem test_witness_CcPair :
(∃ (s : State), s.rb F.CC_ROLE_standby_ok = false ∧ s.swapping = none)
∧ (∃ (s : State) (w : Writer), s.isOwner w = true ∧ s.regReach w .CC_ROLE 0 = true ∧ s.rb F.CC_ROLE_standby_ok = true
      ∧ s.swapping = none)
∧ (∃ (s : State) (w : Writer), s.isOwner w = true ∧ s.regReach w .CC_ROLE 0 = true ∧ s.rb F.CC_ROLE_standby_ok =
      false)
∧ (∃ (d : Nat), 2 < d)
∧ (∃ (d : Nat), d ≤ 2) :=
⟨⟨(rdy), by decide +kernel⟩,
⟨rdy.wr F.CC_ROLE_standby_ok 0 1, (.hmp), by decide +kernel⟩,
⟨(rdy), (.hmp), by decide +kernel⟩,
⟨3, by decide +kernel⟩,
⟨(0), by decide +kernel⟩⟩
theorem test_witness_PoolAndLinks :
(∃ (s : State) (w : Writer) (m : Nat) (v : Nat), Granted s w .MT_POOL_CFG m ∧ (∀ p, w ≠ .tenant p) ∧ mtOk m = true ∧
      poolReserved ((s.wr F.MT_POOL_CFG_reserved_min m (bits v 0 4)).wr F.MT_POOL_CFG_shared_cap m (bits v 8 8)) m ≤
      256)
∧ (∃ (s : State) (w : Writer) (m : Nat) (v : Nat), Granted s w .MT_POOL_CFG m ∧ mtOk m = true ∧ 256 < poolReserved
      ((s.wr F.MT_POOL_CFG_reserved_min m (bits v 0 4)).wr F.MT_POOL_CFG_shared_cap m (bits v 8 8)) m)
∧ (∃ (s : State) (p : List Byte), s.aonOnly = false ∧ trogCrcOf p ≠ trogCrc p)
∧ (∃ (s : State) (p : List Byte), s.aonOnly = false ∧ trogCrcOf p = trogCrc p ∧ (trogClass p = 3 ∨ 8 < trogLen p))
∧ (∃ (s : State) (p : List Byte), s.aonOnly = false ∧ trogCrcOf p = trogCrc p ∧ trogLen p ≤ 8 ∧ trogClass p = 0 ∧ tget
      0 s.trogSeen (trogSrc p) ≠ trogSeqNo p + 1)
∧ (∃ (s : State) (p : List Byte), s.aonOnly = false ∧ trogCrcOf p = trogCrc p ∧ trogLen p ≤ 8 ∧ trogClass p = 0 ∧ tget
      0 s.trogSeen (trogSrc p) = trogSeqNo p + 1)
∧ (∃ (s : State) (p : List Byte), s.aonOnly = false ∧ trogCrcOf p = trogCrc p ∧ trogLen p ≤ 8 ∧ (trogClass p = 1 ∨
      trogClass p = 2))
∧ (∃ (u : Nat) (q : Nat) (s : State), trogAlive s u = true ∧ seqOfUnit u = some q)
∧ (∃ (s : State) (a : Nat) (q : Nat) (x : Unacked) (l : List Unacked), s.aonOnly = false ∧ takeFirst (fun x : Unacked
      => x.src == a && x.sq == q) s.trogUnacked = some (x, l))
∧ (∃ (s : State) (a : Nat) (q : Nat), takeFirst (fun x : Unacked => x.src == a && x.sq == q) s.trogUnacked = none)
∧ (∃ (s : State) (f : Nat), fieldOk f = true ∧ s.aonOnly = false) :=
⟨⟨(rdy), (.hmp), (0), (0), ⟨by decide +kernel, by decide +kernel⟩, (nofun), by decide +kernel⟩,
⟨pool15, (.hmp), 18, 15, ⟨by decide +kernel, by decide +kernel⟩, by decide +kernel⟩,
⟨(rdy), [], by decide +kernel⟩,
⟨(rdy), trogOf 3, by decide +kernel⟩,
⟨(rdy), trogOf 0, by decide +kernel⟩,
⟨{rdy with trogSeen := [(0, 1)]}, trogOf 0, by decide +kernel⟩,
⟨(rdy), trogOf 1, by decide +kernel⟩,
⟨0x480000, 0, (rdy), by decide +kernel⟩,
⟨{rdy with trogUnacked := [⟨0, 0, 0, 0, 0⟩]}, (0), (0), ⟨0, 0, 0, 0, 0⟩, [], by decide +kernel⟩,
⟨(rdy), (0), (0), by decide +kernel⟩,
⟨(rdy), (0), by decide +kernel⟩⟩
theorem test_witness_CoreSleeves :
(∃ (s : State) (c : Nat) (cyc : Nat) (v : Nat) (d : List Byte), d.length = 2048 ∧ slvOk v = true ∧ slvFog v = false ∧
      crc48 d = slvCrc v ∧ NoInj (advCyc (coreCt c) cyc s) 1 (ctUnit (coreCt c)) 0 ∧ coreOk c = true ∧ s.ctGated
      (coreCt c) = false)
∧ (∃ (s : State) (c : Nat) (cyc : Nat) (v : Nat) (d : List Byte), d.length = 2048 ∧ slvOk v = true ∧ crc48 d ≠ slvCrc
      v ∧ NoInj (advCyc (coreCt c) cyc s) 1 (ctUnit (coreCt c)) 0 ∧ coreOk c = true ∧ s.ctGated (coreCt c) = false)
∧ (∃ (v : Nat), slvFog v = true)
∧ (∃ (s : State) (c : Nat) (d : List Byte), coreOk c = true ∧ s.ctGated (coreCt c) = false ∧ d.length < 2048)
∧ (∃ (s : State) (k : Nat), ctOk k = true ∧ s.ctGated k = false)
∧ (∃ (s : State) (e : Nat) (v : Nat) (d : List Byte), engOk e = true ∧ s.ctGated (engCt e) = false ∧ d.length = 2048 ∧
      slvOk v = true)
∧ (∃ (s : State) (e : Nat) (cyc : Nat) (tag : Nat) (d : List Byte), d.length = 2048 ∧ slvOk (producedSleeve (advCyc
      (engCt e) cyc s) e tag d) = true ∧ engOk e = true ∧ s.ctGated (engCt e) = false ∧ stripMode (advCyc (engCt e)
      cyc s) (engCore e) = false)
∧ (∃ (s : State) (e : Nat) (cyc : Nat) (d : List Byte), d.length = 2048 ∧ engOk e = true ∧ s.ctGated (engCt e) = false
      ∧ stripMode (advCyc (engCt e) cyc s) (engCore e) = true) :=
⟨⟨(rdy), (0), (0), mkSlv (crc48 blk0) 0 false 0 0, blk0, (blk0_length), ((mkSlv_fields _ 0 (crc48_lt _)).1),
    ((mkSlv_fields _ 0 (crc48_lt _)).2.1), ((mkSlv_fields _ 0 (crc48_lt _)).2.2), (by decide +kernel : _ = _),
    by decide +kernel⟩,
⟨(rdy), (0), (0), slvBad0, blk0, (blk0_length), (slvBad0_ok), (slvBad0_crc), (by decide +kernel : _ = _),
    by decide +kernel⟩,
⟨2 ^ 10 + 1, by decide +kernel⟩,
⟨(rdy), (0), ([]), by decide +kernel⟩,
⟨(rdy), (0), by decide +kernel⟩,
⟨(rdy), (0), 1, blk0, by decide +kernel⟩,
⟨(rdy), (0), (0), (0), blk0, ((blk0_length)), ((produced_ok _)), by decide +kernel⟩,
⟨core0 {st := 5}, (0), (0), blk0, (blk0_length), by decide +kernel⟩⟩
theorem test_witness_MemoryLoads :
(∃ (s : State) (m : Nat) (b : Nat) (gen : Nat), mtOk m = true ∧ (s.chanFree m = true ∨ (gen = s.gen (s.partOfChan m) ∧
      scrubHolds s (s.partOfChan m) = false)) ∧ hitsSlvRgn s m b 1 = false ∧ slotAt s m b = none ∧ regionOf s m b =
      none)
∧ (∃ (s : State) (m : Nat) (gen : Nat), mtOk m = true ∧ s.chanFree m = false ∧ gen ≠ s.gen (s.partOfChan m))
∧ (∃ (s : State) (m : Nat) (b : Nat) (gen : Nat), mtOk m = true ∧ (s.chanFree m = true ∨ gen = s.gen (s.partOfChan m))
      ∧ hitsSlvRgn s m b 1 = true)
∧ (∃ (s : State) (m : Nat) (b : Nat) (i : Nat) (k : Nat) (part : Nat) (gen : Nat) (link : Bool), mtOk m = true ∧
      s.chanFree m = false ∧ gen = s.gen (s.partOfChan m) ∧ hitsSlvRgn s m b 1 = false ∧ slotAt s m b = none ∧
      scrubHolds s (s.partOfChan m) = false ∧ regionOf s m b = some i ∧ s.sealed (s.partOfChan m) = true ∧ keyOf s
      (s.partOfChan m) = some k ∧ (part ≠ s.partOfChan m ∨ link = true))
∧ (∃ (s : State) (m : Nat) (b : Nat) (want : Nat) (tag : Nat), mtOk m = true ∧ tget 0 s.sealLate (blkKey m b) = want +
      1 ∧ tag ≠ want)
∧ (∃ (s : State) (m : Nat) (b : Nat) (v : Nat), mtOk m = true ∧ tget 0 s.slvLate (blkKey m b) = v + 1)
∧ (∃ (s : State) (m : Nat) (b : Nat), mtOk m = true ∧ tget 0 s.slvLate (blkKey m b) = 0) :=
⟨⟨(rdy), (0), (0), (0), by decide +kernel⟩,
⟨(rdy), (0), 1, by decide +kernel⟩,
⟨slvOn, (0), (0), (0), by decide +kernel⟩,
⟨sealRgn, (0), (0), 0, 0, 1, (0), (false), by decide +kernel⟩,
⟨{rdy with sealLate := [(0, 1)]}, (0), (0), (0), 1, by decide +kernel⟩,
⟨{rdy with slvLate := [(0, 1)]}, (0), (0), (0), by decide +kernel⟩,
⟨(rdy), (0), (0), by decide +kernel⟩⟩
theorem test_witness_MemoryWritesAndLinks :
(∃ (s : State) (m : Nat) (b : Nat), mtOk m = true ∧ hitsSlvRgn s m b 1 = false ∧ slotAt s m b = none ∧ (s.chanFree m =
      true ∨ (scrubHolds s (s.partOfChan m) = false ∧ s.sealed (s.partOfChan m) = false)))
∧ (∃ (s : State) (m : Nat) (b : Nat), mtOk m = true ∧ hitsSlvRgn s m b 1 = true)
∧ (∃ (s : State) (w : Writer) (m : Nat), Granted s w .MT_SLEEVE_CFG m ∧ mtOk m = true ∧ notTenant w = true ∧ s.rb
      F.MT_SLEEVE_CFG_enable m = false)
∧ (∃ (s : State) (w : Writer) (m : Nat), Granted s w .MT_SLEEVE_CFG m ∧ mtOk m = true ∧ s.rb F.MT_SLEEVE_CFG_enable m
      = true)
∧ (∃ (s : State) (l : Nat) (x : LtPkt), ltOk l = true ∧ anyGated s = false ∧ x.transit = true)
∧ (∃ (s : State) (l : Nat) (x : LtPkt), ltOk l = true ∧ anyGated s = false ∧ x.transit = false ∧ sbFlags x.sb ≤ 1 ∧
      s.sealed (sbPart x.sb) = true ∧ trusted s l = false)
∧ (∃ (s : State) (l : Nat) (x : LtPkt), ltOk l = true ∧ anyGated s = false ∧ x.transit = false ∧ sbFlags x.sb = 0 ∧
      (s.sealed (sbPart x.sb) = false ∨ trusted s l = true))
∧ (∃ (s : State) (l : Nat) (x : LtPkt), ltOk l = true ∧ anyGated s = false ∧ x.transit = false ∧ sbFlags x.sb = 1 ∧
      (s.sealed (sbPart x.sb) = false ∨ trusted s l = true))
∧ (∃ (s : State) (l : Nat) (x : LtPkt), ltOk l = true ∧ s.stop = none ∧ x.transit = true)
∧ (∃ (s : State) (l : Nat) (x : LtPkt), ltOk l = true ∧ s.stop = none ∧ x.transit = false ∧ sbFlags x.sb = 1 ∧ sbGen
      x.sb ≠ s.gen (sbPart x.sb))
∧ (∃ (s : State) (l : Nat) (x : LtPkt), ltOk l = true ∧ s.stop = none ∧ x.transit = false ∧ sbFlags x.sb = 0 ∧
      fieldInReset s x.field = true)
∧ (∃ (s : State) (l : Nat) (x : LtPkt), ltOk l = true ∧ s.stop = none ∧ x.transit = false ∧ sbFlags x.sb = 0 ∧
      fieldInReset s x.field = false)
∧ (∃ (s : State) (l : Nat) (x : LtPkt), ltOk l = true ∧ s.stop = none ∧ x.transit = false ∧ sbFlags x.sb = 1 ∧ sbGen
      x.sb = s.gen (sbPart x.sb))
∧ (∃ (s : State) (l : Nat) (x : LtPkt), ltOk l = true ∧ s.stop = none ∧ x.transit = false ∧ sbFlags x.sb = 2 ∧ sbGen
      x.sb = s.gen (sbPart x.sb)) :=
⟨⟨(rdy), (0), (0), by decide +kernel⟩,
⟨slvOn, (0), (0), by decide +kernel⟩,
⟨(rdy), (.hmp), (0), ⟨by decide +kernel, by decide +kernel⟩, by decide +kernel⟩,
⟨slvOn, (.hmp), (0), ⟨by decide +kernel, by decide +kernel⟩, by decide +kernel⟩,
⟨(rdy), (0), {pkt0 with transit := true}, by decide +kernel⟩,
⟨rdy.wr F.CC_PART_SEAL_sealed 0 1, (0), (pkt0), by decide +kernel⟩,
⟨(rdy), (0), (pkt0), by decide +kernel⟩,
⟨(rdy), (0), {pkt0 with sb := 2 ^ 14}, by decide +kernel⟩,
⟨(rdy), (0), {pkt0 with transit := true}, by decide +kernel⟩,
⟨(rdy), (0), {pkt0 with sb := 2 ^ 14 + 1}, by decide +kernel⟩,
⟨{rdy with presets := [(0, {part0 .reset with iso := true})]}, (0), (pkt0), by decide +kernel⟩,
⟨(rdy), (0), (pkt0), by decide +kernel⟩,
⟨(rdy), (0), {pkt0 with sb := 2 ^ 14}, by decide +kernel⟩,
⟨(rdy), (0), {pkt0 with sb := 2 ^ 15}, by decide +kernel⟩⟩
theorem test_witness_TileBeats :
(∃ (s : State) (u : State) (e : Nat) (cyc : Nat), u = advCyc (engCt e) cyc s ∧ engOk e = true ∧ s.ctGated (engCt e) =
      false ∧ tget true u.engRst e = true)
∧ (∃ (s : State) (u : State) (e : Nat) (cyc : Nat), u = advCyc (engCt e) cyc s ∧ engOk e = true ∧ s.ctGated (engCt e)
      = false ∧ tget true u.engRst e = false ∧ tget 0 u.skip e = 0 ∧ announced u e = none ∧ ((u.tilesOf e).filter (fun
      t => t.running && t.slot && t.strip == stripMode u (engCore e))).length < (if u.rb F.CT_SIG_CFG_one_open (engCt
      e) = true then 1 else 2))
∧ (∃ (s : State) (u : State) (e : Nat) (cyc : Nat) (t : Tile), u = advCyc (engCt e) cyc s ∧ engOk e = true ∧ s.ctGated
      (engCt e) = false ∧ tget true u.engRst e = false ∧ tget 0 u.skip e = 0 ∧ announced u e = some t ∧ t.got = 2)
∧ (∃ (s : State) (u : State) (e : Nat) (cyc : Nat), u = advCyc (engCt e) cyc s ∧ engOk e = true ∧ s.ctGated (engCt e)
      = false ∧ tget true u.engRst e = false ∧ announced u e = none ∧ oldest u e = none)
∧ (∃ (s : State) (u : State) (e : Nat) (cyc : Nat), u = advCyc (engCt e) cyc s ∧ engOk e = true ∧ s.ctGated (engCt e)
      = false ∧ tget true u.engRst e = false ∧ oldest (wdogRestart e u) e = none)
∧ (∃ (s : State) (u : State) (e : Nat) (cyc : Nat) (t : Tile), u = advCyc (engCt e) cyc s ∧ engOk e = true ∧ s.ctGated
      (engCt e) = false ∧ tget true u.engRst e = false ∧ announced u e = none ∧ oldest u e = some t ∧ t.slot = true ∧
      t.admitted = true ∧ t.chk = .fold ∧ (tget [] u.fifo e).length < 64)
∧ (∃ (s : State) (u : State) (e : Nat) (cyc : Nat) (t : Tile), u = advCyc (engCt e) cyc s ∧ engOk e = true ∧ s.ctGated
      (engCt e) = false ∧ tget true u.engRst e = false ∧ announced u e = none ∧ oldest u e = some t ∧ t.prf ≠ .out ∧
      t.strip = false)
∧ (∃ (s : State) (k : Nat), ctOk k = true ∧ s.ctGated k = false)
∧ (∃ (s : State) (e : Nat), engOk e = true ∧ s.ctGated (engCt e) = true) :=
⟨⟨{rdy with engRst := []}, _, (0), (0), (rfl), by decide +kernel⟩,
⟨(rdy), _, (0), (0), (rfl), by decide +kernel⟩,
⟨withTile {tile0 with got := 2}, _, (0), (0), {tile0 with got := 2}, (rfl), by decide +kernel⟩,
⟨(rdy), _, (0), (0), (rfl), by decide +kernel⟩,
⟨(rdy), _, (0), (0), (rfl), by decide +kernel⟩,
⟨withTile tile4, _, (0), (0), tile4, (rfl), by decide +kernel⟩,
⟨withTile tile4, _, (0), (0), tile4, (rfl), by decide +kernel⟩,
⟨(rdy), (0), by decide +kernel⟩,
⟨gatedS, (0), by decide +kernel⟩⟩
theorem test_witness_TileStamps :
(∃ (s : State) (e : Nat) (t : Tile) (c : Chk) (u : State), settleChk e t (advCyc (engCt e) t.due s) = (c, u) ∧ engOk e
      = true ∧ s.ctGated (engCt e) = false ∧ nextDue (s.tilesOf e) = some t)
∧ (∃ (s : State) (u : State) (e : Nat) (cyc : Nat) (x : Stamp), u = advCyc (engCt e) cyc s ∧ engOk e = true ∧
      s.ctGated (engCt e) = false ∧ tget 0 u.stampCyc e ≤ cyc ∧ nextStamp (tget [] u.stampQ e) cyc = some x)
∧ (∃ (s : State) (u : State) (e : Nat) (cyc : Nat), u = advCyc (engCt e) cyc s ∧ engOk e = true ∧ s.ctGated (engCt e)
      = false ∧ cyc < tget 0 u.stampCyc e)
∧ (∃ (s : State) (e : Nat) (t : Tile), engOk e = true ∧ s.ctGated (engCt e) = false ∧ nextWait (s.tilesOf e) = some t)
∧ (∃ (s : State) (e : Nat) (tag : Nat) (t : Tile), engOk e = true ∧ s.ctGated (engCt e) = false ∧ tagTile
      s e tag false = some t ∧ t.cls ≤ 1 ∧ t.chk ≠ .none ∧ t.dlDone = false)
∧ (∃ (s : State) (e : Nat), engOk e = true ∧ tget true s.engRst e = false)
∧ (∃ (s : State) (e : Nat), engOk e = true ∧ s.ctGated (engCt e) = true)
∧ (∃ (s : State) (e : Nat), engOk e = true ∧ tget true s.engRst e = true) :=
⟨⟨withTile tileR, (0), tileR, _, _, (rfl), by decide +kernel⟩,
⟨{rdy with stampQ := [(0, [stamp0])]}, _, (0), 5, stamp0, (rfl), by decide +kernel⟩,
⟨{rdy with stampCyc := [(0, 1)]}, _, (0), (0), (rfl), by decide +kernel⟩,
⟨withTile tileP, (0), tileP, by decide +kernel⟩,
⟨withTile tileR, (0), (0), tileR, by decide +kernel⟩,
⟨(rdy), (0), by decide +kernel⟩,
⟨gatedS, (0), by decide +kernel⟩,
⟨{rdy with engRst := []}, (0), by decide +kernel⟩⟩
theorem test_witness_TileSettings :
(∃ (s : State) (w : Writer) (f : Nat) (v : Nat), Granted s w .FS_PROOF_CFG f ∧ fieldOk f = true ∧ notTenant w = true ∧
      bit v 1 = false)
∧ (∃ (s : State) (t : State) (w : Writer) (f : Nat) (v : Nat), Granted s w .FS_PROOF_CFG f ∧ t = ((s.wr
      F.FS_PROOF_CFG_enable f (bits v 0 1)).wr F.FS_PROOF_CFG_shadow_max f (bits v 8 6)).wr F.FS_PROOF_CFG_neg_cap f
      (bits v 16 6) ∧ fieldOk f = true ∧ notTenant w = true ∧ bit v 1 = true ∧ t.fsWorks f = true)
∧ (∃ (s : State) (w : Writer) (p : Nat) (v : Nat), Granted s w .CC_PROOF_RATE p ∧ partOk p = true ∧ notTenant w = true
      ∧ bits v 0 5 ≤ 16)
∧ (∃ (s : State) (w : Writer) (p : Nat) (v : Nat), Granted s w .CC_PROOF_RATE p ∧ partOk p = true ∧ notTenant w = true
      ∧ 16 < bits v 0 5)
∧ (∃ (s : State) (w : Writer) (k : Nat) (v : Nat), Granted s w .CT_PROOF_FORCE0 k ∧ ctOk k = true ∧ (s.isOwner w ||
      isSeq w (ctField k)) = true ∧ s.rd F.FS_PROOF_CFG_shadow_max (ctField k) < forcedOf s (ctField k) + popc 64
      (Nat.land v (2 ^ 64 - 1)) - popc 64 (s.regVal .CT_PROOF_FORCE0 k) ∧ popc 64 (s.regVal .CT_PROOF_FORCE0 k) < popc
      64 (Nat.land v (2 ^ 64 - 1)))
∧ (∃ (s : State) (w : Writer) (k : Nat) (v : Nat), Granted s w .CT_PROOF_FORCE0 k ∧ ctOk k = true ∧ (s.isOwner w ||
      isSeq w (ctField k)) = true ∧ s.regVal .CT_PROOF_FORCE0 k = 0 ∧ forcedOf s (ctField k) + popc 64 (Nat.land v (2
      ^ 64 - 1)) ≤ s.rd F.FS_PROOF_CFG_shadow_max (ctField k))
∧ (∃ (s : State) (w : Writer) (k : Nat) (hi : Bool), Granted s w (if hi then .CT_PROOF_FORCE1 else .CT_PROOF_FORCE0) k
      ∧ ctOk k = true ∧ s.isOwner w = false ∧ isSeq w (ctField k) = false) :=
⟨⟨(rdy), (.hmp), (0), (0), ⟨by decide +kernel, by decide +kernel⟩, by decide +kernel⟩,
⟨(rdy), _, (.hmp), (0), 2, ⟨by decide +kernel, by decide +kernel⟩, rfl, by decide +kernel⟩,
⟨(rdy), (.hmp), (0), (0), ⟨by decide +kernel, by decide +kernel⟩, by decide +kernel⟩,
⟨(rdy), (.hmp), (0), 17, ⟨by decide +kernel, by decide +kernel⟩, by decide +kernel⟩,
⟨rdy.wr F.FS_PROOF_CFG_shadow_max 0 0, (.hmp), (0), 2, (⟨by decide +kernel, by decide +kernel⟩), by decide +kernel⟩,
⟨(rdy), (.hmp), (0), (0), (⟨by decide +kernel, by decide +kernel⟩), by decide +kernel⟩,
⟨(rdy), .tray, (0), (false), ⟨by decide +kernel, by decide +kernel⟩, by decide +kernel⟩⟩
theorem test_witness_ProofIntake :
(∃ (s : State) (u : State) (e : Nat) (cyc : Nat) (tag : Nat) (kd : Nat) (o : Nat) (t : Tile), u = advCyc (engCt e) cyc
      s ∧ engOk e = true ∧ s.ctGated (engCt e) = false ∧ tagTile u e tag false = some t ∧ t.retired = false ∧ t.mirror
      = true ∧ o < t.blocks kd ∧ t.seen.contains (kd * 2 ^ 16 + o) = false ∧ (tget [] u.mirBuf (engCt e)).length < 8)
∧ (∃ (s : State) (u : State) (e : Nat) (cyc : Nat) (tag : Nat) (kd : Nat) (o : Nat) (t : Tile), u = advCyc (engCt e)
      cyc s ∧ engOk e = true ∧ s.ctGated (engCt e) = false ∧ tagTile u e tag false = some t ∧ (t.retired = true ∨
      t.seen.contains (kd * 2 ^ 16 + o) = true))
∧ (∃ (s : State) (f : Nat) (r : Rsv) (l : List Rsv), tget [] s.rsvQ f = r :: l ∧ fieldOk f = true ∧ s.fieldLive f =
      true ∧ s.rb F.FS_PROOF_STAT_array_suspect f = true)
∧ (∃ (s : State) (f : Nat) (r : Rsv) (l : List Rsv), tget [] s.rsvQ f = r :: l ∧ fieldOk f = true ∧ s.fieldLive f =
      true ∧ rsvRefusal s f r = none)
∧ (∃ (s : State) (f : Nat) (m : PMsg) (l : List PMsg), tget [] s.rplQ f = m :: l ∧ fieldOk f = true ∧ s.fieldLive f =
      true ∧ m.code = 1)
∧ (∃ (s : State) (t : State) (f : Nat) (k : Nat) (m : PMsg) (l : List PMsg), k = engCt m.ref.eng ∧ t =
      ({ s with rplQ := tput [] s.rplQ f l, mirBuf := tput [] s.mirBuf k ((tget [] s.mirBuf k).filter (fun b => b.ref != m.ref)) }
      : State).bump F.CT_PROOF_STAT_dropped k ∧ fieldOk f = true ∧ s.fieldLive f = true ∧ tget [] s.rplQ f = m :: l ∧
      m.code = 0 ∧ findTile t m.ref.eng m.ref.sq = none)
∧ (∃ (s : State) (t : State) (k : Nat) (b : MBlk) (l : List MBlk) (x : PEnt), tget [] s.mirBuf k = b :: l ∧ t =
      startWake (ctField k) { s with mirBuf := tput [] s.mirBuf k l } ∧ ctOk k = true ∧ s.fieldLive (ctField k) = true
      ∧ ctQuiet s k = false ∧ (t.entries (ctField k)).find? (fun x => x.rsv.ref == b.ref) = some x)
∧ (∃ (s : State) (f : Nat) (w : Nat), tfind s.arrWake f = some w ∧ fieldOk f = true)
∧ (∃ (s : State) (f : Nat), fieldOk f = true ∧ s.rb F.FS_WAKE_STAT_awake f = true ∧ s.rb F.FS_WAKE_CFG_pin_awake f =
      false ∧ s.entries f = [] ∧ tget 0 s.segLeft f = 0 ∧ selfTesting s f = false) :=
⟨⟨withTile {tile4 with mirror := true, d3 := 2^32+2^16+1, d1 := 2^42}, _, (0), (0), (0), (0), (0),
    {tile4 with mirror := true, d3 := 2^32+2^16+1, d1 := 2^42}, (rfl), by decide +kernel⟩,
⟨withTile tileR, _, (0), (0), (0), (0), (0), tileR, (rfl), by decide +kernel⟩,
⟨{rdy.wr F.FS_PROOF_STAT_array_suspect 0 1 with rsvQ := [(0, [rsv0])]}, (0), _, _, rfl, by decide +kernel⟩,
⟨{rdy with rsvQ := [(0, [rsv0])]}, (0), _, _, rfl, by decide +kernel⟩,
⟨{rdy with rplQ := [(0, [⟨ref0, 1, false⟩])]}, (0), _, _, rfl, by decide +kernel⟩,
⟨{rdy with rplQ := [(0, [⟨ref0, 0, false⟩])]}, _, (0), _, ⟨ref0, 0, false⟩, [], rfl, rfl, by decide +kernel⟩,
⟨{rdy with mirBuf := [(0, [⟨ref0, pblk0⟩])], store := [(0, [ent0])]}, _, (0), _, _, (ent0), rfl, rfl,
    by decide +kernel⟩,
⟨{rdy with arrWake := [(0, 7)]}, (0), _, rfl, by decide +kernel⟩,
⟨rdy.wr F.FS_WAKE_STAT_awake 0 1, (0), by decide +kernel⟩⟩
theorem test_witness_ProofArray :
(∃ (s : State) (f : Nat) (x : PEnt), nextReady (s.entries f) = some x ∧ fieldOk f = true ∧ s.fieldLive f = true ∧ s.rb
      F.FS_WAKE_STAT_awake f = true ∧ (s.entries f).all (fun x => !x.started) = true)
∧ (∃ (s : State) (f : Nat) (n : Nat), tget 0 s.segLeft f = n ∧ fieldOk f = true ∧ s.fieldLive f = true ∧ s.rb
      F.FS_WAKE_STAT_awake f = true ∧ 0 < n ∧ (s.entries f).all (fun x => !x.started && x.ready.isNone) = true ∧
      (tget [] s.strips f).find? (fun x => x.bank.isSome) = none)
∧ (∃ (s : State) (f : Nat) (x : Strip), fieldOk f = true ∧ s.fieldLive f = true ∧ (tget [] s.strips f).find? (fun x =>
      x.bank.isSome) = some x)
∧ (∃ (s : State) (v : State) (f : Nat) (x : PEnt) (t : Tile), NoInj s 2 (fsUnit f) 0 ∧ t = descTile x.rsv.d0 x.rsv.d1
      x.rsv.d2 x.rsv.d3 ∧ v = (arrJobEnd f (s.setEntries f ((s.entries f).filter (fun y => y.rsv.ref !=
      x.rsv.ref)))).bumpWrap F.FS_PROOF_CNT_proved f ∧ fieldOk f = true ∧ s.fieldLive f = true ∧ (s.entries f).find?
      (·.started) = some x ∧ resultPending s x.rsv.ref = false ∧ v.ctGated (engCt x.rsv.ref.eng) = false ∧ diffIdx t
      (arrayResult t (storedOpnd t x.blocks)) x.blocks = [])
∧ (∃ (s : State) (v : State) (f : Nat) (x : PEnt) (t : Tile) (arr : List Nat), NoInj s 2 (fsUnit f) 0 ∧ t = descTile
      x.rsv.d0 x.rsv.d1 x.rsv.d2 x.rsv.d3 ∧ arr = arrayResult t (storedOpnd t x.blocks) ∧ v = (arrJobEnd f
      (s.setEntries f ((s.entries f).filter (fun y => y.rsv.ref != x.rsv.ref)))).bumpWrap F.FS_PROOF_CNT_proved f ∧
      fieldOk f = true ∧ s.fieldLive f = true ∧ (s.entries f).find? (·.started) = some x ∧ resultPending s x.rsv.ref =
      false ∧ v.ctGated (engCt x.rsv.ref.eng) = false ∧ diffIdx t arr x.blocks ≠ [])
∧ (∃ (s : State) (f : Nat), fieldOk f = true ∧ s.fieldLive f = true ∧ (s.entries f).find? (·.started) = none)
∧ (∃ (s : State) (w : Writer) (f : Nat), Granted s w .FS_PROOF_STAT f ∧ fieldOk f = true ∧ s.isOwner w = true ∧
      notTenant w = true)
∧ (∃ (s : State) (f : Nat) (m : PMsg) (l : List PMsg), tget [] s.abnQ f = m :: l ∧ fieldOk f = true ∧ s.fieldLive f =
      true ∧ (tget [] s.rsvQ f).any (fun r => r.ref == m.ref) = false ∧ (s.entries f).find? (fun x => x.rsv.ref ==
      m.ref) = none)
∧ (∃ (s : State) (f : Nat) (m : PMsg) (l : List PMsg), takeFirst (fun (m : PMsg) => !s.ctGated (engCt m.ref.eng))
      (tget [] s.vrdQ f) = some (m, l) ∧ fieldOk f = true ∧ s.fieldLive f = true ∧ findTile
      { s with vrdQ := tput [] s.vrdQ f l } m.ref.eng m.ref.sq = none)
∧ (∃ (s : State) (u : State) (f : Nat) (m : PMsg) (l : List PMsg) (t : Tile), u =
      { s with vrdQ := tput [] s.vrdQ f l } ∧ fieldOk f = true ∧ s.fieldLive f = true ∧ takeFirst (fun (m : PMsg) =>
      !s.ctGated (engCt m.ref.eng)) (tget [] s.vrdQ f) = some (m, l) ∧ findTile u m.ref.eng m.ref.sq = some t ∧ t.prf
      = .out ∧ t.dlDone = false ∧ m.code = 1)
∧ (∃ (s : State) (w : Writer) (f : Nat), Granted s w .FS_NEG_RELEASE f ∧ fieldOk f = true ∧ notTenant w = true ∧
      exporting s f 0 = false) :=
⟨⟨{rdy.wr F.FS_WAKE_STAT_awake 0 1 with store := [(0, [{ent0 with ready := some 1}])]}, (0), _, rfl,
    by decide +kernel⟩,
⟨{rdy.wr F.FS_WAKE_STAT_awake 0 1 with segLeft := [(0, 9)]}, (0), _, rfl, by decide +kernel⟩,
⟨{rdy with strips := [(0, [{stp0 with bank := some 0}])]}, (0), {stp0 with bank := some 0}, by decide +kernel⟩,
⟨{rdy with store := [(0, [{ent0 with started := true}])]}, _, (0), {ent0 with started := true}, _, (by decide +kernel
    : _ = _), rfl, rfl, by decide +kernel⟩,
⟨{rdy with store := [(0, [{ent0 with started := true, rsv := {rsv0 with d3 := 2^32+2^16+1, d1 := 2^42}}])]}, _, (0),
    {ent0 with started := true, rsv := {rsv0 with d3 := 2^32+2^16+1, d1 := 2^42}}, _, _, (by decide +kernel : _ = _),
    rfl, rfl, rfl, by decide +kernel⟩,
⟨(rdy), (0), by decide +kernel⟩,
⟨(rdy), (.hmp), (0), ⟨by decide +kernel, by decide +kernel⟩, by decide +kernel⟩,
⟨{rdy with abnQ := [(0, [⟨ref0, 0, false⟩])], vrdQ := [(0, [⟨ref0, 0, false⟩])]}, (0), _, _, rfl, by decide +kernel⟩,
⟨{rdy with abnQ := [(0, [⟨ref0, 0, false⟩])], vrdQ := [(0, [⟨ref0, 0, false⟩])]}, (0), (⟨ref0, 0, false⟩), _, rfl,
    by decide +kernel⟩,
⟨{withTile tileP with vrdQ := [(0, [⟨ref0, 1, false⟩])]}, _, (0), ⟨ref0, 1, false⟩, [], tileP, rfl,
    by decide +kernel⟩,
⟨(rdy), (.hmp), (0), ⟨by decide +kernel, by decide +kernel⟩, by decide +kernel⟩⟩
theorem test_witness_StripDueAndGrace :
(∃ (s : State) (c : Nat), coreOk c = true ∧ s.fieldLive (coreField c) = true ∧ s.released (coreField c) = true ∧
      (s.core c).st = 0 ∧ (s.core c).req = false ∧ (s.core c).again = false ∧ (liveEngines s c).isEmpty = false ∧ s.rd
      F.CC_PART_STAT_phase (s.partOf (coreField c)) = 0)
∧ (∃ (s : State) (t : State) (w : Writer) (f : Nat) (v : Nat), Granted s w .FS_STRIP_CMD f ∧ stripRequest f (coreOf f
      (bits v 0 13)) (bits v 13 9) s = (0, t) ∧ fieldOk f = true ∧ notTenant w = true)
∧ (∃ (s : State) (t : State) (w : Writer) (f : Nat) (v : Nat) (n : Nat), Granted s w .FS_STRIP_CMD f ∧ stripRequest f
      (coreOf f (bits v 0 13)) (bits v 13 9) s = (n + 1, t) ∧ fieldOk f = true ∧ notTenant w = true)
∧ (∃ (s : State) (c : Nat) (g : Nat), (s.core c).graceEnd = some g ∧ coreOk c = true ∧ (s.core c).st = 2 ∧ s.ctGated
      (coreCt c) = false ∧ (s.toWt g).rb F.FS_STRIP_CFG_force_preempt (coreField c) = true ∧ noRequests (s.toWt g)
      (coreField c) = false ∧ (s.core c).req = true)
∧ (∃ (s : State) (c : Nat) (g : Nat), (s.core c).graceEnd = some g ∧ coreOk c = true ∧ (s.core c).st = 2 ∧ s.ctGated
      (coreCt c) = false ∧ (s.toWt g).rb F.FS_STRIP_CFG_force_preempt (coreField c) = true ∧ noRequests (s.toWt g)
      (coreField c) = false ∧ (s.core c).req = false ∧ (s.core c).again = false)
∧ (∃ (s : State) (t : State) (c : Nat) (g : Nat), (s.core c).graceEnd = some g ∧ t = s.toWt g ∧ coreOk c = true ∧
      ((s.core c).st = 1 ∨ (s.core c).st = 2) ∧ s.ctGated (coreCt c) = false ∧ t.rb F.FS_STRIP_CFG_force_preempt
      (coreField c) = false ∧ t.setting (coreField c) 1 = 0)
∧ (∃ (s : State) (t : State) (c : Nat) (g : Nat) (u : _), (s.core c).graceEnd = some g ∧ t = s.toWt g ∧ tryForce c t =
      (true, u) ∧ coreOk c = true ∧ ((s.core c).st = 1 ∨ (s.core c).st = 2) ∧ s.ctGated (coreCt c) = false ∧ t.rb
      F.FS_STRIP_CFG_force_preempt (coreField c) = false ∧ t.setting (coreField c) 1 ≠ 0)
∧ (∃ (s : State) (t : State) (c : Nat) (g : Nat) (u : _), (s.core c).graceEnd = some g ∧ t = s.toWt g ∧ tryForce c t =
      (false, u) ∧ coreOk c = true ∧ ((s.core c).st = 1 ∨ (s.core c).st = 2) ∧ s.ctGated (coreCt c) = false ∧ t.rb
      F.FS_STRIP_CFG_force_preempt (coreField c) = false ∧ t.setting (coreField c) 1 ≠ 0)
∧ (∃ (s : State) (c : Nat) (d : Nat), (s.core c).forceEnd = some d ∧ coreOk c = true ∧ (s.core c).st = 7 ∧ s.ctGated
      (coreCt c) = false)
∧ (∃ (s : State) (c : Nat), coreOk c = true ∧ (s.core c).st = 3 ∧ ((s.core c).win.filter (fun w => decide (s.wt ≤ w.1
      + ms))).length < 16 * (((s.core c).win.filter (fun w => decide (s.wt ≤ w.1 + ms))).filter (·.2)).length)
∧ (∃ (s : State) (e : Nat), engOk e = true ∧ (s.core (engCore e)).st = 4 ∧ (tget {} s.ledger e : Led).overdue = false
      ∧ engFenced s e = false ∧ s.ctGated (coreCt (engCore e)) = false ∧ s.rd F.CC_PART_STAT_phase (s.partOf (engField
      e)) = 0 ∧ s.fieldLive (engField e) = true ∧ coreOverdue s (engCore e) = true)
∧ (∃ (s : State) (c : Nat), coreOk c = true ∧ (s.core c).granted = true ∧ (s.core c).req = false) :=
⟨⟨rdy.wr F.CC_FIELD_REL0_rel 0 1, (0), by decide +kernel⟩,
⟨(rdy), _, (.hmp), (0), (0), ⟨by decide +kernel, by decide +kernel⟩, rfl, by decide +kernel⟩,
⟨rdy.wr F.FS_PROOF_STAT_array_suspect 0 1, _, (.hmp), (0), (0), 0, ⟨by decide +kernel, by decide +kernel⟩, (rfl),
    by decide +kernel⟩,
⟨(core0 {st := 2, graceEnd := some 9, req := true}).wr F.FS_STRIP_CFG_force_preempt 0 1, (0), _, rfl,
    by decide +kernel⟩,
⟨(core0 {st := 2, graceEnd := some 9}).wr F.FS_STRIP_CFG_force_preempt 0 1, (0), _, (rfl), by decide +kernel⟩,
⟨{core0 {st := 2, graceEnd := some 9} with ctSet := [(1, 1)]}, _, (0), _, rfl, rfl, by decide +kernel⟩,
⟨core0 {st := 2, graceEnd := some 9}, _, (0), _, _, rfl, rfl, rfl, by decide +kernel⟩,
⟨(core0 {st := 2, graceEnd := some 9}).wr F.FS_PROOF_CFG_shadow_max 0 0, _, (0), _, _, rfl, rfl, rfl,
    by decide +kernel⟩,
⟨core0 {st := 7, forceEnd := some 9}, (0), _, rfl, by decide +kernel⟩,
⟨core0 {st := 3, win := [(0, true)]}, (0), by decide +kernel⟩,
⟨{core0 {st := 4} with ledger := [(1, {overdue := true})]}, (0), by decide +kernel⟩,
⟨core0 {granted := true}, (0), by decide +kernel⟩⟩
theorem test_witness_StripRun :
(∃ (s : State) (t : State) (c : Nat) (n : Nat) (x : Core), n = tget 0 s.grantNo (coreField c) ∧ t = coreWdogs c
      (State.setCore { s with grantNo := tput 0 s.grantNo (coreField c) (n + 1) } c
      { s.core c with st := 5, granted := true, graceEnd := none, forceEnd := none, ord := n }) ∧ x = t.core c ∧
      coreOk c = true ∧ (s.core c).req = true ∧ (s.core c).granted = false ∧ s.fsWorks (coreField c) = true ∧ (s.core
      c).kind = 0 ∧ x.suspect = none ∧ x.witness = none ∧ t.rd F.FS_STRIP_CFG_pair_wait_us (coreField c) = 0)
∧ (∃ (s : State) (t : State) (c : Nat) (n : Nat) (x : Core) (p : _), n = tget 0 s.grantNo (coreField c) ∧ t =
      coreWdogs c (State.setCore { s with grantNo := tput 0 s.grantNo (coreField c) (n + 1) } c
      { s.core c with st := 5, granted := true, graceEnd := none, forceEnd := none, ord := n }) ∧ x = t.core c ∧
      coreOk c = true ∧ (s.core c).req = true ∧ (s.core c).granted = false ∧ s.fsWorks (coreField c) = true ∧ (s.core
      c).kind = 0 ∧ x.suspect = none ∧ x.witness = none ∧ t.rd F.FS_STRIP_CFG_pair_wait_us (coreField c) ≠ 0 ∧
      pairWith t c = some p)
∧ (∃ (s : State) (t : State) (c : Nat) (n : Nat) (x : Core), n = tget 0 s.grantNo (coreField c) ∧ t = coreWdogs c
      (State.setCore { s with grantNo := tput 0 s.grantNo (coreField c) (n + 1) } c
      { s.core c with st := 5, granted := true, graceEnd := none, forceEnd := none, ord := n }) ∧ x = t.core c ∧
      coreOk c = true ∧ (s.core c).req = true ∧ (s.core c).granted = false ∧ s.fsWorks (coreField c) = true ∧ (s.core
      c).kind = 0 ∧ x.suspect = none ∧ x.witness = none ∧ t.rd F.FS_STRIP_CFG_pair_wait_us (coreField c) ≠ 0 ∧
      pairWith t c = none)
∧ (∃ (s : State) (c : Nat), coreOk c = true ∧ (s.core c).req = false)
∧ (∃ (s : State) (c : Nat) (d : Nat), (s.core c).pairEnd = some d ∧ coreOk c = true ∧ (s.core c).st = 5 ∧ (s.core
      c).kind = 0 ∧ (s.core c).suspect = none ∧ s.ctGated (coreCt c) = false)
∧ (∃ (s : State) (c : Nat) (d : Nat) (e : Nat), (s.core c).pairEnd = some d ∧ (s.core c).suspect = some e ∧ coreOk c =
      true ∧ (s.core c).st = 5 ∧ s.ctGated (coreCt c) = false ∧ (fieldCores s (coreField c)).filter (fun w =>
      w.2.witness == some c) = [])
∧ (∃ (s : State) (c : Nat) (x : Strip), coreOk c = true ∧ stripOf s c = some x ∧ s.fieldLive (coreField c) = true ∧
      ctQuiet s (coreCt c) = false)
∧ (∃ (s : State) (c : Nat) (x : Strip), coreOk c = true ∧ stripOf s c = some x ∧ s.fieldLive (coreField c) = true ∧
      ctQuiet s (coreCt c) = true)
∧ (∃ (s : State) (c : Nat) (x : Strip), coreOk c = true ∧ stripOf s c = some x ∧ s.fieldLive (coreField c) = true ∧
      x.cores.any (fun d => s.ctGated (coreCt d)) = false) :=
⟨⟨(core0 {req := true}).wr F.FS_STRIP_CFG_pair_wait_us 0 0, _, (0), _, _, rfl, rfl, rfl, by decide +kernel⟩,
⟨{rdy with cores := [(0, {req := true}), (128, {st := 5, pairEnd := some 9})]}, _, (0), _, _, 128, rfl, rfl, rfl,
    by decide +kernel⟩,
⟨core0 {req := true}, _, (0), _, _, rfl, rfl, rfl, by decide +kernel⟩,
⟨(rdy), (0), by decide +kernel⟩,
⟨core0 {st := 5, pairEnd := some 9}, (0), _, rfl, by decide +kernel⟩,
⟨core0 {st := 5, pairEnd := some 9, suspect := some 0}, (0), _, _, rfl, rfl, by decide +kernel⟩,
⟨strip0, (0), stp0, by decide +kernel⟩,
⟨strip0.wr F.CT_STOP_STAT_quiet 0 1, (0), stp0, by decide +kernel⟩,
⟨strip0, (0), stp0, by decide +kernel⟩⟩
theorem test_witness_StepsAndLosses :
(∃ (s : State) (w : Writer) (p : Nat) (v : Nat) (x : StepSt), Granted s w .CC_STEP p ∧ x = tget {} s.steps p ∧ partOk
      p = true ∧ s.ownerOrTenant w p = true ∧ (∀ l, x.last = some l → l < bits v 0 40))
∧ (∃ (s : State) (w : Writer) (p : Nat) (v : Nat) (l : Nat), Granted s w .CC_STEP p ∧ (tget {} s.steps p :
      StepSt).last = some l ∧ partOk p = true ∧ s.ownerOrTenant w p = true ∧ bits v 0 40 ≤ l)
∧ (∃ (s : State) (w : Writer) (p : Nat) (v : Nat) (x : StepSt), Granted s w .CC_LOSS p ∧ x = tget {} s.steps p ∧
      partOk p = true ∧ s.ownerOrTenant w p = true ∧ (fp32.dec (v % 2 ^ 32)).isFin = true ∧ 16 ≤ s.rd
      F.CC_LOSS_CFG_accepted p ∧ s.rd F.CC_LOSS_CFG_k p ≠ 0 ∧ (fp32.dec x.delta).isZero = false ∧ (f32 ((cntU (s.rd
      F.CC_LOSS_CFG_k p)).mul (fp32.dec x.delta))).lt (sub32 (fp32.dec (v % 2 ^ 32)) (fp32.dec x.mu)).abs = true)
∧ (∃ (s : State) (w : Writer) (p : Nat) (v : Nat) (x : StepSt) (l : Val) (mu : Val), Granted s w .CC_LOSS p ∧ x = tget
      {} s.steps p ∧ l = fp32.dec (v % 2 ^ 32) ∧ mu = (if s.rd F.CC_LOSS_CFG_accepted p = 0 then l else fp32.dec x.mu)
      ∧ partOk p = true ∧ s.ownerOrTenant w p = true ∧ l.isFin = true ∧ s.rd F.CC_LOSS_CFG_accepted p < 16)
∧ (∃ (s : State) (w : Writer) (p : Nat) (v : Nat), Granted s w .CC_LOSS_CFG p ∧ partOk p = true ∧ notTenant w = true ∧
      bit v 8 = true) :=
⟨⟨(rdy), (.hmp), (0), (0), _, (⟨by decide +kernel, by decide +kernel⟩), (rfl), by decide +kernel⟩,
⟨{rdy with steps := [(0, {last := some 0})]}, (.hmp), (0), (0), _, ⟨by decide +kernel, by decide +kernel⟩, rfl,
    by decide +kernel⟩,
⟨{rdy.wr F.CC_LOSS_CFG_accepted 0 16 with steps := [(0, {delta := 0x3F800000})]}, (.hmp), (0), 0x7F000000, _,
    ⟨by decide +kernel, by decide +kernel⟩, rfl, by decide +kernel⟩,
⟨(rdy), (.hmp), (0), (0), _, _, _, ⟨by decide +kernel, by decide +kernel⟩, (rfl), (rfl), (rfl), by decide +kernel⟩,
⟨(rdy), (.hmp), (0), 256, ⟨by decide +kernel, by decide +kernel⟩, by decide +kernel⟩⟩
theorem test_witness_BracketSessions :
(∃ (s : State) (w : Writer) (f : Nat) (v : Nat), Granted s w .FS_BRK_CMD f ∧ fieldOk f = true ∧ notTenant w = true ∧
      bit v 30 = false ∧ (s.sess f).isSome = true)
∧ (∃ (s : State) (w : Writer) (f : Nat) (v : Nat) (m : Nat) (n : Nat), Granted s w .FS_BRK_CMD f ∧ m = min (bits v 8
      5) (min (s.rd F.CC_BRK_ENV_f_steps) (s.rd F.FS_BRK_LIMIT_f_steps f)) ∧ n = s.rd F.CC_TOKEN_COST_hold_tok *
      (holdSet s f 0 (bits v 2 6)).length + s.rd F.CC_TOKEN_COST_push_tok * m ∧ fieldOk f = true ∧ notTenant w = true
      ∧ bit v 30 = false ∧ s.sess f = none ∧ s.aonOnly = false ∧ s.fsWorks f = true ∧ bits v 0 2 = 0 ∧ bits v 2 6 <
      Config.nCluster ∧ recipeOk s f (bits v 13 9) = true ∧ s.rd F.CC_BRK_ENV_f_steps ≠ 0 ∧ n ≤ s.rd
      F.CC_TEST_BUDGET_budget)
∧ (∃ (s : State) (t : State) (r : TokReq) (l : List TokReq) (x : Session), s.tokQ = r :: l ∧ t =
      (({ s with tokQ := l } : State).wr F.CC_TEST_BUDGET_in_use 0 (s.rd F.CC_TEST_BUDGET_in_use + r.n)).wr
      F.CC_TEST_BUDGET_waiting 0 l.length ∧ s.aonOnly = false ∧ s.rd F.CC_TEST_BUDGET_in_use + r.n ≤ s.rd
      F.CC_TEST_BUDGET_budget ∧ t.sess r.field = some x)
∧ (∃ (s : State) (r : TokReq) (l : List TokReq), s.tokQ = r :: l ∧ s.rd F.CC_TEST_BUDGET_budget < s.rd
      F.CC_TEST_BUDGET_in_use + r.n)
∧ (∃ (s : State) (f : Nat) (x : Session), fieldOk f = true ∧ s.sess f = some x ∧ x.phase = 1)
∧ (∃ (s : State) (r : TokReq) (l : List TokReq), s.tokRet = r :: l ∧ s.aonOnly = false)
∧ (∃ (s : State) (f : Nat) (x : Session), fieldOk f = true ∧ s.sess f = some x ∧ x.phase = 2)
∧ (∃ (s : State) (t : State) (w : Writer) (f : Nat) (v : Nat), Granted s w .FS_MAINT f ∧ t = s.wr
      F.FS_MAINT_win_max_ms f (bits v 16 16) ∧ fieldOk f = true ∧ notTenant w = true ∧ bit v 0 = true ∧ bit v 1 =
      false ∧ t.rb F.FS_MAINT_is_open f = false ∧ tfind t.maintHold f = none ∧ t.fieldLive f = true)
∧ (∃ (s : State) (w : Writer) (f : Nat) (v : Nat), Granted s w .FS_MAINT f ∧ fieldOk f = true ∧ notTenant w = true ∧
      bit v 0 = false ∧ bit v 1 = true)
∧ (∃ (s : State) (f : Nat) (d : Nat), fieldOk f = true ∧ tfind s.maintEnd f = some d) :=
⟨⟨sessS sess0, (.hmp), (0), (0), ⟨by decide +kernel, by decide +kernel⟩, by decide +kernel⟩,
⟨(rdy.wr F.CC_BRK_ENV_f_steps 0 3).wr F.CC_TEST_BUDGET_budget 0 500, (.hmp), (0), (0), _, _, ⟨by decide +kernel,
    by decide +kernel⟩, rfl, rfl, by decide +kernel⟩,
⟨{sessS sess0 with tokQ := [⟨0, 0⟩]}, _, ⟨0, 0⟩, _, sess0, rfl, rfl, by decide +kernel⟩,
⟨{sessS sess0 with tokQ := [⟨0, 99999⟩]}, ⟨0, 99999⟩, [], by decide +kernel⟩,
⟨sessS {sess0 with phase := 1}, (0), {sess0 with phase := 1}, by decide +kernel⟩,
⟨{rdy with tokRet := [⟨0, 1⟩]}, ⟨0, 1⟩, [], by decide +kernel⟩,
⟨sessS {sess0 with phase := 2}, (0), {sess0 with phase := 2}, by decide +kernel⟩,
⟨(rdy), _, (.hmp), (0), 1, ⟨by decide +kernel, by decide +kernel⟩, rfl, by decide +kernel⟩,
⟨(rdy), (.hmp), (0), 2, ⟨by decide +kernel, by decide +kernel⟩, by decide +kernel⟩,
⟨{rdy with maintEnd := [(0, 7)]}, (0), 7, by decide +kernel⟩⟩
theorem test_witness_BracketPower :
(∃ (s : State) (t : State) (h : PmReq) (l : List PmReq) (x : Session), t =
      { pmPop s with pmSettle := (pmPop s).pmSettle ++ [h.field] } ∧ s.pmQ = h :: l ∧ x.phase = 3 ∧ h.step = x.step ∧
      h.step ≠ 0 ∧ t.sess h.field = some x)
∧ (∃ (s : State) (h : PmReq) (l : List PmReq) (x : Session), s.pmQ = h :: l ∧ x.phase = 3 ∧ h.step = x.step ∧ (pmPop
      s).sess h.field = some x)
∧ (∃ (s : State), s.pmQ = [])
∧ (∃ (s : State) (t : State) (h : PmReq) (l : List PmReq) (x : Session), t = pmPop (s.toWt (h.limit.getD s.wt)) ∧
      s.pmQ = h :: l ∧ x.phase = 3 ∧ h.step = x.step ∧ t.sess h.field = some x)
∧ (∃ (s : State) (f : Nat) (l : List Nat) (x : Session), s.pmSettle = f :: l ∧ s.sess f = some x ∧ x.settling = true ∧
      sessGated s f x = false ∧ x.phase = 3)
∧ (∃ (s : State) (f : Nat) (l : List Nat) (x : Session), s.pmSettle = f :: l ∧ s.sess f = some x ∧ x.settling = true ∧
      sessGated s f x = false ∧ x.phase = 5)
∧ (∃ (s : State) (f : Nat) (x : Session), fieldOk f = true ∧ s.sess f = some x ∧ x.settling = true ∧ sessGated s f x =
      false)
∧ (∃ (s : State) (f : Nat) (x : Session), fieldOk f = true ∧ s.sess f = some x ∧ x.done = some [] ∧ x.phase = 3 ∧
      sessGated s f x = false)
∧ (∃ (s : State) (f : Nat) (e : Nat) (l : List Nat) (x : Session), fieldOk f = true ∧ s.sess f = some x ∧ x.done =
      some (e :: l) ∧ x.phase = 3 ∧ sessGated s f x = false)
∧ (∃ (s : State) (f : Nat) (l : List Nat) (x : Session), fieldOk f = true ∧ s.sess f = some x ∧ x.done = some l ∧
      x.phase = 6 ∧ sessGated s f x = false)
∧ (∃ (s : State) (f : Nat) (x : Session), fieldOk f = true ∧ s.sess f = some x ∧ sessGated s f x = true)
∧ (∃ (s : State) (t : State) (f : Nat) (temps : List Nat) (x : Session) (y : Session), t = forAll (List.range (min
      temps.length Config.nCluster)) (fun i t =>
      { t with ctTemp := tput 0x80 t.ctTemp (64 * f + i) (temps.getD i 0x80 % 256) }) s ∧ y =
      { x with peak := hotter x.peak (tget 0x80 t.ctTemp (64 * f + x.cluster)) } ∧ fieldOk f = true ∧ t.sess f = some
      x ∧ x.kind = 2 ∧ x.phase = 4 ∧ (List.range Config.nCluster).any (fun i => decide (tMax (t.setSess f y) ≤ sext 8
      (tget 0x80 (t.setSess f y).ctTemp (64 * f + i)))) = true)
∧ (∃ (s : State) (f : Nat), fieldOk f = true ∧ s.sess f = none)
∧ (∃ (s : State) (f : Nat) (x : Session), fieldOk f = true ∧ s.sess f = some x ∧ x.phase = 4 ∧ s.ctGated (64 * f +
      x.cluster) = false)
∧ (∃ (s : State) (f : Nat) (x : Session), fieldOk f = true ∧ s.sess f = some x ∧ x.phase = 5 ∧ x.kind = 2 ∧ s.ctGated
      (64 * f + x.cluster) = false) :=
⟨⟨pmS sess3, _, pm0, [], sess3, rfl, by decide +kernel⟩,
⟨pmS sess3, pm0, [], sess3, by decide +kernel⟩,
⟨(rdy), by decide +kernel⟩,
⟨pmS sess3, _, pm0, [], sess3, rfl, by decide +kernel⟩,
⟨{sessS {sess3 with settling := true} with pmSettle := [0]}, 0, [], {sess3 with settling := true}, by decide +kernel⟩,
⟨{sessS {sess3 with settling := true, phase := 5} with pmSettle := [0]}, _, [],
    {sess3 with settling := true, phase := 5}, rfl, by decide +kernel⟩,
⟨sessS {sess3 with settling := true}, (0), {sess3 with settling := true}, by decide +kernel⟩,
⟨sessS {sess3 with done := some []}, (0), {sess3 with done := some []}, by decide +kernel⟩,
⟨sessS {sess3 with done := some [1]}, (0), 1, [], {sess3 with done := some [1]}, by decide +kernel⟩,
⟨sessS {sess3 with done := some [], phase := 6}, (0), [], {sess3 with done := some [], phase := 6},
    by decide +kernel⟩,
⟨(sessS sess3).wr F.CT_STOP_STAT_gated 0 1, (0), sess3, by decide +kernel⟩,
⟨sessS {sess3 with kind := 2, phase := 4}, {sessS {sess3 with kind := 2, phase := 4} with ctTemp := [(0,0x7F)]}, (0),
    [0x7F], {sess3 with kind := 2, phase := 4}, _, (rfl), rfl, by decide +kernel⟩,
⟨(rdy), (0), by decide +kernel⟩,
⟨sessS {sess3 with phase := 4}, (0), {sess3 with phase := 4}, by decide +kernel⟩,
⟨sessS {sess3 with kind := 2, phase := 5}, (0), {sess3 with kind := 2, phase := 5}, by decide +kernel⟩⟩
theorem test_witness_FenceCommands :
(∃ (s : State) (t : State) (u : State) (m : Confirm) (l : List Confirm) (i : Nat), t = { s with confQ := l } ∧
      logAppend (m.unit % 2 ^ 24 + 2 ^ 24 * m.reason) t = (some i, u) ∧ s.confQ = m :: l ∧ s.aonOnly = false ∧
      fenceHeld t m.unit = none)
∧ (∃ (s : State) (m : Confirm) (l : List Confirm) (i : Nat), s.confQ = m :: l ∧ s.aonOnly = false ∧ fenceHeld
      { s with confQ := l } m.unit = some i)
∧ (∃ (s : State) (m : FAnswer) (l : List FAnswer), s.ansQ = m :: l ∧ s.aonOnly = false)
∧ (∃ (s : State) (w : Writer) (v : Nat), Granted s w .CC_FENCE_CMD 0 ∧ s.isOwner w = true ∧ bit v 32 = false ∧
      s.scrapped = false ∧ bits v 24 8 = 0 ∧ unitPresent (bits v 0 24) = true ∧ ccFenceRefused s (bits v 0 24) =
      false)
∧ (∃ (s : State) (w : Writer) (v : Nat), Granted s w .CC_FENCE_CMD 0 ∧ s.isOwner w = true ∧ bit v 32 = false ∧
      unitPresent (bits v 0 24) = false)
∧ (∃ (s : State) (w : Writer) (v : Nat), Granted s w .CC_FENCE_CMD 0 ∧ s.isOwner w = true ∧ bit v 32 = true ∧ logFind
      s (bits v 0 24) = none)
∧ (∃ (s : State) (t : State) (w : Writer) (v : Nat) (i : Nat) (j : Nat), Granted s w .CC_FENCE_CMD 0 ∧ s.isOwner w =
      true ∧ bit v 32 = true ∧ logFind s (bits v 0 24) = some j ∧ s.factory = true ∧ s.fuseBad.contains (bits v 0 24)
      = false ∧ logAppend (bits v 0 24 % 2 ^ 24) s = (some i, t))
∧ (∃ (s : State) (u : FUpd) (l : List FUpd), s.fencePort = none ∧ s.fenceQ = u :: l)
∧ (∃ (s : State) (p : FPort) (x : FUnit), s.fencePort = some p ∧ p.upd.set = true ∧ s.fset.find? (fun x => x.unit ==
      p.upd.unit) = some x ∧ x.acked = false)
∧ (∃ (s : State) (p : FPort), s.fencePort = some p ∧ p.timedOut = true)
∧ (∃ (s : State) (p : FPort), s.fencePort = some p ∧ p.timedOut = false ∧ (p.upd.set && s.fset.any (fun x => x.unit ==
      p.upd.unit && (x.acked || x.late))) = false)
∧ (∃ (s : State) (p : FPort), s.fencePort = some p ∧ p.timedOut = false ∧ (p.upd.set && s.fset.any (fun x => x.unit ==
      p.upd.unit && (x.acked || x.late))) = true)
∧ (∃ (s : State) (e : Nat) (k : Nat) (x : Latent), engOk e = true ∧ latentAt s e = some (k, x) ∧ x.confirmed = false ∧
      s.fieldLive (engField e) = true) :=
⟨⟨{rdy with confQ := [conf0]}, _, _, conf0, [], 0, rfl, (rfl), by decide +kernel⟩,
⟨{logS with confQ := [conf0]}, conf0, [], 0, by decide +kernel⟩,
⟨{rdy with ansQ := [⟨0, 0, 0, 0⟩]}, ⟨0, 0, 0, 0⟩, [], by decide +kernel⟩,
⟨(rdy), (.hmp), (0), ⟨by decide +kernel, by decide +kernel⟩, by decide +kernel⟩,
⟨(rdy), (.hmp), 384, ⟨by decide +kernel, by decide +kernel⟩, by decide +kernel⟩,
⟨(rdy), (.hmp), 2^32, ⟨by decide +kernel, by decide +kernel⟩, by decide +kernel⟩,
⟨logS, (logAppend 0 logS).2, (.hmp), 2^32, 1, 0, ⟨by decide +kernel, by decide +kernel⟩, by decide +kernel⟩,
⟨{rdy with fenceQ := [fupd0]}, fupd0, [], by decide +kernel⟩,
⟨{rdy with fencePort := some fport0, fset := [funit0]}, fport0, funit0, by decide +kernel⟩,
⟨{rdy with fencePort := some {fport0 with timedOut := true}}, {fport0 with timedOut := true}, by decide +kernel⟩,
⟨{rdy with fencePort := some fport0}, fport0, by decide +kernel⟩,
⟨{rdy with fencePort := some fport0, fset := [{funit0 with acked := true}]}, fport0, by decide +kernel⟩,
⟨{rdy with latent := [(0, lat0)]}, (0), 0, lat0, by decide +kernel⟩⟩
theorem test_witness_PackLoading :
(∃ (s : State) (w : Writer) (n : Nat), Granted s w .CC_PACK_CMD 0 ∧ s.isOwner w = true ∧ n < 2 ^ 32 ∧ s.scrapped =
      false ∧ bankInUse s (idleBank s) = false ∧ s.packSw = none)
∧ (∃ (s : State) (w : Writer) (n : Nat), Granted s w .CC_PACK_CMD 0 ∧ s.isOwner w = true ∧ n < 2 ^ 32 ∧ s.scrapped =
      false ∧ bankInUse s (idleBank s) = true)
∧ (∃ (s : State) (w : Writer) (n : Nat) (l : List Byte), Granted s w .CC_PACK_DATA 0 ∧ s.isOwner w = true ∧ s.packRecv
      = some (n, l) ∧ s.rd F.CC_PACK_STAT_state = 1 ∧ s.scrapped = false ∧ l.length < 4 * 2 ^ 20)
∧ (∃ (s : State) (t : State) (u : State) (w : Writer) (n : Nat) (l : List Byte), Granted s w .CC_PACK_CMD 0 ∧ t = s.wr
      F.CC_PACK_STAT_state 0 2 ∧ u = { t with packRecv := none } ∧ s.isOwner w = true ∧ s.rd F.CC_PACK_STAT_state = 1
      ∧ t.aonOnly = false ∧ t.packRecv = some (n, l) ∧ u.scrapped = true)
∧ (∃ (s : State) (t : State) (u : State) (w : Writer) (n : Nat) (r : Nat) (l : List Byte), Granted s w .CC_PACK_CMD 0
      ∧ t = s.wr F.CC_PACK_STAT_state 0 2 ∧ u = { t with packRecv := none } ∧ (checkPack (u.rd F.CC_PACK_FLOOR_floor)
      (l.take n)).res = .error r ∧ s.isOwner w = true ∧ s.rd F.CC_PACK_STAT_state = 1 ∧ t.aonOnly = false ∧ t.packRecv
      = some (n, l) ∧ u.rd F.CC_PACK_STAT_received = (n + 7) / 8 * 8 ∧ n ≤ 4 * 2 ^ 20 ∧ u.scrapped = false)
∧ (∃ (s : State) (w : Writer), Granted s w .CC_PACK_CMD 0 ∧ s.isOwner w = true ∧ s.packSw = none ∧ s.rd
      F.CC_PACK_STAT_state ≠ 0)
∧ (∃ (s : State) (w : Writer), Granted s w .CC_PACK_CMD 0 ∧ s.isOwner w = true ∧ s.rd F.CC_PACK_STAT_state = 3)
∧ (∃ (s : State) (w : Writer), Granted s w .CC_PACK_CMD 0 ∧ s.isOwner w = true ∧ s.rd F.CC_PACK_STAT_state ≠ 3)
∧ (∃ (s : State) (f : Nat) (l : List Nat) (rv : Bool), s.packSw = some ⟨f :: l, rv⟩ ∧ s.aonOnly = false ∧ s.fsWorks f
      = true)
∧ (∃ (s : State) (w : Writer) (v : Nat), Granted s w .CC_PACK_FLOOR 0 ∧ s.isOwner w = true ∧ v < 2 ^ 32 ∧ s.rd
      F.CC_PACK_FLOOR_floor ≤ v)
∧ (∃ (s : State) (w : Writer) (v : Nat), Granted s w .CC_PACK_FLOOR 0 ∧ s.isOwner w = true ∧ v < 2 ^ 32 ∧ v < s.rd
      F.CC_PACK_FLOOR_floor ∧ s.factory = false) :=
⟨⟨(rdy), (.hmp), (0), ⟨by decide +kernel, by decide +kernel⟩, by decide +kernel⟩,
⟨{rdy with strips := [(0, [{stp0 with bank := some 1}])]}, (.hmp), (0), ⟨by decide +kernel, by decide +kernel⟩,
    by decide +kernel⟩,
⟨{rdy.wr F.CC_PACK_STAT_state 0 1 with packRecv := some (8, [])}, (.hmp), 8, [], (⟨by decide +kernel,
    by decide +kernel⟩), by decide +kernel⟩,
⟨{(rdy.wr F.CC_PACK_STAT_state 0 1).wr F.CC_LIFECYCLE_state 0 4 with packRecv := some (0, [])}, _, _, (.hmp), 0, [],
    ⟨by decide +kernel, by decide +kernel⟩, rfl, rfl, by decide +kernel⟩,
⟨{rdy.wr F.CC_PACK_STAT_state 0 1 with packRecv := some (0, [])}, _, _, (.hmp), 0, 2, [], (⟨by decide +kernel,
    by decide +kernel⟩), (rfl), (rfl), ((rfl)), by decide +kernel⟩,
⟨rdy.wr F.CC_PACK_STAT_state 0 1, (.hmp), ⟨by decide +kernel, by decide +kernel⟩, by decide +kernel⟩,
⟨rdy.wr F.CC_PACK_STAT_state 0 3, (.hmp), ⟨by decide +kernel, by decide +kernel⟩, by decide +kernel⟩,
⟨(rdy), (.hmp), ⟨by decide +kernel, by decide +kernel⟩, by decide +kernel⟩,
⟨{rdy with packSw := some ⟨[0], false⟩}, 0, [], false, by decide +kernel⟩,
⟨(rdy), (.hmp), (0), ⟨by decide +kernel, by decide +kernel⟩, by decide +kernel⟩,
⟨(rdy.wr F.CC_PACK_FLOOR_floor 0 1).wr F.CC_LIFECYCLE_state 0 1, (.hmp), (0), ⟨by decide +kernel, by decide +kernel⟩,
    by decide +kernel⟩⟩
theorem test_witness_ListaporExport :
(∃ (s : State) (t : State) (w : Writer) (v : Nat), Granted s w .CC_LSP_CMD 0 ∧ t = ((({ endExport s with lsp := none }
      : State).wr F.CC_LSP_PTR_offset 0 0).wr F.CC_LSP_STAT_length 0 0).wr F.CC_LSP_STAT_no_payload 0 0 ∧ s.isOwner w
      = true ∧ tget [] t.negs (bits v 0 7) = [])
∧ (∃ (s : State) (t : State) (w : Writer) (v : Nat) (n : Neg), Granted s w .CC_LSP_CMD 0 ∧ t =
      ((({ endExport s with lsp := none } : State).wr F.CC_LSP_PTR_offset 0 0).wr F.CC_LSP_STAT_length 0 0).wr
      F.CC_LSP_STAT_no_payload 0 0 ∧ s.isOwner w = true ∧ t.fieldLive (bits v 0 7) = true ∧ bit v 7 = false ∧ (tget []
      t.negs (bits v 0 7)).find? (fun n => n.slot == some (bits v 8 4)) = some n)
∧ (∃ (s : State) (t : State) (w : Writer) (v : Nat) (n : Neg), Granted s w .CC_LSP_CMD 0 ∧ t =
      ((({ endExport s with lsp := none } : State).wr F.CC_LSP_PTR_offset 0 0).wr F.CC_LSP_STAT_length 0 0).wr
      F.CC_LSP_STAT_no_payload 0 0 ∧ s.isOwner w = true ∧ t.fieldLive (bits v 0 7) = true ∧ bit v 7 = true ∧ (tget []
      t.negs (bits v 0 7)).find? (fun n => n.entry == bits v 8 4) = some n)
∧ (∃ (s : State) (t : State) (w : Writer) (v : Nat) (n : Neg), Granted s w .CC_LSP_CMD 0 ∧ t =
      ((({ endExport s with lsp := none } : State).wr F.CC_LSP_PTR_offset 0 0).wr F.CC_LSP_STAT_length 0 0).wr
      F.CC_LSP_STAT_no_payload 0 0 ∧ s.isOwner w = true ∧ t.fieldLive (bits v 0 7) = true ∧ bit v 7 = false ∧ (tget []
      t.negs (bits v 0 7)).find? (fun n => n.slot == some (bits v 8 4)) = none ∧ (tget [] t.negs (bits v 0 7)).find?
      (fun n => n.was == some (bits v 8 4)) = some n)
∧ (∃ (s : State) (x : Lsp), s.lsp = some x ∧ x.data = none ∧ x.ended = false ∧ s.fieldLive x.field = true)
∧ (∃ (s : State) (w : Writer) (x : Lsp) (d : List Byte), s.regReach w .CC_LSP_DATA 0 = true ∧ notTenant w = true ∧
      s.lsp = some x ∧ x.data = some d ∧ (d.length ≤ s.rd F.CC_LSP_PTR_offset ∨ s.rd F.CC_LSP_PTR_offset + 8 <
      d.length))
∧ (∃ (s : State) (w : Writer) (x : Lsp) (d : List Byte), s.regReach w .CC_LSP_DATA 0 = true ∧ notTenant w = true ∧
      s.lsp = some x ∧ x.data = some d ∧ x.ended = false ∧ s.rd F.CC_LSP_PTR_offset < d.length ∧ d.length ≤ s.rd
      F.CC_LSP_PTR_offset + 8) :=
⟨⟨(rdy), _, (.hmp), (0), ⟨by decide +kernel, by decide +kernel⟩, rfl, by decide +kernel⟩,
⟨{rdy with negs := [(0, [neg0])]}, _, (.hmp), (0), neg0, ⟨by decide +kernel, by decide +kernel⟩, rfl,
    by decide +kernel⟩,
⟨{rdy with negs := [(0, [neg0])]}, _, (.hmp), 2 ^ 7, neg0, ⟨by decide +kernel, by decide +kernel⟩, rfl,
    by decide +kernel⟩,
⟨{rdy with negs := [(0, [{neg0 with slot := none, was := some 0}])]}, _, (.hmp), (0),
    {neg0 with slot := none, was := some 0}, ⟨by decide +kernel, by decide +kernel⟩, rfl, by decide +kernel⟩,
⟨{rdy with lsp := some lsp0}, lsp0, by decide +kernel⟩,
⟨{rdy.wr F.CC_LSP_PTR_offset 0 3 with lsp := some lspD}, (.hmp), lspD, [1, 2, 3], by decide +kernel⟩,
⟨{rdy with lsp := some lspD}, (.hmp), lspD, [1, 2, 3], by decide +kernel⟩⟩
theorem test_witness_SeqAlu :
(∃ (s : State) (q : Nat) (ra : Nat) (x : Seq) (n : _), Ready s q ∧ x = nowSeq s q ∧ n ≤ 32 ∧ (∀ k, k < n → (x.gr
      ra).getLsbD (31 - k) = false) ∧ (n = 32 ∨ (x.gr ra).getLsbD (31 - n) = true))
∧ (∃ (s : State) (q : Nat) (rb : Nat), Ready s q ∧ rb ≠ 0)
∧ (∃ (s : State) (q : Nat) (i : _), Ready s q ∧ i < 2 ^ 16)
∧ (∃ (s : State) (q : Nat) (i : _), Ready s q ∧ i < 32)
∧ (∃ (s : State) (q : Nat) (i : _), Ready s q ∧ 32 ≤ i) :=
⟨⟨(rdy), (0), (0), _, 32, ⟨by decide +kernel, by decide +kernel, by decide +kernel⟩, rfl, by decide +kernel⟩,
⟨(rdy), (0), 1, ⟨by decide +kernel, by decide +kernel, by decide +kernel⟩, by decide +kernel⟩,
⟨(rdy), (0), Inhabited.default, ⟨by decide +kernel, by decide +kernel, by decide +kernel⟩, by decide +kernel⟩,
⟨(rdy), (0), Inhabited.default, ⟨by decide +kernel, by decide +kernel, by decide +kernel⟩, by decide +kernel⟩,
⟨(rdy), (0), 32, ⟨by decide +kernel, by decide +kernel, by decide +kernel⟩, by decide +kernel⟩⟩
theorem test_witness_SeqLoadsStores :
(∃ (s : State) (q : Nat) (ra : Nat) (imm : Nat) (a : Nat) (x : Seq), Ready s q ∧ x = nowSeq s q ∧ a = (x.gr ra +
      BitVec.ofInt 32 (sext 16 imm)).toNat ∧ a % 4 = 0 ∧ (inSram q a || inRom q a) = true)
∧ (∃ (s : State) (q : Nat) (ra : Nat) (imm : Nat) (a : Nat) (x : Seq), Ready s q ∧ x = nowSeq s q ∧ a = (x.gr ra +
      BitVec.ofInt 32 (sext 16 imm)).toNat ∧ a % 2 = 0 ∧ (inSram q a || inRom q a) = true)
∧ (∃ (s : State) (q : Nat) (ra : Nat) (imm : Nat) (a : Nat) (x : Seq), Ready s q ∧ x = nowSeq s q ∧ a = (x.gr ra +
      BitVec.ofInt 32 (sext 16 imm)).toNat ∧ a % 4 = 0 ∧ inSram q a = true)
∧ (∃ (s : State) (q : Nat) (ra : Nat) (imm : Nat) (a : Nat) (x : Seq), Ready s q ∧ x = nowSeq s q ∧ a = (x.gr ra +
      BitVec.ofInt 32 (sext 16 imm)).toNat ∧ a % 4 = 0 ∧ inRom q a = true ∧ inSram q a = false)
∧ (∃ (s : State) (q : Nat) (ra : Nat) (imm : Nat) (a : Nat) (x : Seq), Ready s q ∧ x = nowSeq s q ∧ a = (x.gr ra +
      BitVec.ofInt 32 (sext 16 imm)).toNat ∧ a % 4 ≠ 0)
∧ (∃ (s : State) (q : Nat) (ra : Nat) (imm : Nat) (a : Nat) (x : Seq), Ready s q ∧ x = nowSeq s q ∧ a = (x.gr ra +
      BitVec.ofInt 32 (sext 16 imm)).toNat ∧ a % 4 = 0 ∧ inSram q a = false ∧ inRom q a = false)
∧ (∃ (s : State) (q : Nat) (ra : Nat) (imm : Nat) (a : Nat) (x : Seq), Ready s q ∧ x = nowSeq s q ∧ a = (x.gr ra +
      BitVec.ofInt 32 (sext 16 imm)).toNat ∧ a % 2 = 0 ∧ inSram q a = true)
∧ (∃ (s : State) (q : Nat) (ra : Nat) (imm : Nat) (a : Nat) (x : Seq), Ready s q ∧ x = nowSeq s q ∧ a = (x.gr ra +
      BitVec.ofInt 32 (sext 16 imm)).toNat ∧ a % 2 = 0 ∧ inRom q a = true ∧ inSram q a = false)
∧ (∃ (s : State) (q : Nat) (ra : Nat) (imm : Nat) (a : Nat) (x : Seq), Ready s q ∧ x = nowSeq s q ∧ a = (x.gr ra +
      BitVec.ofInt 32 (sext 16 imm)).toNat ∧ a % 2 ≠ 0)
∧ (∃ (s : State) (q : Nat) (ra : Nat) (imm : Nat) (a : Nat) (x : Seq), Ready s q ∧ x = nowSeq s q ∧ a = (x.gr ra +
      BitVec.ofInt 32 (sext 16 imm)).toNat ∧ a % 2 = 0 ∧ inSram q a = false ∧ inRom q a = false)
∧ (∃ (s : State) (q : Nat), Ready s q ∧ (s.seq q).inTrap = false ∧ (s.seq q).trapVec ≠ 0) :=
⟨⟨(rdy), (0), (0), (0), _, _, ⟨by decide +kernel, by decide +kernel, by decide +kernel⟩, rfl, rfl, by decide +kernel⟩,
⟨(rdy), (0), (0), (0), _, _, ⟨by decide +kernel, by decide +kernel, by decide +kernel⟩, rfl, rfl, by decide +kernel⟩,
⟨(rdy), (0), (0), (0), _, _, ⟨by decide +kernel, by decide +kernel, by decide +kernel⟩, rfl, rfl, by decide +kernel⟩,
⟨seqG [(1, 0x80000)], (0), 1, (0), _, _, ⟨by decide +kernel, by decide +kernel, by decide +kernel⟩, rfl, rfl,
    by decide +kernel⟩,
⟨(rdy), (0), (0), 1, _, _, ⟨by decide +kernel, by decide +kernel, by decide +kernel⟩, rfl, rfl, by decide +kernel⟩,
⟨seqG [(1, 0x40000)], (0), 1, (0), _, _, ⟨by decide +kernel, by decide +kernel, by decide +kernel⟩, rfl, rfl,
    by decide +kernel⟩,
⟨(rdy), (0), (0), (0), _, _, ⟨by decide +kernel, by decide +kernel, by decide +kernel⟩, rfl, rfl, by decide +kernel⟩,
⟨seqG [(1, 0x80000)], (0), 1, (0), _, _, ⟨by decide +kernel, by decide +kernel, by decide +kernel⟩, rfl, rfl,
    by decide +kernel⟩,
⟨(rdy), (0), (0), 1, _, _, ⟨by decide +kernel, by decide +kernel, by decide +kernel⟩, rfl, rfl, by decide +kernel⟩,
⟨seqG [(1, 0x40000)], (0), 1, (0), _, _, ⟨by decide +kernel, by decide +kernel, by decide +kernel⟩, rfl, rfl,
    by decide +kernel⟩,
⟨rdy, (0), ⟨by decide +kernel, by decide +kernel, by decide +kernel⟩, by decide +kernel⟩⟩
theorem test_witness_SeqJumps :
(∃ (s : State) (q : Nat) (ra : Nat) (rb : Nat) (x : Seq), Ready s q ∧ x = nowSeq s q ∧ x.gr ra = x.gr rb)
∧ (∃ (s : State) (q : Nat) (ra : Nat) (rb : Nat) (x : Seq), Ready s q ∧ x = nowSeq s q ∧ ¬ (x.gr ra = x.gr rb))
∧ (∃ (s : State) (q : Nat) (ra : Nat) (rb : Nat) (x : Seq), Ready s q ∧ x = nowSeq s q ∧ x.gr ra ≠ x.gr rb)
∧ (∃ (s : State) (q : Nat) (ra : Nat) (rb : Nat) (x : Seq), Ready s q ∧ x = nowSeq s q ∧ ¬ (x.gr ra ≠ x.gr rb))
∧ (∃ (s : State) (q : Nat) (ra : Nat) (rb : Nat) (x : Seq), Ready s q ∧ x = nowSeq s q ∧ (x.gr ra).toInt < (x.gr
      rb).toInt)
∧ (∃ (s : State) (q : Nat) (ra : Nat) (rb : Nat) (x : Seq), Ready s q ∧ x = nowSeq s q ∧ ¬ ((x.gr ra).toInt < (x.gr
      rb).toInt))
∧ (∃ (s : State) (q : Nat) (ra : Nat) (rb : Nat) (x : Seq), Ready s q ∧ x = nowSeq s q ∧ (x.gr rb).toInt ≤ (x.gr
      ra).toInt)
∧ (∃ (s : State) (q : Nat) (ra : Nat) (rb : Nat) (x : Seq), Ready s q ∧ x = nowSeq s q ∧ ¬ ((x.gr rb).toInt ≤ (x.gr
      ra).toInt))
∧ (∃ (s : State) (q : Nat) (ra : Nat) (rb : Nat) (x : Seq), Ready s q ∧ x = nowSeq s q ∧ (x.gr ra).toNat < (x.gr
      rb).toNat)
∧ (∃ (s : State) (q : Nat) (ra : Nat) (rb : Nat) (x : Seq), Ready s q ∧ x = nowSeq s q ∧ ¬ ((x.gr ra).toNat < (x.gr
      rb).toNat))
∧ (∃ (s : State) (q : Nat) (ra : Nat) (rb : Nat) (x : Seq), Ready s q ∧ x = nowSeq s q ∧ (x.gr rb).toNat ≤ (x.gr
      ra).toNat)
∧ (∃ (s : State) (q : Nat) (ra : Nat) (rb : Nat) (x : Seq), Ready s q ∧ x = nowSeq s q ∧ ¬ ((x.gr rb).toNat ≤ (x.gr
      ra).toNat))
∧ (∃ (s : State) (i : Instr) (q : Nat), seqOf i = some q ∧ seqOk q = true ∧ s.seqRuns q = true ∧ fetchOk q (s.seq
      q).pc = false ∧ (s.seq q).inTrap = false ∧ (s.seq q).trapVec ≠ 0) :=
⟨⟨(rdy), (0), (0), (0), _, ⟨by decide +kernel, by decide +kernel, by decide +kernel⟩, rfl, by decide +kernel⟩,
⟨seqG [(1, 1)], (0), (0), 1, _, ⟨by decide +kernel, by decide +kernel, by decide +kernel⟩, rfl, by decide +kernel⟩,
⟨seqG [(1, 1)], (0), (0), 1, _, ⟨by decide +kernel, by decide +kernel, by decide +kernel⟩, rfl, by decide +kernel⟩,
⟨(rdy), (0), (0), (0), _, ⟨by decide +kernel, by decide +kernel, by decide +kernel⟩, rfl, by decide +kernel⟩,
⟨seqG [(1, 1)], (0), (0), 1, _, ⟨by decide +kernel, by decide +kernel, by decide +kernel⟩, rfl, by decide +kernel⟩,
⟨(rdy), (0), (0), (0), _, ⟨by decide +kernel, by decide +kernel, by decide +kernel⟩, rfl, by decide +kernel⟩,
⟨(rdy), (0), (0), (0), _, ⟨by decide +kernel, by decide +kernel, by decide +kernel⟩, rfl, by decide +kernel⟩,
⟨seqG [(1, 1)], (0), (0), 1, _, ⟨by decide +kernel, by decide +kernel, by decide +kernel⟩, rfl, by decide +kernel⟩,
⟨seqG [(1, 1)], (0), (0), 1, _, ⟨by decide +kernel, by decide +kernel, by decide +kernel⟩, rfl, by decide +kernel⟩,
⟨(rdy), (0), (0), (0), _, ⟨by decide +kernel, by decide +kernel, by decide +kernel⟩, rfl, by decide +kernel⟩,
⟨(rdy), (0), (0), (0), _, ⟨by decide +kernel, by decide +kernel, by decide +kernel⟩, rfl, by decide +kernel⟩,
⟨seqG [(1, 1)], (0), (0), 1, _, ⟨by decide +kernel, by decide +kernel, by decide +kernel⟩, rfl, by decide +kernel⟩,
⟨seqS {seqOn with pc := 0x40000}, .add 0 0 0 0, 0, by decide +kernel⟩⟩
theorem test_witness_SeqTrapEntry :
(∃ (s : State) (q : Nat) (x : Seq), x = s.seq q ∧ seqOk q = true ∧ x.inTrap = false ∧ x.trapVec ≠ 0)
∧ (∃ (s : State) (t : State) (u : State) (q : Nat) (c : Nat) (i : Nat) (x : Seq), x = s.seq q ∧ u = seqRaise q
      { code := Code.SEQ_TRAP, unit := seqUnit s q, params := c + 2 ^ 8 * (x.pc.toNat % 2 ^ 20) + 2 ^ 28 * (i % 2 ^ 20) }
      (seqCount q F.FS_SEQ_STAT_traps F.CC_SEQ_STAT_traps (seqStat q F.FS_SEQ_STAT_cause F.CC_SEQ_STAT_cause c s)) ∧
      (c = 7 → t = seqPin q true u) ∧ (c ≠ 7 → t = u) ∧ (x.inTrap = true ∨ x.trapVec = 0))
∧ (∃ (s : State) (q : Nat) (x : Seq), x = s.seq q ∧ x.running ≠ 0)
∧ (∃ (s : State) (q : Nat), (s.seq q).running = 0)
∧ (∃ (s : State) (q : Nat) (w : Nat), Ready s q ∧ w < 2 ^ 32 ∧ decodeSeq q w = none)
∧ (∃ (s : State) (q : Nat) (w : Nat) (x : Seq), Ready s q ∧ x = nowSeq s q ∧ w < 2 ^ 32 ∧ inSram q x.pc.toNat = true)
∧ (∃ (s : State) (q : Nat) (x : Seq), Ready s q ∧ x = nowSeq s q ∧ x.inTrap = true ∧ x.trapCause ≠ 7)
∧ (∃ (s : State) (q : Nat) (x : Seq), Ready s q ∧ x = nowSeq s q ∧ x.inTrap = true ∧ x.trapCause = 7)
∧ (∃ (s : State) (q : Nat), Ready s q ∧ (s.seq q).inTrap = false)
∧ (∃ (s : State) (q : Nat) (x : Seq), x = s.seq q ∧ seqOk q = true ∧ s.seqRuns q = true ∧ x.wdog ≠ 0 ∧ x.wdog.toNat *
      65536 ≤ x.icount)
∧ (∃ (s : State) (q : Nat), seqOk q = true ∧ (s.seq q).wdog = 0) :=
⟨⟨(rdy), (0), _, rfl, by decide +kernel⟩,
⟨seqS {seqOn with inTrap := true}, _, _, (0), 7, (0), _, rfl, rfl, (fun _ => rfl), (nofun), by decide +kernel⟩,
⟨seqS {seqOn with running := 1}, (0), _, rfl, by decide +kernel⟩,
⟨(rdy), (0), by decide +kernel⟩,
⟨(rdy), (0), 2^32-1, ⟨by decide +kernel, by decide +kernel, by decide +kernel⟩, by decide +kernel⟩,
⟨seqS {seqOn with inTrap := true}, (0), 2 ^ 32 - 1, _, (⟨by decide +kernel, by decide +kernel, by decide +kernel⟩),
    (rfl), by decide +kernel⟩,
⟨seqS {seqOn with inTrap := true}, (0), _, (⟨by decide +kernel, by decide +kernel, by decide +kernel⟩), (rfl),
    by decide +kernel⟩,
⟨seqS {seqOn with inTrap := true, trapCause := 7}, (0), _, ⟨by decide +kernel, by decide +kernel, by decide +kernel⟩,
    rfl, by decide +kernel⟩,
⟨(rdy), (0), ⟨by decide +kernel, by decide +kernel, by decide +kernel⟩, by decide +kernel⟩,
⟨seqS {seqOn with wdog := 1, icount := 65536}, (0), _, rfl, by decide +kernel⟩,
⟨seqS {seqOn with wdog := 0}, (0), by decide +kernel⟩⟩
theorem test_witness_SeqIdle :
∃ (s : State) (i : Instr) (q : Nat), seqOf i = some q ∧ seqOk q = true ∧ s.seqRuns q = false :=
⟨seqS {}, .add 0 0 0 0, 0, by decide +kernel⟩
theorem test_witness_SeqFrame :
∃ (s : State) (i : Instr) (q : Nat) (rd : Nat), Ready s q ∧ aluOf i = some (q, rd) :=
⟨(rdy), .add 0 1 2 3, 0, 1, ⟨by decide +kernel, by decide +kernel, by decide +kernel⟩, by decide +kernel⟩
theorem test_witness_SeqCsrs :
(∃ (s : State) (q : Nat) (n : Nat) (v : Nat), Ready s q ∧ csrRead (now s q) q (nowSeq s q) n = some v)
∧ (∃ (s : State) (q : Nat) (n : Nat), Ready s q ∧ csrRead (now s q) q (nowSeq s q) n = none)
∧ (∃ (s : State) (q : Nat) (j : _), Ready s q ∧ j < 4)
∧ (∃ (s : State) (q : Nat) (n : _), Ready s q ∧ (n = 0x000 ∨ n = 0x001 ∨ n = 0x004 ∨ n = 0x005 ∨ n = 0x007 ∨ n = 0x015
      ∨ n = 0x018)) :=
⟨⟨(rdy), (0), (0), _, ⟨by decide +kernel, by decide +kernel, by decide +kernel⟩, rfl⟩,
⟨(rdy), (0), 0x00D, ⟨by decide +kernel, by decide +kernel, by decide +kernel⟩, by decide +kernel⟩,
⟨(rdy), (0), Inhabited.default, ⟨by decide +kernel, by decide +kernel, by decide +kernel⟩, by decide +kernel⟩,
⟨(rdy), (0), Inhabited.default, ⟨by decide +kernel, by decide +kernel, by decide +kernel⟩, by decide +kernel⟩⟩
theorem test_witness_SeqWaitsAndTime :
(∃ (s : State) (q : Nat) (ra : Nat) (hit : Nat) (x : Seq) (y : Seq), Ready s q ∧ x = nowSeq s q ∧ x.takeEvents (x.gr
      ra).toNat = (hit, y) ∧ hit ≠ 0)
∧ (∃ (s : State) (q : Nat) (ra : Nat) (rb : Nat) (x : Seq), Ready s q ∧ x = nowSeq s q ∧ (x.takeEvents (x.gr
      ra).toNat).1 = 0 ∧ x.gr rb = 0)
∧ (∃ (s : State) (q : Nat) (ra : Nat) (rb : Nat) (x : Seq), Ready s q ∧ x = nowSeq s q ∧ (x.takeEvents (x.gr
      ra).toNat).1 = 0 ∧ x.gr rb ≠ 0)
∧ (∃ (s : State) (q : Nat) (rd : Nat) (m : Nat) (hit : Nat) (d : Option Nat) (y : Seq), (s.seq q).takeEvents m = (hit,
      y) ∧ seqOk q = true ∧ (s.seq q).mode = .wait rd m d ∧ hit ≠ 0)
∧ (∃ (s : State) (q : Nat) (rd : Nat) (m : Nat) (d : Nat), seqOk q = true ∧ (s.seq q).mode = .wait rd m (some d) ∧
      ((s.seq q).takeEvents m).1 = 0)
∧ (∃ (s : State) (q : Nat) (rd : Nat), Ready s q ∧ rd % 2 = 0 ∧ s.aonOnly = false)
∧ (∃ (s : State) (q : Nat) (r : Nat), Ready s q ∧ r % 2 = 1)
∧ (∃ (s : State) (q : Nat) (ra : Nat) (x : Seq), Ready s q ∧ x = nowSeq s q ∧ ra % 2 = 0 ∧ (now s q).wt < x.pair ra)
∧ (∃ (s : State) (q : Nat) (ra : Nat) (x : Seq), Ready s q ∧ x = nowSeq s q ∧ ra % 2 = 0 ∧ x.pair ra ≤ (now s q).wt)
∧ (∃ (s : State) (q : Nat) (d : Nat), seqOk q = true ∧ (s.seq q).timer = some d)
∧ (∃ (s : State) (w : Writer), Granted s w .CC_SEQ_MBOX 0 ∧ s.isOwner w = true)
∧ (∃ (s : State) (w : Writer) (q : Nat), Granted s w .FS_SEQ_MBOX q ∧ q < 128 ∧ seqOk q = true ∧ s.isOwner w = true) :=
⟨⟨seqS {seqOn with notes := [⟨1, 0, 0, 0⟩], g := [(1, 1)]}, (0), 1, _, _, _, ⟨by decide +kernel, by decide +kernel,
    by decide +kernel⟩, rfl, rfl, by decide +kernel⟩,
⟨(rdy), (0), (0), (0), _, ⟨by decide +kernel, by decide +kernel, by decide +kernel⟩, rfl, by decide +kernel⟩,
⟨seqG [(1, 1)], (0), (0), 1, _, ⟨by decide +kernel, by decide +kernel, by decide +kernel⟩, rfl, by decide +kernel⟩,
⟨seqS {seqOn with notes := [⟨1, 0, 0, 0⟩], mode := .wait 1 1 none}, (0), 1, 1, _, (none), _, rfl, by decide +kernel⟩,
⟨seqS {seqOn with mode := .wait 1 1 (some 9)}, (0), 1, 1, 9, by decide +kernel⟩,
⟨(rdy), (0), (0), ⟨by decide +kernel, by decide +kernel, by decide +kernel⟩, by decide +kernel⟩,
⟨(rdy), (0), 1, ⟨by decide +kernel, by decide +kernel, by decide +kernel⟩, by decide +kernel⟩,
⟨seqG [(2, 1)], (0), 2, _, ⟨by decide +kernel, by decide +kernel, by decide +kernel⟩, rfl, by decide +kernel⟩,
⟨(rdy), (0), (0), _, ⟨by decide +kernel, by decide +kernel, by decide +kernel⟩, rfl, by decide +kernel⟩,
⟨seqS {seqOn with timer := some 9}, (0), 9, by decide +kernel⟩,
⟨(rdy), (.hmp), ⟨by decide +kernel, by decide +kernel⟩, by decide +kernel⟩,
⟨(rdy), (.hmp), (0), ⟨by decide +kernel, by decide +kernel⟩, by decide +kernel⟩⟩
theorem test_witness_SeqSemaphores :
(∃ (s : State) (q : Nat) (ra : Nat) (n : Nat) (sem : Nat) (x : Seq), Ready s q ∧ x = nowSeq s q ∧ sem = (x.gr
      ra).toNat % 64 ∧ 1 ≤ n ∧ n ≤ 15 ∧ tget 0 x.sems sem + n ≤ 255)
∧ (∃ (s : State) (q : Nat) (ra : Nat) (n : Nat) (sem : Nat) (x : Seq), Ready s q ∧ x = nowSeq s q ∧ sem = (x.gr
      ra).toNat % 64 ∧ 1 ≤ n ∧ n ≤ 15 ∧ 255 < tget 0 x.sems sem + n)
∧ (∃ (s : State) (q : Nat) (ra : Nat) (n : Nat) (sem : Nat) (x : Seq), Ready s q ∧ x = nowSeq s q ∧ sem = (x.gr
      ra).toNat % 64 ∧ 1 ≤ n ∧ n ≤ 15 ∧ n ≤ tget 0 x.sems sem)
∧ (∃ (s : State) (q : Nat) (ra : Nat) (n : Nat) (sem : Nat) (x : Seq), Ready s q ∧ x = nowSeq s q ∧ sem = (x.gr
      ra).toNat % 64 ∧ 1 ≤ n ∧ n ≤ 15 ∧ tget 0 x.sems sem < n)
∧ (∃ (s : State) (q : Nat) (rt : Nat) (n : Nat) (d : Nat) (x : Seq), Ready s q ∧ x = nowSeq s q ∧ 1 ≤ n ∧ n ≤ 15 ∧
      seqOfUnit (x.gr rt).toNat = some d ∧ (now s q).aonOnly = false)
∧ (∃ (s : State) (q : Nat) (rt : Nat) (n : Nat) (d : Nat) (x : Seq), Ready s q ∧ x = nowSeq s q ∧ 1 ≤ n ∧ n ≤ 15 ∧
      seqOfUnit (x.gr rt).toNat = some d ∧ (now s q).aonOnly = true)
∧ (∃ (s : State) (q : Nat) (n : Nat), Ready s q ∧ (n = 0 ∨ 15 < n))
∧ (∃ (s : State) (q : Nat) (g : SemSig) (l : List SemSig), q < 128 ∧ seqOk q = true ∧ s.aonOnly = false ∧ takeFirst
      (fun (g : SemSig) => g.dst == q) s.semQ = some (g, l))
∧ (∃ (s : State) (g : SemSig) (l : List SemSig), s.aonOnly = false ∧ takeFirst (fun (g : SemSig) => g.dst == 128)
      s.semQ = some (g, l))
∧ (∃ (s : State) (q : Nat) (rd : Nat) (sem : Nat) (n : Nat) (d : Option Nat) (x : Seq), x = s.seq q ∧ seqOk q = true ∧
      x.mode = .waits rd sem n d ∧ n ≤ tget 0 x.sems sem)
∧ (∃ (s : State) (q : Nat) (rd : Nat) (sem : Nat) (n : Nat) (d : Nat) (x : Seq), x = s.seq q ∧ seqOk q = true ∧ x.mode
      = .waits rd sem n (some d) ∧ tget 0 x.sems sem < n)
∧ (∃ (s : State) (w : Writer) (v : Nat), Granted s w .CC_SEM_SIG 0 ∧ s.isOwner w = true ∧ bits v 8 4 ≠ 0)
∧ (∃ (s : State) (w : Writer) (q : Nat) (v : Nat), Granted s w .FS_SEM_SIG q ∧ q < 128 ∧ seqOk q = true ∧ s.isOwner w
      = true ∧ bits v 8 4 = 0) :=
⟨⟨(rdy), (0), (0), 1, _, _, ⟨by decide +kernel, by decide +kernel, by decide +kernel⟩, rfl, rfl, by decide +kernel⟩,
⟨seqS {seqOn with sems := [(0, 255)]}, (0), (0), 1, _, _, ⟨by decide +kernel, by decide +kernel, by decide +kernel⟩,
    rfl, rfl, by decide +kernel⟩,
⟨seqS {seqOn with sems := [(0, 1)]}, (0), (0), 1, _, _, ⟨by decide +kernel, by decide +kernel, by decide +kernel⟩,
    rfl, rfl, by decide +kernel⟩,
⟨(rdy), (0), (0), 1, _, _, ⟨by decide +kernel, by decide +kernel, by decide +kernel⟩, rfl, rfl, by decide +kernel⟩,
⟨seqS msgS, (0), 1, 15, 1, _, ⟨by decide +kernel, by decide +kernel, by decide +kernel⟩, rfl, by decide +kernel⟩,
⟨(seqS msgS).wr F.CC_CLK_STAT_src 0 2, (0), 1, 15, 1, _, ⟨by decide +kernel, by decide +kernel, by decide +kernel⟩,
    rfl, by decide +kernel⟩,
⟨(rdy), (0), (0), ⟨by decide +kernel, by decide +kernel, by decide +kernel⟩, by decide +kernel⟩,
⟨{rdy with semQ := [⟨1, 0, 2, 3⟩]}, (0), ⟨1, 0, 2, 3⟩, [], by decide +kernel⟩,
⟨{rdy with semQ := [⟨0, 128, 2, 3⟩]}, ⟨0, 128, 2, 3⟩, [], by decide +kernel⟩,
⟨seqS {seqOn with mode := .waits 1 0 1 none, sems := [(0, 1)]}, (0), 1, 0, 1, none, _, rfl, by decide +kernel⟩,
⟨seqS {seqOn with mode := .waits 1 0 1 (some 9)}, (0), 1, 0, 1, 9, _, rfl, by decide +kernel⟩,
⟨(rdy), (.hmp), 0x100, ⟨by decide +kernel, by decide +kernel⟩, by decide +kernel⟩,
⟨(rdy), (.hmp), (0), (0), ⟨by decide +kernel, by decide +kernel⟩, by decide +kernel⟩⟩
theorem test_witness_SeqMessages :
(∃ (s : State) (t : State) (q : Nat) (ra : Nat) (rb : Nat) (fn : Nat) (a : Nat) (d : Nat) (x : Seq), Ready s q ∧ x =
      nowSeq s q ∧ t = now s q ∧ a = (x.gr rb).toNat ∧ fn < 64 ∧ fn / 16 < 3 ∧ fn % 16 ≤ 8 ∧ (fn / 16 = 0 → fn % 16 =
      0) ∧ seqOfUnit (x.gr ra).toNat = some d ∧ a % 32 = 0 ∧ inSram q a = true ∧ inSram q (a + 31 + 32 * (fn % 16)) =
      true ∧ 0x8000 ≤ x.load q a 2 ∧ t.aonOnly = false ∧ x.tx.length < 8)
∧ (∃ (s : State) (t : State) (q : Nat) (ra : Nat) (rb : Nat) (fn : Nat) (a : Nat) (d : Nat) (x : Seq), Ready s q ∧ x =
      nowSeq s q ∧ t = now s q ∧ a = (x.gr rb).toNat ∧ fn < 64 ∧ fn / 16 < 3 ∧ fn % 16 ≤ 8 ∧ (fn / 16 = 0 → fn % 16 =
      0) ∧ seqOfUnit (x.gr ra).toNat = some d ∧ a % 32 = 0 ∧ inSram q a = true ∧ inSram q (a + 31 + 32 * (fn % 16)) =
      true ∧ 0x8000 ≤ x.load q a 2 ∧ t.aonOnly = true)
∧ (∃ (s : State) (t : State) (q : Nat) (ra : Nat) (rb : Nat) (fn : Nat) (a : Nat) (d : Nat) (x : Seq), Ready s q ∧ x =
      nowSeq s q ∧ t = now s q ∧ a = (x.gr rb).toNat ∧ fn < 64 ∧ fn / 16 < 3 ∧ fn % 16 ≤ 8 ∧ (fn / 16 = 0 → fn % 16 =
      0) ∧ seqOfUnit (x.gr ra).toNat = some d ∧ a % 32 = 0 ∧ inSram q a = true ∧ inSram q (a + 31 + 32 * (fn % 16)) =
      true ∧ 0x8000 ≤ x.load q a 2 ∧ t.aonOnly = false ∧ 8 ≤ x.tx.length)
∧ (∃ (s : State) (q : Nat) (fn : Nat) (k : Nat), Ready s q ∧ k = fn % 2 ^ 14 ∧ (64 ≤ k ∨ k / 16 % 4 = 3 ∨ 8 < k % 16))
∧ (∃ (s : State) (src : Nat) (dst : Nat) (m : Msg) (l : List Msg), seqOk src = true ∧ seqOk dst = true ∧ s.aonOnly =
      false ∧ takeFirst (fun (m : Msg) => m.dst == dst) (s.seq src).tx = some (m, l) ∧ dst ≠ 128 ∧ m.cls ≠ 0)
∧ (∃ (s : State) (t : State) (src : Nat) (dst : Nat) (m : Msg) (l : List Msg), t = s.setSeq src
      { s.seq src with tx := l } ∧ seqOk src = true ∧ seqOk dst = true ∧ s.aonOnly = false ∧ takeFirst (fun (m : Msg)
      => m.dst == dst) (s.seq src).tx = some (m, l) ∧ dst ≠ 128 ∧ (t.seq dst).rx.length < 16)
∧ (∃ (s : State) (t : State) (src : Nat) (dst : Nat) (m : Msg) (l : List Msg), t = s.setSeq src
      { s.seq src with tx := l } ∧ seqOk src = true ∧ seqOk dst = true ∧ s.aonOnly = false ∧ takeFirst (fun (m : Msg)
      => m.dst == dst) (s.seq src).tx = some (m, l) ∧ dst ≠ 128 ∧ 16 ≤ (t.seq dst).rx.length ∧ dst < 128)
∧ (∃ (s : State) (src : Nat) (m : Msg) (l : List Msg), seqOk src = true ∧ s.aonOnly = false ∧ takeFirst (fun (m : Msg)
      => m.dst == 128) (s.seq src).tx = some (m, l))
∧ (∃ (s : State) (q : Nat) (rb : Nat) (a : Nat) (x : Seq) (m : Msg) (l : List Msg), Ready s q ∧ x = nowSeq s q ∧ a =
      (x.gr rb).toNat ∧ a % 32 = 0 ∧ x.rx = m :: l ∧ inSram q a = true ∧ inSram q (a + 31 + 32 * m.len) = true)
∧ (∃ (s : State) (q : Nat) (rb : Nat), Ready s q ∧ ((nowSeq s q).gr rb).toNat % 32 = 0 ∧ (s.seq q).rx = [])
∧ (∃ (s : State) (q : Nat) (rb : Nat) (a : Nat), Ready s q ∧ a = ((nowSeq s q).gr rb).toNat ∧ a % 32 ≠ 0)
∧ (∃ (s : State) (q : Nat) (ra : Nat) (i : Nat), Ready s q ∧ ra % 2 = 0 ∧ 0x0800 ≤ i ∧ i ≤ 0x0FFF)
∧ (∃ (s : State) (q : Nat) (ra : Nat) (i : Nat), Ready s q ∧ ra % 2 = 0 ∧ (i < 0x0800 ∨ 0x0FFF < i))
∧ (∃ (s : State) (t : State) (w : Writer) (q : Nat), Granted s w .FS_SEQ_CTL q ∧ t = s.wr F.FS_SEQ_CTL_use_ref q 1 ∧ q
      < 128 ∧ seqOk q = true ∧ s.isOwner w = true ∧ s.rb F.FS_SEQ_CTL_use_ref q = true ∧ t.fsWorks q = true ∧ t.rb
      F.FS_SEQ_CTL_use_ref q = true)
∧ (∃ (s : State) (q : Nat), q < 128 ∧ twf ({} : Seq) s.seqs = true) :=
⟨⟨seqS msgS, _, (0), 1, (0), (0), _, 1, _, ⟨by decide +kernel, by decide +kernel, by decide +kernel⟩, rfl, rfl, rfl,
    by decide +kernel⟩,
⟨(seqS msgS).wr F.CC_CLK_STAT_src 0 2, _, (0), 1, (0), (0), _, 1, _, ⟨by decide +kernel, by decide +kernel,
    by decide +kernel⟩, rfl, rfl, rfl, by decide +kernel⟩,
⟨seqS {msgS with tx := List.replicate 8 msg0}, _, (0), 1, (0), (0), _, 1, _, ⟨by decide +kernel, by decide +kernel,
    by decide +kernel⟩, rfl, rfl, rfl, by decide +kernel⟩,
⟨(rdy), (0), 9, _, ⟨by decide +kernel, by decide +kernel, by decide +kernel⟩, rfl, by decide +kernel⟩,
⟨twoS {seqOn with tx := [toFs1]} seqOn, (0), 1, toFs1, [], by decide +kernel⟩,
⟨twoS {seqOn with tx := [toFs1]} seqOn, _, (0), 1, toFs1, [], rfl, by decide +kernel⟩,
⟨twoS {seqOn with tx := [toFs1]} {seqOn with rx := List.replicate 16 msg0}, _, (0), 1, toFs1, [], rfl,
    by decide +kernel⟩,
⟨twoS {seqOn with tx := [{msg0 with dst := 128}]} seqOn, (0), {msg0 with dst := 128}, [], by decide +kernel⟩,
⟨seqS {seqOn with rx := [msg0]}, (0), (0), _, _, msg0, [], ⟨by decide +kernel, by decide +kernel, by decide +kernel⟩,
    rfl, rfl, by decide +kernel⟩,
⟨(rdy), (0), (0), ⟨by decide +kernel, by decide +kernel, by decide +kernel⟩, by decide +kernel⟩,
⟨seqG [(1, 1)], (0), 1, _, ⟨by decide +kernel, by decide +kernel, by decide +kernel⟩, rfl, by decide +kernel⟩,
⟨(rdy), (0), (0), 0x800, ⟨by decide +kernel, by decide +kernel, by decide +kernel⟩, by decide +kernel⟩,
⟨(rdy), (0), (0), (0), ⟨by decide +kernel, by decide +kernel, by decide +kernel⟩, by decide +kernel⟩,
⟨rdy.wr F.FS_SEQ_CTL_use_ref 0 1, _, (.hmp), (0), ⟨by decide +kernel, by decide +kernel⟩, rfl, by decide +kernel⟩,
⟨(rdy), (0), by decide +kernel⟩⟩
theorem test_witness_SeqDecodeEncode :
∃ (i : Instr) (q : Nat), wellFormed i = true ∧ seqOf i = some q :=
⟨.add 0 1 2 3, 0, by decide +kernel⟩
theorem test_witness_SeqEncodeDecode :
∃ (q : Nat) (w : Nat) (i : Instr), decodeSeq q w = some i ∧ w < 2 ^ 32 :=
⟨(0), (0), _, rfl, by decide +kernel⟩
theorem test_witness_SeqReliability :
(∃ (s : State) (q : Nat) (ra : Nat) (i : Nat) (x : Seq), Ready s q ∧ x = nowSeq s q ∧ i = (x.gr ra).toNat ∧ q < 128 ∧
      i < 2 ^ 13)
∧ (∃ (s : State) (q : Nat), Ready s q ∧ 128 ≤ q)
∧ (∃ (s : State) (ra : Nat) (rb : Nat) (p : Nat) (v : Nat) (x : Seq), Ready s 128 ∧ x = nowSeq s 128 ∧ p = (x.gr
      ra).toNat ∧ v = (x.gr rb).toNat ∧ partOk p = true ∧ v ≤ 16)
∧ (∃ (s : State) (ra : Nat) (rb : Nat) (x : Seq), Ready s 128 ∧ x = nowSeq s 128 ∧ (16 < (x.gr rb).toNat ∨ partOk
      (x.gr ra).toNat = false))
∧ (∃ (s : State) (q : Nat) (ra : Nat) (rb : Nat) (u : Nat) (r : Nat) (x : Seq), Ready s q ∧ x = nowSeq s q ∧ u = (x.gr
      ra).toNat ∧ r = (x.gr rb).toNat ∧ s.scrapped = false ∧ q < 128 ∧ unitPresent u = true ∧ unitKind u = 0 ∧
      engField u = q ∧ r ≠ 0 ∧ reasonBad r = false ∧ (now s q).aonOnly = false ∧ fenceHeld (now s q) u = none ∧ (now s
      q).confQ.any (fun m => m.unit == u) = false)
∧ (∃ (s : State) (q : Nat) (ra : Nat) (rb : Nat) (u : Nat) (r : Nat) (x : Seq), Ready s q ∧ x = nowSeq s q ∧ u = (x.gr
      ra).toNat ∧ r = (x.gr rb).toNat ∧ ((fenceHeld (now s q) u).isSome = true ∨ (now s q).confQ.any (fun m => m.unit
      == u) = true) ∧ s.scrapped = false ∧ q < 128 ∧ unitPresent u = true ∧ unitKind u = 0 ∧ engField u = q ∧ r ≠ 0 ∧
      reasonBad r = false ∧ (now s q).aonOnly = false)
∧ (∃ (s : State) (q : Nat) (ra : Nat) (rb : Nat) (u : Nat) (r : Nat) (x : Seq), Ready s q ∧ x = nowSeq s q ∧ u = (x.gr
      ra).toNat ∧ r = (x.gr rb).toNat ∧ s.scrapped = false ∧ q < 128 ∧ (unitPresent u = false ∨ unitKind u ≠ 0 ∨
      engField u ≠ q) ∧ r ≠ 0 ∧ reasonBad r = false)
∧ (∃ (s : State) (ra : Nat) (rb : Nat) (u : Nat) (r : Nat) (x : Seq), Ready s 128 ∧ x = nowSeq s 128 ∧ u = (x.gr
      ra).toNat ∧ r = (x.gr rb).toNat ∧ s.scrapped = false ∧ (unitPresent u = false ∨ unitKind u = 0) ∧ r ≠ 0 ∧
      reasonBad r = false)
∧ (∃ (s : State) (q : Nat) (rb : Nat) (r : Nat), Ready s q ∧ r = ((nowSeq s q).gr rb).toNat ∧ r = 0)
∧ (∃ (s : State) (q : Nat) (rb : Nat) (r : Nat), Ready s q ∧ r = ((nowSeq s q).gr rb).toNat ∧ s.scrapped = false ∧ r ≠
      0 ∧ reasonBad r = true)
∧ (∃ (s : State) (q : Nat) (ra : Nat) (k : Nat) (l : Latent) (c : Core), Ready s q ∧ c = (now s q).core (engCore
      l.eng) ∧ q < 128 ∧ s.scrapped = false ∧ latentAt (now s q) ((nowSeq s q).gr ra).toNat = some (k, l) ∧
      l.confirmed = false ∧ engField l.eng = q ∧ (now s q).rb F.FS_PROOF_STAT_array_suspect q = false ∧ c.suspect ≠
      some l.eng ∧ c.next ≠ some l.eng ∧ (now s q).aonOnly = false)
∧ (∃ (s : State) (q : Nat) (ra : Nat) (k : Nat) (l : Latent), Ready s q ∧ q < 128 ∧ s.scrapped = false ∧ latentAt (now
      s q) ((nowSeq s q).gr ra).toNat = some (k, l) ∧ l.confirmed = false ∧ engField l.eng = q ∧ (now s q).aonOnly =
      true)
∧ (∃ (s : State) (q : Nat) (ra : Nat) (k : Nat) (l : Latent), Ready s q ∧ q < 128 ∧ s.scrapped = false ∧ latentAt (now
      s q) ((nowSeq s q).gr ra).toNat = some (k, l) ∧ l.confirmed = false ∧ engField l.eng = q ∧ (now s q).rb
      F.FS_PROOF_STAT_array_suspect q = true ∧ (now s q).aonOnly = false)
∧ (∃ (s : State) (q : Nat) (ra : Nat), Ready s q ∧ q < 128 ∧ s.scrapped = false ∧ latentAt (now s q) ((nowSeq s q).gr
      ra).toNat = none)
∧ (∃ (s : State) (t : State) (q : Nat) (ra : Nat) (rb : Nat) (e : Nat) (c : Nat), Ready s q ∧ t = now s q ∧ e =
      ((nowSeq s q).gr ra).toNat ∧ c = ((nowSeq s q).gr rb).toNat ∧ q < 128 ∧ s.scrapped = false ∧ 1 ≤ c ∧ c ≤ 6 ∧
      engField e = q ∧ engOk e = true ∧ blocked t e = false ∧ latentAt t e = none ∧ (latentSlots t q).length < 64)
∧ (∃ (s : State) (t : State) (q : Nat) (ra : Nat) (rb : Nat) (e : Nat) (c : Nat), Ready s q ∧ t = now s q ∧ e =
      ((nowSeq s q).gr ra).toNat ∧ c = ((nowSeq s q).gr rb).toNat ∧ q < 128 ∧ s.scrapped = false ∧ 1 ≤ c ∧ c ≤ 6 ∧
      engField e = q ∧ engOk e = true ∧ blocked t e = false ∧ latentAt t e = none ∧ 64 ≤ (latentSlots t q).length)
∧ (∃ (s : State) (q : Nat) (ra : Nat) (a : Nat), Ready s q ∧ a = ((nowSeq s q).gr ra).toNat ∧ q < 128 ∧ engField a =
      q)
∧ (∃ (s : State) (t : State) (q : Nat) (ra : Nat) (v : Nat), Ready s q ∧ v = (nowSeq s q).pair ra ∧ q < 128 ∧ ra % 2 =
      0 ∧ (now s q).aonOnly = false ∧ bit v 30 = false ∧ brkStart q v (now s q) = (false, t))
∧ (∃ (s : State) (t : State) (q : Nat) (ra : Nat) (v : Nat), Ready s q ∧ v = (nowSeq s q).pair ra ∧ brkStart q v (now
      s q) = (true, t) ∧ q < 128 ∧ ra % 2 = 0 ∧ (now s q).aonOnly = false ∧ bit v 30 = false)
∧ (∃ (s : State) (q : Nat) (ra : Nat) (v : Nat), Ready s q ∧ q < 128 ∧ ra % 2 = 0 ∧ (now s q).aonOnly = false ∧ v =
      (nowSeq s q).pair ra ∧ bit v 30 = true ∧ ((now s q).sess q).isSome = true)
∧ (∃ (s : State) (q : Nat) (ra : Nat) (v : Nat), Ready s q ∧ v = (nowSeq s q).pair ra ∧ q < 128 ∧ ra % 2 = 0 ∧ (now s
      q).aonOnly = false ∧ bit v 30 = true ∧ (now s q).sess q = none)
∧ (∃ (s : State) (q : Nat) (ra : Nat), Ready s q ∧ q < 128 ∧ ra % 2 = 1) :=
⟨⟨(rdy), (0), (0), _, _, ⟨by decide +kernel, by decide +kernel, by decide +kernel⟩, rfl, rfl, by decide +kernel⟩,
⟨(rdy), 128, ⟨by decide +kernel, by decide +kernel, by decide +kernel⟩, by decide +kernel⟩,
⟨(rdy), (0), (0), _, _, _, ⟨by decide +kernel, by decide +kernel, by decide +kernel⟩, rfl, rfl, rfl,
    by decide +kernel⟩,
⟨{rdy with seqs := [(128, {seqOn with g := [(1, 17)]})]}, (0), 1, _, ⟨by decide +kernel, by decide +kernel,
    by decide +kernel⟩, rfl, by decide +kernel⟩,
⟨seqG [(1, 1)], 0, (0), 1, _, _, _, ⟨by decide +kernel, by decide +kernel, by decide +kernel⟩, rfl, rfl, rfl,
    by decide +kernel⟩,
⟨{seqG [(1, 1)] with confQ := [conf0]}, 0, (0), 1, _, _, _, ⟨by decide +kernel, by decide +kernel, by decide +kernel⟩,
    rfl, rfl, rfl, .inr (by decide +kernel), by decide +kernel⟩,
⟨seqG [(1, 1), (2, 384)], (0), 2, 1, _, _, _, ⟨by decide +kernel, by decide +kernel, by decide +kernel⟩, rfl, rfl,
    rfl, by decide +kernel⟩,
⟨{rdy with seqs := [(0, seqOn), (128, {seqOn with g := [(2, 1)]})]}, (0), 2, 0, 1, _, ⟨by decide +kernel,
    by decide +kernel, by decide +kernel⟩, rfl, by decide +kernel⟩,
⟨(rdy), (0), (0), _, ⟨by decide +kernel, by decide +kernel, by decide +kernel⟩, rfl, rfl⟩,
⟨seqG [(1, 7)], (0), 1, _, ⟨by decide +kernel, by decide +kernel, by decide +kernel⟩, rfl, by decide +kernel⟩,
⟨latS lat0, 0, (0), 0, lat0, _, (⟨by decide +kernel, by decide +kernel, by decide +kernel⟩), (rfl),
    by decide +kernel⟩,
⟨{aon with seqs := [(0, seqOn), (128, seqOn)], latent := [(0, lat0)]}, (0), (0), 0, lat0, ⟨by decide +kernel,
    by decide +kernel, by decide +kernel⟩, by decide +kernel⟩,
⟨(latS lat0).wr F.FS_PROOF_STAT_array_suspect 0 1, 0, (0), 0, lat0, (⟨by decide +kernel, by decide +kernel,
    by decide +kernel⟩), by decide +kernel⟩,
⟨(rdy), (0), (0), ⟨by decide +kernel, by decide +kernel, by decide +kernel⟩, by decide +kernel⟩,
⟨seqG [(1, 6)], _, 0, (0), 1, _, _, ⟨by decide +kernel, by decide +kernel, by decide +kernel⟩, rfl, rfl, rfl,
    by decide +kernel⟩,
⟨{seqG [(1, 6)] with latent := (List.range 64).map (fun i => (i, {lat0 with eng := i + 1}))}, _, 0, (0), 1, _, _,
    ⟨by decide +kernel, by decide +kernel, by decide +kernel⟩, rfl, rfl, rfl, by decide +kernel⟩,
⟨(rdy), 0, (0), _, ⟨by decide +kernel, by decide +kernel, by decide +kernel⟩, rfl, by decide +kernel⟩,
⟨(rdy.wr F.CC_BRK_ENV_f_steps 0 3).wr F.CC_TEST_BUDGET_budget 0 500, (brkStart 0 0 (now ((rdy.wr F.CC_BRK_ENV_f_steps
    0 3).wr F.CC_TEST_BUDGET_budget 0 500) 0)).2, (0), (0), _, (⟨by decide +kernel, by decide +kernel,
    by decide +kernel⟩), (rfl), by decide +kernel⟩,
⟨(rdy), _, (0), (0), _, (⟨by decide +kernel, by decide +kernel, by decide +kernel⟩), (rfl), (rfl), by decide +kernel⟩,
⟨{seqG [(2, 0x40000000)] with sessions := [(0, sess0)]}, (0), 2, 0x40000000, ⟨by decide +kernel, by decide +kernel,
    by decide +kernel⟩, by decide +kernel⟩,
⟨seqG [(2, 0x40000000)], (0), 2, _, (⟨by decide +kernel, by decide +kernel, by decide +kernel⟩), (rfl),
    by decide +kernel⟩,
⟨(rdy), (0), 1, ⟨by decide +kernel, by decide +kernel, by decide +kernel⟩, by decide +kernel⟩⟩
theorem test_witness_SeqRegisters :
(∃ (s : State) (u : State) (q : Nat) (rd : Nat) (ra : Nat) (imm : Nat) (o : Nat) (a : Nat) (i : Nat) (v : Nat) (r :
      Reg) (x : Seq), Ready s q ∧ x = nowSeq s q ∧ o = (x.gr ra + BitVec.ofInt 32 (sext 16 imm)).toNat ∧ seqAddr q o =
      some a ∧ regAt a = some (r, i) ∧ readReg (.seq q) r i (now s q) = (v, u) ∧ rd % 2 = 0 ∧ accessTrap (now s q) q o
      false false = none)
∧ (∃ (s : State) (q : Nat) (rd : Nat) (ra : Nat) (imm : Nat) (o : Nat) (a : Nat) (x : Seq), Ready s q ∧ x = nowSeq s q
      ∧ o = (x.gr ra + BitVec.ofInt 32 (sext 16 imm)).toNat ∧ rd % 2 = 0 ∧ accessTrap (now s q) q o false false = none
      ∧ seqAddr q o = some a ∧ regAt a = none)
∧ (∃ (s : State) (q : Nat) (rs : Nat) (ra : Nat) (imm : Nat) (o : Nat) (a : Nat) (i : Nat) (r : Reg) (x : Seq), Ready
      s q ∧ x = nowSeq s q ∧ o = (x.gr ra + BitVec.ofInt 32 (sext 16 imm)).toNat ∧ regAt a = some (r, i) ∧ rs % 2 = 0
      ∧ accessTrap (now s q) q o true false = none ∧ seqAddr q o = some a ∧ rightTrap (now s q) q r i = none)
∧ (∃ (s : State) (q : Nat) (rs : Nat) (ra : Nat) (imm : Nat) (o : Nat) (a : Nat) (i : Nat) (r : Reg) (x : Seq) (c :
      _), Ready s q ∧ x = nowSeq s q ∧ o = (x.gr ra + BitVec.ofInt 32 (sext 16 imm)).toNat ∧ rs % 2 = 0 ∧ accessTrap
      (now s q) q o true false = none ∧ seqAddr q o = some a ∧ regAt a = some (r, i) ∧ rightTrap (now s q) q r i =
      some c)
∧ (∃ (s : State) (q : Nat) (r : Nat) (ra : Nat) (imm : Nat) (o : Nat) (c : Nat) (late : Bool), Ready s q ∧ o =
      ((nowSeq s q).gr ra + BitVec.ofInt 32 (sext 16 imm)).toNat ∧ r % 2 = 0 ∧ accessTrap (now s q) q o false late =
      some c)
∧ (∃ (s : State) (q : Nat) (r : Nat) (ra : Nat) (imm : Nat) (o : Nat) (c : Nat) (late : Bool), Ready s q ∧ o =
      ((nowSeq s q).gr ra + BitVec.ofInt 32 (sext 16 imm)).toNat ∧ accessTrap (now s q) q o true late = some c ∧ r % 2
      = 0)
∧ (∃ (s : State) (q : Nat) (r : Nat), Ready s q ∧ r % 2 = 1)
∧ (∃ (o : Nat), o % 8 ≠ 0)
∧ (∃ (o : Nat), o % 8 = 0 ∧ 0x1010000 ≤ o)
∧ (∃ (q : Nat) (o : Nat) (wr : Bool) (a : _), o % 8 = 0 ∧ seqAddr q o = some a ∧ seqReach q wr a = false)
∧ (∃ (s : State) (q : Nat) (o : Nat) (wr : Bool) (a : _), o % 8 = 0 ∧ seqAddr q o = some a ∧ seqReach q wr a = true ∧
      seqLive s a = false) :=
⟨⟨(rdy), _, (0), (0), (0), (0), _, _, _, _, _, _, ⟨by decide +kernel, by decide +kernel, by decide +kernel⟩, rfl, rfl,
    rfl, rfl, rfl, by decide +kernel⟩,
⟨seqG [(1, 0x100FFF8)], (0), (0), 1, (0), _, 0x10FFF8, _, ⟨by decide +kernel, by decide +kernel, by decide +kernel⟩,
    rfl, rfl, by decide +kernel⟩,
⟨seqG [(1, 0x1000000)], (0), (0), 1, 0x48, _, 0x100048, _, _, _, ⟨by decide +kernel, by decide +kernel,
    by decide +kernel⟩, rfl, rfl, rfl, by decide +kernel⟩,
⟨seqG [(1, 0x1000000)], (0), (0), 1, 0x200, _, 0x100200, 0, .FS_SEQ_CTL, _, trapAccess, ⟨by decide +kernel,
    by decide +kernel, by decide +kernel⟩, rfl, rfl, by decide +kernel⟩,
⟨seqG [(1, 0xFFFFFFF8)], (0), (0), 1, 0, _, trapAccess, (false), ⟨by decide +kernel, by decide +kernel,
    by decide +kernel⟩, rfl, by decide +kernel⟩,
⟨(rdy), (0), (0), (0), (0), _, _, (false), ⟨by decide +kernel, by decide +kernel, by decide +kernel⟩, rfl, rfl,
    by decide +kernel⟩,
⟨(rdy), (0), 1, ⟨by decide +kernel, by decide +kernel, by decide +kernel⟩, by decide +kernel⟩,
⟨1, by decide +kernel⟩,
⟨0x1010000, by decide +kernel⟩,
⟨(0), 0x200000, (false), 0x200000, by decide +kernel⟩,
⟨aon, (0), 0xFFF8, (false), 0xFFF8, by decide +kernel⟩⟩
theorem test_witness_ImageLoading :
(∃ (s : State) (w : Writer) (n : Nat), Granted s w .CC_IMG_CMD 0 ∧ s.isOwner w = true ∧ n < 2 ^ 32)
∧ (∃ (s : State) (w : Writer) (n : Nat) (l : List Byte), Granted s w .CC_IMG_DATA 0 ∧ s.isOwner w = true ∧ s.imgRecv =
      some (n, l) ∧ s.rd F.CC_IMG_STAT_state = 1 ∧ l.length < imgMax 0)
∧ (∃ (s : State) (t : State) (w : Writer), Granted s w .CC_IMG_CMD 0 ∧ t = s.wr F.CC_IMG_STAT_state 0 2 ∧ s.isOwner w
      = true ∧ s.rd F.CC_IMG_STAT_state = 1 ∧ t.aonOnly = false)
∧ (∃ (s : State) (t : State) (w : Writer), Granted s w .CC_IMG_CMD 0 ∧ t = s.wr F.CC_IMG_STAT_state 0 2 ∧ s.isOwner w
      = true ∧ s.rd F.CC_IMG_STAT_state = 1 ∧ t.aonOnly = true)
∧ (∃ (s : State) (w : Writer) (f : Nat), Granted s w .CC_IMG_CMD 0 ∧ s.isOwner w = true ∧ s.aonOnly = false ∧ f < 128
      ∧ staged s 1 = true)
∧ (∃ (s : State) (w : Writer) (f : Nat), Granted s w .CC_IMG_CMD 0 ∧ s.isOwner w = true ∧ s.aonOnly = false ∧ f < 128
      ∧ staged s 1 = false)
∧ (∃ (s : State) (w : Writer), Granted s w .CC_IMG_CMD 0 ∧ s.isOwner w = true ∧ s.aonOnly = false ∧ staged s 0 = true)
∧ (∃ (s : State) (w : Writer) (r : _), Granted s w .CC_IMG_CMD 0 ∧ (checkBank s 1 (otherBank s 1)).res = .error r ∧
      s.isOwner w = true)
∧ (∃ (s : State) (t : State) (w : Writer) (v : Nat), Granted s w .CC_IMG_FLOOR 0 ∧ t = wrPersist F.CC_IMG_FLOOR_cc 0
      (bits v 0 32) s ∧ s.isOwner w = true ∧ s.factory = true ∧ t.factory = true)
∧ (∃ (s : State) (w : Writer) (v : Nat), Granted s w .CC_IMG_FLOOR 0 ∧ s.isOwner w = true ∧ s.factory = false ∧ bits v
      0 32 < s.rd F.CC_IMG_FLOOR_cc ∧ bits v 32 32 < s.rd F.CC_IMG_FLOOR_fs) :=
⟨⟨(rdy), (.hmp), (0), ⟨by decide +kernel, by decide +kernel⟩, by decide +kernel⟩,
⟨{rdy.wr F.CC_IMG_STAT_state 0 1 with imgRecv := some (8, [])}, (.hmp), 8, [], ⟨by decide +kernel, by decide +kernel⟩,
    by decide +kernel⟩,
⟨rdy.wr F.CC_IMG_STAT_state 0 1, _, (.hmp), ⟨by decide +kernel, by decide +kernel⟩, rfl, by decide +kernel⟩,
⟨aon.wr F.CC_IMG_STAT_state 0 1, _, (.hmp), ⟨by decide +kernel, by decide +kernel⟩, rfl, by decide +kernel⟩,
⟨(rdy.wr F.CC_IMG_STAT_state 0 3).wr F.CC_IMG_STAT_target 0 1, (.hmp), (0), ⟨by decide +kernel, by decide +kernel⟩,
    by decide +kernel⟩,
⟨(rdy), (.hmp), (0), ⟨by decide +kernel, by decide +kernel⟩, by decide +kernel⟩,
⟨rdy.wr F.CC_IMG_STAT_state 0 3, (.hmp), ⟨by decide +kernel, by decide +kernel⟩, by decide +kernel⟩,
⟨(rdy), (.hmp), 2, ⟨by decide +kernel, by decide +kernel⟩, (rfl), by decide +kernel⟩,
⟨(rdy), _, (.hmp), (0), ⟨by decide +kernel, by decide +kernel⟩, rfl, by decide +kernel⟩,
⟨((rdy.wr F.CC_LIFECYCLE_state 0 1).wr F.CC_IMG_FLOOR_cc 0 1).wr F.CC_IMG_FLOOR_fs 0 1, (.hmp), (0),
    ⟨by decide +kernel, by decide +kernel⟩, by decide +kernel⟩⟩
theorem test_witness_FaultPins :
(∃ (s : State) (f : Nat) (i : Nat) (u : Nat), pinUnit f i = some u ∧ fieldOk f = true ∧ (s.pin f i).latched = false ∧
      (s.pin f i).stuck = false)
∧ (∃ (s : State) (f : Nat) (i : Nat) (u : Nat), pinUnit f i = some u ∧ fieldOk f = true ∧ ((s.pin f i).latched = true
      ∨ (s.pin f i).stuck = true))
∧ (∃ (s : State) (t : State) (f : Nat), t = fswSync f s ∧ t.rb F.FS_FSW_open f = false)
∧ (∃ (s : State) (t : State) (f : Nat), t = fswSync f s ∧ t.rb F.FS_FSW_open f = true)
∧ (∃ (s : State) (k : Nat), ctOk k = true ∧ s.ctGated k = true)
∧ (∃ (i : Nat), i < 8)
∧ (∃ (s : State) (p : PinRef) (x : Pin), x = pinEntry s p ∧ pinOk p = true ∧ x.level = true ∧ x.latched = false ∧
      x.stuck = false)
∧ (∃ (s : State) (p : PinRef) (x : Pin), x = pinEntry s p ∧ pinOk p = true ∧ x.level = true ∧ x.stuck = false ∧
      pinGated s p = false)
∧ (∃ (s : State) (p : PinRef) (x : Pin), x = pinEntry s p ∧ pinOk p = true ∧ x.stuck = true ∧ pinGated s p = false)
∧ (∃ (s : State) (p : PinRef) (x : Pin), x = pinEntry s p ∧ pinOk p = true ∧ x.stuck = true ∧ pinGated s p = true)
∧ (∃ (s : State) (w : Writer) (f : Nat) (v : Nat), Granted s w .FS_FSW f ∧ fieldOk f = true ∧ (isSeq w f = true ∨
      s.isOwner w = true) ∧ bit v 33 = true)
∧ (∃ (s : State) (w : Writer), Granted s w .CC_FAULT_CTL 0 ∧ s.isOwner w = true)
∧ (∃ (s : State) (w : Writer) (f : Nat) (i : Nat), Granted s w .FS_PIN_SEL f ∧ fieldOk f = true ∧ notTenant w = true ∧
      i < 256)
∧ (∃ (s : State) (w : Writer) (f : Nat) (i : Nat), Granted s w .FS_PIN_CLR f ∧ fieldOk f = true ∧ notTenant w = true ∧
      i < 256 ∧ (s.pin f i).stuck = false)
∧ (∃ (s : State) (w : Writer) (k : Nat), Granted s w .CT_ERR_CAP k ∧ ctOk k = true ∧ notTenant w = true) :=
⟨⟨(rdy), (0), (0), _, rfl, by decide +kernel⟩,
⟨pinS pinSt, (0), (0), _, rfl, by decide +kernel⟩,
⟨(rdy), _, (0), rfl, by decide +kernel⟩,
⟨rdy.wr F.FS_FSW_open 0 1, _, (0), rfl, by decide +kernel⟩,
⟨rdy.wr F.CT_STOP_STAT_gated 0 1, (0), by decide +kernel⟩,
⟨(0), by decide +kernel⟩,
⟨pinS pinHi, .fs 0 0, _, rfl, by decide +kernel⟩,
⟨pinS pinHi, .fs 0 0, _, rfl, by decide +kernel⟩,
⟨pinS pinSt, .fs 0 0, _, (rfl), by decide +kernel⟩,
⟨{gatedS with errIn := [(0, pinSt)]}, .host 0 0, _, rfl, by decide +kernel⟩,
⟨(rdy), (.hmp), (0), 2^33, ⟨by decide +kernel, by decide +kernel⟩, by decide +kernel⟩,
⟨(rdy), (.hmp), ⟨by decide +kernel, by decide +kernel⟩, by decide +kernel⟩,
⟨(rdy), (.hmp), (0), (0), ⟨by decide +kernel, by decide +kernel⟩, by decide +kernel⟩,
⟨(rdy), (.hmp), (0), (0), ⟨by decide +kernel, by decide +kernel⟩, by decide +kernel⟩,
⟨(rdy), (.hmp), (0), ⟨by decide +kernel, by decide +kernel⟩, by decide +kernel⟩⟩
theorem test_witness_InjectionAndRecorder :
(∃ (s : State) (w : Writer) (v : Nat), Granted s w .CC_INJ_CMD 0 ∧ s.isOwner w = true ∧ bits v 0 3 ≠ 0 ∧ bits v 32 8 ≠
      0 ∧ injReason s (bits v 0 3) (bits v 8 24) (bits v 40 6) ≠ 0)
∧ (∃ (s : State) (w : Writer) (v : Nat), Granted s w .CC_INJ_CMD 0 ∧ s.isOwner w = true ∧ bits v 0 3 ≠ 0 ∧ bits v 32 8
      ≠ 0 ∧ injReason s (bits v 0 3) (bits v 8 24) (bits v 40 6) = 0)
∧ (∃ (s : State) (w : Writer) (v : Nat), Granted s w .CC_INJ_CMD 0 ∧ s.isOwner w = true ∧ bits v 32 8 = 0)
∧ (∃ (s : State) (f : Nat) (x : Fwd) (l : List Fwd), fieldOk f = true ∧ s.aonOnly = false ∧ takeFirst (fun (x : Fwd)
      => x.field == f) s.fwdQ = some (x, l) ∧ x.seq ≤ tget 0 s.fwdNext f)
∧ (∃ (s : State) (r : Nat) (code : Nat) (n : Nat) (b : Bucket), b = (s.rcdr r).bucket code ∧ fieldOk r = true ∧
      b.tokens = some n ∧ n + 1 < recBurst s r)
∧ (∃ (s : State) (w : Writer), Granted s w .CC_LOUPE_SEL 0 ∧ s.isOwner w = true ∧ loupeRec (s.rd
      F.CC_LOUPE_SEL_source) = none)
∧ (∃ (s : State) (w : Writer), Granted s w .CC_LOUPE_CUR 0 ∧ s.isOwner w = true)
∧ (∃ (s : State) (w : Writer), s.regReach w .CC_LOUPE_DATA 3 = true ∧ notTenant w = true)
∧ (∃ (s : State) (w : Writer), Granted s w .CC_REC_CLR 0 ∧ s.isOwner w = true ∧ loupeReach s 0 = true ∧ fieldOk 0 =
      true)
∧ (∃ (s : State) (t : State) (w : Writer) (v : Nat) (r : Nat), Granted s w .CC_LOUPE_FRZ 0 ∧ t = s.wr
      F.CC_LOUPE_FRZ_max_ms 0 (bits v 16 16) ∧ s.isOwner w = true ∧ bit v 0 = true ∧ loupeRec (t.rd
      F.CC_LOUPE_SEL_source) = some r ∧ r < 128 ∧ loupeReach t (t.rd F.CC_LOUPE_SEL_source) = true)
∧ (∃ (s : State) (t : State) (w : Writer) (v : Nat) (r : Nat), Granted s w .CC_LOUPE_FRZ 0 ∧ t = s.wr
      F.CC_LOUPE_FRZ_max_ms 0 (bits v 16 16) ∧ loupeRec (t.rd F.CC_LOUPE_SEL_source) = some r ∧ s.isOwner w = true ∧
      bit v 0 = false)
∧ (∃ (s : State) (r : Nat), fieldOk r = true ∧ (s.rcdr r).frozen = true)
∧ (∃ (s : State) (r : Nat), (s.rcdr r).frozen = false) :=
⟨⟨(rdy), (.hmp), 2^32 + 1, ⟨by decide +kernel, by decide +kernel⟩, by decide +kernel⟩,
⟨(rdy), (.hmp), 2^32 + ctUnit 0 * 256 + 1, ⟨by decide +kernel, by decide +kernel⟩, by decide +kernel⟩,
⟨(rdy), (.hmp), (0), ⟨by decide +kernel, by decide +kernel⟩, by decide +kernel⟩,
⟨{rdy with fwdQ := [fwd0]}, (0), fwd0, [], by decide +kernel⟩,
⟨{rdy with recs := [(0, {buckets := [(0, {tokens := some 0})]})]}, (0), (0), 0, _, rfl, by decide +kernel⟩,
⟨rdy.wr F.CC_LOUPE_SEL_source 0 0xFE, (.hmp), ⟨by decide +kernel, by decide +kernel⟩, by decide +kernel⟩,
⟨(rdy), (.hmp), ⟨by decide +kernel, by decide +kernel⟩, by decide +kernel⟩,
⟨(rdy), (.hmp), by decide +kernel⟩,
⟨(rdy), (.hmp), ⟨by decide +kernel, by decide +kernel⟩, by decide +kernel⟩,
⟨rdy.wr F.CC_LOUPE_SEL_source 0 0, _, (.hmp), 1, 0, ⟨by decide +kernel, by decide +kernel⟩, rfl, by decide +kernel⟩,
⟨(rdy), _, (.hmp), (0), _, ⟨by decide +kernel, by decide +kernel⟩, rfl, rfl, by decide +kernel⟩,
⟨{rdy with recs := [(0, {frozen := true})]}, (0), by decide +kernel⟩,
⟨(rdy), (0), by decide +kernel⟩⟩
theorem test_witness_ResetSteps :
(∃ (s : State) (t : State) (u : State) (e : Nat) (iv : Nat) (w : Wdog), iv = s.setting (engField e) 3 ∧ t = wdogSync e
      s ∧ w = tget {} t.wdogs e ∧ u = (((suspFreeze e
      { t.toWt (w.base + iv * (100 * us)) with wdogs := tput {} t.wdogs e { w with fired := true } }).bump
      F.CT_WDOG_STAT_hangs (engCt e)).wr F.CT_WDOG_STAT_engine (engCt e) (engInCt e)).wr F.CT_WDOG_STAT_context (engCt
      e) (tget 0 t.ctxSig e % 2 ^ 16) ∧ engOk e = true ∧ wdogStill t e = false ∧ w.fired = false ∧ iv ≠ 0 ∧
      quarantined t (engCore e) = false ∧ oldest u e = none)
∧ (∃ (s : State) (e : Nat), engOk e = true ∧ s.setting (engField e) 3 = 0)
∧ (∃ (s : State) (e : Nat), engOk e = true ∧ s.ctGated (engCt e) = true)
∧ (∃ (s : State) (u : State) (e : Nat) (cyc : Nat) (ctx : Nat), u = advCyc (engCt e) cyc s ∧ engOk e = true ∧
      s.ctGated (engCt e) = false ∧ tget 0 u.ctxSig e = 0 ∧ ctx < 2 ^ 16)
∧ (∃ (s : State) (t : State) (w : Writer) (v : Nat) (n : Nat), Granted s w .CC_RESET_CMD 0 ∧ scopeStart 0 (bits v 16
      22) (bits v 8 6) (bits v 38 16) 2 s = (n, t) ∧ s.isOwner w = true ∧ bits v 0 3 = 0)
∧ (∃ (s : State) (t : State) (w : Writer) (v : Nat) (n : Nat), Granted s w .CC_RESET_CMD 0 ∧ scopeStart 1 (bits v 16
      22) (bits v 8 6) (bits v 38 16) 2 s = (n, t) ∧ s.isOwner w = true ∧ bits v 0 3 = 1)
∧ (∃ (s : State) (t : State) (w : Writer) (v : Nat) (n : Nat), Granted s w .CC_RESET_CMD 0 ∧ partStart (bits v 8 6) 2
      s = (n, t) ∧ s.isOwner w = true ∧ bits v 0 3 = 2)
∧ (∃ (s : State) (t : State) (w : Writer) (v : Nat) (n : Nat), Granted s w .CC_RESET_CMD 0 ∧ waferStart 2 s = (n, t) ∧
      s.isOwner w = true ∧ bits v 0 3 = 3)
∧ (∃ (s : State) (t : State) (w : Writer) (v : Nat) (n : Nat), Granted s w .CC_RESET_CMD 0 ∧ powerStart 2 s = (n, t) ∧
      s.isOwner w = true ∧ bits v 0 3 = 4)
∧ (∃ (s : State) (t : State) (w : Writer) (v : Nat) (n : Nat), Granted s w .CC_RESET_CMD 0 ∧ returnPart (bits v 8 6) s
      = (n, t) ∧ s.isOwner w = true ∧ bits v 0 3 = 5)
∧ (∃ (s : State) (w : Writer) (v : Nat), Granted s w .CC_RESET_CMD 0 ∧ s.isOwner w = true ∧ bits v 0 3 = 6 ∧
      s.scrapped = false)
∧ (∃ (s : State) (scope : Nat), scope < 4 ∧ s.aonOnly = true)
∧ (∃ (s : State) (e : Nat), s.aonOnly = false ∧ engOk e = false)
∧ (∃ (s : State) (p : Nat), s.aonOnly = false ∧ s.phase p ≠ 5)
∧ (∃ (s : State) (e : Nat) (ctx : Nat), stepRefusal s 0 e ctx = none)
∧ (∃ (s : State) (c : Nat) (r : RStep) (l : List RStep), coreOk c = true ∧ s.ctGated (coreCt c) = false ∧ takeFirst
      (fun (r : RStep) => engCore r.eng == c && r.onPort) s.rsteps = some (r, l))
∧ (∃ (s : State) (c : Nat), coreOk c = true ∧ s.ctGated (coreCt c) = true)
∧ (∃ (s : State) (e : Nat) (r : RStep), engOk e = true ∧ s.rsteps.find? (fun r => r.scope == 0 && r.eng == e &&
      !r.fired && r.paused.isNone) = some r)
∧ (∃ (s : State) (p : Nat) (y : PReset), partOk p = true ∧ s.preset? p = some y ∧ y.kind = .reset ∧ s.phase p ≤ 2 ∧
      y.fired0 = false ∧ y.paused = none) :=
⟨⟨ctxS, _, _, (0), _, _, rfl, rfl, rfl, rfl, by decide +kernel⟩,
⟨{rdy with ctSet := [(3, 1)]}, (0), by decide +kernel⟩,
⟨rdy.wr F.CT_STOP_STAT_gated 0 1, (0), by decide +kernel⟩,
⟨(rdy), _, (0), (0), (0), rfl, by decide +kernel⟩,
⟨(rdy), _, (.hmp), (0), _, ⟨by decide +kernel, by decide +kernel⟩, rfl, by decide +kernel⟩,
⟨(rdy), _, (.hmp), 1, _, ⟨by decide +kernel, by decide +kernel⟩, rfl, by decide +kernel⟩,
⟨(rdy), _, (.hmp), 2, _, ⟨by decide +kernel, by decide +kernel⟩, rfl, by decide +kernel⟩,
⟨(rdy), _, (.hmp), 3, _, ⟨by decide +kernel, by decide +kernel⟩, rfl, by decide +kernel⟩,
⟨(rdy), _, (.hmp), 4, _, ⟨by decide +kernel, by decide +kernel⟩, rfl, by decide +kernel⟩,
⟨(rdy), _, (.hmp), 5, _, ⟨by decide +kernel, by decide +kernel⟩, rfl, by decide +kernel⟩,
⟨(rdy), (.hmp), 6, ⟨by decide +kernel, by decide +kernel⟩, by decide +kernel⟩,
⟨aon, (0), by decide +kernel⟩,
⟨(rdy), 384, by decide +kernel⟩,
⟨(rdy), (0), by decide +kernel⟩,
⟨ctxS, (0), (0), by decide +kernel⟩,
⟨{rdy with rsteps := [rst1]}, (0), rst1, [], by decide +kernel⟩,
⟨rdy.wr F.CT_STOP_STAT_gated 0 1, (0), by decide +kernel⟩,
⟨{rdy with rsteps := [rst0]}, (0), rst0, by decide +kernel⟩,
⟨preS 1 (part0 .reset), (0), part0 .reset, by decide +kernel⟩⟩
theorem test_witness_PartitionResets :
(∃ (s : State) (p : Nat) (x : PReset), partOk p = true ∧ s.preset? p = some x ∧ s.phase p = 1 ∧ x.iso = false)
∧ (∃ (s : State) (p : Nat), partOk p = true ∧ s.phase p ≠ 1)
∧ (∃ (s : State) (p : Nat) (x : PReset), partOk p = true ∧ s.preset? p = some x ∧ s.phase p = 1 ∧ x.iso = true ∧
      x.kind ≠ .scrub)
∧ (∃ (s : State) (p : Nat) (x : PReset), partOk p = true ∧ s.preset? p = some x ∧ s.phase p = 2 ∧ s.prtReq.contains p
      = true ∧ partGated s p = false ∧ x.kind ≠ .scrub ∧ x.kind ≠ .outage)
∧ (∃ (s : State) (p : Nat) (x : PReset), partOk p = true ∧ s.preset? p = some x ∧ s.phase p = 2 ∧ s.prtReq.contains p
      = true ∧ partGated s p = false ∧ x.kind ≠ .scrub ∧ x.kind = .outage)
∧ (∃ (s : State) (p : Nat) (x : PReset), partOk p = true ∧ s.preset? p = some x ∧ s.phase p = 3 ∧ x.releasing = false
      ∧ s.aonOnly = false ∧ x.left.all (fun m => trained s m) = true)
∧ (∃ (s : State) (p : Nat) (a : Nat) (x : PReset), partOk p = true ∧ s.preset? p = some x ∧ x.ackAt = some a ∧ s.phase
      p = 3 ∧ x.releasing = false ∧ x.fired1 = false ∧ x.paused = none)
∧ (∃ (s : State) (p : Nat) (x : PReset), partOk p = true ∧ s.preset? p = some x ∧ x.releasing = true ∧ tfind s.deseals
      p = none ∧ s.aonOnly = false ∧ x.kind ≠ .scrub)
∧ (∃ (s : State) (w : Writer) (j : Nat), Granted s w .CC_PART_FIELD j ∧ j < 16 ∧ s.isOwner w = true)
∧ (∃ (s : State) (w : Writer) (j : Nat), s.regReach w .CC_PART_CHAN j = true ∧ s.mayWrite w .CC_PART_CHAN j = false ∧
      j < 128)
∧ (∃ (s : State) (j : Nat) (v : Nat) (i : Nat) (q : Nat), q = bits v (8 * i) 6 ∧ fieldOk (8 * j + i) = true ∧ bits
      (s.regVal .CC_PART_FIELD j) (8 * i) 8 ≠ q ∧ partOk q = true ∧ (fieldHeld s (8 * j + i) = false ∨ s.phase q < 4)) :=
⟨⟨preS 1 (part0 .reset), (0), part0 .reset, by decide +kernel⟩,
⟨(rdy), (0), by decide +kernel⟩,
⟨preS 1 {part0 .reset with iso := true}, (0), {part0 .reset with iso := true}, by decide +kernel⟩,
⟨preS 2 (part0 .reset), (0), part0 .reset, by decide +kernel⟩,
⟨preS 2 (part0 .outage), (0), part0 .outage, by decide +kernel⟩,
⟨preS 3 (part0 .reset), (0), part0 .reset, by decide +kernel⟩,
⟨preS 3 {part0 .reset with ackAt := some 9}, (0), 9, {part0 .reset with ackAt := some 9}, by decide +kernel⟩,
⟨preS 3 {part0 .reset with releasing := true}, (0), {part0 .reset with releasing := true}, by decide +kernel⟩,
⟨(rdy), (.hmp), (0), ⟨by decide +kernel, by decide +kernel⟩, by decide +kernel⟩,
⟨(rdy), .tray, (0), by decide +kernel⟩,
⟨rdy.wr F.CC_FIELD_REL0_rel 0 1, (0), 1, (0), _, rfl, by decide +kernel⟩⟩
theorem test_witness_SuspectsAndReplays :
(∃ (s : State) (w : Writer) (k : Nat) (v : Nat), Granted s w .CT_SUSP_SEL k ∧ ctOk k = true ∧ notTenant w = true ∧ bit
      v 9 = false)
∧ (∃ (s : State) (w : Writer) (k : Nat) (v : Nat) (e : Nat), Granted s w .CT_SUSP_SEL k ∧ e = 512 * k + v % 512 ∧ ctOk
      k = true ∧ notTenant w = true ∧ bit v 9 = true)
∧ (∃ (s : State) (w : Writer) (f : Nat) (v : Nat) (x : CRep), Granted s w .FS_CREPLAY_CMD f ∧ fieldOk f = true ∧
      notTenant w = true ∧ s.fsWorks f = true ∧ tfind s.crep f = some x ∧ bit v 31 = false)
∧ (∃ (s : State) (w : Writer) (f : Nat) (v : Nat) (x : CRep), Granted s w .FS_CREPLAY_CMD f ∧ fieldOk f = true ∧
      notTenant w = true ∧ s.fsWorks f = true ∧ tfind s.crep f = some x ∧ bit v 31 = true)
∧ (∃ (s : State) (w : Writer) (f : Nat) (v : Nat), Granted s w .FS_CREPLAY_CMD f ∧ witnessOf s (engCore (f * 2 ^ 15 +
      v % 2 ^ 15)) = none ∧ fieldOk f = true ∧ notTenant w = true ∧ s.fsWorks f = true ∧ tfind s.crep f = none ∧ bit v
      31 = false ∧ s.aonOnly = false)
∧ (∃ (s : State) (t : State) (w : Writer) (f : Nat) (v : Nat) (c : Nat), Granted s w .FS_CREPLAY_CMD f ∧ fieldOk f =
      true ∧ notTenant w = true ∧ s.fsWorks f = true ∧ tfind s.crep f = none ∧ bit v 31 = false ∧ s.aonOnly = false ∧
      witnessOf s (engCore (f * 2 ^ 15 + v % 2 ^ 15)) = some c ∧ tryForce c s = (true, t))
∧ (∃ (s : State) (f : Nat) (x : CRep), fieldOk f = true ∧ tfind s.crep f = some x ∧ x.running = false)
∧ (∃ (s : State) (f : Nat) (x : CRep) (t : State) (e : Nat) (b : Nat), t = coreWdogs x.core s ∧ fieldOk f = true ∧
      tfind s.crep f = some x ∧ x.running = true ∧ nextExpiry t x.core = some (e, b))
∧ (∃ (s : State) (f : Nat) (x : CRep), fieldOk f = true ∧ tfind s.crep f = some x ∧ x.running = true ∧ nextExpiry
      (coreWdogs x.core s) x.core = none) :=
⟨⟨(rdy), (.hmp), (0), (0), ⟨by decide +kernel, by decide +kernel⟩, by decide +kernel⟩,
⟨(rdy), (.hmp), (0), 512, _, ⟨by decide +kernel, by decide +kernel⟩, rfl, by decide +kernel⟩,
⟨{rdy with crep := [(0, crep0)]}, (.hmp), (0), (0), crep0, ⟨by decide +kernel, by decide +kernel⟩, by decide +kernel⟩,
⟨{rdy with crep := [(0, crep0)]}, (.hmp), (0), 2^31, crep0, ⟨by decide +kernel, by decide +kernel⟩,
    by decide +kernel⟩,
⟨noCts, (.hmp), (0), (0), ⟨by decide +kernel, by decide +kernel⟩, (noCts_witness), by decide +kernel⟩,
let ⟨c, h, hc⟩ := rdy_witness; ⟨rdy, (tryForce c rdy).2, .hmp, 0, 0, c, ⟨by decide +kernel, by decide +kernel⟩,
    by decide +kernel, by decide +kernel, by decide +kernel, by decide +kernel, by decide +kernel, by decide +kernel,
    h, Prod.ext (rdy_force c hc) rfl⟩,
⟨{rdy with crep := [(0, crep0)]}, (0), crep0, by decide +kernel⟩,
⟨{ctxS with ctSet := [(3, 2)], crep := [(0, {crep0 with running := true})]}, (0), {crep0 with running := true}, _, 0,
    100000, rfl, by decide +kernel⟩,
⟨{rdy with crep := [(0, {crep0 with running := true})]}, (0), {crep0 with running := true}, by decide +kernel⟩⟩
theorem test_witness_CheckpointSave :
(∃ (s : State) (w : Writer) (word : Nat), Granted s w (ckptReg false word) 0 ∧ word < 4 ∧ s.isOwner w = true ∧
      s.scrapped = false ∧ shardBusy s (s.rd F.CC_CKPT_SHARD_SEL_index) = false)
∧ (∃ (s : State) (w : Writer) (word : Nat), Granted s w (ckptReg true word) 0 ∧ word < 4 ∧ s.isOwner w = true ∧
      hostBusy s (s.rd F.CC_CKPT_HOST_SEL_index) = true)
∧ (∃ (s : State) (w : Writer) (word : Nat), Granted s w (ckptReg true word) 0 ∧ word < 4 ∧ s.isOwner w = true ∧
      s.scrapped = false ∧ hostBusy s (s.rd F.CC_CKPT_HOST_SEL_index) = false)
∧ (∃ (s : State) (w : Writer) (v : Nat), Granted s w .CC_CKPT_CMD 0 ∧ partOk (bits v 3 6) = true ∧ s.ownerOrTenant w
      (bits v 3 6) = true ∧ s.scrapped = false ∧ ckptOpen s (bits v 3 6) = true)
∧ (∃ (s : State) (w : Writer) (v : Nat), Granted s w .CC_CKPT_CMD 0 ∧ partOk (bits v 3 6) = true ∧ s.ownerOrTenant w
      (bits v 3 6) = true ∧ s.scrapped = false ∧ ckptOpen s (bits v 3 6) = false ∧ tfind s.scrubs (bits v 3 6) = none
      ∧ partShards s (bits v 3 6) = [])
∧ (∃ (s : State) (t : State) (u : State) (r : State) (w : Writer) (v : Nat) (p : Nat) (m : Nat) (k : Nat) (a : Nat)
      (tab : List MemRd) (b : List Byte) (l : List (Nat × Words4)), Granted s w .CC_CKPT_CMD 0 ∧ p = bits v 3 6 ∧ l =
      partShards s p ∧ t = s.wr F.CC_CKPT_STAT_captured p 0 ∧ a = t.rd F.CC_CKPT_ARG2_d p ∧ m = bits a 0 10 ∧
      readTable m (bits a 16 29) tab [0, 1, 2, 3] t = (some b, u) ∧ u.drawKey = (k, r) ∧ partOk p = true ∧
      s.ownerOrTenant w p = true ∧ s.scrapped = false ∧ ckptOpen s p = false ∧ tfind s.scrubs p = none ∧ 1 ≤ l.length
      ∧ l.length ≤ 26 ∧ bits v 13 9 ≤ 256 ∧ ckptBar t p l = none ∧ l.any (fun e => shardShort (quorum t p) e.2) =
      false ∧ (t.chansOf p).contains m = true ∧ bits a 16 29 + 4 ≤ chanBlocks t m)
∧ (∃ (s : State) (p : Nat) (shard : Nat) (partner : Nat) (ok : Bool) (x : Save) (y : Save), y = x.shard shard (fun z
      => { z with wait := z.wait.filter (· != partner), acc := if ok = true then z.acc ++ [partner] else z.acc }) ∧
      partOk p = true ∧ tfind s.saves p = some x ∧ s.rd F.CC_CKPT_STAT_state p = 1 ∧ x.waits shard partner = true ∧
      y.shards.any (fun z => z.acc.length + z.wait.length < quorum s p) = true)
∧ (∃ (s : State) (p : Nat) (shard : Nat) (partner : Nat) (ok : Bool) (x : Save) (y : Save), y = x.shard shard (fun z
      => { z with wait := z.wait.filter (· != partner), acc := if ok = true then z.acc ++ [partner] else z.acc }) ∧
      partOk p = true ∧ tfind s.saves p = some x ∧ s.rd F.CC_CKPT_STAT_state p = 1 ∧ x.waits shard partner = true ∧
      y.shards.any (fun z => z.acc.length + z.wait.length < quorum s p) = false)
∧ (∃ (s : State) (t : State) (p : Nat) (l : List MemRd) (x : Save) (ys : List SavShard) (ok : Bool), x.shards.foldl
      (fun a y => (a.1 ++ [{ y with root := (drainShard x.key x.buf y.ent l a.2.2).1, wait := y.acc }], a.2.1 &&
      (drainShard x.key x.buf y.ent l a.2.2).2.1, (drainShard x.key x.buf y.ent l a.2.2).2.2)) (([] : List SavShard),
      true, s) = (ys, ok, t) ∧ partOk p = true ∧ tfind s.saves p = some x ∧ s.rd F.CC_CKPT_STAT_state p = 2 ∧
      drainStalls s = false ∧ stageFree s x.chans = true)
∧ (∃ (s : State) (p : Nat) (x : Save), partOk p = true ∧ tfind s.saves p = some x ∧ stageFree s x.chans = false)
∧ (∃ (s : State) (p : Nat) (shard : Nat) (partner : Nat) (ok : Bool) (x : Save) (y : Save) (z : Save), y = x.shard
      shard (fun z =>
      { z with wait := z.wait.filter (· != partner), mat := if ok = true then z.mat ++ [partner] else z.mat }) ∧ z =
      { y with shards := y.shards.map (fun (u : SavShard) => { u with wait := u.mat }) } ∧ partOk p = true ∧ tfind
      s.saves p = some x ∧ s.rd F.CC_CKPT_STAT_state p = 3 ∧ x.waits shard partner = true ∧ y.shards.any (fun z =>
      z.mat.length + z.wait.length < quorum s p) = true)
∧ (∃ (s : State) (p : Nat) (shard : Nat) (partner : Nat) (ok : Bool) (x : Save) (y : Save) (z : Save), y = x.shard
      shard (fun z =>
      { z with wait := z.wait.filter (· != partner), mat := if ok = true then z.mat ++ [partner] else z.mat }) ∧ z =
      { y with shards := y.shards.map (fun (u : SavShard) => { u with wait := u.mat }) } ∧ partOk p = true ∧ tfind
      s.saves p = some x ∧ s.rd F.CC_CKPT_STAT_state p = 3 ∧ x.waits shard partner = true ∧ y.shards.any (fun z =>
      z.mat.length + z.wait.length < quorum s p) = false ∧ y.shards.all (fun z => quorum s p ≤ z.mat.length) = true)
∧ (∃ (s : State) (p : Nat) (shard : Nat) (partner : Nat) (x : Save), partOk p = true ∧ tfind s.saves p = some x ∧ s.rd
      F.CC_CKPT_STAT_state p = 4 ∧ x.waits shard partner = true)
∧ (∃ (s : State) (p : Nat) (x : Save), partOk p = true ∧ tfind s.saves p = some x ∧ 3 ≤ s.rd F.CC_CKPT_STAT_state p ∧
      drainStalls s = false) :=
⟨⟨(rdy), (.hmp), (0), ⟨by decide +kernel, by decide +kernel⟩, by decide +kernel⟩,
⟨{rdy with hosting := [(0, {slot := 0, len := 0, key := 0, step := 0})]}, (.hmp), (0), (⟨by decide +kernel,
    by decide +kernel⟩), by decide +kernel⟩,
⟨rdy, (.hmp), (0), ⟨by decide +kernel, by decide +kernel⟩, by decide +kernel⟩,
⟨savS 1 save0, (.hmp), (0), ⟨by decide +kernel, by decide +kernel⟩, by decide +kernel⟩,
⟨(rdy), (.hmp), (0), ⟨by decide +kernel, by decide +kernel⟩, by decide +kernel⟩,
⟨shardS.wr F.MT_SLEEVE_CFG_cap_log2 0 30, _, _, _, (.hmp), (0), _, _, _, _, tab0, _, _, ⟨by decide +kernel,
    by decide +kernel⟩, rfl, rfl, rfl, rfl, rfl, (pair_of_some [] tab0_read), rfl, by decide +kernel⟩,
⟨savS 1 save0, (0), (0), (0), false, save0, _, rfl, by decide +kernel⟩,
⟨savS 1 save0, (0), (0), (0), true, save0, _, rfl, by decide +kernel⟩,
⟨savS 2 save0, _, (0), {}, save0, _, _, (rfl), by decide +kernel⟩,
⟨{noPool with saves := [(0, {save0 with shards := [{svsh0 with ent := {w0 := 64, w1 := 1, w3 := 2 ^ 20}}]})]}, (0),
    {save0 with shards := [{svsh0 with ent := {w0 := 64, w1 := 1, w3 := 2 ^ 20}}]}, by decide +kernel⟩,
⟨savS 3 save0, (0), (0), (0), false, save0, _, _, rfl, rfl, by decide +kernel⟩,
⟨savS 3 save0, (0), (0), (0), true, save0, _, _, rfl, rfl, by decide +kernel⟩,
⟨savS 4 save0, (0), (0), (0), save0, by decide +kernel⟩,
⟨savS 3 save0, (0), save0, by decide +kernel⟩⟩
theorem test_witness_CheckpointHost :
(∃ (s : State) (h : Nat) (wafer : Nat) (part : Nat) (shard : Nat) (count : Nat) (len : Nat) (x : Words4), x = s.host h
      ∧ x.hValid = true ∧ x.hWafer = wafer ∧ x.hPart = part ∧ x.hShard = shard ∧ x.hChans.length = count ∧ len ≤
      x.hLen ∧ x.hChans.all (fun m => mtOk m && s.chanFree m && !mtOrphan s m) = true ∧ s.aonOnly = false ∧ s.scrapped
      = false)
∧ (∃ (s : State) (h : Nat) (wafer : Nat), (s.host h).hWafer ≠ wafer)
∧ (∃ (s : State) (h : Nat) (k : Nat) (j : Nat) (m : Nat) (x : HSess), tfind s.hosting h = some x ∧ (s.host
      h).hChans[k]? = some m ∧ s.aonOnly = false ∧ drainStalls s = false ∧ mtOrphan s m = false ∧ j < x.len ∧
      stageFree s [m] = true)
∧ (∃ (s : State) (h : Nat), tfind s.hosting h = none)
∧ (∃ (s : State) (h : Nat) (root : Nat) (x : HSess), tfind s.hosting h = some x ∧ hostRoot (s.host h).hChans.length x
      = some root)
∧ (∃ (s : State) (h : Nat) (root : Nat) (x : HSess), tfind s.hosting h = some x ∧ hostRoot (s.host h).hChans.length x
      ≠ some root)
∧ (∃ (s : State) (h : Nat) (x : HSess), tfind s.hosting h = some x ∧ x.matched = false)
∧ (∃ (s : State) (h : Nat) (x : Words4), x = s.host h ∧ x.hValid = true ∧ x.hHeld = true ∧ s.aonOnly = false ∧
      x.hChans.all (fun m => !mtOrphan s m) = true)
∧ (∃ (s : State) (h : Nat), (s.host h).hHeld = false)
∧ (∃ (s : State) (t : State) (k : State) (u : State) (m : Nat) (b : Nat) (v : Nat), t = s.bumpWrap
      F.MT_SHADOW_STAT_out m ∧ k = (t.drawFree 16384).2 ∧ mtRead m b (leBytes 2048 (t.drawFree 16384).1)
      ((k.drawFree 1).1 == 1) (k.drawFree 1).2 = (v, u))
∧ (∃ (s : State) (w : Writer) (v : Nat) (p : Nat), Granted s w .CC_CKPT_CMD 0 ∧ p = bits v 3 6 ∧ partOk p = true ∧
      s.ownerOrTenant w p = true ∧ s.scrapped = false ∧ ckptOpen s p = true)
∧ (∃ (s : State) (w : Writer) (v : Nat) (p : Nat), Granted s w .CC_CKPT_CMD 0 ∧ p = bits v 3 6 ∧ partOk p = true ∧
      s.ownerOrTenant w p = true ∧ s.scrapped = false ∧ ckptOpen s p = false ∧ tfind s.scrubs p = none ∧ restoreBar s
      p (partShards s p) = none ∧ bits v 11 2 ≠ 0)
∧ (∃ (s : State) (p : Nat) (r : Restore), partOk p = true ∧ tfind s.restores p = some r ∧ drainStalls s = false ∧
      stageFree s (partShadowChans s p) = true ∧ r.src = 0)
∧ (∃ (s : State) (p : Nat) (r : Restore), partOk p = true ∧ tfind s.restores p = some r ∧ drainStalls s = false ∧
      stageFree s (partShadowChans s p) = true ∧ (r.src = 1 ∨ r.src = 2))
∧ (∃ (s : State) (p : Nat) (r : Restore), partOk p = true ∧ tfind s.restores p = some r ∧ drainStalls s = false ∧
      stageFree s (partShadowChans s p) = true ∧ r.src = 3)
∧ (∃ (s : State) (p : Nat) (r : Restore), partOk p = true ∧ tfind s.restores p = some r ∧ drainStalls s = false ∧
      stageFree s (partShadowChans s p) = true ∧ r.src ≠ 0)
∧ (∃ (a : List Byte) (b : List Byte), a ≠ [] ∧ b ≠ [])
∧ (∃ (s : State) (w : Writer) (v : Nat) (p : Nat), Granted s w .CC_CKPT_CMD 0 ∧ p = bits v 3 6 ∧ partOk p = true ∧
      s.ownerOrTenant w p = true ∧ s.scrapped = false ∧ ckptOpen s p = false ∧ tfind s.scrubs p = none ∧ (restoreBar s
      p (partShards s p)).isSome = true) :=
⟨⟨{freeS with hosts := [(0, host0)]}, (0), (0), (0), (0), 1, (0), _, rfl, by decide +kernel⟩,
⟨(rdy), (0), 1, by decide +kernel⟩,
⟨hostS hs0, (0), (0), (0), 0, hs0, by decide +kernel⟩,
⟨(rdy), (0), by decide +kernel⟩,
⟨hostS {hs0 with len := 0}, (0), _, _, rfl, rfl⟩,
⟨hostS hs0, (0), (0), hs0, by decide +kernel⟩,
⟨hostS hs0, (0), hs0, by decide +kernel⟩,
⟨hostS hs0, (0), _, rfl, by decide +kernel⟩,
⟨(rdy), (0), by decide +kernel⟩,
⟨(rdy), _, _, _, (0), (0), _, rfl, rfl, rfl⟩,
⟨savS 1 save0, (.hmp), (0), _, ⟨by decide +kernel, by decide +kernel⟩, rfl, by decide +kernel⟩,
⟨(rdy), (.hmp), 2^11, _, (⟨by decide +kernel, by decide +kernel⟩), (rfl), by decide +kernel⟩,
⟨{rdy with restores := [(0, ⟨0, 0, false⟩)]}, (0), ⟨0, 0, false⟩, by decide +kernel⟩,
⟨{rdy with restores := [(0, ⟨0, 1, false⟩)]}, (0), ⟨0, 1, false⟩, by decide +kernel⟩,
⟨{rdy with restores := [(0, ⟨0, 3, false⟩)]}, (0), ⟨0, 3, false⟩, by decide +kernel⟩,
⟨{rdy with restores := [(0, ⟨0, 1, false⟩)]}, (0), ⟨0, 1, false⟩, by decide +kernel⟩,
⟨[0], [0], by decide +kernel⟩,
⟨freeS.wr F.CC_PART_STAT_phase 0 1, (.hmp), (0), _, ⟨by decide +kernel, by decide +kernel⟩, rfl, by decide +kernel⟩⟩
theorem test_witness_Barriers :
(∃ (s : State) (u : State) (e : Nat) (cyc : Nat) (c : Nat) (r : Nat), u = advCyc (engCt e) cyc s ∧ barBad u e c = some
      r ∧ engOk e = true ∧ s.ctGated (engCt e) = false)
∧ (∃ (s : State) (c : Nat), barOn s c = false)
∧ (∃ (s : State) (e : Nat) (c : Nat), barOn s c = true ∧ barPart s c ≠ s.partOf (engField e))
∧ (∃ (s : State) (e : Nat) (c : Nat), barOn s c = true ∧ barPart s c = s.partOf (engField e))
∧ (∃ (s : State) (u : State) (e : Nat) (cyc : Nat) (c : Nat), u = advCyc (engCt e) cyc s ∧ engOk e = true ∧ s.ctGated
      (engCt e) = false ∧ barBad u e c = none ∧ tfind u.bars (barKey e c) = none)
∧ (∃ (s : State) (u : State) (e : Nat) (cyc : Nat) (c : Nat) (k : Nat) (r : Nat), u = advCyc (engCt e) cyc s ∧ k = 0 ∧
      engOk e = true ∧ s.ctGated (engCt e) = false ∧ barBad u e c = none ∧ tfind u.bars (barKey e c) = some ⟨k, r⟩)
∧ (∃ (s : State) (u : State) (e : Nat) (cyc : Nat) (c : Nat) (k : Nat) (r : Nat), u = advCyc (engCt e) cyc s ∧ k = 1 ∧
      engOk e = true ∧ s.ctGated (engCt e) = false ∧ barBad u e c = none ∧ tfind u.bars (barKey e c) = some ⟨k, r⟩)
∧ (∃ (s : State) (u : State) (e : Nat) (cyc : Nat) (c : Nat) (k : Nat) (r : Nat), u = advCyc (engCt e) cyc s ∧ engOk e
      = true ∧ s.ctGated (engCt e) = false ∧ barBad u e c = none ∧ tfind u.bars (barKey e c) = some ⟨k, r⟩ ∧ 2 ≤ k)
∧ (∃ (s : State) (c : Nat) (l : List (Nat × BarPart)), l = barMembers s c ∧ s.aonOnly = false ∧ barOn s c = true ∧ l ≠
      [] ∧ l.all (fun e => decide (1 ≤ e.2.k)) = true ∧ (tget {} s.barCh c : BarCh).phase = 0 ∧ l.any (fun e => tget
      false s.barWait (32 * engCt (e.1 / 32) + c)) = false)
∧ (∃ (s : State) (c : Nat), ((barMembers s c).any (fun e => e.2.k == 0) = true ∨ barOn s c = false))
∧ (∃ (s : State) (c : Nat) (x : BarCh), x = tget {} s.barCh c ∧ x.phase = 1)
∧ (∃ (s : State) (c : Nat) (x : BarCh), x = tget {} s.barCh c ∧ x.phase = 2)
∧ (∃ (s : State) (w : Writer) (c : Nat), Granted s w .CC_BAR_CFG c ∧ c < 32 ∧ notTenant w = true) :=
⟨⟨(rdy), _, (0), (0), (0), _, rfl, rfl, by decide +kernel⟩,
⟨(rdy), (0), by decide +kernel⟩,
⟨barS.wr F.CC_BAR_CFG_partition 0 1, (0), (0), by decide +kernel⟩,
⟨barS, (0), (0), by decide +kernel⟩,
⟨barS, _, (0), (0), (0), rfl, by decide +kernel⟩,
⟨{barS with bars := [(0, ⟨0, 2⟩)]}, _, (0), (0), (0), 0, 2, rfl, by decide, by decide +kernel⟩,
⟨{barS with bars := [(0, ⟨1, 2⟩)]}, _, (0), (0), (0), 1, 2, rfl, by decide, by decide +kernel⟩,
⟨{barS with bars := [(0, ⟨2, 2⟩)]}, _, (0), (0), (0), 2, 2, rfl, by decide +kernel⟩,
⟨{barS with bars := [(0, ⟨1, 2⟩)]}, (0), _, rfl, by decide +kernel⟩,
⟨(rdy), (0), by decide +kernel⟩,
⟨{barS with barCh := [(0, ⟨1, 0⟩)]}, (0), _, rfl, by decide +kernel⟩,
⟨{barS with barCh := [(0, ⟨2, 0⟩)]}, (0), _, rfl, by decide +kernel⟩,
⟨(rdy), (.hmp), (0), ⟨by decide +kernel, by decide +kernel⟩, by decide +kernel⟩⟩
theorem test_witness_StopCommands :
(∃ (s : State) (w : Writer), Granted s w .CC_STOP_CMD 0 ∧ (s.isOwner w = true ∨ isSeq w 128 = true) ∧ s.stop.isSome =
      true)
∧ (∃ (s : State) (w : Writer), Granted s w .CC_STOP_CMD 0 ∧ (s.isOwner w = true ∨ isSeq w 128 = true) ∧ s.stop = none
      ∧ s.aonOnly = true)
∧ (∃ (s : State) (w : Writer), Granted s w .CC_STOP_CMD 0 ∧ (s.isOwner w = true ∨ isSeq w 128 = true) ∧ s.stop = none
      ∧ s.aonOnly = false)
∧ (∃ (s : State) (w : Writer) (x : _), Granted s w .CC_STOP_CMD 0 ∧ (s.isOwner w = true ∨ isSeq w 128 = true) ∧ s.stop
      = some x ∧ x.sampled = true)
∧ (∃ (s : State) (w : Writer) (x : _), Granted s w .CC_STOP_CMD 0 ∧ (s.isOwner w = true ∨ isSeq w 128 = true) ∧ s.stop
      = some x ∧ x.sampled = false)
∧ (∃ (s : State) (w : Writer), Granted s w .CC_STOP_CMD 0 ∧ (s.isOwner w = true ∨ isSeq w 128 = true) ∧ inForce s =
      none)
∧ (∃ (s : State) (w : Writer) (x : Stop), Granted s w .CC_STOP_CMD 0 ∧ (s.isOwner w = true ∨ isSeq w 128 = true) ∧
      inForce s = some x ∧ s.freezeWire = true)
∧ (∃ (s : State) (w : Writer) (x : Stop), Granted s w .CC_STOP_CMD 0 ∧ (s.isOwner w = true ∨ isSeq w 128 = true) ∧
      inForce s = some x ∧ s.freezeWire = false ∧ s.aonOnly = false ∧ x.tRun = none)
∧ (∃ (s : State) (w : Writer), Granted s w .CC_STOP_CMD 0 ∧ s.isOwner w = true)
∧ (∃ (s : State) (w : Writer), Granted s w .CC_STOP_CMD 0 ∧ s.isOwner w = false ∧ isSeq w 128 = false) :=
⟨⟨stopS stop0, (.hmp), ⟨by decide +kernel, by decide +kernel⟩, by decide +kernel⟩,
⟨aon, (.hmp), ⟨by decide +kernel, by decide +kernel⟩, by decide +kernel⟩,
⟨(rdy), (.hmp), ⟨by decide +kernel, by decide +kernel⟩, by decide +kernel⟩,
⟨stopS {stop0 with sampled := true}, (.hmp), {stop0 with sampled := true}, ⟨by decide +kernel, by decide +kernel⟩,
    by decide +kernel⟩,
⟨stopS stop0, (.hmp), stop0, ⟨by decide +kernel, by decide +kernel⟩, by decide +kernel⟩,
⟨(rdy), (.hmp), ⟨by decide +kernel, by decide +kernel⟩, by decide +kernel⟩,
⟨{stopS stop0 with freezeWire := true}, (.hmp), stop0, ⟨by decide +kernel, by decide +kernel⟩, by decide +kernel⟩,
⟨stopS stop0, (.hmp), stop0, ⟨by decide +kernel, by decide +kernel⟩, by decide +kernel⟩,
⟨(rdy), (.hmp), ⟨by decide +kernel, by decide +kernel⟩, by decide +kernel⟩,
⟨(rdy), .tray, ⟨by decide +kernel, by decide +kernel⟩, by decide +kernel⟩⟩
theorem test_witness_StopCourse :
(∃ (s : State) (k : Nat) (f : Nat) (x : Stop), unitField (ctUnit k) = some f ∧ unitPresent (ctUnit k) = true ∧
      unitKind (ctUnit k) = 1 ∧ unitType (ctUnit k) = 2 ∧ unitInst (ctUnit k) = k ∧ s.stop = some x ∧ x.sampled =
      false ∧ s.fieldLive f = true)
∧ (∃ (s : State) (x : Stop), s.stop = some x ∧ x.sampled = false ∧ s.aonOnly = false)
∧ (∃ (s : State) (l : Nat) (id : Nat) (x : Stop), ltOk l = true ∧ s.stop = some x ∧ x.joined = true ∧ x.id = id ∧
      x.done = false ∧ x.tRun = none)
∧ (∃ (s : State) (x : Stop), inForce s = some x ∧ x.done = false)
∧ (∃ (s : State) (x : Stop), inForce s = some x ∧ x.done = true)
∧ (∃ (s : State) (l : Nat), ltOk l = true ∧ tget false s.ltUp l = true)
∧ (∃ (s : State) (l : Nat) (id : Nat), ltOk l = true ∧ s.joinIds.contains id = true)
∧ (∃ (s : State) (l : Nat) (id : Nat), ltOk l = true ∧ s.joinIds.contains id = false ∧ s.rd
      F.CC_STOP_CFG_accept_joined = 0)
∧ (∃ (s : State) (l : Nat) (id : Nat) (lead : Nat), ltOk l = true ∧ s.joinIds.contains id = false ∧ s.rd
      F.CC_STOP_CFG_accept_joined ≠ 0 ∧ s.stop = none ∧ s.aonOnly = false ∧ minLead ≤ lead - s.rd
      F.LT_STOP_STAT_lat_ns l)
∧ (∃ (s : State) (l : Nat) (x : Stop), ltOk l = true ∧ inForce s = some x ∧ s.freezeWire = true)
∧ (∃ (s : State) (l : Nat) (id : Nat) (x : Stop), ltOk l = true ∧ inForce s = some x ∧ s.freezeWire = false ∧ x.id =
      id ∧ x.tRun = none ∧ s.aonOnly = false)
∧ (∃ (s : State) (x : Stop) (d : Nat), inForce s = some x ∧ x.tRun = some d ∧ s.aonOnly = false)
∧ (∃ (s : State) (x : Stop) (d : Nat), s.stop = some x ∧ x.tRun = some d ∧ x.gated = false)
∧ (∃ (s : State) (w : Writer) (v : Nat), Granted s w .CC_SHEET_CMD 0 ∧ s.isOwner w = true ∧ bits v 0 2 = 1 ∧ (inForce
      s = none ∨ s.freezeWire = false ∨ s.sheet.isSome = true))
∧ (∃ (s : State) (w : Writer), Granted s w .CC_SHEET_CMD 0 ∧ s.isOwner w = true ∧ s.sheet.isSome = true)
∧ (∃ (s : State) (w : Writer) (v : Nat), Granted s w .CC_SHEET_CMD 0 ∧ s.isOwner w = true ∧ bits v 0 2 = 1 ∧ (inForce
      s).isSome = true ∧ s.freezeWire = true ∧ s.sheet = none ∧ bit v 2 = true ∧ (List.range Config.nPart).any (fun p
      => s.sealed p) = false)
∧ (∃ (s : State) (need : Nat) (x : Sheet), s.rd F.CC_SHEET_STAT_state = 2 ∧ s.aonOnly = false ∧ s.sheet = some x ∧
      x.dest = 0 ∧ sheetCap s < need)
∧ (∃ (s : State) (need : Nat) (x : Sheet), s.rd F.CC_SHEET_STAT_state = 2 ∧ s.aonOnly = false ∧ s.sheet = some x ∧
      (x.dest ≠ 0 ∨ need ≤ sheetCap s)) :=
⟨⟨stopS stop0, (0), _, stop0, rfl, by decide +kernel⟩,
⟨stopS stop0, stop0, by decide +kernel⟩,
⟨stopS {stop0 with joined := true}, (0), (0), {stop0 with joined := true}, by decide +kernel⟩,
⟨stopS stop0, stop0, by decide +kernel⟩,
⟨stopS {stop0 with done := true}, {stop0 with done := true}, by decide +kernel⟩,
⟨{rdy with ltUp := [(0, true)]}, (0), by decide +kernel⟩,
⟨{rdy with joinIds := [0]}, (0), (0), by decide +kernel⟩,
⟨(rdy), (0), (0), by decide +kernel⟩,
⟨rdy.wr F.CC_STOP_CFG_accept_joined 0 1, (0), (0), 99999, by decide +kernel⟩,
⟨{stopS stop0 with freezeWire := true}, (0), stop0, by decide +kernel⟩,
⟨stopS stop0, (0), (0), stop0, by decide +kernel⟩,
⟨stopS {stop0 with tRun := some 9}, {stop0 with tRun := some 9}, 9, by decide +kernel⟩,
⟨stopS {stop0 with tRun := some 9, gated := false}, {stop0 with tRun := some 9, gated := false}, 9,
    by decide +kernel⟩,
⟨(rdy), (.hmp), 1, ⟨by decide +kernel, by decide +kernel⟩, by decide +kernel⟩,
⟨{rdy with sheet := some sheet0}, (.hmp), ⟨by decide +kernel, by decide +kernel⟩, by decide +kernel⟩,
⟨{stopS stop0 with freezeWire := true}, (.hmp), 5, ⟨by decide +kernel, by decide +kernel⟩, by decide +kernel⟩,
⟨{rdy.wr F.CC_SHEET_STAT_state 0 2 with sheet := some sheet0}, 1, sheet0, by decide +kernel⟩,
⟨{rdy.wr F.CC_SHEET_STAT_state 0 2 with sheet := some sheet0}, 0, sheet0, by decide +kernel⟩⟩
theorem test_witness_SealLifecycleAndKeys :
(∃ (s : State) (w : Writer) (v : Nat), Granted s w .CC_LIFECYCLE 0 ∧ (s.isOwner w = false ∨ bits v 16 8 ≠ 0xA5 ∨ (bits
      v 8 3 ≠ s.lifecycle + 1 ∧ bits v 8 3 ≠ 4) ∨ s.lifecycle = 4 ∨ s.lifeNext.isSome = true))
∧ (∃ (s : State) (w : Writer) (v : Nat), Granted s w .CC_LIFECYCLE 0 ∧ s.isOwner w = true ∧ bits v 16 8 = 0xA5 ∧
      s.lifeNext = none ∧ bits v 8 3 = s.lifecycle + 1 ∧ bits v 8 3 < 3)
∧ (∃ (s : State) (t : State) (w : Writer) (v : Nat), Granted s w .CC_LIFECYCLE 0 ∧ t = lifecycleClear s ∧ s.isOwner w
      = true ∧ bits v 16 8 = 0xA5 ∧ s.lifeNext = none ∧ s.lifecycle < 4 ∧ bits v 8 3 = 4 ∧ t.deseals ≠ [])
∧ (∃ (s : State) (w : Writer), Granted s w .CC_TRUST_GROUP 0 ∧ s.isOwner w = true ∧ (∀ p, p < Config.nPart → s.sealed
      p = false))
∧ (∃ (s : State) (w : Writer), s.regReach w .CC_TRUST_GROUP 0 = true ∧ s.mayWrite w .CC_TRUST_GROUP 0 = false)
∧ (∃ (s : State) (w : Writer) (p : Nat), Granted s w .CC_TRUST_GROUP 0 ∧ p < Config.nPart ∧ s.sealed p = true)
∧ (∃ (s : State) (l : Nat), ltOk l = true ∧ tget false s.ltUp l = true)
∧ (∃ (s : State) (l : Nat), ltOk l = true ∧ tget false s.ltUp l = false)
∧ (∃ (s : State) (w : Writer) (m : Nat) (i : Nat), Granted s w .MT_SEAL_RGN_A (8 * m + i) ∧ mtOk m = true ∧ i < 8 ∧
      s.rb F.MT_SEAL_STAT_key m = true)
∧ (∃ (s : State) (t : State) (w : Writer) (m : Nat) (i : Nat) (v : Nat), Granted s w .MT_SEAL_RGN_A (8 * m + i) ∧ t =
      ((s.wr F.MT_SEAL_RGN_A_base (8 * m + i) (bits v 0 29)).wr F.MT_SEAL_RGN_A_valid (8 * m + i) (bits v 29 1)).wr
      F.MT_SEAL_RGN_A_region_id (8 * m + i) (bits v 32 32) ∧ mtOk m = true ∧ i < 8 ∧ s.rb F.MT_SEAL_STAT_key m = false
      ∧ s.isOwner w = true ∧ (s.chanFree m = true ∨ s.sealed (s.partOfChan m) = false) ∧ rgnValid t m i = true ∧
      regionBad t m i = true)
∧ (∃ (s : State) (t : State) (w : Writer) (m : Nat) (i : Nat) (v : Nat), Granted s w .MT_SEAL_RGN_A (8 * m + i) ∧ t =
      ((s.wr F.MT_SEAL_RGN_A_base (8 * m + i) (bits v 0 29)).wr F.MT_SEAL_RGN_A_valid (8 * m + i) (bits v 29 1)).wr
      F.MT_SEAL_RGN_A_region_id (8 * m + i) (bits v 32 32) ∧ mtOk m = true ∧ i < 8 ∧ s.rb F.MT_SEAL_STAT_key m = false
      ∧ s.isOwner w = true ∧ (s.chanFree m = true ∨ s.sealed (s.partOfChan m) = false) ∧ (rgnValid t m i = true →
      regionBad t m i = false))
∧ (∃ (s : State) (t : State) (w : Writer) (m : Nat) (i : Nat) (v : Nat), Granted s w .MT_SEAL_RGN_B (8 * m + i) ∧ t =
      (s.wr F.MT_SEAL_RGN_B_length (8 * m + i) (bits v 0 29)).wr F.MT_SEAL_RGN_B_tag_base (8 * m + i) (bits v 32 29) ∧
      mtOk m = true ∧ i < 8 ∧ s.rb F.MT_SEAL_STAT_key m = false ∧ s.isOwner w = true ∧ (s.chanFree m = true ∨ s.sealed
      (s.partOfChan m) = false) ∧ (rgnValid t m i = true → regionBad t m i = false))
∧ (∃ (s : State) (w : Writer) (p : Nat) (l : List Byte), Granted s w .CC_KEY_DATA 0 ∧ s.keyRecv = some (p, l) ∧
      s.ownerOrTenant w p = true ∧ l.length ≤ 192)
∧ (∃ (s : State) (w : Writer), Granted s w .CC_KEY_DATA 0 ∧ s.keyRecv = none)
∧ (∃ (s : State) (t : State) (w : Writer) (p : Nat) (r : Nat) (l : List Byte), Granted s w .CC_KEY_CMD 0 ∧ t =
      epochSync s ∧ keyCheck p l t = .error r ∧ partOk p = true ∧ p < 64 ∧ s.ownerOrTenant w p = true ∧ s.keyRecv =
      some (p, l))
∧ (∃ (s : State) (w : Writer) (p : Nat), Granted s w .CC_KEY_CMD 0 ∧ partOk p = true ∧ p < 64 ∧ s.ownerOrTenant w p =
      false)
∧ (∃ (l : List Byte), l.length ≠ 192)
∧ (∃ (s : State) (p : Nat) (l : List Byte), l.length = 192 ∧ leNat (l.take 4) = 0x574B5931 ∧ leNat (slice l 4 1) = 1 ∧
      leNat (slice l 5 1) = p ∧ nonceOf s (leNat (slice l 8 32)) = none)
∧ (∃ (s : State) (p : Nat) (l : List Byte) (x : _), l.length = 192 ∧ leNat (l.take 4) = 0x574B5931 ∧ leNat (slice l 4
      1) = 1 ∧ leNat (slice l 5 1) = p ∧ nonceOf s (leNat (slice l 8 32)) = some x ∧ s.wt ≤ x.wt + max 1 (s.rd
      F.CC_SEAL_CFG_nonce_s) * sec ∧ x.epochs.getD p 0 ≠ s.rd F.CC_PART_SEAL_epoch p) :=
⟨⟨(rdy), (.hmp), (0), ⟨by decide +kernel, by decide +kernel⟩, by decide +kernel⟩,
⟨(rdy), (.hmp), 0xA50100, ⟨by decide +kernel, by decide +kernel⟩, by decide +kernel⟩,
⟨{rdy with deseals := [(0, dsl0)]}, _, (.hmp), 0xA50400, ⟨by decide +kernel, by decide +kernel⟩, rfl,
    by decide +kernel⟩,
⟨(rdy), (.hmp), ⟨by decide +kernel, by decide +kernel⟩, by decide +kernel⟩,
⟨(rdy), .tray, by decide +kernel⟩,
⟨sealS, (.hmp), (0), ⟨by decide +kernel, by decide +kernel⟩, by decide +kernel⟩,
⟨{rdy with ltUp := [(0, true)]}, (0), by decide +kernel⟩,
⟨(rdy), (0), by decide +kernel⟩,
⟨rdy.wr F.MT_SEAL_STAT_key 0 1, (.hmp), (0), (0), ⟨by decide +kernel, by decide +kernel⟩, by decide +kernel⟩,
⟨rdy.wr F.MT_SEAL_RGN_B_length 0 999999999, _, (.hmp), (0), (0), 2^29 + 1, ⟨by decide +kernel, by decide +kernel⟩,
    rfl, by decide +kernel⟩,
⟨(rdy), _, (.hmp), (0), (0), (0), ⟨by decide +kernel, by decide +kernel⟩, rfl, by decide +kernel⟩,
⟨(rdy), _, (.hmp), (0), (0), (0), ⟨by decide +kernel, by decide +kernel⟩, rfl, by decide +kernel⟩,
⟨keyS, (.hmp), 0, [], ⟨by decide +kernel, by decide +kernel⟩, by decide +kernel⟩,
⟨(rdy), (.hmp), ⟨by decide +kernel, by decide +kernel⟩, by decide +kernel⟩,
⟨keyS, _, (.hmp), 0, 1, [], ⟨by decide +kernel, by decide +kernel⟩, rfl, (rfl), by decide +kernel⟩,
⟨(rdy), .tenant 1, (0), ⟨by decide +kernel, by decide +kernel⟩, by decide +kernel⟩,
⟨([]), by decide +kernel⟩,
⟨(rdy), (0), blob0, by decide +kernel⟩,
⟨{rdy with nonces := [⟨0, 0, [1]⟩]}, (0), blob0, ⟨0, 0, [1]⟩, by decide +kernel⟩⟩
theorem test_witness_SealDebugAndScrub :
(∃ (s : State) (w : Writer) (p : Nat), partOk p = true ∧ s.regReach w .CC_PART_SEAL p = true ∧ s.mayWrite w
      .CC_PART_SEAL p = false)
∧ (∃ (s : State) (w : Writer) (p : Nat), Granted s w .CC_PART_SEAL p ∧ partOk p = true ∧ s.isOwner w = true ∧ s.rb
      F.CC_PART_SEAL_debug p = false ∧ s.scrapped = false ∧ s.sealed p = false ∧ tfind s.deseals p = none)
∧ (∃ (s : State) (w : Writer) (p : Nat), Granted s w .CC_PART_SEAL p ∧ partOk p = true ∧ s.isOwner w = true ∧ s.rb
      F.CC_PART_SEAL_debug p = false ∧ s.scrapped = false ∧ s.sealed p = true ∧ tfind s.deseals p = none ∧ (s.wr
      F.CC_PART_SEAL_desealing p 1).aonOnly = false)
∧ (∃ (s : State) (w : Writer) (p : Nat), Granted s w .CC_PART_SEAL p ∧ partOk p = true ∧ s.isOwner w = true ∧ tfind
      s.deseals p = none ∧ s.rb F.CC_PART_SEAL_debug p = true)
∧ (∃ (s : State) (t : State) (u : State) (p : Nat) (x : Deseal), t = ({ s with deseals := tdel s.deseals p } :
      State).wr F.CC_PART_SEAL_desealing p 0 ∧ u = raiseCc
      { code := Code.DESEAL, unit := t.ccUnit, params := p + 2 ^ 6 * x.cause } t ∧ partOk p = true ∧ tfind s.deseals p
      = some x ∧ x.asked = true ∧ u.sheet = none ∧ u.lifeNext = none ∧ tfind u.scrubs p = none ∧ x.debug = none)
∧ (∃ (s : State) (p : Nat) (x : Deseal), partOk p = true ∧ tfind s.deseals p = some x ∧ x.asked = true ∧ x.late =
      false)
∧ (∃ (s : State) (p : Nat) (x : Deseal), partOk p = true ∧ tfind s.deseals p = some x ∧ x.late = true)
∧ (∃ (s : State) (w : Writer) (p : Nat), partOk p = true ∧ s.regReach w .CC_SCRUB_CMD 0 = true ∧ s.mayWrite w
      .CC_SCRUB_CMD 0 = false)
∧ (∃ (s : State) (w : Writer) (p : Nat), Granted s w .CC_SCRUB_CMD 0 ∧ partOk p = true ∧ p < 64 ∧ s.isOwner w = true ∧
      scrubbing s p = true)
∧ (∃ (s : State) (w : Writer) (p : Nat), Granted s w .CC_SCRUB_CMD 0 ∧ partOk p = true ∧ p < 64 ∧ s.isOwner w = true ∧
      scrubbing s p = false)
∧ (∃ (s : State) (p : Nat), (s.scrapped = true ∨ scrubbing s p = true ∨ (s.phase p ≠ 0 ∧ s.phase p ≠ 4)))
∧ (∃ (s : State) (t : State) (u : State) (v : State) (p : Nat), t = setScrubPhase p 0 ((wrPersist
      F.CC_SCRUB_STAT_state p 1 { s with scrubs := tins s.scrubs p {} }).wr F.CC_SCRUB_STAT_cause p 0) ∧ v = ckptStop
      p 8 ((({ t with traceW := tdel t.traceW p } : State).wr F.CC_TRACE_HEAD_head p 0).wr F.CC_TRACE_TAIL_tail p 0) ∧
      u = setScrubPhase p 0 { v with scrubs := tins (tdel v.scrubs p) p {} } ∧ s.scrapped = false ∧ scrubbing s p =
      false ∧ (s.phase p = 0 ∨ s.phase p = 4) ∧ s.aonOnly = false ∧ t.aonOnly = false ∧ (t.chansOf p).find? (mtOrphan
      t) = none ∧ t.rb F.CC_TRACE_CFG_enable p = false ∧ u.sealed p = false ∧ tfind u.deseals p = none)
∧ (∃ (s : State) (p : Nat) (y : Scrub) (x : PReset), partOk p = true ∧ tfind s.scrubs p = some y ∧ s.preset? p = some
      x ∧ x.kind = .scrub ∧ s.rd F.CC_SCRUB_STAT_phase p = 1 ∧ x.paused = none)
∧ (∃ (s : State) (p : Nat), partOk p = true ∧ tfind s.scrubs p = none)
∧ (∃ (s : State) (p : Nat) (y : Scrub) (x : PReset), partOk p = true ∧ tfind s.scrubs p = some y ∧ s.preset? p = some
      x ∧ x.kind = .scrub ∧ s.aonOnly = false ∧ drainStalls s = false ∧ stageFree s (s.chansOf p) = false)
∧ (∃ (s : State) (p : Nat) (y : Scrub) (x : PReset), partOk p = true ∧ tfind s.scrubs p = some y ∧ s.preset? p = some
      x ∧ x.kind = .scrub ∧ s.aonOnly = false ∧ drainStalls s = false ∧ stageFree s (s.chansOf p) = true ∧ (s.rd
      F.CC_SCRUB_STAT_phase p = 2 ∨ s.rd F.CC_SCRUB_STAT_phase p = 3))
∧ (∃ (s : State) (p : Nat) (y : Scrub) (x : PReset), partOk p = true ∧ tfind s.scrubs p = some y ∧ s.preset? p = some
      x ∧ x.kind = .scrub ∧ s.aonOnly = false ∧ drainStalls s = false ∧ stageFree s (s.chansOf p) = true ∧ s.rd
      F.CC_SCRUB_STAT_phase p = 4)
∧ (∃ (s : State) (p : Nat) (y : Scrub) (x : PReset), partOk p = true ∧ tfind s.scrubs p = some y ∧ s.preset? p = some
      x ∧ x.kind = .scrub ∧ s.aonOnly = false ∧ drainStalls s = false ∧ stageFree s (s.chansOf p) = true ∧ s.rd
      F.CC_SCRUB_STAT_phase p = 5)
∧ (∃ (s : State) (p : Nat) (y : Scrub) (x : PReset), partOk p = true ∧ tfind s.scrubs p = some y ∧ s.preset? p = some
      x ∧ x.kind = .scrub ∧ s.aonOnly = false ∧ drainStalls s = false ∧ stageFree s (s.chansOf p) = true ∧ (s.rd
      F.CC_SCRUB_STAT_phase p = 3 ∨ s.rd F.CC_SCRUB_STAT_phase p = 5)) :=
⟨⟨(rdy), .tray, (0), by decide +kernel⟩,
⟨(rdy), (.hmp), (0), ⟨by decide +kernel, by decide +kernel⟩, by decide +kernel⟩,
⟨sealS, (.hmp), (0), ⟨by decide +kernel, by decide +kernel⟩, by decide +kernel⟩,
⟨rdy.wr F.CC_PART_SEAL_debug 0 1, (.hmp), (0), ⟨by decide +kernel, by decide +kernel⟩, by decide +kernel⟩,
⟨{sealS with deseals := [(0, dsl0)]}, _, _, (0), dsl0, rfl, rfl, by decide +kernel⟩,
⟨{sealS with deseals := [(0, dsl0)]}, (0), dsl0, by decide +kernel⟩,
⟨{sealS with deseals := [(0, {dsl0 with late := true})]}, (0), {dsl0 with late := true}, by decide +kernel⟩,
⟨(rdy), .tray, (0), by decide +kernel⟩,
⟨scrubS 1, (.hmp), (0), ⟨by decide +kernel, by decide +kernel⟩, by decide +kernel⟩,
⟨(rdy), (.hmp), (0), ⟨by decide +kernel, by decide +kernel⟩, by decide +kernel⟩,
⟨scrubS 1, (0), by decide +kernel⟩,
⟨{rdy with fsHw := (List.range 128).map (fun f => (f, fsOk))}, _, _, _, (0), (rfl), rfl, rfl, by decide +kernel⟩,
⟨scrubS 1, (0), {}, part0 .scrub, by decide +kernel⟩,
⟨(rdy), (0), by decide +kernel⟩,
⟨((scrubS 2).wr F.MT_POOL_CFG_reserved_min 0 0).wr F.MT_POOL_CFG_shared_cap 0 0, (0), {}, part0 .scrub,
    by decide +kernel⟩,
⟨scrubS 2, (0), {}, part0 .scrub, by decide +kernel⟩,
⟨scrubS 4, (0), {}, part0 .scrub, by decide +kernel⟩,
⟨scrubS 5, (0), {}, part0 .scrub, by decide +kernel⟩,
⟨scrubS 3, (0), {}, part0 .scrub, by decide +kernel⟩⟩
theorem test_witness_SpdmResponder :
(∃ (s : State), s.spdm = 4)
∧ (∃ (s : State), s.spdm = 0)
∧ (∃ (s : State) (t : State) (u : State) (ver : Nat) (ct : Nat) (mx : Nat), s.drawFree 8 = (ct, t) ∧ t.drawFree 32 =
      (mx, u) ∧ s.spdm ≠ 0 ∧ s.spdm ≠ 4 ∧ (ver = 0x12 ∨ ver = 0x13))
∧ (∃ (s : State), 2 ≤ s.spdm ∧ s.spdm ≠ 4)
∧ (∃ (s : State) (ver : Nat), 3 ≤ s.spdm ∧ s.spdm ≠ 4 ∧ ver ≠ s.spdmVer)
∧ (∃ (s : State) (off : Nat), s.spdm = 3 ∧ off ≤ Config.certChain.length)
∧ (∃ (s : State) (slot : Nat), s.spdm = 3 ∧ slot ≠ 0)
∧ (∃ (s : State) (t : State) (n : List Byte), spdmNonce s = (n, t) ∧ s.spdm = 3)
∧ (∃ (s : State) (i : Nat), s.spdm = 3 ∧ 9 < i ∧ i ≠ 0xFF)
∧ (∃ (s : State) (t : State) (u : State) (i : Nat) (n : List Byte), t = epochSync s ∧ spdmNonce t = (n, u) ∧ s.spdm =
      3 ∧ 1 ≤ i ∧ i ≤ 9) :=
⟨⟨{rdy with spdm := 4}, by decide +kernel⟩,
⟨(rdy), by decide +kernel⟩,
⟨{rdy with spdm := 1}, _, _, 0x12, _, _, rfl, rfl, by decide +kernel⟩,
⟨{rdy with spdm := 2}, by decide +kernel⟩,
⟨{rdy with spdm := 3}, 1, by decide +kernel⟩,
⟨{rdy with spdm := 3}, (0), by decide +kernel⟩,
⟨{rdy with spdm := 3}, 1, by decide +kernel⟩,
⟨{rdy with spdm := 3}, _, _, rfl, by decide +kernel⟩,
⟨{rdy with spdm := 3}, 10, by decide +kernel⟩,
⟨{rdy with spdm := 3}, _, _, 1, _, rfl, rfl, by decide +kernel⟩⟩
theorem test_witness_SafelightAndCounters :
(∃ (s : State) (k : Nat), ctOk k = true ∧ s.fieldLive (ctField k) = true ∧ ctQuiet s k = false)
∧ (∃ (s : State) (k : Nat), ctOk k = true ∧ (s.fieldLive (ctField k) = false ∨ ctQuiet s k = true))
∧ (∃ (s : State) (f : Nat), fieldOk f = true ∧ s.fieldLive f = false)
∧ (∃ (s : State) (t : State) (f : Nat), fieldOk f = true ∧ s.fieldLive f = true ∧ t = forAll (List.range 10) (fun i t
      => safeCredit 64 i (tget 0 t.safeFs (16 * f + i)) (safeCredit (s.partOf f) i (tget 0 t.safeFs (16 * f + i))
      { t with safeFs := tdel t.safeFs (16 * f + i) })) s)
∧ (∃ (s : State) (w : Writer) (k : Nat), Granted s w .CT_SAFE_SEL k ∧ ctOk k = true ∧ obsOk s w (s.partOf (ctField k))
      = true)
∧ (∃ (s : State) (w : Writer) (k : Nat), ctOk k = true ∧ s.regReach w .CT_SAFE_SEL k = true ∧ s.mayWrite w
      .CT_SAFE_SEL k = false)
∧ (∃ (s : State) (w : Writer) (v : Nat), Granted s w .CC_SAFE_SEL 0 ∧ s.isOwner w = true ∧ bits v 8 7 = 127)
∧ (∃ (s : State) (w : Writer) (v : Nat), Granted s w .CC_SAFE_SEL 0 ∧ s.isOwner w = true ∧ bits v 8 7 < 64)
∧ (∃ (s : State) (p : Nat) (v : Nat), Granted s (.tenant p) .CC_SAFE_SEL 0 ∧ s.isOwner (.tenant p) = false ∧ bits v 8
      7 ≠ p)
∧ (∃ (s : State) (w : Writer) (k : Nat), Granted s w .CT_PCNT_SEL k ∧ ctOk k = true ∧ obsOk s w (s.partOf (ctField k))
      = true)
∧ (∃ (s : State) (w : Writer) (k : Nat), Granted s w .CT_PCNT_CFG k ∧ ctOk k = true ∧ obsOk s w (s.partOf (ctField k))
      = true)
∧ (∃ (s : State) (w : Writer) (k : Nat) (v : Nat), Granted s w .CT_PCNT_CTL k ∧ ctOk k = true ∧ obsOk s w (s.partOf
      (ctField k)) = true ∧ bit v 0 = true)
∧ (∃ (s : State) (w : Writer) (k : Nat) (v : Nat), Granted s w .CT_PCNT_CTL k ∧ ctOk k = true ∧ obsOk s w (s.partOf
      (ctField k)) = true ∧ bit v 0 = false) :=
⟨⟨(rdy), (0), by decide +kernel⟩,
⟨aon, (0), by decide +kernel⟩,
⟨aon, (0), by decide +kernel⟩,
⟨(rdy), (rdy), (0), by decide +kernel⟩,
⟨(rdy), (.hmp), (0), ⟨by decide +kernel, by decide +kernel⟩, by decide +kernel⟩,
⟨(rdy), .tenant 1, (0), by decide +kernel⟩,
⟨(rdy), (.hmp), 127 * 256, ⟨by decide +kernel, by decide +kernel⟩, by decide +kernel⟩,
⟨(rdy), (.hmp), (0), ⟨by decide +kernel, by decide +kernel⟩, by decide +kernel⟩,
⟨(rdy), (0), 256, ⟨by decide +kernel, by decide +kernel⟩, by decide +kernel⟩,
⟨(rdy), (.hmp), (0), ⟨by decide +kernel, by decide +kernel⟩, by decide +kernel⟩,
⟨(rdy), (.hmp), (0), ⟨by decide +kernel, by decide +kernel⟩, by decide +kernel⟩,
⟨(rdy), (.hmp), (0), 1, ⟨by decide +kernel, by decide +kernel⟩, by decide +kernel⟩,
⟨(rdy), (.hmp), (0), (0), ⟨by decide +kernel, by decide +kernel⟩, by decide +kernel⟩⟩
theorem test_witness_TraceWriting :
(∃ (s : State) (w : Writer) (p : Nat) (v : Nat), Granted s w .CC_TRACE_CFG p ∧ partOk p = true ∧ s.isOwner w = true ∧
      bit v 0 = false)
∧ (∃ (s : State) (w : Writer) (p : Nat) (v : Nat), Granted s w .CC_TRACE_CFG p ∧ partOk p = true ∧ s.isOwner w = true
      ∧ bit v 0 = true ∧ ringOk s p = true)
∧ (∃ (s : State) (w : Writer) (p : Nat) (v : Nat), Granted s w .CC_TRACE_CFG p ∧ partOk p = true ∧ s.isOwner w = true
      ∧ bit v 0 = true ∧ ringOk s p = false)
∧ (∃ (s : State) (w : Writer) (p : Nat), s.regReach w .CC_TRACE_CFG p = true ∧ s.mayWrite w .CC_TRACE_CFG p = false ∧
      partOk p = true)
∧ (∃ (s : State) (w : Writer) (p : Nat), Granted s w .CC_TRACE_MARK p ∧ partOk p = true ∧ s.ownerOrTenant w p = true ∧
      s.rb F.CC_TRACE_CFG_enable p = true)
∧ (∃ (s : State) (w : Writer) (p : Nat), Granted s w .CC_TRACE_MARK p ∧ partOk p = true ∧ s.ownerOrTenant w p = true ∧
      s.rb F.CC_TRACE_CFG_enable p = false)
∧ (∃ (s : State) (w : Writer) (p : Nat), s.regReach w .CC_TRACE_MARK p = true ∧ s.mayWrite w .CC_TRACE_MARK p = false
      ∧ partOk p = true)
∧ (∃ (s : State) (p : Nat), writerOk s p = false)
∧ (∃ (s : State) (p : Nat), twf ({} : TWriter) s.traceW = true ∧ writerOk s p = true ∧ (s.trW p).lost = 0 ∧ (s.trW
      p).recs ≠ [] ∧ (s.trW p).recs.length < 127)
∧ (∃ (s : State) (p : Nat), partOk p = true ∧ (s.trW p).recs = [])
∧ (∃ (s : State) (t : State) (p : Nat) (bytes : List Byte), t = s.toWt ((s.trW p).firstWt + 50 * us) ∧ bytes =
      (((t.trW p).recs ++ List.replicate (128 - (t.trW p).recs.length) (TRec.mk t.wt 15 0 0)).map TRec.bytes).flatten
      ∧ partOk p = true ∧ (s.trW p).recs ≠ [] ∧ writerOk t p = true)
∧ (∃ (s : State) (k : Nat), ctOk k = true ∧ s.trQ k = [])
∧ (∃ (s : State) (k : Nat) (r : TRec) (q : List TRec), ctOk k = true ∧ s.trQ k = r :: q ∧ s.fieldLive (ctField k) =
      true ∧ ctQuiet s k = false)
∧ (∃ (s : State) (k : Nat) (r : TRec) (q : List TRec), ctOk k = true ∧ s.trQ k = r :: q ∧ ctQuiet s k = true) :=
⟨⟨(rdy), (.hmp), (0), (0), ⟨by decide +kernel, by decide +kernel⟩, by decide +kernel⟩,
⟨(rdy), (.hmp), (0), 1, ⟨by decide +kernel, by decide +kernel⟩, by decide +kernel⟩,
⟨traceS.setReg .CC_PART_CHAN 0 0x80, (.hmp), (0), 1, ⟨by decide +kernel, by decide +kernel⟩, by decide +kernel⟩,
⟨(rdy), .tray, (0), by decide +kernel⟩,
⟨traceS, (.hmp), (0), ⟨by decide +kernel, by decide +kernel⟩, by decide +kernel⟩,
⟨(rdy), (.hmp), (0), ⟨by decide +kernel, by decide +kernel⟩, by decide +kernel⟩,
⟨(rdy), .tenant 1, (0), by decide +kernel⟩,
⟨(rdy), (0), by decide +kernel⟩,
⟨trec1, (0), by decide +kernel⟩,
⟨(rdy), (0), by decide +kernel⟩,
⟨trec1, _, (0), _, rfl, (rfl), by decide +kernel⟩,
⟨(rdy), (0), by decide +kernel⟩,
⟨{rdy with traceQ := [(0, [trec0])]}, (0), trec0, [], by decide +kernel⟩,
⟨{rdy.wr F.CT_STOP_STAT_quiet 0 1 with traceQ := [(0, [trec0])]}, (0), trec0, [], by decide +kernel⟩⟩
theorem test_witness_SelectorCaptures :
(∃ (s : State) (w : Writer) (f : Nat), Granted s w .FS_LEDGER_SEL f ∧ fieldOk f = true ∧ obsOk s w (s.partOf f) =
      true)
∧ (∃ (s : State) (w : Writer) (f : Nat), fieldOk f = true ∧ s.regReach w .FS_LEDGER_SEL f = true ∧ s.mayWrite w
      .FS_LEDGER_SEL f = false)
∧ (∃ (e : Nat), engOk e = true)
∧ (∃ (s : State) (w : Writer) (f : Nat), Granted s w .FS_FIX_SEL f ∧ fieldOk f = true ∧ notTenant w = true)
∧ (∃ (s : State) (w : Writer) (f : Nat), fieldOk f = true ∧ s.regReach w .FS_FIX_SEL f = true ∧ s.mayWrite w
      .FS_FIX_SEL f = false)
∧ (∃ (s : State) (w : Writer) (v : Nat), Granted s w .CC_FENCE_IDX 0 ∧ notTenant w = true ∧ bits v 0 13 < s.flogUsed)
∧ (∃ (s : State) (w : Writer) (v : Nat), Granted s w .CC_FENCE_IDX 0 ∧ notTenant w = true ∧ s.flogUsed ≤ bits v 0 13)
∧ (∃ (s : State) (w : Writer), Granted s w .CC_CKPT_SHARD_SEL 0 ∧ s.isOwner w = true)
∧ (∃ (s : State) (w : Writer), s.regReach w .CC_CKPT_SHARD_SEL 0 = true ∧ s.mayWrite w .CC_CKPT_SHARD_SEL 0 = false)
∧ (∃ (s : State) (w : Writer), Granted s w .CC_CKPT_HOST_SEL 0 ∧ s.isOwner w = true)
∧ (∃ (s : State) (w : Writer), s.regReach w .CC_CKPT_HOST_SEL 0 = true ∧ s.mayWrite w .CC_CKPT_HOST_SEL 0 = false)
∧ (∃ (s : State) (w : Writer), Granted s w .CC_BOOT_SEL 0 ∧ notTenant w = true)
∧ (∃ (s : State) (w : Writer), s.regReach w .CC_BOOT_SEL 0 = true ∧ s.mayWrite w .CC_BOOT_SEL 0 = false)
∧ (∃ (s : State) (w : Writer) (v : Nat) (r : W64 × W64), Granted s w .CC_BIST_SEL 0 ∧ notTenant w = true ∧ tfind
      s.bist (bits v 0 24) = some r)
∧ (∃ (s : State) (w : Writer) (v : Nat), Granted s w .CC_BIST_SEL 0 ∧ notTenant w = true ∧ tfind s.bist (bits v 0 24)
      = none ∧ bistRan s (bits v 0 24) = false)
∧ (∃ (s : State) (w : Writer), Granted s w .CC_HOME_SEL 0 ∧ notTenant w = true)
∧ (∃ (m : Nat), mtOk m = true)
∧ (∃ (s : State) (t : State) (w : Writer) (v : Nat) (bad : Bool) (ue : Bool), Granted s w .CC_ARCH_SEL 0 ∧ archRead
      (bits v 0 15) bad (s.wr F.CC_ARCH_SEL_word 0 (bits v 0 15)) = (ue, t) ∧ s.isOwner w = true)
∧ (∃ (s : State) (w : Writer), s.regReach w .CC_ARCH_SEL 0 = true ∧ s.mayWrite w .CC_ARCH_SEL 0 = false) :=
⟨⟨(rdy), (.hmp), (0), ⟨by decide +kernel, by decide +kernel⟩, by decide +kernel⟩,
⟨(rdy), .tenant 1, (0), by decide +kernel⟩,
⟨(0), by decide +kernel⟩,
⟨(rdy), (.hmp), (0), ⟨by decide +kernel, by decide +kernel⟩, by decide +kernel⟩,
⟨(rdy), .tenant 1, (0), by decide +kernel⟩,
⟨logS, (.hmp), (0), ⟨by decide +kernel, by decide +kernel⟩, by decide +kernel⟩,
⟨(rdy), (.hmp), (0), ⟨by decide +kernel, by decide +kernel⟩, by decide +kernel⟩,
⟨(rdy), (.hmp), ⟨by decide +kernel, by decide +kernel⟩, by decide +kernel⟩,
⟨(rdy), .tray, by decide +kernel⟩,
⟨(rdy), (.hmp), ⟨by decide +kernel, by decide +kernel⟩, by decide +kernel⟩,
⟨(rdy), .tray, by decide +kernel⟩,
⟨(rdy), (.hmp), ⟨by decide +kernel, by decide +kernel⟩, by decide +kernel⟩,
⟨(rdy), .tenant 1, by decide +kernel⟩,
⟨{rdy with bist := [(0, (1#64, 2#64))]}, (.hmp), (0), (1#64, 2#64), ⟨by decide +kernel, by decide +kernel⟩,
    by decide +kernel⟩,
⟨(rdy), (.hmp), (0), ⟨by decide +kernel, by decide +kernel⟩, by decide +kernel⟩,
⟨(rdy), (.hmp), ⟨by decide +kernel, by decide +kernel⟩, by decide +kernel⟩,
⟨(0), by decide +kernel⟩,
⟨(rdy), _, (.hmp), (0), (false), _, ⟨by decide +kernel, by decide +kernel⟩, rfl, by decide +kernel⟩,
⟨(rdy), .tray, by decide +kernel⟩⟩
theorem test_witness_StartUpSteps :
(∃ (s : State), (s.step ≠ 4 ∨ s.ccLost = true))
∧ (∃ (s : State) (a : BistRes) (b : BistRes), s.step = 4 ∧ s.ccLost = false ∧ bistPass a = true ∧ bistPass b = true)
∧ (∃ (s : State) (a : BistRes) (b : BistRes), s.step = 4 ∧ s.ccLost = false ∧ bistPass a = false ∧ bistPass b = false)
∧ (∃ (s : State) (t : State) (u : State) (res : List BistRes), t = forAll s.boot.wave (fieldBist res) s ∧ u = t.wr
      F.CC_TEST_BUDGET_in_use 0 (t.rd F.CC_TEST_BUDGET_in_use - s.boot.wave.length * bistTok s) ∧ s.step = 5 ∧
      s.boot.wave ≠ [] ∧ u.boot.next < Config.nField)
∧ (∃ (s : State) (t : State) (u : State) (res : List BistRes), t = forAll s.boot.wave (fieldBist res) s ∧ u = t.wr
      F.CC_TEST_BUDGET_in_use 0 (t.rd F.CC_TEST_BUDGET_in_use - s.boot.wave.length * bistTok s) ∧ s.step = 5 ∧
      s.boot.wave ≠ [] ∧ Config.nField ≤ u.boot.next)
∧ (∃ (s : State), s.step ≠ 5)
∧ (∃ (s : State) (c : Nat), coreOk c = true ∧ s.step = 7 ∧ (s.core c).kind = 3 ∧ (s.core c).req = true ∧ (s.core
      c).granted = false)
∧ (∃ (s : State) (c : Nat), coreOk c = true ∧ (s.core c).granted = true)
∧ (∃ (s : State), s.step = 7 ∧ (∀ f, f < Config.nField → s.fsWorks f = true → (s.bootStrip f).done = true))
∧ (∃ (s : State), s.step ≠ 7)
∧ (∃ (s : State) (f : Nat) (copy : List Byte) (r : _), (checkImage 1 (imgFloor s 1) s.lifecycle copy).res = .error r ∧
      fieldOk f = true ∧ s.step = 9 ∧ s.boot.wait.contains f = true ∧ s.aonOnly = false ∧ tget 0 s.boot.tries f < 2)
∧ (∃ (s : State) (f : Nat), fieldOk f = true ∧ s.boot.wait.contains f = false)
∧ (∃ (s : State), s.step = 9 ∧ s.boot.wait = [] ∧ s.aonOnly = false)
∧ (∃ (s : State), s.boot.wait ≠ [])
∧ (∃ (s : State) (t : State) (i : Nat) (data : List Byte), t =
      { s with boot := { s.boot with left := s.boot.left.filter (· != i) } } ∧ mtOk i = true ∧ s.step = 10 ∧
      s.boot.left.contains i = true ∧ s.aonOnly = false ∧ t.boot.left ≠ [] ∧ ((trainAppend i data t).wr
      F.CC_BOOT_STAT_full_train 0 1).boot.left ≠ [])
∧ (∃ (s : State) (t : State) (i : Nat), t = { s with boot := { s.boot with left := s.boot.left.filter (· != i) } } ∧
      mtOk i = true ∧ s.step = 10 ∧ s.boot.left.contains i = true ∧ s.aonOnly = false ∧ t.boot.left ≠ [] ∧ s.rb
      F.CC_BOOT_CFG_full_train = false ∧ trained t i = true ∧ t.rb F.CC_BOOT_CFG_full_train = false)
∧ (∃ (s : State) (t : State) (i : Nat) (tried : Bool), t =
      { s with boot := { s.boot with left := s.boot.left.filter (· != i) } } ∧ mtOk i = true ∧ s.step = 10 ∧
      s.boot.left.contains i = true ∧ s.aonOnly = false ∧ t.boot.left ≠ [] ∧ (trainFail i tried t).boot.left ≠ [])
∧ (∃ (s : State) (i : Nat), ltOk i = true ∧ s.step ≠ 10)
∧ (∃ (s : State), s.step = 11 ∧ (∀ f, f < Config.nField → fieldPending s f = false))
∧ (∃ (s : State), (∃ f, f < Config.nField ∧ fieldPending s f = true))
∧ (∃ (s : State), s.step ≠ 11)
∧ (∃ (s : State) (t : State) (w : Writer) (f : Nat), Granted s w .FS_SELFTEST f ∧ t =
      ({ s with selfReq := tput false s.selfReq f true } : State).wr F.FS_SELFTEST_busy f 1 ∧ fieldOk f = true ∧
      s.isOwner w = true ∧ s.scrapped = false ∧ selfTesting s f = false ∧ t.entries f = [])
∧ (∃ (s : State) (t : State) (w : Writer) (f : Nat), Granted s w .FS_SELFTEST f ∧ t =
      ({ s with selfReq := tput false s.selfReq f true } : State).wr F.FS_SELFTEST_busy f 1 ∧ fieldOk f = true ∧
      s.isOwner w = true ∧ s.scrapped = false ∧ selfTesting s f = false ∧ t.entries f ≠ [])
∧ (∃ (s : State) (f : Nat), fieldOk f = true ∧ tget false s.selfReq f = true ∧ s.entries f = [] ∧ s.fieldLive f =
      true)
∧ (∃ (s : State) (f : Nat), fieldOk f = true ∧ tget false s.selfReq f = false)
∧ (∃ (s : State) (r : BistRes), unitKind r.unit = 1 ∧ unitPresent r.unit = true ∧ s.factory = true ∧ s.preCc = false)
∧ (∃ (s : State) (r : BistRes), unitKind r.unit = 1 ∧ unitPresent r.unit = true ∧ s.factory = false) :=
⟨⟨(rdy), by decide +kernel⟩,
⟨bootS 4, bres0, bres0, by decide +kernel⟩,
⟨bootS 4, bresF, bresF, by decide +kernel⟩,
⟨boot5 1, _, _, {}, rfl, rfl, by decide +kernel⟩,
⟨boot5 84, _, _, {}, rfl, rfl, by decide +kernel⟩,
⟨(rdy), by decide +kernel⟩,
⟨{bootS 7 with cores := [(0, {kind := 3, req := true})]}, (0), by decide +kernel⟩,
⟨{bootS 7 with cores := [(0, {granted := true})]}, (0), by decide +kernel⟩,
⟨{bootS 7 with fsHw := []}, by decide +kernel⟩,
⟨(rdy), by decide +kernel⟩,
⟨boot9, (0), ([]), 2, (rfl), by decide +kernel⟩,
⟨(rdy), (0), by decide +kernel⟩,
⟨bootS 9, by decide +kernel⟩,
⟨boot9, by decide +kernel⟩,
⟨boot10, _, (0), ([]), rfl, by decide +kernel⟩,
⟨boot10, _, (0), rfl, by decide +kernel⟩,
⟨boot10, _, (0), (false), rfl, by decide +kernel⟩,
⟨(rdy), (0), by decide +kernel⟩,
⟨bootS 11, by decide +kernel⟩,
⟨{rdy with fset := [{funit0 with acked := false}]}, ⟨0, by decide +kernel, by decide +kernel⟩⟩,
⟨(rdy), by decide +kernel⟩,
⟨(rdy), _, (.hmp), (0), ⟨by decide +kernel, by decide +kernel⟩, rfl, by decide +kernel⟩,
⟨{rdy with store := [(0, [ent0])]}, _, (.hmp), (0), ⟨by decide +kernel, by decide +kernel⟩, rfl, by decide +kernel⟩,
⟨{rdy with selfReq := [(0, true)]}, (0), by decide +kernel⟩,
⟨(rdy), (0), by decide +kernel⟩,
⟨(rdy), bres0, by decide +kernel⟩,
⟨rdy.wr F.CC_LIFECYCLE_state 0 1, bres0, by decide +kernel⟩⟩
theorem test_witness_ClockJudgement :
(∃ (s : State) (t : State) (u : State) (ref : Nat) (bk : Nat) (live : List Nat), t = (s.wr F.CC_CLK_CNT_ref 0 ref).wr
      F.CC_CLK_CNT_bk 0 bk ∧ live = [0, 1, 2].filter (fun i => (pairClks i).all (clkAwake t)) ∧ u = forAll live (fun i
      v => v.setPairs i (pairWindow i ref bk (v.pair i)).2) t ∧ u.bkRun ≠ .stable ∧ (∀ i, i ∈ live → (pairClks i).all
      (fun c => !clkCondemned t c) = true → (pairWindow i ref bk (t.pair i)).1 = false))
∧ (∃ (s : State) (t : State) (u : State) (ref : Nat) (bk : Nat) (i : Nat) (j : Nat) (c : Nat), t = (s.wr
      F.CC_CLK_CNT_ref 0 ref).wr F.CC_CLK_CNT_bk 0 bk ∧ u = forAll [0, 1, 2] (fun i v => v.setPairs i (pairWindow i
      ref bk (v.pair i)).2) t ∧ (∀ d, d < 3 → clkAwake t d = true ∧ clkCondemned t d = false) ∧ [0, 1, 2].filter (fun
      i => (pairWindow i ref bk (t.pair i)).1) = [i, j] ∧ (pairClks i).find? (fun c => (pairClks j).contains c) = some
      c ∧ u.bkRun ≠ .stable)
∧ (∃ (s : State) (t : State) (u : State) (ref : Nat) (bk : Nat), t = (s.wr F.CC_CLK_CNT_ref 0 ref).wr F.CC_CLK_CNT_bk
      0 bk ∧ u = forAll [0, 1, 2] (fun i v => v.setPairs i (pairWindow i ref bk (v.pair i)).2) t ∧ (∀ d, d < 3 →
      clkAwake t d = true ∧ clkCondemned t d = false) ∧ [0, 1, 2].filter (fun i => (pairWindow i ref bk (t.pair i)).1)
      = [0, 1, 2] ∧ u.bkRun ≠ .stable)
∧ (∃ (ref : Nat) (bk : Nat) (i : Nat) (x : ClkPair) (m : Nat × Nat), x.ref = some m ∧ near 1000 (pairRatio i ref bk) m
      = false)
∧ (∃ (s : State) (bk : Bool), clkCondemned s (refClk bk) = true)
∧ (∃ (s : State), clkCondemned s 1 = false)
∧ (∃ (s : State), clkCondemned s 2 = false ∧ (s.bkRun = .on ∨ s.bkRun = .stable))
∧ (∃ (s : State), s.bkRun = .asleep)
∧ (∃ (s : State) (t : State), t = unsettle 1 (setCondemned 1 true s) ∧ t.rd F.CC_CLK_STAT_src = 0 ∧ clkReady t true =
      true)
∧ (∃ (s : State) (t : State), t = unsettle 1 (setCondemned 1 true s) ∧ t.rd F.CC_CLK_STAT_src = 0 ∧ clkReady t true =
      false)
∧ (∃ (s : State) (bk : Bool), clkJudged s (refClk bk) = false)
∧ (∃ (s : State) (t : State), t = { s with pllRef := true } ∧ clkJudged s 1 = true ∧ t.step ≠ 3 ∧ t.aonOnly = false)
∧ (∃ (s : State) (t : State), t = { s with pllRef := true } ∧ clkJudged s 1 = true ∧ t.step ≠ 3 ∧ t.aonOnly = true ∧
      prefBk t = false ∧ (leaveAon false t).step ≠ 3)
∧ (∃ (s : State), s.srcReady = none)
∧ (∃ (s : State) (d : Nat), s.srcReady = some d)
∧ (∃ (s : State) (d : Nat), s.bkRun = .cold d)
∧ (∃ (s : State), s.bkRun = .on)
∧ (∃ (s : State), s.aonOnly = false ∧ s.aonLost = none ∧ clkCondemned s 0 = true)
∧ (∃ (s : State), s.aonOnly = false ∧ s.aonLost = none ∧ clkCondemned s 0 = false)
∧ (∃ (s : State), s.aonLost.isSome = true)
∧ (∃ (s : State) (w : Writer) (v : Nat), Granted s w .CC_SSC_CFG 0 ∧ s.limitOk w = true ∧ bits (v % 2 ^ 7) 1 4 ≤ 10)
∧ (∃ (s : State) (w : Writer) (v : Nat), Granted s w .CC_SSC_CFG 0 ∧ s.limitOk w = true ∧ 10 < bits (v % 2 ^ 7) 1 4)
∧ (∃ (s : State) (w : Writer), Granted s w .CC_SSC_CFG 0 ∧ s.limitOk w = false) :=
⟨⟨(rdy), _, _, (0), (0), _, rfl, rfl, rfl, by decide +kernel⟩,
⟨{rdy with clkPairs := [(0, half), (1, half)]}, _, _, 2^14, 2^14, 0, 1, 0, rfl, rfl, by decide +kernel⟩,
⟨{rdy with clkPairs := [(0, half), (1, half), (2, half)]}, _, _, 2^14, 2^14, rfl, rfl, by decide +kernel⟩,
⟨(0), (0), (0), half, (1, 2), by decide +kernel⟩,
⟨rdy.wr F.CC_CLK_STAT_condemned 0 2, (false), by decide +kernel⟩,
⟨(rdy), by decide +kernel⟩,
⟨(rdy), by decide +kernel⟩,
⟨{rdy with bkRun := .asleep}, by decide +kernel⟩,
⟨{rdy with clkPairs := [(1, half)], pllBk := true}, _, rfl, by decide +kernel⟩,
⟨(rdy), _, rfl, by decide +kernel⟩,
⟨(rdy), (false), by decide +kernel⟩,
⟨{rdy with clkPairs := [(0, half)]}, _, rfl, by decide +kernel⟩,
⟨{aon with clkPairs := [(0, half)]}, _, rfl, by decide +kernel⟩,
⟨(rdy), by decide +kernel⟩,
⟨{rdy with srcReady := some 9}, 9, by decide +kernel⟩,
⟨{rdy with bkRun := .cold 9}, 9, by decide +kernel⟩,
⟨(rdy), by decide +kernel⟩,
⟨rdy.wr F.CC_CLK_STAT_condemned 0 1, by decide +kernel⟩,
⟨(rdy), by decide +kernel⟩,
⟨{rdy with aonLost := some 1}, by decide +kernel⟩,
⟨(rdy), (.hmp), (0), ⟨by decide +kernel, by decide +kernel⟩, by decide +kernel⟩,
⟨(rdy), (.hmp), 22, ⟨by decide +kernel, by decide +kernel⟩, by decide +kernel⟩,
⟨rdy.wr F.CC_LIFECYCLE_state 0 2, (.hmp), ⟨by decide +kernel, by decide +kernel⟩, by decide +kernel⟩⟩
theorem test_witness_SuppliesAndCycles :
(∃ (mv : Nat), 700 ≤ mv)
∧ (∃ (s : State) (t : State) (mv : Nat), t = s.wr F.CC_VDD_STAT_aon_mv 0 mv ∧ mv < 700 ∧ t.rb F.CC_VDD_STAT_warn =
      false)
∧ (∃ (mv : Nat), mv ≤ 720)
∧ (∃ (s : State) (t : State) (mv : Nat), t = s.wr F.CC_VDD_STAT_aon_mv 0 mv ∧ 720 < mv ∧ t.rb F.CC_VDD_STAT_warn =
      true)
∧ (∃ (s : State) (t : State) (f : Nat) (mv : Nat) (ns : Nat), t = raiseFs f
      { code := Code.VDD_DROOP, unit := fsUnit f, params := f + 2 ^ 7 * mv + 2 ^ 23 * sat 16 ns } (((s.wr F.FS_VMON_mv
      f mv).wr F.FS_VMON_last_min f mv).bump F.FS_VMON_droops f) ∧ fieldOk f = true ∧ mv < s.rd F.CC_VDD_CFG_droop_mv
      ∧ s.rd F.CC_VDD_CFG_droop_ns ≤ ns ∧ 2 ≤ ns ∧ s.fieldLive f = true ∧ t.sess f = none)
∧ (∃ (s : State) (t : State) (f : Nat) (mv : Nat) (ns : Nat) (x : _), t = raiseFs f
      { code := Code.VDD_DROOP, unit := fsUnit f, params := f + 2 ^ 7 * mv + 2 ^ 23 * sat 16 ns } (((s.wr F.FS_VMON_mv
      f mv).wr F.FS_VMON_last_min f mv).bump F.FS_VMON_droops f) ∧ fieldOk f = true ∧ mv < s.rd F.CC_VDD_CFG_droop_mv
      ∧ s.rd F.CC_VDD_CFG_droop_ns ≤ ns ∧ 2 ≤ ns ∧ s.fieldLive f = true ∧ t.sess f = some x ∧ x.kind = 1 ∧ x.applied ≠
      0)
∧ (∃ (s : State) (f : Nat) (mv : Nat), fieldOk f = true ∧ (s.rd F.CC_VDD_CFG_droop_mv ≤ mv ∨ s.fieldLive f = false))
∧ (∃ (s : State) (t : State) (w : Writer) (k : Nat) (cyc : Nat), Granted s w .CT_CYC k ∧ t = advCyc k cyc s ∧ ctOk k =
      true ∧ t.mayWrite w .CT_CYC k = true)
∧ (∃ (s : State) (t : State) (k : Nat), t = { s with ctTemp := tput 0x80 s.ctTemp k 0x80 } ∧ ctOk k = true ∧ t.sess
      (ctField k) = none)
∧ (∃ (s : State) (t : State) (k : Nat) (x : _), t = { s with ctTemp := tput 0x80 s.ctTemp k 0x80 } ∧ ctOk k = true ∧
      t.sess (ctField k) = some x ∧ x.kind = 2 ∧ x.phase = 4 ∧ x.cluster = k % 64) :=
⟨⟨700, by decide +kernel⟩,
⟨(rdy), _, (0), rfl, by decide +kernel⟩,
⟨(0), by decide +kernel⟩,
⟨rdy.wr F.CC_VDD_STAT_warn 0 1, _, 721, rfl, by decide +kernel⟩,
⟨rdy.wr F.CC_VDD_CFG_droop_mv 0 1, _, (0), (0), 60000, (rfl), by decide +kernel⟩,
⟨(sessS {sess3 with applied := 1}).wr F.CC_VDD_CFG_droop_mv 0 1, _, 0, (0), 60000, {sess3 with applied := 1}, rfl,
    by decide +kernel⟩,
⟨(rdy), (0), 700, by decide +kernel⟩,
⟨(rdy), _, (.hmp), (0), (0), (⟨by decide +kernel, by decide +kernel⟩), rfl, by decide +kernel⟩,
⟨(rdy), _, (0), rfl, by decide +kernel⟩,
⟨sessS {sess3 with kind := 2, phase := 4}, _, (0), {sess3 with kind := 2, phase := 4}, rfl, by decide +kernel⟩⟩
theorem test_witness_Ownership :
(∃ (s : State) (w : Writer), Granted s w .CC_OWNER 0 ∧ masterNum w ≠ 3 ∧ s.rd F.CC_OWNER_owner = 3)
∧ (∃ (s : State) (w : Writer), Granted s w .CC_OWNER 0 ∧ s.rd F.CC_OWNER_owner ≠ 3 ∧ s.rb F.CC_OWNER_stale = false)
∧ (∃ (s : State) (w : Writer), Granted s w .CC_OWNER 0 ∧ w = .tray ∧ s.rd F.CC_OWNER_owner ≠ 3 ∧ s.rb F.CC_OWNER_stale
      = true ∧ s.isOwner w = false)
∧ (∃ (s : State) (w : Writer), Granted s w .CC_OWNER 0 ∧ w ≠ .tray ∧ s.rd F.CC_OWNER_owner ≠ 3)
∧ (∃ (s : State) (w : Writer), Granted s w .CC_OWNER 0 ∧ s.isOwner w = true)
∧ (∃ (s : State) (w : Writer), Granted s w .CC_OWNER 0 ∧ s.rb F.CC_OWNER_HO_pending = true ∧ masterNum w ≠ 3 ∧ s.rd
      F.CC_OWNER_HO_target = masterNum w ∧ s.wt ≤ s.hoAt + 100 * ms)
∧ (∃ (s : State) (w : Writer), Granted s w .CC_OWNER 0 ∧ (s.rb F.CC_OWNER_HO_pending = false ∨ s.rd
      F.CC_OWNER_HO_target ≠ masterNum w ∨ s.hoAt + 100 * ms < s.wt))
∧ (∃ (s : State) (w : Writer), s.regReach w .CC_OWNER_HO 0 = true ∧ s.mayWrite w .CC_OWNER_HO 0 = false)
∧ (∃ (s : State) (w : Writer) (target : Nat), Granted s w .CC_OWNER_HO 0 ∧ target = s.rd F.CC_OWNER_owner ∧ target <
      4)
∧ (∃ (s : State) (w : Writer) (target : Nat), Granted s w .CC_OWNER_HO 0 ∧ target < 4 ∧ s.isOwner w = true ∧ target ≠
      s.rd F.CC_OWNER_owner ∧ target ≠ 3)
∧ (∃ (s : State) (w : Writer) (target : Nat), Granted s w .CC_OWNER_HO 0 ∧ target = 3 ∧ target < 4 ∧ s.isOwner w =
      true ∧ s.rd F.CC_OWNER_owner ≠ 3)
∧ (∃ (s : State), s.rb F.CC_OWNER_HO_pending = false) :=
⟨⟨rdy.wr F.CC_OWNER_owner 0 3, (.hmp), ⟨by decide +kernel, by decide +kernel⟩, by decide +kernel⟩,
⟨(rdy), (.hmp), ⟨by decide +kernel, by decide +kernel⟩, by decide +kernel⟩,
⟨rdy.wr F.CC_OWNER_stale 0 1, _, ⟨by decide +kernel, by decide +kernel⟩, rfl, by decide +kernel⟩,
⟨(rdy), (.hmp), ⟨by decide +kernel, by decide +kernel⟩, by decide +kernel⟩,
⟨(rdy), (.hmp), ⟨by decide +kernel, by decide +kernel⟩, by decide +kernel⟩,
⟨(rdy.wr F.CC_OWNER_HO_pending 0 1).wr F.CC_OWNER_HO_target 0 0, (.hmp), ⟨by decide +kernel, by decide +kernel⟩,
    by decide +kernel⟩,
⟨(rdy), (.hmp), ⟨by decide +kernel, by decide +kernel⟩, by decide +kernel⟩,
⟨(rdy), .tray, by decide +kernel⟩,
⟨(rdy), (.hmp), _, ⟨by decide +kernel, by decide +kernel⟩, rfl, by decide +kernel⟩,
⟨(rdy), (.hmp), 1, ⟨by decide +kernel, by decide +kernel⟩, by decide +kernel⟩,
⟨(rdy), (.hmp), _, ⟨by decide +kernel, by decide +kernel⟩, rfl, by decide +kernel⟩,
⟨(rdy), by decide +kernel⟩⟩
theorem test_witness_PortsAndSwap :
(∃ (s : State), s.swapping = none ∧ s.hregQ = [] ∧ s.ccLost = false)
∧ (∃ (q : HReq), q.write = true)
∧ (∃ (q : HReq), q.write = false)
∧ (∃ (s : State), s.swapping.isSome = true ∧ s.ccLost = false ∧ s.hregQ.length < 16)
∧ (∃ (s : State), s.swapping.isSome = true ∧ s.ccLost = false ∧ 16 ≤ s.hregQ.length)
∧ (∃ (s : State) (q : HReq) (l : List HReq), s.hregQ = q :: l)
∧ (∃ (s : State) (n : _), s.swapping = some n)
∧ (∃ (s : State) (t : State) (u : State) (n : Nat) (v : State), t = (((s.setSeq ccSeq (s.seq sbSeq)).setRcdr ccRec
      (s.rcdr sbRec)).wr F.CC_ROLE_active 0 (1 - s.rd F.CC_ROLE_active)).wr F.CC_ROLE_standby_ok 0 0 ∧ u = ((t.bump
      F.CC_ROLE_swap_count).wr F.CC_REC_STAT_frozen 0 0).wr F.CC_REC_STAT_first_used 0 (s.rcdr sbRec).first.length ∧ v
      = raiseCc { code := Code.CC_SWAP, unit := u.ccUnit, params := 1 - s.rd F.CC_ROLE_active + 2 * n }
      { u with swapping := none, nonces := [], spdm := 4, ansQ := u.ansQ.filter (fun m => m.dst != ccSeq), confQ := u.confQ.map (fun m => if m.src = ccSeq then { m with src := 255 } else m) }
      ∧ u.rd F.CC_LOUPE_SEL_source ≠ 0xFF ∧ v.stop = none ∧ v.rd F.CC_PACK_STAT_state ≠ 1 ∧ v.rd F.CC_PACK_STAT_state
      ≠ 2)
∧ (∃ (s : State) (q : HReq), s.hregQ = [q])
∧ (∃ (s : State) (l : Nat), ltOk l = true ∧ s.wstep = none)
∧ (∃ (s : State) (x : WStep) (l : Nat), ltOk l = true ∧ s.wstep = some x)
∧ (∃ (s : State), (s.preCc = true ∨ s.ccLost = true))
∧ (∃ (s : State) (f : _), s.preCc = false ∧ s.ccLost = false ∧ fieldOk f = true ∧ f < 254)
∧ (∃ (s : State) (n : _), s.preCc = false ∧ s.ccLost = false ∧ n ≠ 0 ∧ n ≠ 255 ∧ fieldOk (n - 1) = false)
∧ (∃ (s : State) (v : Nat), s.preCc = false ∧ s.ccLost = false ∧ 8 ≤ v ∧ v ≤ 254)
∧ (∃ (s : State), s.ccLost = true) :=
⟨⟨(rdy), by decide +kernel⟩,
⟨hreq0, by decide +kernel⟩,
⟨{hreq0 with write := false}, by decide +kernel⟩,
⟨{rdy with swapping := some 1}, by decide +kernel⟩,
⟨{rdy with swapping := some 1, hregQ := List.replicate 16 hreq0}, by decide +kernel⟩,
⟨{rdy with hregQ := [hreq0]}, hreq0, [], by decide +kernel⟩,
⟨{rdy with swapping := some 1}, 1, by decide +kernel⟩,
⟨rdy.wr F.CC_LOUPE_SEL_source 0 0, _, _, (0), _, (rfl), (rfl), rfl, by decide +kernel⟩,
⟨{rdy with hregQ := [hreq0]}, hreq0, by decide +kernel⟩,
⟨(rdy), (0), by decide +kernel⟩,
⟨{rdy with wstep := some ⟨0, false, [0], [0]⟩}, ⟨0, false, [0], [0]⟩, (0), by decide +kernel⟩,
⟨{rdy with ccLost := true}, by decide +kernel⟩,
⟨(rdy), Inhabited.default, by decide +kernel⟩,
⟨(rdy), 200, by decide +kernel⟩,
⟨(rdy), 8, by decide +kernel⟩,
⟨{rdy with ccLost := true}, by decide +kernel⟩⟩
theorem test_witness_AccessAndFailure :
(∃ (s : State) (w : Writer) (a : Nat), (∀ q, w ≠ .seq q) ∧ (s.preCc = true ∨ s.ccLost = true ∨ a % 8 ≠ 0 ∨ winAt a =
      none))
∧ (∃ (s : State) (w : Writer) (a : Nat) (u : Nat) (o : Nat) (c : UnitCls), (∀ q, w ≠ .seq q) ∧ winAt a = some (c, u,
      o) ∧ s.winReach c u = false)
∧ (∃ (s : State) (w : Writer) (a : Nat) (u : Nat) (o : Nat) (i : Nat) (c : UnitCls) (r : Reg), (∀ q, w ≠ .seq q) ∧
      regInWin c u o = some (r, i) ∧ s.preCc = false ∧ s.ccLost = false ∧ a % 8 = 0 ∧ winAt a = some (c, u, o) ∧
      s.winReach c u = true ∧ s.mayWrite w r i = true ∧ r.place.unit = .cc)
∧ (∃ (s : State) (w : Writer) (a : Nat) (u : Nat) (o : Nat) (i : Nat) (c : UnitCls) (r : Reg), (∀ q, w ≠ .seq q) ∧
      s.preCc = false ∧ s.ccLost = false ∧ a % 8 = 0 ∧ winAt a = some (c, u, o) ∧ s.winReach c u = true ∧ regInWin c u
      o = some (r, i) ∧ s.mayWrite w r i = true ∧ r.place.unit ≠ .cc)
∧ (∃ (s : State) (w : Writer) (a : Nat) (u : Nat) (o : Nat) (i : Nat) (c : UnitCls) (r : Reg), (∀ q, w ≠ .seq q) ∧
      s.preCc = false ∧ s.ccLost = false ∧ a % 8 = 0 ∧ winAt a = some (c, u, o) ∧ s.winReach c u = true ∧ regInWin c u
      o = some (r, i) ∧ s.mayWrite w r i = false)
∧ (∃ (s : State) (q : Nat) (a : Nat) (i : Nat) (r : Reg), (seqAddr q a).bind regAt = some (r, i) ∧ rightTrap s q r i =
      none ∧ accessTrap s q a true false = none)
∧ (∃ (s : State) (q : Nat) (a : Nat) (i : Nat) (r : Reg) (c : _), (seqAddr q a).bind regAt = some (r, i) ∧ accessTrap
      s q a true false = some c ∧ rightTrap s q r i = none)
∧ (∃ (s : State) (w : Writer) (i : Nat) (f : Fld), fieldRight s w f i = false)
∧ (∃ (s : State) (w : Writer) (i : Nat) (v : Nat) (f : Fld), fieldRight s w f i = true ∧ (f.acc = .rw ∨ f.acc = .rp) ∧
      valueOk f (bits v f.lo f.w) = true)
∧ (∃ (s : State) (w : Writer) (i : Nat) (f : Fld), fieldRight s w f i = true ∧ f.acc = .w1c)
∧ (∃ (f : Fld), f.acc = .ro)
∧ (∃ (s : State) (f : Nat), fieldOk f = true ∧ s.fsWorks f = false)
∧ (∃ (s : State) (f : Nat), fieldOk f = true ∧ s.fsWorks f = true)
∧ (∃ (s : State) (t : State) (g : State → State), t = g s ∧ (∀ f, f < Config.nField → s.fsWorks f = true → t.fsWorks f
      = true))
∧ (∃ (s : State) (c : Nat), coreOk c = true ∧ s.rsteps.any (fun r => engCore r.eng == c && r.onPort) = true)
∧ (∃ (s : State) (c : Nat) (r : _) (l : _), coreOk c = true ∧ s.rsteps.any (fun r => engCore r.eng == c && r.onPort) =
      false ∧ takeFirst (fun (r : RStep) => engCore r.eng == c) s.rsteps = some (r, l)) :=
⟨⟨(rdy), (.hmp), 1, ((nofun)), by decide +kernel⟩,
⟨(rdy), (.hmp), 0x150000, 5, 0, .fs, (nofun), by decide +kernel⟩,
⟨(rdy), (.hmp), (0), 0, 0, _, .cc, _, ((nofun)), (rfl), by decide +kernel⟩,
⟨(rdy), (.hmp), 0x100040, 0, 0x40, 0, .fs, .FS_WAKE_CFG, ((nofun)), by decide +kernel⟩,
⟨(rdy), .tray, regAddr .CC_PART_FIELD 0, 0, regAddr .CC_PART_FIELD 0, 0, .cc, .CC_PART_FIELD, ((nofun)),
    by decide +kernel⟩,
⟨(rdy), (0), 0x1000040, 0, .FS_WAKE_CFG, by decide +kernel⟩,
⟨(rdy), (0), (0), _, _, _, rfl, rfl, by decide +kernel⟩,
⟨(rdy), .tray, (0), F.CC_BOOT_CFG_full_train, by decide +kernel⟩,
⟨(rdy), (.hmp), (0), (0), F.FS_WAKE_CFG_hold_us, by decide +kernel⟩,
⟨(rdy), (.hmp), (0), F.CC_FAULT_CTL_open, by decide +kernel⟩,
⟨F.CC_FIELD_REL0_rel, by decide +kernel⟩,
⟨(rdy), 5, by decide +kernel⟩,
⟨(rdy), (0), by decide +kernel⟩,
⟨(rdy), _, id, rfl, (fun _ _ h => h)⟩,
⟨{rdy with rsteps := [rst1]}, (0), by decide +kernel⟩,
⟨{rdy with rsteps := [{rst1 with onPort := false}]}, (0), {rst1 with onPort := false}, [], by decide +kernel⟩⟩
theorem test_witness_StepTakesTheFront :
(∃ (c : Instr) (l : List Instr) (s : State), s.pending = c :: l)
∧ (∃ (s : State), s.pending = [] ∧ s.aonOnly = false)
∧ (∃ (s : State), s.pending = [] ∧ s.aonOnly = true) :=
⟨⟨.add 0 0 0 0, [], {rdy with pending := [.add 0 0 0 0]}, by decide +kernel⟩,
⟨(rdy), by decide +kernel⟩,
⟨aon, by decide +kernel⟩⟩
theorem test_witness_RegisterFile :
(∃ (r : Reg) (r' : Reg) (i : Nat) (i' : Nat), (r ≠ r' ∨ i ≠ i'))
∧ (∃ (s : State) (f : Fld) (g : Fld), tsorted none s.regs = true ∧ f.reg = g.reg ∧ f.lo + f.w ≤ 64 ∧ g.lo + g.w ≤ 64 ∧
      (f.lo + f.w ≤ g.lo ∨ g.lo + g.w ≤ f.lo)) :=
⟨⟨.CC_OWNER, .CC_OWNER, (0), 1, by decide +kernel⟩,
⟨(rdy), F.FS_WAKE_CFG_hold_us, F.FS_WAKE_CFG_pin_awake, by decide +kernel⟩⟩
theorem test_witness_RecorderAreas :
(∃ (s : State) (r : Nat), RecordersFit s ∧ (s.rcdr r).frozen = true)
∧ (∃ (s : State) (r : Nat), RecordersFit s ∧ (s.rcdr r).frozen = false)
∧ (∃ (r : Nat) (r' : Nat), r' ≠ r) :=
⟨⟨frozenS, (0), (frozen_recs), by decide +kernel⟩,
⟨(rdy), (0), (rdy_recs), by decide +kernel⟩,
⟨(0), 1, by decide +kernel⟩⟩
end Sys2Proof
end

