-- ==== Sys2Proof/Proofs/BitFields.lean ====
section
/-!
SUPPORT. A field read after a field write, bit by bit.
-/
namespace Sys2Proof.Machine

theorem testBit_bits (v lo w j : Nat) : (bits v lo w).testBit j = (decide (j < w) && v.testBit (j + lo)) := by
  rw [bits, Nat.testBit_mod_two_pow, Nat.testBit_div_two_pow]

/-- Two fields of one width are equal when their bits are. -/
theorem bits_ext {a b lo lo' w : Nat} (h : ∀ j, j < w → a.testBit (j + lo) = b.testBit (j + lo')) :
    bits a lo w = bits b lo' w := by
  refine Nat.eq_of_testBit_eq fun j => ?_
  rw [testBit_bits, testBit_bits]
  rcases Nat.lt_or_ge j w with hj | hj
  · rw [h j hj]
  · simp only [decide_eq_false (Nat.not_lt.mpr hj), Bool.false_and]

/-- The three parts of a written word, from the top down. -/
theorem setBits_eq_nested (v lo w x : Nat) :
    setBits v lo w x = 2 ^ lo * (2 ^ w * (v / 2 ^ (lo + w)) + x % 2 ^ w) + v % 2 ^ lo := by
  rw [setBits, Nat.mul_add, ← Nat.mul_assoc, ← Nat.pow_add, Nat.mul_comm (2 ^ (lo + w)), Nat.mul_comm (2 ^ lo)]

theorem testBit_setBits (v lo w x j : Nat) :
    (setBits v lo w x).testBit j =
      if j < lo then v.testBit j else if j < lo + w then x.testBit (j - lo) else v.testBit j := by
  have hlow : v % 2 ^ lo < 2 ^ lo := Nat.mod_lt _ (Nat.two_pow_pos lo)
  have hmid : x % 2 ^ w < 2 ^ w := Nat.mod_lt _ (Nat.two_pow_pos w)
  rw [setBits_eq_nested, Nat.testBit_two_pow_mul_add _ hlow, Nat.testBit_two_pow_mul_add _ hmid,
    Nat.testBit_mod_two_pow, Nat.testBit_mod_two_pow, Nat.testBit_div_two_pow]
  rcases Nat.lt_or_ge j lo with hj | hj
  · rw [if_pos hj, if_pos hj, decide_eq_true hj, Bool.true_and]
  · rw [if_neg (Nat.not_lt.mpr hj), if_neg (Nat.not_lt.mpr hj)]
    rcases Nat.lt_or_ge j (lo + w) with hw | hw
    · have hin : j - lo < w := by omega
      rw [if_pos hin, if_pos hw, decide_eq_true hin, Bool.true_and]
    · have hout : ¬ j - lo < w := by omega
      rw [if_neg hout, if_neg (Nat.not_lt.mpr hw), show j - lo - w + (lo + w) = j by omega]

/-- A written field reads back the low bits written to it. -/
theorem bits_setBits_same (v lo w x : Nat) : bits (setBits v lo w x) lo w = x % 2 ^ w := by
  have hx : x % 2 ^ w = bits x 0 w := by rw [bits, Nat.pow_zero, Nat.div_one]
  rw [hx]
  refine bits_ext fun j hj => ?_
  have habove : ¬ j + lo < lo := by omega
  have hin : j + lo < lo + w := by omega
  rw [testBit_setBits, if_neg habove, if_pos hin, Nat.add_sub_cancel, Nat.add_zero]

/-- A field beside the written one keeps its value. -/
theorem bits_setBits_disjoint (v x : Nat) {lo w lo' w' : Nat} (h : lo + w ≤ lo' ∨ lo' + w' ≤ lo) :
    bits (setBits v lo w x) lo' w' = bits v lo' w' := by
  refine bits_ext fun j hj => ?_
  rw [testBit_setBits]
  rcases h with habove | hbelow
  · have hlo : ¬ j + lo' < lo := by omega
    have hhi : ¬ j + lo' < lo + w := by omega
    rw [if_neg hlo, if_neg hhi]
  · have hlo : j + lo' < lo := by omega
    rw [if_pos hlo]

/-- A field within the low `n` bits reads the same in the value cut to `n` bits. -/
theorem bits_mod_two_pow (v : Nat) {lo w n : Nat} (h : lo + w ≤ n) : bits (v % 2 ^ n) lo w = bits v lo w := by
  refine bits_ext fun j hj => ?_
  have hn : j + lo < n := by omega
  rw [Nat.testBit_mod_two_pow, decide_eq_true hn, Bool.true_and]

end Sys2Proof.Machine
end

