-- ==== Sys2Proof/Proofs/RegisterFile.lean ====
section
/-!
PROOF. The register file is a table in canonical form whose unlisted entries read their reset values (R14, R46, R467).
-/
namespace Sys2Proof.Machine

/-- A read of a register is a read of the table, with the reset value as the table's default. -/
theorem regVal_eq_tget (s : State) (r : Reg) (i : Nat) :
    s.regVal r i = (tget (BitVec.ofNat 64 r.rst) s.regs (regKey r i)).toNat := by
  unfold State.regVal tget
  cases tfind s.regs (regKey r i) with
  | none => exact ((BitVec.toNat_ofNat r.rst 64).trans (Nat.mod_eq_of_lt (reg_rst_lt r))).symm
  | some v => rfl

theorem regVal_setReg_same {s : State} (r : Reg) (i v : Nat) (h : tsorted none s.regs = true) :
    (s.setReg r i v).regVal r i = v % 2 ^ 64 := by
  rw [regVal_eq_tget, State.setReg, tget_tput_same _ _ _ h, BitVec.toNat_ofNat]

theorem tsorted_setReg {s : State} (r : Reg) (i v : Nat) (h : tsorted none s.regs = true) :
    tsorted none (s.setReg r i v).regs = true := tsorted_tput _ _ _ h

/-- A read of a field of the register just written, from the register's old value. -/
theorem rd_wr_sameReg {s : State} {f g : Fld} (i v : Nat) (h : tsorted none s.regs = true) (hr : f.reg = g.reg)
    (hg : g.lo + g.w ≤ 64) :
    (s.wr f i v).rd g i = bits (setBits (s.regVal g.reg i) f.lo f.w v) g.lo g.w := by
  rw [State.rd, State.wr, hr, regVal_setReg_same _ _ _ h, bits_mod_two_pow _ hg]

theorem rd_wr_same {s : State} {f : Fld} (i v : Nat) (h : tsorted none s.regs = true) (hf : f.lo + f.w ≤ 64) :
    (s.wr f i v).rd f i = v % 2 ^ f.w := by
  rw [rd_wr_sameReg i v h rfl hf, bits_setBits_same]

theorem rd_wr_disjoint {s : State} {f g : Fld} (i v : Nat) (h : tsorted none s.regs = true) (hr : f.reg = g.reg)
    (hg : g.lo + g.w ≤ 64) (hd : f.lo + f.w ≤ g.lo ∨ g.lo + g.w ≤ f.lo) :
    (s.wr f i v).rd g i = s.rd g i := by
  rw [rd_wr_sameReg i v h hr hg, bits_setBits_disjoint _ _ hd, State.rd]

/-- Settles O59: a write of a register is the canonical write at its own key, and of a field the bits of that field. -/
theorem registerFile : Obligations.RegisterFile := by
  unfold Obligations.RegisterFile
  refine ⟨fun s r i v h => ⟨regVal_setReg_same r i v h, tsorted_setReg r i v h⟩, ?_, ?_, ?_⟩
  · intro s r r' i i' v hne
    exact regVal_other s v (hne.imp Ne.symm Ne.symm)
  · intro s f i v h hf
    exact rd_wr_same i v h hf
  · intro s f g i v h hr _ hg hd
    exact rd_wr_disjoint i v h hr hg hd

end Sys2Proof.Machine
end

