-- ==== Sys2Proof/Proofs/AccessAndFailure.lean ====
section
/-!
PROOF. Register writes by address, an FS that fails and a core's reset port (R46, R213, R214, R439, R464, R465).
-/
namespace Sys2Proof.Machine

/-! ### A master's write by address -/

section
variable (s : State) {w : Writer} (a v : Nat)

theorem exec_registerWrite_master (hw : ∀ q, w ≠ .seq q) :
    exec (.registerWrite w a v) s = .next (writeAt w a v s).2 := by
  cases w with
  | seq q => exact absurd rfl (hw q)
  | _ => rfl

variable {s a}

theorem writeAt_noTarget (h : s.preCc = true ∨ s.ccLost = true ∨ a % 8 ≠ 0 ∨ winAt a = none) :
    (writeAt w a v s).2 = ownerSeen w s := by
  unfold writeAt
  split
  · rfl
  · rename_i hcc
    simp only [Bool.or_eq_true, not_or] at hcc
    obtain ⟨hpre, hlost⟩ := hcc
    split
    · rfl
    · rename_i ha
      rw [((h.resolve_left hpre).resolve_left hlost).resolve_left ha]

theorem writeAt_closedWindow {c : UnitCls} {u o : Nat} (hwin : winAt a = some (c, u, o)) (hr : s.winReach c u = false) :
    (writeAt w a v s).2 = ownerSeen w s := by
  unfold writeAt
  split
  · rfl
  · split
    · rfl
    · simp only [hwin, hr, Bool.not_false, if_true]

theorem writeAt_register {c : UnitCls} {u o i : Nat} {r : Reg} (hpre : s.preCc = false) (hlost : s.ccLost = false)
    (ha : a % 8 = 0) (hwin : winAt a = some (c, u, o)) (hr : s.winReach c u = true)
    (hreg : regInWin c u o = some (r, i)) : (writeAt w a v s).2 = writeReg w r i v s := by
  simp only [writeAt, hpre, hlost, ha, hwin, hr, hreg, Bool.or_self, Bool.not_true, ne_eq, not_true_eq_false,
    Bool.false_eq_true, if_false]

end

/-! ### What a write does to the register it reaches -/

section
variable {s : State} {w : Writer} {r : Reg} {i : Nat} (v : Nat)

theorem writeReg_cc (hm : s.mayWrite w r i = true) (hu : r.place.unit = .cc) :
    writeReg w r i v s = wrote w r i (putCc w r i v s) := by
  rw [writeReg, if_pos hm, if_pos hu]

theorem writeReg_unit (hm : s.mayWrite w r i = true) (hu : r.place.unit ≠ .cc) :
    writeReg w r i v s = wrote w r i (putUnit w r i v s) := by
  rw [writeReg, if_pos hm, if_neg hu]

theorem writeReg_noRight (hm : s.mayWrite w r i = false) : writeReg w r i v s = noRight w r s := by
  simp only [writeReg, hm, Bool.false_eq_true, if_false]

end

/-! ### A sequencer's write by address -/

section
variable {s : State} {q a i : Nat} {r : Reg} (v : Nat)

theorem exec_registerWrite_seq (hreg : (seqAddr q a).bind regAt = some (r, i)) (hright : rightTrap s q r i = none)
    (hacc : accessTrap s q a true false = none) :
    exec (.registerWrite (.seq q) a v) s = .next (writeReg (.seq q) r i v s) := by
  change execRegisterWrite (.seq q) a v s = _
  simp only [execRegisterWrite, hacc, hreg, hright, Option.isSome_none, Bool.false_eq_true, if_false]

theorem exec_registerWrite_seqTrap {c : Nat} (hacc : accessTrap s q a true false = some c) :
    exec (.registerWrite (.seq q) a v) s = .next s := by
  change execRegisterWrite (.seq q) a v s = _
  simp only [execRegisterWrite, hacc]

end

/-! ### One field of a written register (R14) -/

section
variable {s : State} {w : Writer} {i : Nat} {f : Fld} (v a : Nat)

theorem fieldPut_noRight (h : fieldRight s w f i = false) : fieldPut s w i v a f = a := by
  simp only [fieldPut, h, Bool.not_false, if_true]

theorem fieldPut_readOnly (h : f.acc = .ro) : fieldPut s w i v a f = a := by
  simp only [fieldPut, h, ite_self]

variable {v}

theorem fieldPut_written (h : fieldRight s w f i = true) (hacc : f.acc = .rw ∨ f.acc = .rp)
    (hv : valueOk f (bits v f.lo f.w) = true) :
    fieldPut s w i v a f = setBits a f.lo f.w (bits v f.lo f.w) := by
  rcases hacc with hacc | hacc <;>
    simp only [fieldPut, h, hacc, hv, Bool.not_true, if_true, Bool.false_eq_true, if_false]

variable (v)

theorem fieldPut_w1c (h : fieldRight s w f i = true) (hacc : f.acc = .w1c) :
    fieldPut s w i v a f =
      setBits a f.lo f.w (bits a f.lo f.w - Nat.land (bits a f.lo f.w) (bits v f.lo f.w)) := by
  simp only [fieldPut, h, hacc, Bool.not_true, Bool.false_eq_true, if_false]

end

/-! ### An FS that fails -/

section
variable {s : State} {f : Nat}

theorem exec_fsFailure (hf : fieldOk f = true) (hw : s.fsWorks f = true) :
    exec (.fsFailure f) s = .next (afterFs (fun t => fsStopped f 3 true { t with
      fsHw := tput ({} : FsHw) t.fsHw f { tget {} t.fsHw f with failed := true } }) s) := by
  change execFsFailure f s = _
  rw [execFsFailure, onUnit, if_pos hf, if_pos hw]

theorem exec_fsFailure_notWorking (hf : fieldOk f = true) (hw : s.fsWorks f = false) :
    exec (.fsFailure f) s = .next s := by
  change execFsFailure f s = _
  simp only [execFsFailure, onUnit, hf, hw, if_true, Bool.false_eq_true, if_false]

/-- Where every FS that works goes on working, nothing goes with the effect: no field is on the list of those that
stopped. -/
theorem afterFs_keepsWorking {g : State → State}
    (h : ∀ f, f < Config.nField → s.fsWorks f = true → (g s).fsWorks f = true) : afterFs g s = g s := by
  have hnone : (List.range Config.nField).filter (fun f => s.fsWorks f && !(g s).fsWorks f) = [] := by
    rw [List.filter_eq_nil_iff]
    intro f hf
    rw [Bool.and_eq_true, Bool.not_eq_true']
    rintro ⟨hwas, hnow⟩
    exact Bool.false_ne_true (hnow ▸ h f (List.mem_range.mp hf) hwas)
  rw [afterFs, hnone]; rfl

end

/-! ### A core's reset port (R439) -/

section
variable {s : State} {c : Nat}

theorem portNext_busy (hb : s.rsteps.any (fun r => engCore r.eng == c && r.onPort) = true) : portNext c s = s := by
  rw [portNext, if_pos hb]

theorem portNext_free {r : RStep} {l : List RStep}
    (hb : s.rsteps.any (fun r => engCore r.eng == c && r.onPort) = false)
    (ht : takeFirst (fun (r : RStep) => engCore r.eng == c) s.rsteps = some (r, l)) :
    portNext c s = { s with
      rsteps := s.rsteps.map (fun (x : RStep) => if x = r then { x with onPort := true } else x) } := by
  simp only [portNext, hb, ht, Bool.false_eq_true, if_false]

theorem exec_resetRequestRaise (hc : coreOk c = true) : exec (.resetRequestRaise c) s = .next (portNext c s) := by
  change execResetRequestRaise c s = _
  rw [execResetRequestRaise, onUnit, if_pos hc]

end

/-- Settles O56: each clause is one case of the write by address, of the field rule or of the command. -/
theorem accessAndFailure : Obligations.AccessAndFailure := by
  unfold Obligations.AccessAndFailure
  refine ⟨?_, ?_, ?_, ?_, ?_, ?_, ?_, ?_⟩
  · intro s w a v hw h
    rw [exec_registerWrite_master s a v hw, writeAt_noTarget v h]
  · intro s w a v u o c hw hwin hr
    rw [exec_registerWrite_master s a v hw, writeAt_closedWindow v hwin hr]
  · intro s w a v u o i c r hw hpre hlost ha hwin hr hreg
    rw [exec_registerWrite_master s a v hw, writeAt_register v hpre hlost ha hwin hr hreg]
    exact ⟨fun hm hu => by rw [writeReg_cc v hm hu], fun hm hu => by rw [writeReg_unit v hm hu],
      fun hm => by rw [writeReg_noRight v hm]⟩
  · intro s q a v i r hreg hright
    exact ⟨exec_registerWrite_seq v hreg hright, fun _ => exec_registerWrite_seqTrap v⟩
  · intro s w i v a f
    exact ⟨fieldPut_noRight v a, fieldPut_written a, fieldPut_w1c v a, fieldPut_readOnly v a⟩
  · intro s f hf
    exact ⟨exec_fsFailure_notWorking hf, exec_fsFailure hf⟩
  · rintro s _ g rfl h
    exact afterFs_keepsWorking h
  · intro s c hc
    rw [exec_resetRequestRaise hc]
    exact ⟨fun hb => by rw [portNext_busy hb], fun _ _ hb ht => by rw [portNext_free hb ht]⟩

end Sys2Proof.Machine
end

