-- ==== Sys2Proof/Proofs/GrantedWrites.lean ====
section
/-!
PROOF. A command that is a register write takes its register's own effect when the write is granted (R242, R464, R465).
-/
namespace Sys2Proof.Machine

variable {s t : State} {w : Writer} {r : Reg} {i : Nat}

/-- The owner has a right to every register. -/
theorem granted_of_isOwner (hreach : s.regReach w r i = true) (hown : s.isOwner w = true) : Granted s w r i :=
  ⟨hreach, if_pos (by rw [hown, Bool.or_true])⟩

/-- A granted write makes its command's effect, with the heartbeat and the WATCH bits of any write. -/
theorem regWrite_granted (h : Granted s w r i) : regWrite w r i s (.next t) = .next (wrote w r i t) := by
  obtain ⟨hreach, hmay⟩ := h
  simp only [regWrite, hreach, hmay, if_true]

end Sys2Proof.Machine
end

