-- ==== Sys2Proof/Proofs/CcPair.lean ====
section
/-!
PROOF. The heartbeat, the takeover and the checkpoint of the CC pair (R18 to R22).
-/
namespace Sys2Proof.Machine

/-! ### A takeover begins (R19, R22) -/

section
variable {s : State} (n : Nat)

theorem beginSwap_standbyReady (hok : s.rb F.CC_ROLE_standby_ok = true) (hswap : s.swapping = none) :
    beginSwap n s = { s with swapping := some n } := by
  rw [beginSwap, hok, hswap, Option.isNone_none, Bool.and_self, if_pos rfl]

theorem beginSwap_noStandby (hok : s.rb F.CC_ROLE_standby_ok = false) : beginSwap n s = s := by
  simp only [beginSwap, hok, Bool.false_and, Bool.false_eq_true, if_false]

theorem ccFailed_standbyReady (hok : s.rb F.CC_ROLE_standby_ok = true) (hswap : s.swapping = none) :
    ccFailed n s = { s with swapping := some n } := by
  rw [ccFailed, hok, Bool.true_or, if_pos rfl, beginSwap_standbyReady n hok hswap]

theorem ccFailed_noStandby (hok : s.rb F.CC_ROLE_standby_ok = false) (hswap : s.swapping = none) :
    ccFailed n s = bothCcLost s := by
  simp only [ccFailed, hok, hswap, Option.isSome_none, Bool.or_self, Bool.false_eq_true, if_false]

end

/-! ### The commands of the pair -/

section
variable (s : State)

theorem exec_heartbeatLoss : exec .heartbeatLoss s = .next (ccFailed 0 (s.toWt (s.hbAt + 100000))) := rfl

theorem exec_activeCcFatal : exec .activeCcFatal s = .next (ccFailed 1 s) := rfl

variable {s}

theorem exec_swapReq_owner {w : Writer} (hown : s.isOwner w = true) (hreach : s.regReach w .CC_ROLE 0 = true) :
    exec (.swapReq w) s = .next (wrote w .CC_ROLE 0 (beginSwap 2 s)) := by
  change execSwapReq w s = _
  rw [execSwapReq, regWrite_granted (granted_of_isOwner hreach hown), if_pos hown]

theorem exec_wtCompare_above {d : Nat} (hd : 2 < d) : exec (.wtCompare d) s = .next (s.wr F.CC_ROLE_standby_ok 0 0) := by
  change execWtCompare d s = _
  rw [execWtCompare, if_pos hd]

theorem exec_wtCompare_within {d : Nat} (hd : d ≤ 2) : exec (.wtCompare d) s = .next s := by
  change execWtCompare d s = _
  rw [execWtCompare, if_neg (Nat.not_lt.mpr hd)]

end

/-- Settles O1: each clause is one case of `ccFailed`, of `beginSwap` or of the comparison. -/
theorem ccPair : Obligations.CcPair := by
  unfold Obligations.CcPair
  refine ⟨fun _ => rfl, ?_, ?_, ?_, ?_, fun _ => rfl, fun _ _ => exec_wtCompare_above, fun _ _ => exec_wtCompare_within⟩
  · intro s hok hswap
    rw [exec_heartbeatLoss, exec_activeCcFatal, ccFailed_standbyReady 1 hok hswap,
      ccFailed_standbyReady (s := s.toWt (s.hbAt + 100000)) 0 hok hswap]
    exact ⟨rfl, rfl⟩
  · intro s hok hswap
    rw [exec_heartbeatLoss, exec_activeCcFatal, ccFailed_noStandby 1 hok hswap,
      ccFailed_noStandby (s := s.toWt (s.hbAt + 100000)) 0 hok hswap]
    exact ⟨rfl, rfl⟩
  · intro s w hown hreach hok hswap
    rw [exec_swapReq_owner hown hreach, beginSwap_standbyReady 2 hok hswap]
  · intro s w hown hreach hok
    rw [exec_swapReq_owner hown hreach, beginSwap_noStandby 2 hok]

end Sys2Proof.Machine
end

