-- ==== Sys2Proof/Proofs/PoolAndLinks.lean ====
section
/-!
PROOF. The configuration of a buffer pool, and the packets and link replays of Trogirum (R28, R36 to R38).
-/
namespace Sys2Proof.Machine

/-! ### The pool's configuration (R28) -/

section
variable {s t : State} {w : Writer} {m v : Nat}

theorem exec_mtPoolCfgWrite_granted (h : Granted s w .MT_POOL_CFG m) (hm : mtOk m = true) :
    exec (.mtPoolCfgWrite w m v) s = .next (wrote w .MT_POOL_CFG m (poolCfgWrite w m v s)) := by
  change execMtPoolCfgWrite w m v s = _
  rw [execMtPoolCfgWrite, onUnit, if_pos hm, regWrite_granted h]

variable (ht : t = (s.wr F.MT_POOL_CFG_reserved_min m (bits v 0 4)).wr F.MT_POOL_CFG_shared_cap m (bits v 8 8))
include ht

theorem poolCfgWrite_fits (hw : ∀ p, w ≠ .tenant p) (hsum : poolReserved t m ≤ 256) : poolCfgWrite w m v s = t := by
  unfold poolCfgWrite
  rw [← ht]
  cases w with
  | tenant p => exact absurd rfl (hw p)
  | _ => exact if_pos hsum

theorem poolCfgWrite_tooMuch (hsum : 256 < poolReserved t m) : poolCfgWrite w m v s = s := by
  unfold poolCfgWrite
  rw [← ht]
  cases w with
  | tenant p => rfl
  | _ => exact if_neg (Nat.not_le.mpr hsum)

end

/-! ### A delivered packet (R36, R38, Table 1-7) -/

section
variable {s u : State} {p : List Byte} (hon : s.aonOnly = false)
include hon

theorem exec_trogPacketDeliver_badCrc (hcrc : trogCrcOf p ≠ trogCrc p)
    (hu : u = forAll (trogTargets s (trogDst p)) trogRecord
      { s with trogDrops := s.trogDrops + max 1 (trogTargets s (trogDst p)).length }) :
    exec (.trogPacketDeliver p) s = .next (if trogClass p = 0 then
      { u with trogUnacked := u.trogUnacked ++ [⟨trogSrc p, trogSeqNo p, trogDst p, u.wt, 0⟩] } else u) := by
  subst hu
  change execTrogPacketDeliver p s = _
  simp only [execTrogPacketDeliver, hon, Bool.false_eq_true, if_false, if_pos hcrc]

variable (hcrc : trogCrcOf p = trogCrc p)
include hcrc

theorem exec_trogPacketDeliver_unknown (hbad : trogClass p = 3 ∨ 8 < trogLen p) :
    exec (.trogPacketDeliver p) s =
      .next { s with trogDrops := s.trogDrops + max 1 (trogTargets s (trogDst p)).length } := by
  change execTrogPacketDeliver p s = _
  simp only [execTrogPacketDeliver, hon, Bool.false_eq_true, if_false, hcrc, ne_eq, not_true_eq_false, if_pos hbad]

variable (hlen : trogLen p ≤ 8)
include hlen

theorem exec_trogPacketDeliver_control (hclass : trogClass p = 0) :
    exec (.trogPacketDeliver p) s = .next (if tget 0 s.trogSeen (trogSrc p) = trogSeqNo p + 1 then s
      else forAll (trogTargets s (trogDst p)) (trogTake ⟨trogSrc p, trogType p, 0, trogInline p, trogData p⟩)
        { s with trogSeen := tput 0 s.trogSeen (trogSrc p) (trogSeqNo p + 1),
                 trogUnacked := s.trogUnacked.filter (fun x => !(x.src == trogSrc p && x.sq == trogSeqNo p)) }) := by
  have hgood : ¬ (trogClass p = 3 ∨ 8 < trogLen p) := by omega
  change execTrogPacketDeliver p s = _
  simp only [execTrogPacketDeliver, hon, Bool.false_eq_true, if_false, hcrc, ne_eq, not_true_eq_false, if_neg hgood]
  rw [if_pos hclass, hclass]

theorem exec_trogPacketDeliver_bulkOrVerdict (hclass : trogClass p = 1 ∨ trogClass p = 2) :
    exec (.trogPacketDeliver p) s = .next (forAll (trogTargets s (trogDst p))
      (trogTake ⟨trogSrc p, trogType p, trogClass p, trogInline p, trogData p⟩) s) := by
  have hgood : ¬ (trogClass p = 3 ∨ 8 < trogLen p) := by omega
  have hcontrol : ¬ trogClass p = 0 := by omega
  change execTrogPacketDeliver p s = _
  simp only [execTrogPacketDeliver, hon, Bool.false_eq_true, if_false, hcrc, ne_eq, not_true_eq_false, if_neg hgood,
    if_neg hcontrol]

end

/-- A sequencer that takes packets keeps the payload and, of a program message, an entry of its receive queue. -/
theorem trogTake_sequencer {s : State} {m : TrogMsg} {u q : Nat} (halive : trogAlive s u = true)
    (hseq : seqOfUnit u = some q) :
    trogTake m u s = (if m.typ < 0x8000 then { s with trogIn := tins (tdel s.trogIn u) u m }
      else rxAt q { src := m.src, dst := q, typ := m.typ, cls := m.cls, len := m.data.length / 32,
                    inl := m.inl, data := m.data } { s with trogIn := tins (tdel s.trogIn u) u m }) := by
  simp only [trogTake, halive, hseq, Bool.not_true, Bool.false_eq_true, if_false]

/-! ### A packet sent again (R36) -/

section
variable {s : State} {a q : Nat}

theorem exec_controlResend_waiting {x : Unacked} {l : List Unacked} (hon : s.aonOnly = false)
    (hx : takeFirst (fun x : Unacked => x.src == a && x.sq == q) s.trogUnacked = some (x, l)) :
    exec (.controlResend a q) s = .next { s.toWt (x.sentAt + 4000) with
      trogUnacked := l ++ [{ x with sentAt := (s.toWt (x.sentAt + 4000)).wt, resent := x.resent + 1 }] } := by
  change execControlResend a q s = _
  simp only [execControlResend, hx, hon, Bool.false_eq_true, if_false, us]

theorem exec_controlResend_noneWaits
    (hx : takeFirst (fun x : Unacked => x.src == a && x.sq == q) s.trogUnacked = none) :
    exec (.controlResend a q) s = .next s := by
  change execControlResend a q s = _
  simp only [execControlResend, hx]

end

/-- A replay that succeeds is recorded and ends the row of failures (R36). -/
theorem linkReplay_good (f : Nat) (s : State) :
    linkReplay f true s = { raiseTap f { code := Code.TROG_LINK_REPLAY, unit := routerUnit f } s with
      replayFails := tdel (raiseTap f { code := Code.TROG_LINK_REPLAY, unit := routerUnit f } s).replayFails f } := by
  rw [linkReplay, if_pos rfl]

theorem exec_trogLinkReplay {s : State} {f : Nat} (ok : Bool) (hf : fieldOk f = true) (hon : s.aonOnly = false) :
    exec (.trogLinkReplay f ok) s = .next (afterFs (linkReplay f ok) s) := by
  change execTrogLinkReplay f ok s = _
  simp only [execTrogLinkReplay, onUnit, hf, hon, if_true, Bool.false_eq_true, if_false]

/-- Settles O2: each clause is one case of the pool's rule, of a packet's check or of the link's replay. -/
theorem poolAndLinks : Obligations.PoolAndLinks := by
  unfold Obligations.PoolAndLinks
  refine ⟨?_, ?_, ?_, ?_, ?_, ?_, ?_, ?_, ?_, ?_, ?_⟩
  · intro s w m v h hm hw hsum
    rw [exec_mtPoolCfgWrite_granted h hm, poolCfgWrite_fits rfl hw hsum]
  · intro s w m v h hm hsum
    rw [exec_mtPoolCfgWrite_granted h hm, poolCfgWrite_tooMuch rfl hsum]
  · intro s p hon hcrc
    exact ⟨_, exec_trogPacketDeliver_badCrc hon hcrc rfl, fun _ hu => by rw [hu]⟩
  · intro s p hon hcrc hbad
    exact exec_trogPacketDeliver_unknown hon hcrc hbad
  · intro s p hon hcrc hlen hclass hnew
    rw [exec_trogPacketDeliver_control hon hcrc hlen hclass, if_neg hnew]
  · intro s p hon hcrc hlen hclass hseen
    rw [exec_trogPacketDeliver_control hon hcrc hlen hclass, if_pos hseen]
  · intro s p hon hcrc hlen hclass
    exact exec_trogPacketDeliver_bulkOrVerdict hon hcrc hlen hclass
  · intro m u q s halive hseq
    exact trogTake_sequencer halive hseq
  · intro s a q x l hon hx
    exact exec_controlResend_waiting hon hx
  · intro s a q hx
    exact exec_controlResend_noneWaits hx
  · intro s f hf hon
    exact ⟨_, exec_trogLinkReplay true hf hon, by rw [funext (linkReplay_good f)]⟩

end Sys2Proof.Machine
end

