-- ==== Sys2Proof/Proofs/SeqRegisters.lean ====
section
/-!
PROOF. RDR and WRR: a sequencer's read and write of a register, and their traps (R46, R241 to R243).
-/
namespace Sys2Proof.Machine

/-! ### The trap of an access (R241, R243) -/

section
variable (s : State) (q : Nat) (write late : Bool) {o a : Nat}

theorem accessTrap_misaligned (ho : o % 8 ≠ 0) : accessTrap s q o write late = some trapAlign := by
  rw [accessTrap, if_pos ho]

theorem accessTrap_outside (ho : o % 8 = 0) (hend : 0x1010000 ≤ o) : accessTrap s q o write late = some trapAccess := by
  have hwin : ¬ o < 0x1000000 := by omega
  have halias : ¬ o < 0x1010000 := by omega
  simp only [accessTrap, ho, seqAddr, if_neg hwin, if_neg halias, ne_eq, not_true_eq_false, if_false]

variable {q write}

theorem accessTrap_outOfReach (ho : o % 8 = 0) (ha : seqAddr q o = some a) (hreach : seqReach q write a = false) :
    accessTrap s q o write late = some trapAccess := by
  simp only [accessTrap, ho, ha, hreach, ne_eq, not_true_eq_false, if_false, Bool.not_false, if_true]

/-- An offset in reach traps with BUS exactly when it cannot be reached now or the access is not answered. -/
theorem accessTrap_inReach (ho : o % 8 = 0) (ha : seqAddr q o = some a) (hreach : seqReach q write a = true) :
    accessTrap s q o write late = if !seqLive s a || late then some trapBus else none := by
  simp only [accessTrap, ho, ha, hreach, ne_eq, not_true_eq_false, if_false, Bool.not_true, Bool.false_eq_true]

end

/-! ### The two instructions -/

section
variable {s u : State} {q rd rs ra imm o a i v c : Nat} {late : Bool} {r : Reg} (h : Ready s q)
include h

theorem exec_rdr_oddPair (hodd : rd % 2 = 1) : exec (.rdr q rd ra imm late) s = .next (trapped s q trapIllegal rd) := by
  change execRdr q rd ra imm late s = _
  exact ready_trap h (if_pos hodd)

theorem exec_wrr_oddPair (hodd : rs % 2 = 1) : exec (.wrr q rs ra imm late) s = .next (trapped s q trapIllegal rs) := by
  change execWrr q rs ra imm late s = _
  exact ready_trap h (if_pos hodd)

variable (ho : o = ((nowSeq s q).gr ra + BitVec.ofInt 32 (sext 16 imm)).toNat)
include ho

section
variable (heven : rd % 2 = 0)
include heven

theorem exec_rdr_accessTrap (hacc : accessTrap (now s q) q o false late = some c) :
    exec (.rdr q rd ra imm late) s = .next (trapped s q c o) := by
  change execRdr q rd ra imm late s = _
  exact ready_trap h (by simp only [sext16, ← ho, heven, hacc, Nat.zero_ne_one, if_false])

variable (hacc : accessTrap (now s q) q o false late = none) (ha : seqAddr q o = some a)
include hacc ha

theorem exec_rdr_register (hreg : regAt a = some (r, i)) (hread : readReg (.seq q) r i (now s q) = (v, u)) :
    exec (.rdr q rd ra imm late) s = .next (u.setSeq q ((u.seq q).setPair rd v).adv) := by
  change execRdr q rd ra imm late s = _
  exact ready_done h (by
    simp only [sext16, ← ho, heven, hacc, ha, Option.bind_some, hreg, hread, Nat.zero_ne_one, if_false])

theorem exec_rdr_reserved (hreg : regAt a = none) :
    exec (.rdr q rd ra imm late) s = .next ((now s q).setSeq q ((nowSeq s q).setPair rd 0).adv) := by
  change execRdr q rd ra imm late s = _
  exact ready_done h (by simp only [sext16, ← ho, heven, hacc, ha, Option.bind_some, hreg, Nat.zero_ne_one, if_false])

end

section
variable (heven : rs % 2 = 0)
include heven

theorem exec_wrr_accessTrap (hacc : accessTrap (now s q) q o true late = some c) :
    exec (.wrr q rs ra imm late) s = .next (trapped s q c o) := by
  change execWrr q rs ra imm late s = _
  exact ready_trap h (by simp only [sext16, ← ho, heven, hacc, Nat.zero_ne_one, if_false])

variable (hacc : accessTrap (now s q) q o true late = none) (ha : seqAddr q o = some a) (hreg : regAt a = some (r, i))
include hacc ha hreg

theorem exec_wrr_register (hright : rightTrap (now s q) q r i = none) :
    exec (.wrr q rs ra imm late) s =
      .next (writeReg (.seq q) r i ((nowSeq s q).pair rs) ((now s q).setSeq q (nowSeq s q).adv)) := by
  change execWrr q rs ra imm late s = _
  exact ready_done h (by
    simp only [sext16, ← ho, heven, hacc, ha, Option.bind_some, hreg, hright, Nat.zero_ne_one, if_false])

theorem exec_wrr_rightTrap (hright : rightTrap (now s q) q r i = some c) :
    exec (.wrr q rs ra imm late) s = .next (trapped s q c o) := by
  change execWrr q rs ra imm late s = _
  exact ready_trap h (by
    simp only [sext16, ← ho, heven, hacc, ha, Option.bind_some, hreg, hright, Nat.zero_ne_one, if_false])

end

end

/-- Settles O33: each clause is one path of RDR or WRR, from its operands to its effect or its trap. -/
theorem seqRegisters : Obligations.SeqRegisters := by
  unfold Obligations.SeqRegisters
  refine ⟨?_, ?_, ?_, ?_, ?_, ?_⟩
  · rintro s u q rd ra imm o a i v r x h rfl ho heven hacc ha hreg hread
    exact exec_rdr_register h ho heven hacc ha hreg hread
  · rintro s q rd ra imm o a x h rfl ho heven hacc ha hreg
    exact exec_rdr_reserved h ho heven hacc ha hreg
  · rintro s q rs ra imm o a i r x h rfl ho heven hacc ha hreg
    exact ⟨exec_wrr_register h ho heven hacc ha hreg, fun _ => exec_wrr_rightTrap h ho heven hacc ha hreg⟩
  · intro s q r ra imm o c late h ho heven
    exact ⟨exec_rdr_accessTrap h ho heven, exec_wrr_accessTrap h ho heven⟩
  · intro s q r ra imm late h hodd
    exact ⟨exec_rdr_oddPair h hodd, exec_wrr_oddPair h hodd⟩
  · intro s q o wr late
    refine ⟨accessTrap_misaligned s q wr late, accessTrap_outside s q wr late,
      fun _ => accessTrap_outOfReach s late, ?_, ?_⟩
    · intro a ho ha hreach hdead
      rw [accessTrap_inReach s late ho ha hreach, hdead, Bool.not_false, Bool.true_or, if_pos rfl]; rfl
    · intro a ho ha hreach
      rw [accessTrap_inReach s true ho ha hreach, Bool.or_true, if_pos rfl]; rfl

end Sys2Proof.Machine
end

