-- ==== Sys2Proof/Proofs/StopCommands.lean ====
section
/-!
PROOF. The operations of CC_STOP_CMD: stop, cancel, freeze, release, resume and force release (R40, R343, R345, R349, R351,
R352).
-/
namespace Sys2Proof.Machine

/-! ### A stop is asked for (R343, R349) -/

section
variable {s : State}

theorem stopRequest_inProgress (j f : Bool) (hstop : s.stop.isSome = true) : stopRequest j f s = stopRefuse 1 s := by
  rw [stopRequest, if_pos hstop]

theorem stopRequest_aonOnly (j f : Bool) (hstop : s.stop = none) (hon : s.aonOnly = true) :
    stopRequest j f s = stopRefuse 2 s := by
  simp only [stopRequest, hstop, hon, Option.isSome_none, Bool.false_eq_true, if_false, if_true]

variable {id : Nat} (f : Bool) (hstop : s.stop = none) (hon : s.aonOnly = false)
  (hid : id = s.rd F.CC_BUILD1_wafer_id + 2 ^ 10 * (s.stopCount % 64))
include hstop hon hid

theorem stopRequest_local :
    stopRequest false f s = stopOpen
      { id := id, tStop := s.wt + localLead s, joined := false, freeze := f, late := false }
      { s with stopCount := s.stopCount + 1 } := by
  simp only [stopRequest, hstop, hon, ← hid, Option.isSome_none, Bool.false_eq_true, if_false]

theorem stopRequest_joined {lead : Nat} (hlead : lead = max (s.rd F.CC_STOP_CFG_join_lead_us * us) minLead) :
    stopRequest true f s = ltControlAll none 0 id lead (stopOpen
      { id := id, tStop := s.wt + lead, joined := true, freeze := f, late := false }
      { s with stopCount := s.stopCount + 1, joinIds := (id :: s.joinIds).take 16 }) := by
  simp only [stopRequest, hstop, hon, ← hid, ← hlead, Option.isSome_none, Bool.false_eq_true, if_false, if_true]

end

/-! ### The operations of a writer that CC_STOP_CMD answers to -/

section
variable {s : State} {w : Writer} (hw : s.isOwner w = true ∨ isSeq w 128 = true)
include hw

/-- The owner's and the CC sequencer's writes pass the register's own check. -/
theorem stopCmd_allowed : (s.isOwner w || isSeq w ccSeq) = true := (Bool.or_eq_true _ _).mpr hw

theorem stopCmdWrite_stop (j f : Bool) : stopCmdWrite w (1 + 8 * b2n j + 16 * b2n f) s = stopRequest j f s := by
  have hop : bits (1 + 8 * b2n j + 16 * b2n f) 0 3 = 1 := by cases j <;> cases f <;> rfl
  have hjoined : bit (1 + 8 * b2n j + 16 * b2n f) 3 = j := by cases j <;> cases f <;> rfl
  have hfreeze : bit (1 + 8 * b2n j + 16 * b2n f) 4 = f := by cases j <;> cases f <;> rfl
  simp only [stopCmdWrite, stopCmd_allowed hw, hop, hjoined, hfreeze, Bool.not_true, Bool.false_eq_true, if_false]

theorem stopCmdWrite_cancel_noStop (hstop : s.stop = none) : stopCmdWrite w 2 s = stopRefuse 3 s := by
  have hop : bits 2 0 3 = 2 := rfl
  simp only [stopCmdWrite, stopCmd_allowed hw, hop, hstop, Bool.not_true, Bool.false_eq_true, if_false]

theorem stopCmdWrite_cancel_sampled {x : Stop} (hstop : s.stop = some x) (hx : x.sampled = true) :
    stopCmdWrite w 2 s = stopRefuse 5 s := by
  have hop : bits 2 0 3 = 2 := rfl
  simp only [stopCmdWrite, stopCmd_allowed hw, hop, hstop, hx, Bool.not_true, Bool.false_eq_true, if_false, if_true]

theorem stopCmdWrite_cancel_notSampled {x : Stop} (hstop : s.stop = some x) (hx : x.sampled = false) :
    stopCmdWrite w 2 s = stopCancel 0 s := by
  have hop : bits 2 0 3 = 2 := rfl
  simp only [stopCmdWrite, stopCmd_allowed hw, hop, hstop, hx, Bool.not_true, Bool.false_eq_true, if_false]

/-- Freeze, release and resume need a stop in force. -/
theorem stopCmdWrite_notInForce {v : Nat} (hv : bits v 0 3 = 3 ∨ bits v 0 3 = 4 ∨ bits v 0 3 = 5)
    (hforce : inForce s = none) : stopCmdWrite w v s = stopRefuse 3 s := by
  rcases hv with hop | hop | hop
  · simp only [stopCmdWrite, stopCmd_allowed hw, hop, hforce, Bool.not_true, Bool.false_eq_true, if_false]
  · simp only [stopCmdWrite, stopCmd_allowed hw, hop, hforce, Option.isNone_none, Bool.not_true, Bool.false_eq_true,
      if_false, if_true]
  · simp only [stopCmdWrite, stopCmd_allowed hw, hop, hforce, Bool.not_true, Bool.false_eq_true, if_false]

variable {x : Stop} (hforce : inForce s = some x)
include hforce

theorem stopCmdWrite_freeze :
    stopCmdWrite w 3 s =
      stopState 3 { s with freezeWire := true, stop := some { x with tRun := none, auto := false } } := by
  have hop : bits 3 0 3 = 3 := rfl
  simp only [stopCmdWrite, stopCmd_allowed hw, hop, hforce, Bool.not_true, Bool.false_eq_true, if_false]

theorem stopCmdWrite_release :
    stopCmdWrite w 4 s = if s.freezeWire then stopState 2 { s with freezeWire := false } else s := by
  have hop : bits 4 0 3 = 4 := rfl
  simp only [stopCmdWrite, stopCmd_allowed hw, hop, hforce, Option.isNone_some, unfreeze, Bool.not_true,
    Bool.false_eq_true, if_false]

theorem stopCmdWrite_resume_frozen (hfrozen : s.freezeWire = true) : stopCmdWrite w 5 s = stopRefuse 4 s := by
  have hop : bits 5 0 3 = 5 := rfl
  simp only [stopCmdWrite, stopCmd_allowed hw, hop, hforce, hfrozen, Bool.not_true, Bool.false_eq_true, if_false,
    if_true]

theorem stopCmdWrite_resume (hfrozen : s.freezeWire = false) (hon : s.aonOnly = false) (hrun : x.tRun = none) :
    stopCmdWrite w 5 s = resumeForward none x (s.wt + localLead s) (resumeAt (s.wt + localLead s) false x s) := by
  have hop : bits 5 0 3 = 5 := rfl
  simp only [stopCmdWrite, stopCmd_allowed hw, hop, hforce, hfrozen, hon, hrun, Option.isSome_none, Bool.not_true,
    Bool.false_eq_true, if_false]

end

/-! ### The right to CC_STOP_CMD -/

section
variable {s : State} {w : Writer}

theorem stopCmdWrite_otherWriter (v : Nat) (hown : s.isOwner w = false) (hseq : isSeq w 128 = false) :
    stopCmdWrite w v s = s := by
  have hcc : isSeq w ccSeq = false := hseq
  simp only [stopCmdWrite, hown, hcc, Bool.or_self, Bool.not_false, if_true]

theorem stopCmdWrite_force_owner (hown : s.isOwner w = true) : stopCmdWrite w 6 s = forceRelease s := by
  have hop : bits 6 0 3 = 6 := rfl
  simp only [stopCmdWrite, hown, hop, Bool.true_or, Bool.not_true, Bool.false_eq_true, if_false, if_true]

theorem stopCmdWrite_force_notOwner (hown : s.isOwner w = false) : stopCmdWrite w 6 s = s := by
  have hop : bits 6 0 3 = 6 := rfl
  simp only [stopCmdWrite, hown, hop, Bool.false_eq_true, if_false, ite_self]

end

/-! ### The commands are writes of CC_STOP_CMD -/

section
variable {s : State} {w : Writer} (h : Granted s w .CC_STOP_CMD 0)
include h

theorem exec_stopRequest_granted (j f : Bool) :
    exec (.stopRequest w j f) s = .next (wrote w .CC_STOP_CMD 0 (stopCmdWrite w (1 + 8 * b2n j + 16 * b2n f) s)) :=
  regWrite_granted h

theorem exec_stopCancel_granted : exec (.stopCancel w) s = .next (wrote w .CC_STOP_CMD 0 (stopCmdWrite w 2 s)) :=
  regWrite_granted h

theorem exec_stopFreeze_granted : exec (.stopFreeze w) s = .next (wrote w .CC_STOP_CMD 0 (stopCmdWrite w 3 s)) :=
  regWrite_granted h

theorem exec_stopRelease_granted : exec (.stopRelease w) s = .next (wrote w .CC_STOP_CMD 0 (stopCmdWrite w 4 s)) :=
  regWrite_granted h

theorem exec_stopResume_granted : exec (.stopResume w) s = .next (wrote w .CC_STOP_CMD 0 (stopCmdWrite w 5 s)) :=
  regWrite_granted h

theorem exec_forceRelease_granted : exec (.forceRelease w) s = .next (wrote w .CC_STOP_CMD 0 (stopCmdWrite w 6 s)) :=
  regWrite_granted h

end

/-- Settles O43: each command is a write of CC_STOP_CMD, and each clause one case of an operation. -/
theorem stopCommands : Obligations.StopCommands := by
  unfold Obligations.StopCommands
  refine ⟨?_, ?_, ?_, ?_, ?_⟩
  · intro s w j f h hw
    rw [exec_stopRequest_granted h, stopCmdWrite_stop hw]
    exact ⟨rfl, stopRequest_inProgress j f, stopRequest_aonOnly j f, fun id hstop hon hid =>
      ⟨stopRequest_local f hstop hon hid, fun _ => stopRequest_joined f hstop hon hid⟩⟩
  · intro s w h hw
    rw [exec_stopCancel_granted h]
    exact ⟨fun hstop => by rw [stopCmdWrite_cancel_noStop hw hstop],
      fun _ hstop hx => by rw [stopCmdWrite_cancel_sampled hw hstop hx],
      fun _ hstop hx => by rw [stopCmdWrite_cancel_notSampled hw hstop hx]⟩
  · intro s w h hw hforce
    rw [exec_stopFreeze_granted h, exec_stopRelease_granted h, exec_stopResume_granted h,
      stopCmdWrite_notInForce hw (.inl rfl) hforce, stopCmdWrite_notInForce hw (.inr (.inl rfl)) hforce,
      stopCmdWrite_notInForce hw (.inr (.inr rfl)) hforce]
    exact ⟨rfl, rfl, rfl⟩
  · intro s w x h hw hforce
    rw [exec_stopFreeze_granted h, exec_stopRelease_granted h, exec_stopResume_granted h,
      stopCmdWrite_freeze hw hforce, stopCmdWrite_release hw hforce]
    refine ⟨rfl, ?_, ?_, ?_, ?_⟩
    · intro hfrozen
      rw [if_pos hfrozen]
    · intro hfrozen
      rw [hfrozen, if_neg Bool.false_ne_true]
    · intro hfrozen
      rw [stopCmdWrite_resume_frozen hw hforce hfrozen]
    · intro hfrozen hon hrun
      rw [stopCmdWrite_resume hw hforce hfrozen hon hrun, resumeAt]
  · intro s w h
    rw [exec_forceRelease_granted h]
    refine ⟨fun hown => by rw [stopCmdWrite_force_owner hown], fun hown => ⟨?_, ?_⟩⟩
    · rw [stopCmdWrite_force_notOwner hown]
    · intro hseq j f
      rw [exec_stopRequest_granted h, stopCmdWrite_otherWriter _ hown hseq]

end Sys2Proof.Machine
end

