-- ==== Sys2Proof/Proofs/PortsAndSwap.lean ====
section
/-!
PROOF. The host register port, the swap of the CCs, link training and the management port (R18, R22, R314, R349, R369, R436,
R437, R447, R453).
-/
namespace Sys2Proof.Machine

/-! ### The host register port (R436, R437, R453) -/

section
variable {s : State} (b : Bool) (addr data : Nat) (part : Option Nat)

theorem exec_hregRequest_ccLost (hlost : s.ccLost = true) : exec (.hregRequest b addr data part) s = .next s := by
  change Host.Outcome.next (hregRequest b addr data part s) = _
  rw [hregRequest, if_pos hlost]

variable (hlost : s.ccLost = false)
include hlost

theorem exec_hregRequest_answered (hswap : s.swapping = none) (hq : s.hregQ = []) :
    exec (.hregRequest b addr data part) s = .next
      { (hregDo { write := b, addr := addr, data := data, part := part, at_ := s.wt } s).2 with
        hregOut := [(hregDo { write := b, addr := addr, data := data, part := part, at_ := s.wt } s).1] } := by
  change Host.Outcome.next (hregRequest b addr data part s) = _
  simp only [hregRequest, hlost, hswap, hq, Option.isSome_none, List.isEmpty_nil, Bool.not_true, Bool.or_self,
    Bool.false_eq_true, if_false]

variable (hswap : s.swapping.isSome = true)
include hswap

theorem exec_hregRequest_waits (hroom : s.hregQ.length < 16) :
    exec (.hregRequest b addr data part) s = .next { s with
      hregQ := s.hregQ ++ [{ write := b, addr := addr, data := data, part := part, at_ := s.wt }] } := by
  change Host.Outcome.next (hregRequest b addr data part s) = _
  simp only [hregRequest, hlost, hswap, Bool.true_or, Bool.false_eq_true, if_false, if_true, if_pos hroom]

theorem exec_hregRequest_full (hfull : 16 ≤ s.hregQ.length) : exec (.hregRequest b addr data part) s = .next s := by
  change Host.Outcome.next (hregRequest b addr data part s) = _
  simp only [hregRequest, hlost, hswap, Bool.true_or, Bool.false_eq_true, if_false, if_true,
    if_neg (Nat.not_lt.mpr hfull)]

end

section
variable {s : State} {q : HReq}

theorem hregDo_write (hw : q.write = true) :
    hregDo q s =
      (⟨(writeAt (hregBy q.part) q.addr q.data s).1, 0⟩, (writeAt (hregBy q.part) q.addr q.data s).2) := by
  rw [hregDo, if_pos hw]

theorem hregDo_read (hr : q.write = false) : hregDo q s = readAt (hregBy q.part) q.addr s := by
  simp only [hregDo, hr, Bool.false_eq_true, if_false]

theorem exec_hregTimeout_oldest {l : List HReq} (hq : s.hregQ = q :: l) :
    exec .hregTimeout s = .next { s.toWt (q.at_ + 270 * us) with hregQ := l, hregOut := [⟨3, 0⟩] } := by
  change execHregTimeout s = _
  simp only [execHregTimeout, hq]

theorem exec_hregTimeout_noneWaits (hq : s.hregQ = []) : exec .hregTimeout s = .next s := by
  change execHregTimeout s = _
  simp only [execHregTimeout, hq]

theorem hregDrain_noneWaits (hq : s.hregQ = []) : hregDrain s = s := by
  simp only [hregDrain, hq, List.isEmpty_nil, if_true]

theorem hregDrain_oneWaits (hq : s.hregQ = [q]) :
    hregDrain s = { (hregDo q { s with hregQ := [] }).2 with hregOut := [(hregDo q { s with hregQ := [] }).1] } := by
  simp only [hregDrain, hq, List.isEmpty_cons, Bool.false_eq_true, if_false, List.foldl_cons, List.foldl_nil,
    List.nil_append]

end

/-! ### The swap (R18, R22) -/

section
variable {s : State} {n : Nat}

theorem exec_ccSwap_none (hswap : s.swapping = none) : exec .ccSwap s = .next s := by
  change execCcSwap s = _
  simp only [execCcSwap, hswap]

theorem exec_ccSwap_triggered (hswap : s.swapping = some n) : exec .ccSwap s = .next (swapNow n s) := by
  change execCcSwap s = _
  simp only [execCcSwap, hswap]

/-- With no stop open and no pack being received, the swap hands over the sequencer and the recorder, records CC_SWAP, and
the new active CC answers what waited. -/
theorem swapNow_noStop_noPack {t u v : State}
    (ht : t = (((s.setSeq ccSeq (s.seq sbSeq)).setRcdr ccRec (s.rcdr sbRec)).wr F.CC_ROLE_active 0
      (1 - s.rd F.CC_ROLE_active)).wr F.CC_ROLE_standby_ok 0 0)
    (hu : u = ((t.bump F.CC_ROLE_swap_count).wr F.CC_REC_STAT_frozen 0 0).wr F.CC_REC_STAT_first_used 0
      (s.rcdr sbRec).first.length)
    (hloupe : u.rd F.CC_LOUPE_SEL_source ≠ 0xFF)
    (hv : v = raiseCc { code := Code.CC_SWAP, unit := u.ccUnit, params := 1 - s.rd F.CC_ROLE_active + 2 * n } { u with
      swapping := none
      nonces := []
      spdm := 4
      ansQ := u.ansQ.filter (fun m => m.dst != ccSeq)
      confQ := u.confQ.map (fun m => if m.src = ccSeq then { m with src := 255 } else m) })
    (hstop : v.stop = none) (hrecv : v.rd F.CC_PACK_STAT_state ≠ 1) (hcheck : v.rd F.CC_PACK_STAT_state ≠ 2) :
    swapNow n s = hregDrain (epochSync (bootRepeat v)) := by
  have hnoLoupe : (u.rd F.CC_LOUPE_SEL_source == 0xFF) = false := beq_false_of_ne hloupe
  have hnoPack : [1, 2].contains (v.rd F.CC_PACK_STAT_state) = false := by
    simp only [List.contains_cons, List.contains_nil, beq_false_of_ne hrecv, beq_false_of_ne hcheck, Bool.or_self]
  simp only [swapNow, ← ht, ← hu, hnoLoupe, Bool.false_eq_true, if_false, ← hv, hstop, hnoPack]

end

/-! ### Links (R314, R349, R369) -/

section
variable {s : State} {l : Nat} (hl : ltOk l = true)
include hl

theorem exec_linkTrained_noWaferStep (hstep : s.wstep = none) :
    exec (.linkTrained l) s = .next { s with ltUp := tput false s.ltUp l true } := by
  change execLinkTrained l s = _
  simp only [execLinkTrained, onUnit, hl, if_true, linkTrained, hstep]

theorem exec_linkTrained_waferStep {x : WStep} (hstep : s.wstep = some x) :
    exec (.linkTrained l) s = .next (waferDone { s with
      ltUp := tput false s.ltUp l true
      wstep := some { x with ports := x.ports.filter (· != l) } }) := by
  change execLinkTrained l s = _
  simp only [execLinkTrained, onUnit, hl, if_true, linkTrained, hstep]

theorem exec_linkDown :
    exec (.linkDown l) s = .next ((({ s with
      ltUp := tput false s.ltUp l false } : State).wr F.LT_TRUST_known l 0).wr F.LT_TRUST_peer l 0) := by
  change execLinkDown l s = _
  rw [execLinkDown, onUnit, if_pos hl]

end

/-! ### The management port (R447) -/

section
variable {s : State}

theorem exec_pldmRequest_silent (n : Nat) (h : s.preCc = true ∨ s.ccLost = true) :
    exec (.pldmRequest n) s = .next s := by
  change execPldmRequest n s = _
  rw [execPldmRequest, if_pos ((Bool.or_eq_true _ _).mpr h)]

theorem exec_mctpControlRequest_silent (cmd v : Nat) (h : s.preCc = true ∨ s.ccLost = true) :
    exec (.mctpControlRequest cmd v) s = .next s := by
  change execMctpControlRequest cmd v s = _
  rw [execMctpControlRequest, if_pos ((Bool.or_eq_true _ _).mpr h)]

variable (hpre : s.preCc = false) (hlost : s.ccLost = false)
include hpre hlost

theorem exec_pldmRequest_answered (n : Nat) :
    exec (.pldmRequest n) s = .next { s with mgmtOut := n :: (pldmValue s n).toList } := by
  change execPldmRequest n s = _
  simp only [execPldmRequest, hpre, hlost, Bool.or_self, Bool.false_eq_true, if_false]

theorem exec_mctpControlRequest_answered (cmd v : Nat) :
    exec (.mctpControlRequest cmd v) s = .next (mctpControl cmd v s) := by
  change execMctpControlRequest cmd v s = _
  simp only [execMctpControlRequest, hpre, hlost, Bool.or_self, Bool.false_eq_true, if_false]

end

section
variable (s : State)

theorem pldmValue_field {f : Nat} (hf : fieldOk f = true) (hlast : f < 254) :
    pldmValue s (f + 1) = some (hottest s f) := by
  have hservice : f + 1 ≠ 255 := by omega
  rw [pldmValue, if_neg (Nat.succ_ne_zero f), if_neg hservice, Nat.add_sub_cancel, if_pos hf]

theorem pldmValue_absent {n : Nat} (hsupply : n ≠ 0) (hservice : n ≠ 255) (hf : fieldOk (n - 1) = false) :
    pldmValue s n = none := by
  simp only [pldmValue, if_neg hsupply, if_neg hservice, hf, Bool.false_eq_true, if_false]

theorem mctpControl_setEid {v : Nat} (hlo : 8 ≤ v) (hhi : v ≤ 254) :
    mctpControl 1 v s = { s with mctpEid := v, mgmtOut := [0, 0, v, 0] } := if_pos ⟨hlo, hhi⟩

end

/-- Settles O55: each clause is one case of a port's rule, of the swap or of a link's training. -/
theorem portsAndSwap : Obligations.PortsAndSwap := by
  unfold Obligations.PortsAndSwap
  refine ⟨?_, ?_, ?_, ?_, ?_, ?_, ?_, ?_, ?_, ?_, ?_, ?_, ?_, ?_, ?_, ?_⟩
  · intro s b addr data part hswap hq hlost
    exact exec_hregRequest_answered b addr data part hlost hswap hq
  · exact fun s q => ⟨hregDo_write, hregDo_read⟩
  · intro s b addr data part hswap hlost
    exact ⟨exec_hregRequest_waits b addr data part hlost hswap, exec_hregRequest_full b addr data part hlost hswap⟩
  · exact fun s q l => exec_hregTimeout_oldest
  · exact fun s => exec_hregTimeout_noneWaits
  · exact fun s => ⟨exec_ccSwap_none, fun _ => exec_ccSwap_triggered⟩
  · intro s t u n ht hu hloupe v hv hstop hrecv hcheck
    exact swapNow_noStop_noPack ht hu hloupe hv hstop hrecv hcheck
  · exact fun s => hregDrain_noneWaits
  · exact fun s q => hregDrain_oneWaits
  · exact fun s l hl => ⟨exec_linkTrained_noWaferStep hl, exec_linkDown hl⟩
  · exact fun s x l hl => exec_linkTrained_waferStep hl
  · exact fun s n cmd v h => ⟨exec_pldmRequest_silent n h, exec_mctpControlRequest_silent cmd v h⟩
  · intro s hpre hlost
    simp only [exec_pldmRequest_answered hpre hlost]
    refine ⟨rfl, rfl, ?_, ?_⟩
    · intro f hf hlast
      rw [pldmValue_field s hf hlast]; rfl
    · intro n hsupply hservice hf
      rw [pldmValue_absent s hsupply hservice hf]; rfl
  · intro s v hpre hlost
    rw [exec_mctpControlRequest_answered hpre hlost, exec_mctpControlRequest_answered hpre hlost]
    exact ⟨fun hlo hhi => by rw [mctpControl_setEid s hlo hhi], rfl⟩
  · exact fun s a => rfl
  · exact fun s b addr data part => exec_hregRequest_ccLost b addr data part

end Sys2Proof.Machine
end

