-- ==== Sys2Proof/Proofs/MemoryLoads.lean ====
section
/-!
PROOF. Host reads at a memory tap, and the sleeve and tag lines that arrive after delivery (R57, R59, R62, R66, R311, R378,
R379). A refused read delivers zeros without a sleeve (log entry 71), and a line for which nothing waits changes nothing (log
entry 15): both are the model's choice.
-/
namespace Sys2Proof.Machine

/-! ### The commands reach a memory tap that exists -/

section
variable {s : State} {m : Nat} (hm : mtOk m = true)
include hm

theorem exec_mtLoad (b : Nat) (d : List Byte) (ue lu late : Bool) (part : Nat) (link : Bool) (gen tag : Nat) (tl : Bool) :
    exec (.mtLoad m b d ue lu late part link gen tag tl) s =
      .next (mtLoad m b d ue lu late part link gen tag tl s) := by
  change execMtLoad m b d ue lu late part link gen tag tl s = _
  rw [execMtLoad, onUnit, if_pos hm]

theorem exec_sleeveLineArrive (b : Nat) (ue : Bool) :
    exec (.sleeveLineArrive m b ue) s = .next (sleeveLine m b ue s) := by
  change execSleeveLineArrive m b ue s = _
  rw [execSleeveLineArrive, onUnit, if_pos hm]

theorem exec_tagLineArrive (b tag : Nat) : exec (.tagLineArrive m b tag) s = .next (tagLine m b tag s) := by
  change execTagLineArrive m b tag s = _
  rw [execTagLineArrive, onUnit, if_pos hm]

end

/-! ### A host read (R57, R62, R311, R378) -/

section
variable {s : State} {m gen : Nat} (b part tag : Nat) (d : List Byte) (ue lu late link tl : Bool)

/-- R311: only a channel of a partition looks at the generation of a read. -/
theorem mtLoad_stale (hfree : s.chanFree m = false) (hgen : gen ≠ s.gen (s.partOfChan m)) :
    mtLoad m b d ue lu late part link gen tag tl s = raiseMt m
      { code := Code.STALE_DROPPED, unit := mtUnit m,
        params := s.partOfChan m + 2 ^ 6 * gen + 2 ^ 14 * s.gen (s.partOfChan m) + 2 ^ 22 }
      (s.bump F.MT_GEN_STAT_stale m) := by
  simp only [mtLoad, hfree, bne_iff_ne.mpr hgen, Bool.not_false, Bool.and_self, if_true]

theorem stale_eq_false (h : s.chanFree m = true ∨ gen = s.gen (s.partOfChan m)) :
    (!s.chanFree m && gen != s.gen (s.partOfChan m)) = false := by
  rcases h with hfree | hgen
  · rw [hfree, Bool.not_true, Bool.false_and]
  · rw [hgen, bne_self_eq_false, Bool.and_false]

theorem scrubStops_eq_false (h : s.chanFree m = true ∨ scrubHolds s (s.partOfChan m) = false) :
    (!s.chanFree m && scrubHolds s (s.partOfChan m)) = false := by
  rcases h with hfree | hscrub
  · rw [hfree, Bool.not_true, Bool.false_and]
  · rw [hscrub, Bool.and_false]

section
variable (hcur : s.chanFree m = true ∨ gen = s.gen (s.partOfChan m))
include hcur

theorem mtLoad_sleeveRegion {b : Nat} (hslv : hitsSlvRgn s m b 1 = true) :
    mtLoad m b d ue lu late part link gen tag tl s = mtGive m (List.replicate d.length 0) 0 (raiseMt m
      { code := Code.SLEEVE_REGION_ACCESS, unit := mtUnit m, params := mtSlvParams 0 0 b } s) := by
  simp only [mtLoad, stale_eq_false hcur, hslv, Bool.false_eq_true, if_false, if_true, zeroBlock, slvRefuse]

variable {b : Nat} (hslv : hitsSlvRgn s m b 1 = false) (hslot : slotAt s m b = none)
include hslv hslot

theorem mtLoad_ordinary (hscrub : s.chanFree m = true ∨ scrubHolds s (s.partOfChan m) = false)
    (hrgn : regionOf s m b = none) :
    mtLoad m b d ue lu late part link gen tag tl s =
      mtGive m d (mtLoadSlv m b d ue ⟨lu, late⟩ {} s).1 (mtLoadSlv m b d ue ⟨lu, late⟩ {} s).2 := by
  simp only [mtLoad, stale_eq_false hcur, hslv, hslot, scrubStops_eq_false hscrub, hrgn, Bool.false_eq_true, if_false]

/-- A block of a sealed region goes to the region's own partition over no link, and to nobody else (R378). -/
theorem mtLoad_sealedRegion {i k : Nat} (hfree : s.chanFree m = false)
    (hscrub : scrubHolds s (s.partOfChan m) = false) (hrgn : regionOf s m b = some i)
    (hsealed : s.sealed (s.partOfChan m) = true) (hkey : keyOf s (s.partOfChan m) = some k) :
    mtLoad m b d ue lu late part link gen tag tl s =
      if part ≠ s.partOfChan m ∨ link = true then
        mtGive m (List.replicate d.length 0) 0 (sealRefuse m b (s.partOfChan m) part false link i s)
      else sealedLoad m b i k d ue ⟨lu, late⟩ tag tl s := by
  have howned : (!s.chanFree m && s.sealed (s.partOfChan m)) = true := by rw [hfree, hsealed]; rfl
  simp only [mtLoad, stale_eq_false hcur, hslv, hslot, scrubStops_eq_false (.inr hscrub), hrgn, howned, hkey,
    Bool.false_eq_true, if_false, if_true, zeroBlock]

end

end

/-! ### A line that arrives after delivery (R59, R66, R379) -/

section
variable {s : State} {m b : Nat}

section
variable {want : Nat} (hwait : tget 0 s.sealLate (blkKey m b) = want + 1)
include hwait

theorem tagLine_agrees : tagLine m b want s = { s with sealLate := tdel s.sealLate (blkKey m b) } := by
  simp only [tagLine, hwait, if_true]

theorem tagLine_differs {tag : Nat} (hne : tag ≠ want) :
    ∃ n, tagLine m b tag s = raiseMt m { code := Code.SEAL_TAG_LATE, unit := mtUnit m, params := n }
      (({ s with sealLate := tdel s.sealLate (blkKey m b) } : State).bump F.MT_SEAL_STAT_tag_fail m) := by
  simp only [tagLine, hwait, if_neg hne]
  exact ⟨_, rfl⟩

end

theorem sleeveLine_noneWaits (ue : Bool) (hnone : tget 0 s.slvLate (blkKey m b) = 0) : sleeveLine m b ue s = s := by
  simp only [sleeveLine, hnone]

/-- A line with an uncorrectable error ends the wait and is remembered as bad before the event is recorded. -/
theorem sleeveLine_uncorrectable {v : Nat} (hwait : tget 0 s.slvLate (blkKey m b) = v + 1) :
    ∃ t, sleeveLine m b true s = raiseMt m
        { code := Code.SLEEVE_REGION_UE, unit := mtUnit m, params := mtSlvParams v 0 b } t
      ∧ t.slvBad = tput false s.slvBad (blkKey m (b / 8)) true ∧ t.slvLate = tdel s.slvLate (blkKey m b)
      ∧ t.regs = s.regs ∧ t.slv = s.slv := by
  simp only [sleeveLine, hwait, if_true]
  exact ⟨_, rfl, rfl, rfl, rfl, rfl⟩

end

/-- Settles O4: each clause is one case of a host read or of a line's arrival. -/
theorem memoryLoads : Obligations.MemoryLoads := by
  unfold Obligations.MemoryLoads
  refine ⟨?_, ?_, ?_, ?_, ?_, ?_, ?_, ?_, ?_⟩
  · intro s m b part gen tag d ue lu late link tl hm hcur hslv hslot hrgn
    rw [exec_mtLoad hm, mtLoad_ordinary part tag d ue lu late link tl (hcur.imp_right And.left) hslv hslot
      (hcur.imp_right And.right) hrgn]
  · intro s m b part gen tag d ue lu late link tl hm hfree hgen
    rw [exec_mtLoad hm, mtLoad_stale b part tag d ue lu late link tl hfree hgen]
  · intro s m b part gen tag d ue lu late link tl hm hcur hslv
    rw [exec_mtLoad hm, mtLoad_sleeveRegion part tag d ue lu late link tl hcur hslv]
  · intro s m b i k gen tag d ue lu late tl hm hfree hgen hslv hslot hscrub hrgn hsealed hkey
    have hown : ¬ (s.partOfChan m ≠ s.partOfChan m ∨ false = true) := by simp
    rw [exec_mtLoad hm, mtLoad_sealedRegion _ tag d ue lu late false tl (.inr hgen) hslv hslot hfree hscrub hrgn hsealed
      hkey, if_neg hown]
  · intro s m b i k part gen tag d ue lu late link tl hm hfree hgen hslv hslot hscrub hrgn hsealed hkey hother
    rw [exec_mtLoad hm, mtLoad_sealedRegion part tag d ue lu late link tl (.inr hgen) hslv hslot hfree hscrub hrgn hsealed
      hkey, if_pos hother]
  · intro s m b want hm hwait
    rw [exec_tagLineArrive hm, tagLine_agrees hwait]
  · intro s m b want tag hm hwait hne
    rw [exec_tagLineArrive hm]
    obtain ⟨n, hline⟩ := tagLine_differs hwait hne
    exact ⟨n, congrArg _ hline⟩
  · intro s m b v hm hwait
    rw [exec_sleeveLineArrive hm]
    obtain ⟨t, hline, hrest⟩ := sleeveLine_uncorrectable hwait
    exact ⟨t, congrArg _ hline, hrest⟩
  · intro s m b ue hm hnone
    rw [exec_sleeveLineArrive hm, sleeveLine_noneWaits ue hnone]

end Sys2Proof.Machine
end

