-- ==== Sys2Proof/Proofs/MemoryWritesAndLinks.lean ====
section
/-!
PROOF. Host writes at a memory tap, MT_SLEEVE_CFG, and the packets of a link tap (R57, R61, R62, R64, R310 to R312, R369).
-/
namespace Sys2Proof.Machine

/-! ### A host write (R62, R64, R65, R378) -/

section
variable {s : State} {m b : Nat} (v part : Nat) (whole link : Bool) (d : List Byte)

theorem exec_mtWrite (hm : mtOk m = true) :
    exec (.mtWrite m b whole v d part link) s = .next (mtWrite m b whole v d part link s) := by
  change execMtWrite m b whole v d part link s = _
  rw [execMtWrite, onUnit, if_pos hm]

theorem mtWrite_sleeveRegion (hslv : hitsSlvRgn s m b 1 = true) :
    mtWrite m b whole v d part link s =
      raiseMt m { code := Code.SLEEVE_REGION_ACCESS, unit := mtUnit m, params := mtSlvParams 0 1 b } s := by
  simp only [mtWrite, hslv, if_true, slvRefuse]

/-- A write that no sleeve region, checkpoint slot, scrub or sealed region stops is stored. -/
theorem mtWrite_stored (hslv : hitsSlvRgn s m b 1 = false) (hslot : slotAt s m b = none)
    (hscrub : s.chanFree m = true ∨ scrubHolds s (s.partOfChan m) = false)
    (hsealed : s.chanFree m = true ∨ s.sealed (s.partOfChan m) = false) :
    mtWrite m b whole v d part link s =
      if whole = true then mtWriteWhole m b v d (shadowWrite m b s) else mtWritePart m b v (shadowWrite m b s) := by
  have hregion : (s.sealed (s.partOfChan m) && !s.chanFree m) = false := by
    rcases hsealed with h | h
    · rw [h, Bool.not_true, Bool.and_false]
    · rw [h, Bool.false_and]
  simp only [mtWrite, hslv, hslot, scrubStops_eq_false hscrub, hregion, Bool.false_eq_true, if_false]

end

/-! ### MT_SLEEVE_CFG (R61, Table 2-7) -/

section
variable {s : State} {w : Writer} {m : Nat} (v : Nat)

theorem exec_mtSleeveCfgWrite_granted (h : Granted s w .MT_SLEEVE_CFG m) (hm : mtOk m = true) :
    exec (.mtSleeveCfgWrite w m v) s = .next (wrote w .MT_SLEEVE_CFG m (slvCfgWrite w m v s)) := by
  change execMtSleeveCfgWrite w m v s = _
  rw [execMtSleeveCfgWrite, onUnit, if_pos hm, regWrite_granted h]

theorem slvCfgWrite_enabled (hen : s.rb F.MT_SLEEVE_CFG_enable m = true) : slvCfgWrite w m v s = s := by
  simp only [slvCfgWrite, hen, Bool.or_true, if_true]

theorem slvCfgWrite_disabled (hw : notTenant w = true) (hen : s.rb F.MT_SLEEVE_CFG_enable m = false) :
    slvCfgWrite w m v s =
      (((s.wr F.MT_SLEEVE_CFG_dflt_fmt m (bits v 1 5)).wr F.MT_SLEEVE_CFG_cap_log2 m (bits v 8 6)).wr
        F.MT_SLEEVE_CFG_region_base m (bits v 16 24)).wr F.MT_SLEEVE_CFG_enable m
          (b2n (bit v 0 && decide (20 ≤ bits v 8 6) && decide (bits v 8 6 ≤ 40))) := by
  simp only [slvCfgWrite, hw, hen, Bool.not_true, Bool.or_self, Bool.false_eq_true, if_false]

end

/-! ### An outbound packet (R57, R310, R312, R348, R369) -/

section
variable {s : State} {l : Nat} {x : LtPkt}

theorem exec_ltOutbound (hl : ltOk l = true) (hopen : anyGated s = false) :
    exec (.ltOutbound l x) s = .next (ltOutbound l x s) := by
  change execLtOutbound l x s = _
  simp only [execLtOutbound, onUnit, hl, hopen, Bool.false_eq_true, if_false, if_true]

theorem ltOutbound_transit (htransit : x.transit = true) :
    ltOutbound l x s = { s with ltOut := tins (tdel s.ltOut l) l x } := by
  rw [ltOutbound, if_pos htransit, ltSend]

/-- R369 drops no packet of an unsealed partition, and none to a trusted peer. -/
theorem sealedDrop_eq_false (hpass : s.sealed (sbPart x.sb) = false ∨ trusted s l = true) :
    (decide (sbFlags x.sb ≤ 1) && s.sealed (sbPart x.sb) && !trusted s l) = false := by
  rcases hpass with h | h
  · rw [h, Bool.and_false, Bool.false_and]
  · rw [h, Bool.not_true, Bool.and_false]

variable (hhere : x.transit = false)
include hhere

theorem ltOutbound_blocked (hflags : sbFlags x.sb ≤ 1) (hsealed : s.sealed (sbPart x.sb) = true)
    (huntrusted : trusted s l = false) : ltOutbound l x s = linkBlock l (sbPart x.sb) s := by
  simp only [ltOutbound, hhere, hsealed, huntrusted, decide_eq_true hflags, Bool.not_false, Bool.and_self,
    Bool.false_eq_true, if_false, if_true]

variable (hpass : s.sealed (sbPart x.sb) = false ∨ trusted s l = true)
include hpass

theorem ltOutbound_request (hflags : sbFlags x.sb = 0) :
    ltOutbound l x s = ltSend l { x with
        sb := setBits x.sb 0 8 (s.gen (sbPart x.sb)), blocks := (ltBlocks (ltOutSlv l x.sb) x.blocks s).1 }
      (ltBlocks (ltOutSlv l x.sb) x.blocks s).2 := by
  have hreply : ¬ sbFlags x.sb = 1 := by omega
  have hcontrol : ¬ sbFlags x.sb = 3 := by omega
  simp only [ltOutbound, hhere, sealedDrop_eq_false hpass, if_neg hreply, if_neg hcontrol, if_pos hflags,
    Bool.false_eq_true, if_false]

theorem ltOutbound_reply (hflags : sbFlags x.sb = 1) :
    ltOutbound l x s = ltSend l { x with blocks := (ltBlocks (ltOutSlv l x.sb) x.blocks (ltReplied l x s)).1 }
      (ltBlocks (ltOutSlv l x.sb) x.blocks (ltReplied l x s)).2 := by
  have hrequest : ¬ sbFlags x.sb = 0 := by omega
  have hcontrol : ¬ sbFlags x.sb = 3 := by omega
  simp only [ltOutbound, hhere, sealedDrop_eq_false hpass, if_neg hrequest, if_neg hcontrol, if_pos hflags,
    Bool.false_eq_true, if_false]

end

/-! ### An inbound packet (R57, R311, R312) -/

section
variable {s : State} {l : Nat} {x : LtPkt}

theorem exec_ltInbound_noStop (hl : ltOk l = true) (hstop : s.stop = none) :
    exec (.ltInbound l x) s = .next (ltInbound l x s) := by
  change execLtInbound l x s = _
  simp only [execLtInbound, onUnit, hl, hstop, if_true]

theorem ltInbound_transit (htransit : x.transit = true) :
    ltInbound l x s = { s with ltIn := tins (tdel s.ltIn l) l x } := by
  rw [ltInbound, if_pos htransit, ltGive]

variable (hhere : x.transit = false)
include hhere

/-- R311, R312: a request is answered while its field is in reset; else it enters the table and is delivered. -/
theorem ltInbound_request (hflags : sbFlags x.sb = 0) :
    ltInbound l x s = if fieldInReset s x.field = true then ltNack l x.field x.sb x.tag s
      else ltGive l { x with blocks := (ltBlocks (ltInSlv l x.sb) x.blocks (ltTrack l x s)).1 }
        (ltBlocks (ltInSlv l x.sb) x.blocks (ltTrack l x s)).2 := by
  have hanswer : ¬ ((sbFlags x.sb = 1 ∨ sbFlags x.sb = 2) ∧ sbGen x.sb ≠ s.gen (sbPart x.sb)) := by omega
  have hnack : ¬ sbFlags x.sb = 2 := by omega
  have hcontrol : ¬ sbFlags x.sb = 3 := by omega
  simp only [ltInbound, hhere, if_neg hanswer, and_iff_right hflags, if_neg hnack, if_neg hcontrol, if_pos hflags,
    Bool.false_eq_true, if_false]

theorem ltInbound_staleReply (hflags : sbFlags x.sb = 1) (hgen : sbGen x.sb ≠ s.gen (sbPart x.sb)) :
    ltInbound l x s = raiseLt l
      { code := Code.STALE_DROPPED, unit := ltUnit l,
        params := sbPart x.sb + 2 ^ 6 * sbGen x.sb + 2 ^ 14 * s.gen (sbPart x.sb) }
      (s.bump F.LT_GEN_STAT_stale l) := by
  have hstale : (sbFlags x.sb = 1 ∨ sbFlags x.sb = 2) ∧ sbGen x.sb ≠ s.gen (sbPart x.sb) := ⟨.inl hflags, hgen⟩
  have hnotNack : 2 ^ 22 * b2n (sbFlags x.sb == 2) = 0 := by rw [hflags]; rfl
  simp only [ltInbound, hhere, if_pos hstale, hnotNack, Nat.add_zero, Bool.false_eq_true, if_false]

variable (hgen : sbGen x.sb = s.gen (sbPart x.sb))
include hgen

theorem ltInbound_currentReply (hflags : sbFlags x.sb = 1) :
    ltInbound l x s = ltGive l { x with blocks := (ltBlocks (ltInSlv l x.sb) x.blocks s).1 }
      (ltBlocks (ltInSlv l x.sb) x.blocks s).2 := by
  have hrequest : ¬ sbFlags x.sb = 0 := by omega
  have hnack : ¬ sbFlags x.sb = 2 := by omega
  have hcontrol : ¬ sbFlags x.sb = 3 := by omega
  simp only [ltInbound, hhere, hgen, ne_eq, not_true_eq_false, and_false, hrequest, hnack, hcontrol, false_and,
    Bool.false_eq_true, if_false]

theorem ltInbound_currentNack (hflags : sbFlags x.sb = 2) :
    ltInbound l x s = { s with ltErr := tins (tdel s.ltErr l) l x.tag } := by
  have hrequest : ¬ (sbFlags x.sb = 0 ∧ fieldInReset s x.field = true) := by omega
  simp only [ltInbound, hhere, hgen, ne_eq, not_true_eq_false, and_false, if_neg hrequest, if_pos hflags,
    Bool.false_eq_true, if_false]

end

/-- Settles O5: each clause is one case of a host write, of the write of MT_SLEEVE_CFG or of a packet's way through the
link tap. -/
theorem memoryWritesAndLinks : Obligations.MemoryWritesAndLinks := by
  unfold Obligations.MemoryWritesAndLinks
  refine ⟨?_, ?_, ?_, ?_, ?_, ?_, ?_, ?_, ?_, ?_, ?_, ?_, ?_, ?_⟩
  · intro s m b v part whole link d hm hslv hslot hfree
    rw [exec_mtWrite v part whole link d hm, mtWrite_stored v part whole link d hslv hslot (hfree.imp_right And.left)
      (hfree.imp_right And.right)]
  · intro s m b v part whole link d hm hslv
    rw [exec_mtWrite v part whole link d hm, mtWrite_sleeveRegion v part whole link d hslv]
  · intro s w m v h hm hw hen
    rw [exec_mtSleeveCfgWrite_granted v h hm, slvCfgWrite_disabled v hw hen]
  · intro s w m v h hm hen
    rw [exec_mtSleeveCfgWrite_granted v h hm, slvCfgWrite_enabled v hen]
  · intro s l x hl hopen htransit
    rw [exec_ltOutbound hl hopen, ltOutbound_transit htransit]
  · intro s l x hl hopen hhere hflags hsealed huntrusted
    rw [exec_ltOutbound hl hopen, ltOutbound_blocked hhere hflags hsealed huntrusted]
  · intro s l x hl hopen hhere hflags hpass
    rw [exec_ltOutbound hl hopen, ltOutbound_request hhere hpass hflags]
  · intro s l x hl hopen hhere hflags hpass
    rw [exec_ltOutbound hl hopen, ltOutbound_reply hhere hpass hflags]
  · intro s l x hl hstop htransit
    rw [exec_ltInbound_noStop hl hstop, ltInbound_transit htransit]
  · intro s l x hl hstop hhere hflags hgen
    rw [exec_ltInbound_noStop hl hstop, ltInbound_staleReply hhere hflags hgen]
  · intro s l x hl hstop hhere hflags hreset
    rw [exec_ltInbound_noStop hl hstop, ltInbound_request hhere hflags, if_pos hreset]
  · intro s l x hl hstop hhere hflags hreset
    rw [exec_ltInbound_noStop hl hstop, ltInbound_request hhere hflags, hreset, if_neg Bool.false_ne_true]
  · intro s l x hl hstop hhere hflags hgen
    rw [exec_ltInbound_noStop hl hstop, ltInbound_currentReply hhere hgen hflags]
  · intro s l x hl hstop hhere hflags hgen
    rw [exec_ltInbound_noStop hl hstop, ltInbound_currentNack hhere hgen hflags]

end Sys2Proof.Machine
end

