-- ==== Sys2Proof/Proofs/HostSide.lean ====
section
/-!
SUPPORT. What a command on the cluster-clock side of a CT does: nothing when its cluster is gated (log entry 101), only the
cycle count when its engine is in reset, and else its effect (R99, R105, R346, R425).
-/
namespace Sys2Proof.Machine

variable {s u : State} {k cyc : Nat} {ok : Bool} (hok : ok = true)
include hok

theorem onUnit_ok (t : State) : onUnit ok t = .next t := if_pos hok

theorem onHostSide_gated {g : State → State} (hgated : s.ctGated k = true) :
    onUnit ok (hostSide k cyc g s) = .next s := by
  rw [onUnit_ok hok, hostSide, if_pos hgated]

section
variable (hrun : s.ctGated k = false) (hu : u = advCyc k cyc s)
include hrun hu

theorem onHostSide_running {g : State → State} : onUnit ok (hostSide k cyc g s) = .next (g u) := by
  rw [onUnit_ok hok, hostSide, hrun, if_neg Bool.false_ne_true, hu]

variable {e : Nat} {g : State → State}

theorem onHostSide_inReset (hrst : tget true u.engRst e = true) :
    onUnit ok (hostSide k cyc (fun v => if tget true v.engRst e then v else g v) s) = .next u := by
  rw [onHostSide_running hok hrun hu, if_pos hrst]

theorem onHostSide_outOfReset (hrst : tget true u.engRst e = false) :
    onUnit ok (hostSide k cyc (fun v => if tget true v.engRst e then v else g v) s) = .next (g u) := by
  rw [onHostSide_running hok hrun hu, hrst, if_neg Bool.false_ne_true]

end

end Sys2Proof.Machine
end

