-- ==== Sys2Proof/Proofs/TileBeats.lean ====
section
/-!
PROOF. The beats and pulses of the signature port and the fold's drain (R78, R97 to R110, R138, R151).
-/
namespace Sys2Proof.Machine

/-! ### Descriptors (R78, R100 to R104, R113) -/

/-- The tile that D0 opens in a free slot: the settings and the FIFO room of that moment. -/
def openedTile (s : State) (e d : Nat) : Tile :=
  { sq := tget 0 s.tileSq (engCt e), d0 := d % 2 ^ 64, slot := true, strip := stripMode s (engCore e)
    mode := s.setting (engField e) 1, key := tget 0 s.selKey (engField e), rate := s.setting (engField e) 0
    forced := forceBit s (engCore e), cnt := tget 0 s.descCnt e
    room := decide ((tget [] s.fifo e).length ≤ s.rd F.CT_SIG_CFG_admit_level (engCt e)) }

section
variable {s u : State} {e cyc : Nat} (d : Nat)

theorem tileD0_freeSlot
    (hfree : ((u.tilesOf e).filter (fun t => t.running && t.slot && t.strip == stripMode u (engCore e))).length
      < (if u.rb F.CT_SIG_CFG_one_open (engCt e) = true then 1 else 2)) :
    tileD0 e d u = ({ u with
      tileSq := tput 0 u.tileSq (engCt e) (tget 0 u.tileSq (engCt e) + 1)
      descCnt := tput 0 u.descCnt e ((tget 0 u.descCnt e + 1) % 1024) } : State).setTiles e
        (u.tilesOf e ++ [openedTile u e d]) := by
  simp only [tileD0, openedTile, decide_eq_true hfree, if_true]

theorem descBeat_noneAnnounced (hnone : announced u e = none) : descBeat e d u = tileD0 e d u := by
  simp only [descBeat, hnone]

theorem descBeat_thirdBeat {t : Tile} (hann : announced u e = some t) (hgot : t.got = 2) :
    descBeat e d u = modTile e t.sq (fun _ => { t with d2 := d % 2 ^ 64, got := 3 }) u := by
  have hnotSecond : ¬ (2 = 1 ∧ t.strip = false) := by omega
  have hnotFourth : ¬ 2 = 3 := by omega
  simp only [descBeat, hann, hgot, if_neg hnotSecond, if_neg hnotFourth]

theorem exec_descBeat_noSkip (he : engOk e = true) (hrun : s.ctGated (engCt e) = false)
    (hu : u = advCyc (engCt e) cyc s) (hrst : tget true u.engRst e = false) (hskip : tget 0 u.skip e = 0) :
    exec (.descBeat e cyc d) s = .next (descBeat e d u) := by
  change execDescBeat e cyc d s = _
  rw [execDescBeat, onHostSide_outOfReset he hrun hu hrst, if_neg (Nat.not_lt.mpr (Nat.le_of_eq hskip))]

end

/-! ### Signatures, ABORT and the retire pulse (R97, R98, R100, R106, R107, R110) -/

section
variable {u : State} {e : Nat} (d cyc : Nat)

theorem retire_noneRunning (hnone : oldest (wdogRestart e u) e = none) :
    retire e cyc u = breachTile e none 9 (wdogRestart e u) := by
  simp only [retire, hnone]

variable (hann : announced u e = none)
include hann

theorem sigBeat_sigs_noneRunning (hnone : oldest u e = none) : sigBeat e 1 d u = breachTile e none 8 u := by
  simp only [sigBeat, hann, hnone, ne_eq, not_true_eq_false, false_and, if_false]

variable {t : Tile} (hold : oldest u e = some t)
include hold

/-- A SIGS beat of a tile that folds counts in the tile and enters the FIFO while that has room. -/
theorem sigBeat_sigs_folds (hslot : t.slot = true) (hadm : t.admitted = true) (hfold : t.chk = .fold)
    (hroom : (tget [] u.fifo e).length < 64) :
    sigBeat e 1 d u = { modTile e t.sq (fun y => { y with nS := y.nS + 1, bad := t.bad }) u with
      fifo := tput [] u.fifo e (tget [] u.fifo e ++ [FBeat.mk t.sq 1 (d % 2 ^ 64)]) } := by
  have hfifo (f : Tile → Tile) : (modTile e t.sq f u).fifo = u.fifo := rfl
  have hnotQ : (1 == 2) = false := rfl
  simp only [sigBeat, hann, hold, hslot, hadm, hfold, hnotQ, hfifo, if_pos hroom, ne_eq, not_true_eq_false, false_and,
    Bool.not_true, Bool.false_and, Bool.or_false, Bool.true_and, decide_true, Bool.false_eq_true, if_false, if_true]

theorem abortBeat_liveTile (hprf : t.prf ≠ .out) (hlive : t.strip = false) :
    abortBeat e cyc u = closeTile e t.sq true
      (pushStamp e ⟨cyc + 1, false, t.sq, t.tag, if blocked u e = true then 3 else 2⟩ u) := by
  simp only [abortBeat, hann, hold, if_neg hprf, hlive, Bool.false_eq_true, if_false]

end

/-- Settles O6: each clause is one case of a beat, of the retire pulse or of the drain. -/
theorem tileBeats : Obligations.TileBeats := by
  unfold Obligations.TileBeats
  refine ⟨?_, ?_, ?_, ?_, ?_, ?_, ?_, ?_, ?_, ?_⟩
  · intro s u e cyc d kd he hrun hu hrst
    exact ⟨onHostSide_inReset he hrun hu hrst, onHostSide_inReset he hrun hu hrst, onHostSide_inReset he hrun hu hrst,
      onHostSide_inReset he hrun hu hrst⟩
  · intro s u e cyc d he hrun hu hrst hskip hann hfree
    rw [exec_descBeat_noSkip d he hrun hu hrst hskip, descBeat_noneAnnounced d hann, tileD0_freeSlot d hfree]
    exact ⟨openedTile u e d, rfl, rfl, rfl, rfl, rfl, rfl, rfl, rfl, rfl, rfl, rfl⟩
  · intro s u e cyc d t he hrun hu hrst hskip hann hgot
    rw [exec_descBeat_noSkip d he hrun hu hrst hskip, descBeat_thirdBeat d hann hgot]
  · intro s u e cyc d he hrun hu hrst hann hnone
    rw [← sigBeat_sigs_noneRunning d hann hnone]
    exact onHostSide_outOfReset he hrun hu hrst
  · intro s u e cyc he hrun hu hrst hnone
    rw [← retire_noneRunning cyc hnone]
    exact onHostSide_outOfReset he hrun hu hrst
  · intro s u e cyc d t he hrun hu hrst hann hold hslot hadm hfold hroom
    refine ⟨_, ?_, rfl⟩
    rw [← sigBeat_sigs_folds d hann hold hslot hadm hfold hroom]
    exact onHostSide_outOfReset he hrun hu hrst
  · intro s u e cyc t he hrun hu hrst hann hold hprf hlive
    rw [← abortBeat_liveTile cyc hann hold hprf hlive]
    exact onHostSide_outOfReset he hrun hu hrst
  · intro s u e cyc he hrun hu hrst
    exact onHostSide_outOfReset he hrun hu hrst
  · intro s k cyc hk hrun
    exact onHostSide_running hk hrun rfl
  · intro s e cyc d kd pulse he hgated
    exact ⟨onHostSide_gated he hgated, onHostSide_gated he hgated, onHostSide_gated he hgated,
      onHostSide_gated he hgated⟩

end Sys2Proof.Machine
end

