-- ==== Sys2Proof/Proofs/TileStamps.lean ====
section
/-!
PROOF. Deadlines, stamps, proof waits, fold faults and the engine reset input (R99, R105, R139, R145, R146, R149). The
internal bit that a FOLD_FAULT latches is log entry 99, and what a gated cluster leaves out log entry 101.
-/
namespace Sys2Proof.Machine

section
variable {s u : State} {e cyc : Nat} {t : Tile}

/-! ### First stamps and proof waits (R145, R149) -/

theorem deadline_settled {c : Chk} (hchk : settleChk e t s = (c, u)) :
    deadline e t s = pushStamp e ⟨t.due, false, t.sq, t.tag, if blocked u e = true then 3 else firstVerdict c t.prf⟩
      (modTile e t.sq (fun y => { y with chk := c, dlDone := true }) u) := by
  simp only [deadline, hchk]

theorem exec_firstStampDeadline_due (hdue : nextDue (s.tilesOf e) = some t) :
    exec (.firstStampDeadline e) s = onUnit (engOk e) (hostSide (engCt e) t.due (deadline e t) s) := by
  change execFirstStampDeadline e s = _
  simp only [execFirstStampDeadline, hdue]

theorem exec_firstStampDeadline_noneDue (hnone : nextDue (s.tilesOf e) = none) :
    exec (.firstStampDeadline e) s = onUnit (engOk e) s := by
  change execFirstStampDeadline e s = _
  simp only [execFirstStampDeadline, hnone]

theorem exec_proofTimeout_waiting (hwait : nextWait (s.tilesOf e) = some t) :
    exec (.proofTimeout e) s = onUnit (engOk e) (hostSide (engCt e) t.waitEnd
      (fun v => giveUp e t (v.bump F.CT_ABFT_STAT2_proof_timeout (engCt e))) s) := by
  change execProofTimeout e s = _
  simp only [execProofTimeout, hwait]

theorem exec_proofTimeout_noneWaits (hnone : nextWait (s.tilesOf e) = none) :
    exec (.proofTimeout e) s = onUnit (engOk e) s := by
  change execProofTimeout e s = _
  simp only [execProofTimeout, hnone]

/-! ### A fold self-check (R139, R270, R271) -/

theorem foldFault_onTile {tag : Nat} (chk : Nat) (htag : tagTile s e tag false = some t) (hcls : t.cls ≤ 1)
    (hchk : t.chk ≠ .none) (hdl : t.dlDone = false) :
    foldFault e tag chk s = modTile e t.sq (fun y => { y with chk := .unchecked, admitted := false })
      (raiseCt (engCt e)
        { code := Code.FOLD_FAULT, unit := ctUnit (engCt e), params := t.tid % 2 ^ 32 + 2 ^ 32 * chk, layer := t.layer,
          op := t.op } (ctIntLatch (engCt e) 0 (s.bump F.CT_ABFT_STAT2_fold_fault (engCt e)))) := by
  have hhit : (some t).filter (fun t => t.cls ≤ 1 && t.chk != .none && !t.dlDone) = some t := by
    rw [Option.filter_some, decide_eq_true hcls, bne_iff_ne.mpr hchk, hdl]; rfl
  simp only [foldFault, htag, hhit, Option.map_some, Option.getD_some]

variable (he : engOk e = true)
include he

/-! ### Stamps that leave (R146) -/

section
variable (hrun : s.ctGated (engCt e) = false) (hu : u = advCyc (engCt e) cyc s)
include hrun hu

theorem exec_stampSend_due {x : Stamp} (hfree : tget 0 u.stampCyc e ≤ cyc)
    (hnext : nextStamp (tget [] u.stampQ e) cyc = some x) :
    exec (.stampSend e cyc) s = .next (emitStamp e cyc x u) := by
  change execStampSend e cyc s = _
  simp only [execStampSend, onHostSide_running he hrun hu, if_neg (Nat.not_lt.mpr hfree), hnext]

theorem exec_stampSend_cycleUsed (hused : cyc < tget 0 u.stampCyc e) : exec (.stampSend e cyc) s = .next u := by
  change execStampSend e cyc s = _
  rw [execStampSend, onHostSide_running he hrun hu, if_pos hused]

end

/-! ### Fold faults and engine resets (R99, R105, R139) -/

theorem exec_foldFault_running (tag chk : Nat) (hrun : s.ctGated (engCt e) = false) :
    exec (.foldFault e tag chk) s = .next (foldFault e tag chk s) := by
  change execFoldFault e tag chk s = _
  rw [execFoldFault, onUnit_ok he, hrun, if_neg Bool.false_ne_true]

theorem exec_foldFault_gated (tag chk : Nat) (hgated : s.ctGated (engCt e) = true) :
    exec (.foldFault e tag chk) s = .next s := by
  change execFoldFault e tag chk s = _
  rw [execFoldFault, onUnit_ok he, if_pos hgated]

theorem exec_engineResetInput_assert :
    exec (.engineResetInput e true) s = .next (if tget true s.engRst e = true then s
      else if s.ctGated (engCt e) = true then { s with engRst := tput true s.engRst e true }
      else abortCore (engCore e) (abandonEngine e { s with engRst := tput true s.engRst e true })) := by
  change execEngineResetInput e true s = _
  rw [execEngineResetInput, onUnit_ok he]; rfl

theorem exec_engineResetInput_release :
    exec (.engineResetInput e false) s = .next (wdogRestart e { s with engRst := tput true s.engRst e false }) := by
  change execEngineResetInput e false s = _
  rw [execEngineResetInput, onUnit_ok he, if_neg Bool.false_ne_true]

theorem exec_firstStampDeadline_gated (hgated : s.ctGated (engCt e) = true) :
    exec (.firstStampDeadline e) s = .next s := by
  cases hdue : nextDue (s.tilesOf e) with
  | none => rw [exec_firstStampDeadline_noneDue hdue, onUnit_ok he]
  | some t => rw [exec_firstStampDeadline_due hdue, onHostSide_gated he hgated]

theorem exec_proofTimeout_gated (hgated : s.ctGated (engCt e) = true) : exec (.proofTimeout e) s = .next s := by
  cases hwait : nextWait (s.tilesOf e) with
  | none => rw [exec_proofTimeout_noneWaits hwait, onUnit_ok he]
  | some t => rw [exec_proofTimeout_waiting hwait, onHostSide_gated he hgated]

end

/-- Settles O7: each clause is one case of a deadline, of a stamp's way out, of a fold fault or of the reset input. -/
theorem tileStamps : Obligations.TileStamps := by
  unfold Obligations.TileStamps
  refine ⟨?_, ?_, ?_, ?_, ?_, ?_, ?_, ?_, ?_⟩
  · intro s e t he hrun hdue c u hchk
    rw [exec_firstStampDeadline_due hdue, onHostSide_running he hrun rfl, deadline_settled hchk]
  · intro s u e cyc x he hrun hu hfree hnext
    exact exec_stampSend_due he hrun hu hfree hnext
  · intro s u e cyc he hrun hu hused
    exact exec_stampSend_cycleUsed he hrun hu hused
  · intro s e t he hrun hwait
    rw [exec_proofTimeout_waiting hwait, onHostSide_running he hrun rfl]
  · intro s e tag chk t he hrun htag hcls hchk hdl
    rw [exec_foldFault_running he tag chk hrun, foldFault_onTile chk htag hcls hchk hdl]
  · intro s e he hrst
    rw [exec_engineResetInput_assert he, hrst, if_neg Bool.false_ne_true]
  · intro s e cyc he hgated
    exact ⟨exec_firstStampDeadline_gated he hgated, onHostSide_gated he hgated, exec_proofTimeout_gated he hgated,
      fun tag chk => exec_foldFault_gated he tag chk hgated⟩
  · intro s e he hrst
    rw [exec_engineResetInput_assert he, if_pos hrst]
  · intro s e he
    exact exec_engineResetInput_release he

end Sys2Proof.Machine
end

