-- ==== Sys2Proof/Proofs/TileSettings.lean ====
section
/-!
PROOF. Selection keys, the rate exponent of a partition and the force bits of a cluster (R114 to R116).
-/
namespace Sys2Proof.Machine

variable {s t : State} {w : Writer}

/-! ### FS_PROOF_CFG (R114) -/

/-- A new key is the next draw of entropy. -/
theorem rekey_eq (f : Nat) (t : State) :
    rekey f t = { t with
      entCtr := t.entCtr + 1
      selKey := tput 0 t.selKey f ((Config.entropy t.entCtr).toNat % 2 ^ 64)
      descCnt := t.descCnt.filter (fun e => engField e.1 != f) } := rfl

section
variable {f v : Nat}

theorem exec_rekey_granted (h : Granted s w .FS_PROOF_CFG f) (hf : fieldOk f = true) :
    exec (.rekey w f v) s = .next (wrote w .FS_PROOF_CFG f (proofCfgWrite w f v s)) := by
  change execRekey w f v s = _
  rw [execRekey, onUnit_ok hf, regWrite_granted h]

variable (hw : notTenant w = true)
  (ht : t = ((s.wr F.FS_PROOF_CFG_enable f (bits v 0 1)).wr F.FS_PROOF_CFG_shadow_max f (bits v 8 6)).wr
    F.FS_PROOF_CFG_neg_cap f (bits v 16 6))
include hw ht

theorem proofCfgWrite_keepsKey (hkey : bit v 1 = false) : proofCfgWrite w f v s = t := by
  simp only [proofCfgWrite, hw, ← ht, hkey, Bool.false_and, Bool.false_eq_true, if_true, if_false]

theorem proofCfgWrite_drawsKey (hkey : bit v 1 = true) (hworks : t.fsWorks f = true) :
    proofCfgWrite w f v s = rekey f t := by
  simp only [proofCfgWrite, hw, ← ht, hkey, hworks, Bool.and_self, if_true]

end

/-! ### CC_PROOF_RATE (R115) -/

section
variable {p : Nat} (v : Nat)

theorem exec_ccSettingForward_rate (h : Granted s w .CC_PROOF_RATE p) (hp : partOk p = true) :
    exec (.ccSettingForward w 0 p v) s = .next (wrote w .CC_PROOF_RATE p (settingWrite w 0 p v s)) := by
  change execCcSettingForward w 0 p v s = _
  rw [execCcSettingForward, onUnit_ok hp]
  exact regWrite_granted h

/-- The exponent is set when it is at most 16, and what CC_PROOF_RATE then holds is forwarded in either case. -/
theorem settingWrite_rate (hw : notTenant w = true) :
    settingWrite w 0 p v s = forAll (s.fieldsOf p) (fun f u => forwardTo 0 f u)
      (if bits v 0 5 ≤ 16 then s.wr F.CC_PROOF_RATE_rate_exp p (bits v 0 5) else s) := by
  simp only [settingWrite, hw, Bool.not_true, Bool.false_eq_true, if_false]

end

/-! ### Force bits (R116) -/

/-- A change of each element that leaves the state as it is leaves it so for the whole list. -/
theorem forAll_unchanged {α : Type} {f : α → State → State} (h : ∀ a, f a s = s) (l : List α) : forAll l f s = s := by
  induction l with
  | nil => rfl
  | cons a l ih => exact (congrArg (forAll l f) (h a)).trans ih

section
variable {k v : Nat} {hi : Bool}

theorem exec_proofForceWrite_granted (h : Granted s w (if hi then .CT_PROOF_FORCE1 else .CT_PROOF_FORCE0) k)
    (hk : ctOk k = true) :
    exec (.proofForceWrite w k hi v) s =
      .next (wrote w (if hi then .CT_PROOF_FORCE1 else .CT_PROOF_FORCE0) k (forceWrite w k hi v s)) := by
  change execProofForceWrite w k hi v s = _
  rw [execProofForceWrite, onUnit_ok hk, regWrite_granted h]

theorem forceWrite_otherWriter (hown : s.isOwner w = false) (hseq : isSeq w (ctField k) = false) :
    forceWrite w k hi v s = s := by
  rw [forceWrite, hown, hseq, Bool.or_self, Bool.not_false, if_pos rfl]

variable (hmay : (s.isOwner w || isSeq w (ctField k)) = true)
include hmay

/-- More bits than before, and more forced cores than shadow_max: the write is refused as a whole. -/
theorem forceWrite_aboveMax {new : Nat} (hnew : new = Nat.land v (2 ^ 64 - 1))
    (hmax : s.rd F.FS_PROOF_CFG_shadow_max (ctField k) <
      forcedOf s (ctField k) + popc 64 new - popc 64 (s.regVal .CT_PROOF_FORCE0 k))
    (hmore : popc 64 (s.regVal .CT_PROOF_FORCE0 k) < popc 64 new) :
    forceWrite w k false v s = s.bump F.FS_PROOF_STAT_force_refused (ctField k) := by
  have hmask : forceMask false = 2 ^ 64 - 1 := rfl
  simp only [forceWrite, hmay, hmask, ← hnew, Bool.not_true, Bool.false_eq_true, if_false]
  exact if_pos ⟨hmax, hmore⟩

/-- Where no bit was set, none is cleared, so that no core in shadow loses its shield. -/
theorem forceWrite_fromNone {new : Nat} (hnew : new = Nat.land v (2 ^ 64 - 1))
    (hold : s.regVal .CT_PROOF_FORCE0 k = 0)
    (hfits : forcedOf s (ctField k) + popc 64 new ≤ s.rd F.FS_PROOF_CFG_shadow_max (ctField k)) :
    forceWrite w k false v s = (s.setReg .CT_PROOF_FORCE0 k new).wr F.FS_PROOF_STAT_forced (ctField k)
      (forcedOf s (ctField k) + popc 64 new) := by
  have hmask : forceMask false = 2 ^ 64 - 1 := rfl
  have hnone : popc 64 0 = 0 := rfl
  have hbit (i : Nat) : bit 0 i = false := by rw [bit, Nat.zero_div]; rfl
  simp only [forceWrite, hmay, hmask, ← hnew, hold, hnone, hbit, Nat.sub_zero, Nat.not_lt.mpr hfits, false_and,
    Bool.not_true, Bool.and_false, Bool.false_and, Bool.false_eq_true, if_false]
  exact forAll_unchanged (fun _ => rfl) _

end

/-- Settles O8: each clause is one case of a write of FS_PROOF_CFG, of CC_PROOF_RATE or of CT_PROOF_FORCE. -/
theorem tileSettings : Obligations.TileSettings := by
  unfold Obligations.TileSettings
  refine ⟨?_, ?_, ?_, ?_, ?_, ?_, ?_⟩
  · intro s w f v h hf hw hkey
    rw [exec_rekey_granted h hf, proofCfgWrite_keepsKey hw rfl hkey]
  · intro s t w f v h hf hw hkey ht hworks
    rw [exec_rekey_granted h hf, proofCfgWrite_drawsKey hw ht hkey hworks, rekey_eq]
  · intro s w p v h hp hw hexp
    rw [exec_ccSettingForward_rate v h hp, settingWrite_rate v hw, if_pos hexp]
  · intro s w p v h hp hw hexp
    rw [exec_ccSettingForward_rate v h hp, settingWrite_rate v hw, if_neg (Nat.not_le.mpr hexp)]
  · intro s w k v h hk hmay hmax hmore
    rw [← forceWrite_aboveMax hmay rfl hmax hmore]
    exact exec_proofForceWrite_granted h hk
  · intro s w k v h hk hmay hold hfits
    rw [← forceWrite_fromNone hmay rfl hold hfits]
    exact exec_proofForceWrite_granted h hk
  · intro s w k v hi h hk hown hseq
    rw [exec_proofForceWrite_granted h hk, forceWrite_otherWriter hown hseq]

end Sys2Proof.Machine
end

