-- ==== Sys2Proof/Proofs/SeqReliability.lean ====
section
/-!
PROOF. The reliability instructions of the sequencers: STRIP, PROOF.SET, FENCE, RESET and BRACKET (R116, R198, R204,
R236, R255 to R257, Table 10-10). That an engine is confirmed at its FENCE is log entry 97, and what AON-only operation
answers log entry 103.
-/
namespace Sys2Proof.Machine

variable {s t : State} {q rd ra rb : Nat}

/-! ### Checkpoints (R20, R263) -/

theorem seqCheckpoint_fs (hq : q < 128) (s : State) : seqCheckpoint q s = s := if_neg (Nat.ne_of_lt hq)

theorem seqCheckpoint_cc (s : State) : seqCheckpoint 128 s = ccCheckpoint s := if_pos rfl

theorem now_scrapped (s : State) (q : Nat) : (now s q).scrapped = s.scrapped := rfl

/-! ### STRIP, PROOF.SET and BRACKET of the CC trap (Table 10-10) -/

section
variable (h : Ready s q) (hcc : 128 ≤ q)
include h hcc

theorem exec_strip_cc : exec (.strip q rd ra rb) s = .next (trapped s q trapUnit 0) := by
  change execStrip q rd ra rb s = _
  exact ready_trap h (if_pos hcc)

theorem exec_proofSetForce_cc : exec (.proofSetForce q rd ra rb) s = .next (trapped s q trapUnit 0) := by
  change execProofSetForce q rd ra rb s = _
  exact ready_trap h (if_pos hcc)

theorem exec_proofSetRekey_cc : exec (.proofSetRekey q rd) s = .next (trapped s q trapUnit 1) := by
  change execProofSetRekey q rd s = _
  exact ready_trap h (if_pos hcc)

theorem exec_bracket_cc : exec (.bracket q rd ra) s = .next (trapped s q trapUnit 0) := by
  change execBracket q rd ra s = _
  exact ready_trap h (if_pos hcc)

end

/-! ### STRIP and PROOF.SET of an FS (R116, R166) -/

section
variable (h : Ready s q) (hq : q < 128)
include h hq

theorem exec_strip_fs {i : Nat} {r : Nat × State} (hi : i = ((nowSeq s q).gr ra).toNat) (hcore : i < 2 ^ 13)
    (hr : r = stripRequest q (coreOf q i) ((nowSeq s q).gr rb).toNat (now s q)) :
    exec (.strip q rd ra rb) s = .next (seqRet q rd (BitVec.ofNat 32 r.1) r.2) := by
  change execStrip q rd ra rb s = _
  exact ready_done h (by
    simp only [if_neg (Nat.not_le.mpr hq), ← hi, if_neg (Nat.not_le.mpr hcore), ← hr])

theorem exec_proofSetForce_fs {r : Nat × State}
    (hr : r = proofForce q ((nowSeq s q).gr ra).toNat ((nowSeq s q).gr rb != 0) (now s q)) :
    exec (.proofSetForce q rd ra rb) s = .next (seqRet q rd (BitVec.ofNat 32 r.1) r.2) := by
  change execProofSetForce q rd ra rb s = _
  exact ready_done h (by simp only [if_neg (Nat.not_le.mpr hq), ← hr])

theorem exec_proofSetRekey_fs (hon : (now s q).aonOnly = false) :
    exec (.proofSetRekey q rd) s = .next (seqRet q rd 0 (rekey q (now s q))) := by
  change execProofSetRekey q rd s = _
  exact ready_done h (by simp only [if_neg (Nat.not_le.mpr hq), hon, Bool.false_eq_true, if_false])

end

/-! ### PROOF.SET of a rate by the CC (R115) -/

section
variable {p v : Nat} (h : Ready s 128) (hp : p = ((nowSeq s 128).gr ra).toNat) (hv : v = ((nowSeq s 128).gr rb).toNat)
include h hp hv

theorem exec_proofSetRate_written (hpart : partOk p = true) (hexp : v ≤ 16) :
    exec (.proofSetRate 128 rd ra rb) s =
      .next (seqRet 128 rd 0 (settingWrite (.seq 128) 0 p v (now s 128))) := by
  change execProofSetRate 128 rd ra rb s = _
  exact ready_done h (by
    simp only [← hp, ← hv, hpart, decide_eq_false (Nat.not_lt.mpr hexp), Nat.lt_irrefl, gt_iff_lt, Bool.not_true,
      Bool.or_self, Bool.false_eq_true, if_false])

theorem exec_proofSetRate_refused (hbad : 16 < v ∨ partOk p = false) :
    exec (.proofSetRate 128 rd ra rb) s = .next (seqRet 128 rd 2 (now s 128)) := by
  have hrefuse : (decide (v > 16) || !partOk p) = true := by
    rwa [Bool.or_eq_true, decide_eq_true_iff, Bool.not_eq_true']
  change execProofSetRate 128 rd ra rb s = _
  exact ready_done h (by simp only [← hp, ← hv, hrefuse, Nat.lt_irrefl, if_false, if_true])

end

/-! ### FENCE confirm (R204) -/

/-- Only a fence of the active CC can be refused (R208), never one of an engine. -/
theorem ccFenceRefused_engine {u : Nat} (s : State) (hu : unitKind u = 0) : ccFenceRefused s u = false := by
  rw [ccFenceRefused, hu, beq_false_of_ne Nat.zero_ne_one, Bool.false_and, Bool.false_and, Bool.false_and]

section
variable (m : Confirm) (ht : t = { s with confQ := s.confQ ++ [m] })
include ht

/-- An engine that no fence holds and no confirmation names is confirmed as its confirmation leaves for the CC. -/
theorem sendConfirm_newEngine (hu : unitKind m.unit = 0) (hheld : fenceHeld s m.unit = none)
    (hnew : s.confQ.any (fun x => x.unit == m.unit) = false) :
    sendConfirm m s = confirmEffect m.unit t := by
  rw [sendConfirm, if_pos ⟨hu, hheld, hnew⟩, ht]

/-- An engine that a fence holds, or whose confirmation is under way, was confirmed before. -/
theorem sendConfirm_confirmedEngine
    (hheld : (fenceHeld s m.unit).isSome = true ∨ s.confQ.any (fun x => x.unit == m.unit) = true) :
    sendConfirm m s = t := by
  rw [sendConfirm, if_neg, ht]
  rintro ⟨-, hnone, hnew⟩
  rcases hheld with hheld | hheld
  · rw [hnone] at hheld; exact Bool.false_ne_true hheld
  · rw [hnew] at hheld; exact Bool.false_ne_true hheld

end

section
variable {u r : Nat} (h : Ready s q) (hr : r = ((nowSeq s q).gr rb).toNat)
include h hr

theorem exec_fenceConfirm_reasonZero (hzero : r = 0) :
    exec (.fenceConfirm q rd ra rb) s = .next (trapped s q trapLimit 0) := by
  change execFenceConfirm q rd ra rb s = _
  exact ready_trap h (by simp only [← hr, hzero, beq_self_eq_true, Bool.or_true, if_true])

variable (hlive : s.scrapped = false) (hzero : r ≠ 0)
include hlive hzero

theorem exec_fenceConfirm_reasonReserved (hbad : reasonBad r = true) :
    exec (.fenceConfirm q rd ra rb) s = .next (trapped s q trapIllegal r) := by
  change execFenceConfirm q rd ra rb s = _
  exact ready_trap h (by
    simp only [← hr, now_scrapped, hlive, beq_false_of_ne hzero, hbad, Bool.or_self, Bool.false_eq_true, if_false,
      if_true])

variable (hu : u = ((nowSeq s q).gr ra).toNat) (hgood : reasonBad r = false)
include hu hgood

theorem exec_fenceConfirm_outOfReach
    (hreach : (unitPresent u && (if q < 128 then unitKind u == 0 && engField u == q else unitKind u != 0)) = false) :
    exec (.fenceConfirm q rd ra rb) s = .next (seqCheckpoint q (seqRet q rd 2 (now s q))) := by
  change execFenceConfirm q rd ra rb s = _
  exact ready_done h (by
    simp only [← hr, ← hu, now_scrapped, hlive, beq_false_of_ne hzero, hgood, hreach, Bool.or_self, Bool.not_false,
      Bool.false_eq_true, if_false, if_true])

theorem exec_fenceConfirm_fsOutOfReach (hq : q < 128)
    (hout : unitPresent u = false ∨ unitKind u ≠ 0 ∨ engField u ≠ q) :
    exec (.fenceConfirm q rd ra rb) s = .next (seqRet q rd 2 (now s q)) := by
  rw [exec_fenceConfirm_outOfReach h hr hlive hzero hu hgood, seqCheckpoint_fs hq]
  simpa only [if_pos hq, Bool.and_eq_false_iff, beq_eq_false_iff_ne] using hout

theorem exec_fenceConfirm_sent (hq : q < 128) (hpresent : unitPresent u = true) (hkind : unitKind u = 0)
    (hfield : engField u = q) (hon : (now s q).aonOnly = false) :
    exec (.fenceConfirm q rd ra rb) s = .next ((sendConfirm (Confirm.mk q u r) (now s q)).setSeq q
      { nowSeq s q with mode := .fence rd u r }) := by
  change execFenceConfirm q rd ra rb s = _
  exact ready_done h (by
    simp only [← hr, ← hu, now_scrapped, hlive, beq_false_of_ne hzero, hgood, if_pos hq, hpresent, hkind, hfield,
      hon, ccFenceRefused_engine _ hkind, beq_self_eq_true, Bool.and_self, Bool.or_self, Bool.not_true,
      Bool.false_eq_true, if_false])

end

theorem exec_fenceConfirm_ccOutOfReach {u r : Nat} (h : Ready s 128) (hr : r = ((nowSeq s 128).gr rb).toNat)
    (hlive : s.scrapped = false) (hzero : r ≠ 0) (hu : u = ((nowSeq s 128).gr ra).toNat) (hgood : reasonBad r = false)
    (hout : unitPresent u = false ∨ unitKind u = 0) :
    exec (.fenceConfirm 128 rd ra rb) s = .next (ccCheckpoint (seqRet 128 rd 2 (now s 128))) := by
  rw [exec_fenceConfirm_outOfReach h hr hlive hzero hu hgood, seqCheckpoint_cc]
  simpa only [Nat.lt_irrefl, if_false, Bool.and_eq_false_iff, bne_eq_false_iff_eq] using hout

/-! ### FENCE on a latent engine (R196, R198) -/

section
variable (h : Ready s q) (hq : q < 128) (hlive : s.scrapped = false)
include h hq hlive

section
variable {k : Nat} {l : Latent} (hentry : (latentAt (now s q) ((nowSeq s q).gr ra).toNat).filter
    (fun e => !e.2.confirmed && engField e.2.eng == q) = some (k, l))
include hentry

theorem exec_fenceClear_entry :
    exec (.fenceClear q rd ra) s = .next (seqRet q rd 0 (clearLatent k l (now s q))) := by
  change execFenceClear q rd ra s = _
  exact ready_done h (by
    simp only [now_scrapped, hlive, if_neg (Nat.not_le.mpr hq), hentry, Bool.false_eq_true, if_false])

theorem exec_fenceReplay_entry :
    exec (.fenceReplay q rd ra) s = .next (
      if (now s q).aonOnly then seqRet q rd 5 (now s q)
      else if (now s q).rb F.FS_PROOF_STAT_array_suspect q then seqRet q rd 1 (now s q)
      else if ((now s q).core (engCore l.eng)).suspect == some l.eng
        || ((now s q).core (engCore l.eng)).next == some l.eng then seqRet q rd 3 (now s q)
      else seqRet q rd 0 (requestReplay k l (now s q))) := by
  change execFenceReplay q rd ra s = _
  exact ready_done h (by
    simp only [now_scrapped, hlive, if_neg (Nat.not_le.mpr hq), hentry, Bool.false_eq_true, if_false,
      apply_ite SeqEff.done])

end

section
variable (hnone : latentAt (now s q) ((nowSeq s q).gr ra).toNat = none)
include hnone

theorem exec_fenceClear_noEntry : exec (.fenceClear q rd ra) s = .next (seqRet q rd 2 (now s q)) := by
  change execFenceClear q rd ra s = _
  exact ready_done h (by
    simp only [now_scrapped, hlive, if_neg (Nat.not_le.mpr hq), hnone, Option.filter_none, Bool.false_eq_true,
      if_false])

theorem exec_fenceReplay_noEntry : exec (.fenceReplay q rd ra) s = .next (seqRet q rd 2 (now s q)) := by
  change execFenceReplay q rd ra s = _
  exact ready_done h (by
    simp only [now_scrapped, hlive, if_neg (Nat.not_le.mpr hq), hnone, Option.filter_none, Bool.false_eq_true,
      if_false])

end

/-- An engine of the field that is neither fenced nor latent becomes latent while the table has a place. -/
theorem exec_fenceMakeLatent_free {e c : Nat} (he : e = ((nowSeq s q).gr ra).toNat)
    (hc : c = ((nowSeq s q).gr rb).toNat) (hpos : 1 ≤ c) (hmax : c ≤ 6) (hfield : engField e = q) (hok : engOk e = true)
    (hfree : blocked (now s q) e = false) (hnone : latentAt (now s q) e = none) :
    exec (.fenceMakeLatent q rd ra rb) s = .next (
      if (latentSlots (now s q) q).length ≥ 64 then seqRet q rd 1 (now s q)
      else seqRet q rd 0 (makeLatent e 0 c 7 (now s q)).2) := by
  have hcause : ¬ (c = 0 ∨ c > 6) := by omega
  change execFenceMakeLatent q rd ra rb s = _
  exact ready_done h (by
    simp only [now_scrapped, hlive, if_neg (Nat.not_le.mpr hq), ← he, ← hc, if_neg hcause, hfield, hok, hfree,
      hnone, ne_eq, not_true_eq_false, Bool.true_eq_false, or_self, Option.isSome_none, Bool.or_self,
      Bool.false_eq_true, if_false, apply_ite SeqEff.done])

end

theorem latentEntry_inField {l : Latent} {k e : Nat} (hat : latentAt t e = some (k, l)) (hconf : l.confirmed = false)
    (hfield : engField l.eng = q) :
    (latentAt t e).filter (fun x => !x.2.confirmed && engField x.2.eng == q) = some (k, l) := by
  rw [hat, Option.filter_some, hconf, hfield, beq_self_eq_true]; rfl

/-! ### RESET (R257) -/

section
variable {scope a n : Nat} {r : Nat × State}

theorem seqReset_fsTrap (h : Ready s q) (hq : q < 128) (hscope : 2 ≤ scope) :
    seqReset scope q rd ra rb s = .next (trapped s q trapUnit scope) :=
  ready_trap h (if_pos ⟨hq, hscope⟩)

theorem seqReset_fs (h : Ready s q) (hq : q < 128) (hscope : scope < 2) (ha : a = ((nowSeq s q).gr ra).toNat)
    (hfield : engField a = q) (hn : n = ((nowSeq s q).gr rb).toNat % 2 ^ 16)
    (hr : r = scopeStart scope a a n 0 (now s q)) :
    seqReset scope q rd ra rb s = .next (seqRet q rd (BitVec.ofNat 32 r.1) r.2) :=
  ready_done h (by
    simp only [Nat.not_le.mpr hscope, ← ha, ← hn, hfield, if_pos hq, ← hr, seqCheckpoint_fs hq, ne_eq,
      not_true_eq_false, and_false, false_and, if_false])

theorem seqReset_cc (h : Ready s 128) (ha : a = ((nowSeq s 128).gr ra).toNat)
    (hn : n = ((nowSeq s 128).gr rb).toNat % 2 ^ 16) (hr : r = scopeStart scope a a n 1 (now s 128)) :
    seqReset scope 128 rd ra rb s = .next (ccCheckpoint (seqRet 128 rd (BitVec.ofNat 32 r.1) r.2)) :=
  ready_done h (by
    simp only [Nat.lt_irrefl, false_and, if_false, ← ha, ← hn, ← hr, seqCheckpoint_cc])

end

/-! ### BRACKET (R180, R236) -/

section
variable (h : Ready s q) (hq : q < 128)
include h hq

theorem exec_bracket_oddPair (hodd : ra % 2 = 1) : exec (.bracket q rd ra) s = .next (trapped s q trapIllegal ra) := by
  change execBracket q rd ra s = _
  exact ready_trap h (by simp only [if_neg (Nat.not_le.mpr hq), if_pos hodd])

variable {v : Nat} (heven : ra % 2 = 0) (hon : (now s q).aonOnly = false) (hv : v = (nowSeq s q).pair ra)
include heven hon hv

section
variable (hstart : bit v 30 = false)
include hstart

theorem exec_bracket_started (hbrk : brkStart q v (now s q) = (false, t)) :
    exec (.bracket q rd ra) s = .next (seqRet q rd 0 t) := by
  change execBracket q rd ra s = _
  exact ready_done h (by
    simp only [if_neg (Nat.not_le.mpr hq), heven, hon, ← hv, hstart, hbrk, Nat.zero_ne_one, Bool.false_eq_true,
      if_false]
    rfl)

theorem exec_bracket_refused (hbrk : brkStart q v (now s q) = (true, t)) :
    exec (.bracket q rd ra) s = .next (seqRet q rd 1 (t.wr F.FS_BRK_STAT_cmd_refused q 1)) := by
  change execBracket q rd ra s = _
  exact ready_done h (by
    simp only [if_neg (Nat.not_le.mpr hq), heven, hon, ← hv, hstart, hbrk, Nat.zero_ne_one, Bool.false_eq_true,
      if_false]
    rfl)

end

section
variable (hcancel : bit v 30 = true)
include hcancel

theorem exec_bracket_cancelled (hsess : ((now s q).sess q).isSome = true) :
    exec (.bracket q rd ra) s = .next (seqRet q rd 0 (brkAbort q 10 (now s q))) := by
  obtain ⟨x, hx⟩ := Option.isSome_iff_exists.mp hsess
  change execBracket q rd ra s = _
  exact ready_done h (by
    simp only [if_neg (Nat.not_le.mpr hq), heven, hon, ← hv, if_pos hcancel, hx, Nat.zero_ne_one, Bool.false_eq_true,
      if_false]
    rfl)

theorem exec_bracket_noSession (hsess : (now s q).sess q = none) :
    exec (.bracket q rd ra) s = .next (seqRet q rd 2 (now s q)) := by
  change execBracket q rd ra s = _
  exact ready_done h (by
    simp only [if_neg (Nat.not_le.mpr hq), heven, hon, ← hv, if_pos hcancel, hsess, Nat.zero_ne_one,
      Bool.false_eq_true, if_false]
    rfl)

end

end

/-- Settles O32: each clause is one path of an instruction, from its operands to its status or its trap. -/
theorem seqReliability : Obligations.SeqReliability := by
  unfold Obligations.SeqReliability
  refine ⟨?_, ?_, ?_, ?_, ?_, ?_, ?_, ?_, ?_, ?_, ?_, ?_, ?_, ?_, ?_, ?_, ?_, ?_⟩
  · rintro s q rd ra rb i r x h rfl hq hi hcore hr
    exact exec_strip_fs h hq hi hcore hr
  · intro s q rd ra rb h hcc
    exact ⟨exec_strip_cc h hcc, exec_proofSetForce_cc h hcc, exec_proofSetRekey_cc h hcc, exec_bracket_cc h hcc⟩
  · rintro s q rd ra rb r x h rfl hq hr
    exact exec_proofSetForce_fs h hq hr
  · intro s q rd h hq hon
    exact exec_proofSetRekey_fs h hq hon
  · rintro s rd ra rb p v x h rfl hp hv hpart hexp
    exact exec_proofSetRate_written h hp hv hpart hexp
  · rintro s rd ra rb x h rfl hbad
    exact exec_proofSetRate_refused h rfl rfl hbad
  · rintro s t q rd ra rb u r x h rfl hu hr hlive hq hpresent hkind hfield hzero hgood hon ht
    rw [exec_fenceConfirm_sent h hr hlive hzero hu hgood hq hpresent hkind hfield hon]
    exact ⟨fun hheld hnew => by rw [sendConfirm_newEngine ⟨q, u, r⟩ ht hkind hheld hnew],
      fun hheld => by rw [sendConfirm_confirmedEngine ⟨q, u, r⟩ ht hheld]⟩
  · rintro s q rd ra rb u r x h rfl hu hr hlive hq hout hzero hgood
    exact exec_fenceConfirm_fsOutOfReach h hr hlive hzero hu hgood hq hout
  · rintro s rd ra rb u r x h rfl hu hr hlive hout hzero hgood
    exact exec_fenceConfirm_ccOutOfReach h hr hlive hzero hu hgood hout
  · intro s q rd ra rb r h hr
    exact ⟨exec_fenceConfirm_reasonZero h hr, exec_fenceConfirm_reasonReserved h hr⟩
  · intro s q rd ra k l h hq hlive hat hconf hfield
    have hentry := latentEntry_inField hat hconf hfield
    rw [exec_fenceReplay_entry h hq hlive hentry]
    refine ⟨exec_fenceClear_entry h hq hlive hentry, ?_, ?_, ?_⟩
    · rintro c rfl hsound hsuspect hnext hon
      simp only [hon, hsound, beq_false_of_ne hsuspect, beq_false_of_ne hnext, Bool.or_self, Bool.false_eq_true,
        if_false]
    · intro hon
      rw [if_pos hon]
    · intro hsuspect hon
      rw [hon, if_neg Bool.false_ne_true, if_pos hsuspect]
  · intro s q rd ra h hq hlive hnone
    exact ⟨exec_fenceClear_noEntry h hq hlive hnone, exec_fenceReplay_noEntry h hq hlive hnone⟩
  · rintro s t q rd ra rb e c h hq hlive rfl he hc hpos hmax hfield hok hfree hnone
    rw [exec_fenceMakeLatent_free h hq hlive he hc hpos hmax hfield hok hfree hnone]
    exact ⟨fun hroom => by rw [if_neg (Nat.not_le.mpr hroom)], fun hfull => by rw [if_pos hfull]⟩
  · intro s q rd ra rb a n r h hq ha hfield hn
    exact ⟨seqReset_fs h hq (by decide) ha hfield hn, seqReset_fs h hq (by decide) ha hfield hn,
      seqReset_fsTrap h hq (by decide), seqReset_fsTrap h hq (by decide), seqReset_fsTrap h hq (by decide)⟩
  · intro s rd ra rb a n r h ha hn
    exact ⟨seqReset_cc h ha hn, seqReset_cc h ha hn, seqReset_cc h ha hn⟩
  · intro s t q rd ra v h hq heven hon hv hstart
    exact ⟨exec_bracket_started h hq heven hon hv hstart, exec_bracket_refused h hq heven hon hv hstart⟩
  · intro s q rd ra v h hq heven hon hv hcancel
    exact ⟨exec_bracket_cancelled h hq heven hon hv hcancel, exec_bracket_noSession h hq heven hon hv hcancel⟩
  · intro s q rd ra h hq hodd
    exact exec_bracket_oddPair h hq hodd

end Sys2Proof.Machine
end

