-- ==== Sys2Proof/Proofs/StripRequests.lean ====
section
/-!
PROOF. How a core becomes due, is requested, and what its grace, its deadlines and its shadow come to (R165, R166, R168,
R169, R442, Table 6-4). What a forced core that was never requested runs is log entry 103.
-/
namespace Sys2Proof.Machine

variable {s t u : State} {c d e f g v : Nat} {w : Writer}

/-! ### Due and requested (R165, R166) -/

theorem exec_stripDue_due (hc : coreOk c = true) (hlive : s.fieldLive (coreField c) = true)
    (hrel : s.released (coreField c) = true) (hst : (s.core c).st = 0) (hreq : (s.core c).req = false)
    (hagain : (s.core c).again = false) (heng : (liveEngines s c).isEmpty = false)
    (hphase : s.rd F.CC_PART_STAT_phase (s.partOf (coreField c)) = 0)
    (ht : t = s.toWt (oldestWt s c + periodNs s (coreField c) - s.rd F.FS_STRIP_CFG_lead_ms (coreField c) * ms)) :
    exec (.stripDue c) s = .next (noteCore Code.STRIP_DUE c 0
      (t.setCore c { s.core c with st := 1, graceEnd := some (graceEndOf t (coreField c)) })) := by
  have hdue : (s.fieldLive (coreField c) && s.released (coreField c) && (s.core c).st == 0 && !(s.core c).req
      && !(s.core c).again && !(liveEngines s c).isEmpty
      && s.rd F.CC_PART_STAT_phase (s.partOf (coreField c)) == 0) = true := by
    rw [hlive, hrel, hst, hreq, hagain, heng, hphase]; rfl
  change execStripDue c s = _
  simp only [execStripDue, onUnit_ok hc, if_pos hdue, ← ht]

theorem exec_stripCmd_granted (h : Granted s w .FS_STRIP_CMD f) (hf : fieldOk f = true) :
    exec (.stripCmd w f v) s = .next (wrote w .FS_STRIP_CMD f (stripCmdWrite w f v s)) := by
  change execStripCmd w f v s = _
  rw [execStripCmd, onUnit_ok hf, regWrite_granted h]

/-- A request whose status is not 0 was refused, and only then cmd_refused is set. -/
theorem stripCmdWrite_status {n : Nat} (hw : notTenant w = true)
    (hr : stripRequest f (coreOf f (bits v 0 13)) (bits v 13 9) s = (n, t)) :
    stripCmdWrite w f v s = if n = 0 then t else t.wr F.FS_STRIP_STAT_cmd_refused f 1 := by
  cases n with
  | zero => simp only [stripCmdWrite, hw, hr, Bool.not_true, Bool.false_eq_true, if_false, if_true]
  | succ n => simp only [stripCmdWrite, hw, hr, Bool.not_true, Bool.false_eq_true, Nat.add_eq_zero_iff, Nat.one_ne_zero,
      and_false, if_false]

/-! ### The end of grace (R166, Table 6-4) -/

/-- In state due or requested the grace timer counts. -/
theorem graceRuns {x : Core} (hst : x.st = 1 ∨ x.st = 2) : (x.st != 1 && x.st != 2) = false := by
  rcases hst with hdue | hreq
  · rw [hdue]; rfl
  · rw [hreq]; rfl

section
variable (hc : coreOk c = true) (hg : (s.core c).graceEnd = some g) (hst : (s.core c).st = 1 ∨ (s.core c).st = 2)
  (hrun : s.ctGated (coreCt c) = false) (ht : t = s.toWt g)
include hc hg hst hrun ht

/-! With force_preempt the core is forcing: with its own recipe when it was requested, else with the reference one. -/

section
variable (hpre : t.rb F.FS_STRIP_CFG_force_preempt (coreField c) = true) (hreqs : noRequests t (coreField c) = false)
include hpre hreqs

theorem exec_graceExpire_force_requested (hreq : (s.core c).req = true) :
    exec (.graceExpire c) s = .next (t.setCore c
      { raiseReq { s.core c with graceEnd := none } 0 (s.core c).recipe true with
        st := 7
        forceEnd := some (t.wt + 10 * ms) }) := by
  change execGraceExpire c s = _
  simp only [execGraceExpire, onUnit_ok hc, hg, graceRuns hst, hrun, ← ht, hpre, hreqs, hreq, Bool.or_self,
    Bool.true_or, Bool.false_eq_true, if_false, if_true]

theorem exec_graceExpire_force_neverRequested (hreq : (s.core c).req = false) (hagain : (s.core c).again = false) :
    exec (.graceExpire c) s = .next (t.setCore c
      { raiseReq { s.core c with graceEnd := none } 0 0 true with
        bank := 0
        st := 7
        forceEnd := some (t.wt + 10 * ms) }) := by
  change execGraceExpire c s = _
  simp only [execGraceExpire, onUnit_ok hc, hg, graceRuns hst, hrun, ← ht, hpre, hreqs, hreq, hagain, Bool.or_self,
    Bool.false_eq_true, if_false, if_true]

end

variable (hpre : t.rb F.FS_STRIP_CFG_force_preempt (coreField c) = false)
include hpre

/-- Where the partition checks nothing, a shadow would prove nothing: the core is unshielded with cause 0. -/
theorem exec_graceExpire_noChecks (hmode : t.setting (coreField c) 1 = 0) :
    exec (.graceExpire c) s = .next (t.setCore c { s.core c with graceEnd := none, st := 4, cause := 0 }) := by
  change execGraceExpire c s = _
  simp only [execGraceExpire, onUnit_ok hc, hg, graceRuns hst, hrun, ← ht, hpre, hmode, Bool.or_self,
    Bool.false_eq_true, if_false, if_true]

/-- Else its force bit decides between shielded and unshielded. -/
theorem exec_graceExpire_shadow {ok : Bool} (hmode : t.setting (coreField c) 1 ≠ 0) (htry : tryForce c t = (ok, u)) :
    exec (.graceExpire c) s = .next (u.setCore c (if ok = true
      then { s.core c with graceEnd := none, st := 3, shadow := true }
      else { s.core c with graceEnd := none, st := 4, cause := 0 })) := by
  change execGraceExpire c s = _
  cases ok <;>
    simp only [execGraceExpire, onUnit_ok hc, hg, graceRuns hst, hrun, ← ht, hpre, hmode, htry, Bool.or_self,
      Bool.false_eq_true, if_false, if_true]

end

/-! ### Deadlines and losses of shield (R168, R169, Table 6-4) -/

theorem exec_forceDeadlineExpire_forcing (hc : coreOk c = true) (hd : (s.core c).forceEnd = some d)
    (hst : (s.core c).st = 7) (hrun : s.ctGated (coreCt c) = false) :
    exec (.forceDeadlineExpire c) s =
      .next ((s.toWt d).setCore c { s.core c with st := 4, cause := 2, forceEnd := none }) := by
  have hforcing : ((s.core c).st == 7 && !s.ctGated (coreCt c)) = true := by rw [hst, hrun]; rfl
  change execForceDeadlineExpire c s = _
  simp only [execForceDeadlineExpire, onUnit_ok hc, hd, if_pos hforcing]

theorem exec_shadowLoss_lost {win : List (Nat × Bool)} (hc : coreOk c = true) (hst : (s.core c).st = 3)
    (hwin : win = (s.core c).win.filter (fun w => decide (s.wt ≤ w.1 + ms)))
    (hlost : win.length < 16 * (win.filter (·.2)).length) :
    exec (.shadowLoss c) s = .next (s.setCore c { s.core c with st := 4, cause := 1, shadow := true }) := by
  change execShadowLoss c s = _
  simp only [execShadowLoss, onUnit_ok hc, ← hwin, hst, beq_self_eq_true, decide_eq_true hlost, Bool.and_self, if_true]

/-- An engine that becomes overdue after another one of its core is not recorded again. -/
theorem exec_stripOverdue_notFirst {l : Led} (he : engOk e = true) (hst : (s.core (engCore e)).st = 4)
    (hl : l = tget {} s.ledger e) (hnew : l.overdue = false) (hfence : engFenced s e = false)
    (hrun : s.ctGated (coreCt (engCore e)) = false)
    (hphase : s.rd F.CC_PART_STAT_phase (s.partOf (engField e)) = 0) (hlive : s.fieldLive (engField e) = true)
    (hcore : coreOverdue s (engCore e) = true) (ht : t = s.toWt (l.lastWt + periodNs s (engField e) + 1)) :
    exec (.stripOverdue e) s = .next (stripSync (engField e)
      { t with ledger := tput {} t.ledger e { l with overdue := true, epochOverdue := true } }) := by
  change execStripOverdue e s = _
  simp only [execStripOverdue, onUnit_ok he, ← hl, ← ht, hst, hnew, hfence, hrun, hphase, hlive, hcore,
    beq_self_eq_true, Bool.true_or, Bool.not_false, Bool.not_true, Bool.and_self, Bool.false_eq_true, if_false, if_true]

/-! ### A grant that falls (R442) -/

theorem exec_yieldGrantDrop_released (hc : coreOk c = true) (hgrant : (s.core c).granted = true)
    (hreq : (s.core c).req = false) :
    exec (.yieldGrantDrop c) s = .next (s.setCore c { s.core c with
      granted := false
      req := (s.core c).again
      again := false
      force := (s.core c).again && (s.core c).force }) := by
  change execYieldGrantDrop c s = _
  simp only [execYieldGrantDrop, onUnit_ok hc, hgrant, hreq, Bool.not_false, Bool.and_self, if_true]

/-- Settles O11: each clause is one move of a core in Table 6-4, or the write that requests its strip. -/
theorem stripDueAndGrace : Obligations.StripDueAndGrace := by
  unfold Obligations.StripDueAndGrace
  refine ⟨?_, ?_, ?_, ?_, ?_, ?_, ?_, ?_, ?_⟩
  · intro s c hc hlive hrel hst hreq hagain heng hphase
    exact ⟨_, rfl, exec_stripDue_due hc hlive hrel hst hreq hagain heng hphase rfl⟩
  · intro s t w f v h hf hw hr
    rw [exec_stripCmd_granted h hf, stripCmdWrite_status hw hr, if_pos rfl]
  · intro s t w f v n h hf hw hr
    rw [exec_stripCmd_granted h hf, stripCmdWrite_status hw hr, if_neg (Nat.succ_ne_zero n)]
  · intro s c g hc hg hst hrun hpre hreqs
    exact ⟨exec_graceExpire_force_requested hc hg (.inr hst) hrun rfl hpre hreqs,
      exec_graceExpire_force_neverRequested hc hg (.inr hst) hrun rfl hpre hreqs⟩
  · intro s t c g hc hg hst hrun ht hpre
    exact ⟨exec_graceExpire_noChecks hc hg hst hrun ht hpre,
      fun _ => exec_graceExpire_shadow hc hg hst hrun ht hpre, fun _ => exec_graceExpire_shadow hc hg hst hrun ht hpre⟩
  · intro s c d hc hd hst hrun
    exact exec_forceDeadlineExpire_forcing hc hd hst hrun
  · intro s c hc hst hlost
    exact exec_shadowLoss_lost hc hst rfl hlost
  · intro s e he hst hnew hfence hrun hphase hlive hcore
    exact ⟨_, rfl, exec_stripOverdue_notFirst he hst rfl hnew hfence hrun hphase hlive hcore rfl⟩
  · intro s c hc hgrant hreq
    exact exec_yieldGrantDrop_released hc hgrant hreq

end Sys2Proof.Machine
end

