-- ==== Sys2Proof/Proofs/StripRuns.lean ====
section
/-!
PROOF. Grants of strip requests, the waits for a partner or a witness, and the results of strips (R158 to R163, R198).
That a grant nobody asked for changes nothing is log entry 15.
-/
namespace Sys2Proof.Machine

variable {s t : State} {c d e n p : Nat}

/-! ### Grants (R158, R160, R161) -/

theorem exec_yieldGrant_strip (hc : coreOk c = true) (hreq : (s.core c).req = true)
    (hgrant : (s.core c).granted = false) (hfs : s.fsWorks (coreField c) = true) (hkind : (s.core c).kind = 0) :
    exec (.yieldGrant c) s = .next (grantStrip c s) := by
  change execYieldGrant c s = _
  simp only [execYieldGrant, yieldGrant, onUnit_ok hc, hreq, hgrant, hfs, hkind, Bool.not_true, Bool.or_self,
    Bool.false_eq_true, if_false]

theorem exec_yieldGrant_notAsked (hc : coreOk c = true) (hreq : (s.core c).req = false) :
    exec (.yieldGrant c) s = .next s := by
  change execYieldGrant c s = _
  simp only [execYieldGrant, yieldGrant, onUnit_ok hc, hreq, Bool.not_false, Bool.true_or, if_true]

section
variable {x : Core} (hn : n = tget 0 s.grantNo (coreField c))
  (ht : t = coreWdogs c (State.setCore { s with grantNo := tput 0 s.grantNo (coreField c) (n + 1) } c
    { s.core c with st := 5, granted := true, graceEnd := none, forceEnd := none, ord := n }))
  (hx : x = t.core c) (hsus : x.suspect = none) (hwit : x.witness = none)
include hn ht hx hsus hwit

theorem grantStrip_alone (hwait : t.rd F.FS_STRIP_CFG_pair_wait_us (coreField c) = 0) :
    grantStrip c s = startStrip (coreField c) [c] x.recipe false false false t [] (some x.bank) := by
  simp only [grantStrip, ← hn, ← ht, ← hx, hsus, hwit, if_pos hwait]

variable (hwait : t.rd F.FS_STRIP_CFG_pair_wait_us (coreField c) ≠ 0)
include hwait

theorem grantStrip_paired (hpair : pairWith t c = some p) :
    grantStrip c s = startStrip (coreField c) [p, c] x.recipe false false false t [] (some x.bank) := by
  simp only [grantStrip, ← hn, ← ht, ← hx, hsus, hwit, if_neg hwait, hpair]

theorem grantStrip_waits (hpair : pairWith t c = none) :
    grantStrip c s = t.setCore c
      { x with pairEnd := some (t.wt + t.rd F.FS_STRIP_CFG_pair_wait_us (coreField c) * us) } := by
  simp only [grantStrip, ← hn, ← ht, ← hx, hsus, hwit, if_neg hwait, hpair]

end

/-! ### The waits for a partner and for a witness end (R161, R198) -/

section
variable (hc : coreOk c = true) (hd : (s.core c).pairEnd = some d) (hst : (s.core c).st = 5)
  (hrun : s.ctGated (coreCt c) = false)
include hc hd hst hrun

theorem exec_pairWaitExpire_alone (hkind : (s.core c).kind = 0) (hsus : (s.core c).suspect = none) :
    exec (.pairWaitExpire c) s = .next (startStrip (coreField c) [c] (s.core c).recipe false false false (s.toWt d) []
      (some (s.core c).bank)) := by
  change execPairWaitExpire c s = _
  simp only [execPairWaitExpire, onUnit_ok hc, hd, hst, hkind, hsus, hrun, beq_self_eq_true, Option.isNone_none,
    Bool.not_false, Bool.and_self, if_true]

/-- With no witness asked for, no request is withdrawn before the suspect runs alone. -/
theorem exec_replayWaitExpire_alone (hsus : (s.core c).suspect = some e)
    (hnone : (fieldCores s (coreField c)).filter (fun w => w.2.witness == some c) = []) :
    exec (.replayWaitExpire c) s = .next (startStrip (coreField c) [c] (replayRecipe (s.toWt d) e) false false false
      (s.toWt d)) := by
  change execReplayWaitExpire c s = _
  simp only [execReplayWaitExpire, onUnit_ok hc, hd, hst, hsus, hrun, hnone, beq_self_eq_true, Bool.not_false,
    Bool.and_self, if_true, forAll, List.foldl_nil]

end

/-! ### Results (R159, R162, R163) -/

section
variable {x : Strip} (hc : coreOk c = true) (hx : stripOf s c = some x) (hlive : s.fieldLive (coreField c) = true)
include hx hlive

section
variable {o l : List StripOut} (hl : l = tget [] s.stripOut c ++ o.filter (fun o => engCore o.eng == c))
include hl

theorem stripResult_quiet (hquiet : ctQuiet s (coreCt c) = true) :
    stripResult c o s = { s with stripOut := tput [] s.stripOut c l } := by
  simp only [stripResult, hx, ← hl, hlive, hquiet, Bool.not_true, Bool.false_eq_true, if_false, if_true]

theorem stripResult_arrives {y : Strip} (hy : y = { x with outs := x.outs ++ l })
    (ht : t = { s with
      stripOut := tdel s.stripOut c
      strips := tput [] s.strips (coreField c)
        ((tget [] s.strips (coreField c)).map (fun z => if z.num = x.num then y else z)) })
    (hquiet : ctQuiet s (coreCt c) = false) :
    stripResult c o s = if stripComplete t y = true then stripEnd (coreField c) y t else t := by
  simp only [stripResult, hx, ← hl, hlive, hquiet, ← hy, ← ht, Bool.not_true, Bool.false_eq_true, if_false]

end

include hc

theorem exec_stripResultTimeout_running (hrun : x.cores.any (fun d => s.ctGated (coreCt d)) = false) :
    exec (.stripResultTimeout c) s = .next (stripEnd (coreField c) x (s.toWt (x.runAt + 10 * ms))) := by
  change execStripResultTimeout c s = _
  simp only [execStripResultTimeout, onUnit_ok hc, hx, hlive, hrun, Bool.not_true, Bool.or_self, Bool.false_eq_true,
    if_false]

end

theorem exec_stripResult (o : List StripOut) (hc : coreOk c = true) :
    exec (.stripResult c o) s = .next (stripResult c o s) := onUnit_ok hc _

/-- Settles O12: each clause is one case of a grant, of a wait that ends or of the arrival of results. -/
theorem stripRun : Obligations.StripRun := by
  unfold Obligations.StripRun
  refine ⟨?_, ?_, ?_, ?_, ?_, ?_⟩
  · intro s t c n x hc hreq hgrant hfs hkind hn ht hx hsus hwit
    rw [exec_yieldGrant_strip hc hreq hgrant hfs hkind]
    exact ⟨fun hwait => by rw [grantStrip_alone hn ht hx hsus hwit hwait],
      fun hwait p hpair => by rw [grantStrip_paired hn ht hx hsus hwit hwait hpair],
      fun hwait hpair => by rw [grantStrip_waits hn ht hx hsus hwit hwait hpair]; rfl⟩
  · intro s c hc hreq
    exact exec_yieldGrant_notAsked hc hreq
  · intro s c d hc hd hst hkind hsus hrun
    exact exec_pairWaitExpire_alone hc hd hst hrun hkind hsus
  · intro s c d e hc hd hsus hst hrun hnone
    exact exec_replayWaitExpire_alone hc hd hst hrun hsus hnone
  · intro s t c o l x y hc hx hlive hl hy ht
    rw [exec_stripResult o hc]
    exact ⟨fun hquiet => by rw [stripResult_arrives hx hlive hl hy ht hquiet],
      fun hquiet => by rw [stripResult_quiet hx hlive hl hquiet]⟩
  · intro s c x hc hx hlive hrun
    exact exec_stripResultTimeout_running hc hx hlive hrun

end Sys2Proof.Machine
end

