-- ==== Sys2Proof/Proofs/StepsAndLosses.lean ====
section
/-!
PROOF. Step marks and the loss monitor (R173, R174, R176): the epoch's length is log entry 53, the arithmetic of the
losses log entry 54.
-/
namespace Sys2Proof.Machine

variable {s t u : State} {w : Writer} {p v : Nat}

/-! ### CC_STEP (R173, R176) -/

theorem exec_stepMark_granted (h : Granted s w .CC_STEP p) (hp : partOk p = true) :
    exec (.stepMark w p v) s = .next (wrote w .CC_STEP p (stepWrite w p v s)) := by
  change execStepMark w p v s = _
  rw [execStepMark, onUnit_ok hp, regWrite_granted h]

section
variable (hw : s.ownerOrTenant w p = true)
include hw

theorem stepWrite_notAbove {l : Nat} (hlast : (tget {} s.steps p : StepSt).last = some l) (hold : bits v 0 40 ≤ l) :
    stepWrite w p v s = raiseCc
      { code := Code.STEP_REJECTED, unit := s.ccUnit, params := bits v 0 40 + 2 ^ 40 * p } s := by
  simp only [stepWrite, hw, hlast, decide_eq_true hold, Bool.not_true, Bool.false_eq_true, if_false, if_true]

theorem stepWrite_above {next k : Nat} {x y : StepSt} (hx : x = tget {} s.steps p)
    (habove : ∀ l, x.last = some l → l < bits v 0 40) (hnext : next = s.rd F.CC_HORIZON_CFG_epoch_steps p)
    (hk : k = x.w.getD next)
    (hy : y = { x with
      last := some (bits v 0 40)
      hist := (s.wt :: x.hist).take 257
      count := if k ≤ x.count + 1 then 0 else x.count + 1
      w := some (if k ≤ x.count + 1 then next else k) })
    (ht : t = ({ s with steps := tput {} s.steps p y } : State).wr F.CC_STEP_STAT_step p (bits v 0 40 % 2 ^ 32))
    (hu : u = suspMark p (notify 128 Code.STEP_MARK t.ccUnit (bits v 0 40 + 2 ^ 40 * p) t)) :
    stepWrite w p v s = if k ≤ x.count + 1 then epochClose p k y u else u := by
  have hlast : (match x.last with | some l => decide (bits v 0 40 ≤ l) | none => false) = false := by
    cases hl : x.last with
    | none => rfl
    | some l => exact decide_eq_false (Nat.not_le.mpr (habove l hl))
  simp only [stepWrite, hw, ← hx, ← hnext, ← hk, Bool.not_true, Bool.false_eq_true, if_false, decide_eq_true_eq, ← hy,
    ← ht, ← hu]
  exact if_neg (Bool.eq_false_iff.mp hlast)

end

/-! ### CC_LOSS and CC_LOSS_CFG (R174) -/

theorem exec_lossPost_granted (h : Granted s w .CC_LOSS p) (hp : partOk p = true) :
    exec (.lossPost w p v) s = .next (wrote w .CC_LOSS p (lossWrite w p v s)) := by
  change execLossPost w p v s = _
  rw [execLossPost, onUnit_ok hp, regWrite_granted h]

section
variable {x : StepSt} (hw : s.ownerOrTenant w p = true) (hx : x = tget {} s.steps p)
include hw hx

theorem lossWrite_excursion {l d : Val} (hl : l = fp32.dec (v % 2 ^ 32)) (hd : d = (sub32 l (fp32.dec x.mu)).abs)
    (hfin : l.isFin = true) (hmany : 16 ≤ s.rd F.CC_LOSS_CFG_accepted p) (hk : s.rd F.CC_LOSS_CFG_k p ≠ 0)
    (hzero : (fp32.dec x.delta).isZero = false)
    (hfar : (f32 ((cntU (s.rd F.CC_LOSS_CFG_k p)).mul (fp32.dec x.delta))).lt d = true) :
    lossWrite w p v s = raiseCc
      { code := Code.LOSS_EXCURSION, unit := s.ccUnit,
        params := (x.last.getD 0) % 2 ^ 32 + 2 ^ 32 * ratioClass d (fp32.dec x.delta) + 2 ^ 41 * p } s := by
  have hlater : s.rd F.CC_LOSS_CFG_accepted p ≠ 0 := by omega
  have hfinite : b2n false = 0 := rfl
  simp only [lossWrite, hw, ← hx, ← hl, hfin, and_true, if_neg hlater, ← hd, decide_eq_true hmany, bne_iff_ne.mpr hk,
    hzero, hfar, hfinite, Bool.not_true, Bool.and_self, Bool.or_true, Bool.or_self, Bool.false_eq_true, if_false,
    if_true, Nat.mul_zero, Nat.add_zero]

theorem lossWrite_firstSixteen {l mu de mu2 de2 : Val} (hl : l = fp32.dec (v % 2 ^ 32)) (hfin : l.isFin = true)
    (hfew : s.rd F.CC_LOSS_CFG_accepted p < 16)
    (hmu : mu = if s.rd F.CC_LOSS_CFG_accepted p = 0 then l else fp32.dec x.mu) (hde : de = fp32.dec x.delta)
    (hde2 : de2 = f32 (de.add (sixteenth (sub32 (sub32 l mu).abs de))))
    (hmu2 : mu2 = f32 (mu.add (sixteenth (sub32 l mu))))
    (ht : t = { s with steps := tput {} s.steps p { x with mu := fp32.enc mu2, delta := fp32.enc de2 } }) :
    lossWrite w p v s = t.bump F.CC_LOSS_CFG_accepted p := by
  simp only [lossWrite, hw, ← hx, ← hl, hfin, and_true, ← hmu, ← hde, decide_eq_false (Nat.not_le.mpr hfew), ← hde2,
    ← hmu2, ← ht, Bool.not_true, Bool.false_and, Bool.or_self, Bool.false_eq_true, if_false]

end

theorem exec_lossResetStats_granted (h : Granted s w .CC_LOSS_CFG p) (hp : partOk p = true) :
    exec (.lossResetStats w p v) s = .next (wrote w .CC_LOSS_CFG p (lossCfgWrite w p v s)) := by
  change execLossResetStats w p v s = _
  rw [execLossResetStats, onUnit_ok hp, regWrite_granted h]

theorem lossCfgWrite_reset (hw : notTenant w = true) (hbit : bit v 8 = true)
    (ht : t = s.wr F.CC_LOSS_CFG_k p (bits v 0 8)) :
    lossCfgWrite w p v s = ({ t with
      steps := tput {} t.steps p { tget {} t.steps p with mu := 0, delta := 0 } } : State).wr
        F.CC_LOSS_CFG_accepted p 0 := by
  simp only [lossCfgWrite, hw, hbit, ← ht, Bool.not_true, Bool.false_eq_true, if_false, if_true]

/-- Settles O13: each clause is one case of a write of CC_STEP, of CC_LOSS or of CC_LOSS_CFG. -/
theorem stepsAndLosses : Obligations.StepsAndLosses := by
  unfold Obligations.StepsAndLosses
  refine ⟨?_, ?_, ?_, ?_, ?_⟩
  · intro s t u w p v next k x y h hp hw hx habove hnext hk hy ht hu
    rw [exec_stepMark_granted h hp, stepWrite_above hw hx habove hnext hk hy ht hu]
  · intro s w p v l h hp hw hlast hold
    rw [exec_stepMark_granted h hp, stepWrite_notAbove hw hlast hold]
  · intro s w p v x h hp hw hx hfin hmany hk hzero hfar
    rw [exec_lossPost_granted h hp, lossWrite_excursion hw hx rfl rfl hfin hmany hk hzero hfar]
  · intro s t w p v x l mu de mu2 de2 h hp hw hx hl hfin hfew hmu hde hde2 hmu2 ht
    rw [exec_lossPost_granted h hp, lossWrite_firstSixteen hw hx hl hfin hfew hmu hde hde2 hmu2 ht]
  · intro s t w p v h hp hw hbit ht
    rw [exec_lossResetStats_granted h hp, lossCfgWrite_reset hw hbit ht]

end Sys2Proof.Machine
end

