-- ==== Sys2Proof/Proofs/SelectorCaptures.lean ====
section
/-!
PROOF. Selectors that capture what they name (R172, R196, R202, R326, R327, R399, R403, R426, R428, R449, R466).
-/
namespace Sys2Proof.Machine

variable {s t : State} {w : Writer} {f v : Nat}

/-! ### A write of a selector, with and without a right to it (R391, R464, R465) -/

theorem regWrite_noRight {r : Reg} {i : Nat} (hreach : s.regReach w r i = true) (hmay : s.mayWrite w r i = false) :
    regWrite w r i s (.next t) = .next (noRight w r s) := by
  simp only [regWrite, hreach, hmay, Bool.false_eq_true, if_false, if_true]

/-- A write of an observation register without a right to it is counted, whoever makes it (R391). -/
theorem noRight_tableReg {r : Reg} (hr : tableRegs.contains r = true) : noRight w r s = s.denied := by
  cases w with
  | tenant q => rfl
  | _ => exact if_pos hr

/-! ### The coverage ledger (R172, R391) -/

theorem execLedgerSelect_onField (hf : fieldOk f = true) :
    execLedgerSelect w f v s = regWrite w .FS_LEDGER_SEL f s (.next (ledgerSelWrite w f v s)) := by
  rw [execLedgerSelect, onUnit_ok hf]

theorem exec_ledgerSelect_granted (hf : fieldOk f = true) (h : Granted s w .FS_LEDGER_SEL f)
    (hobs : obsOk s w (s.partOf f) = true) :
    exec (.ledgerSelect w f v) s = .next (wrote w .FS_LEDGER_SEL f
      (ledgerShow f (2 ^ 15 * f + bits v 0 15) (s.wr F.FS_LEDGER_SEL_engine f (bits v 0 15)))) := by
  change execLedgerSelect w f v s = _
  rw [execLedgerSelect_onField hf, regWrite_granted h, ledgerSelWrite, if_pos hobs]

theorem exec_ledgerSelect_noRight (hf : fieldOk f = true) (hreach : s.regReach w .FS_LEDGER_SEL f = true)
    (hmay : s.mayWrite w .FS_LEDGER_SEL f = false) : exec (.ledgerSelect w f v) s = .next s.denied := by
  have htable : tableRegs.contains .FS_LEDGER_SEL = true := by decide
  change execLedgerSelect w f v s = _
  rw [execLedgerSelect_onField hf, regWrite_noRight hreach hmay, noRight_tableReg htable]

/-! ### The fixer's table and the fence list (R196, R202) -/

theorem execFixSelect_onField (hf : fieldOk f = true) :
    execFixSelect w f v s = regWrite w .FS_FIX_SEL f s (.next (fixSelWrite w f v s)) := by
  rw [execFixSelect, onUnit_ok hf]

theorem exec_fixSelect_granted (hf : fieldOk f = true) (h : Granted s w .FS_FIX_SEL f) (hw : notTenant w = true) :
    exec (.fixSelect w f v) s = .next (wrote w .FS_FIX_SEL f
      ((s.wr F.FS_FIX_SEL_entry f (bits v 0 6)).setReg .FS_FIX_DATA f (fixWord s f (bits v 0 6)))) := by
  change execFixSelect w f v s = _
  rw [execFixSelect_onField hf, regWrite_granted h, fixSelWrite, if_pos hw]

theorem exec_fixSelect_noRight (hf : fieldOk f = true) (hreach : s.regReach w .FS_FIX_SEL f = true)
    (hmay : s.mayWrite w .FS_FIX_SEL f = false) :
    exec (.fixSelect w f v) s = .next (noRight w .FS_FIX_SEL s) := by
  change execFixSelect w f v s = _
  rw [execFixSelect_onField hf, regWrite_noRight hreach hmay]

theorem exec_fenceIndexSelect_granted (h : Granted s w .CC_FENCE_IDX 0) (hw : notTenant w = true) :
    exec (.fenceIndexSelect w v) s = .next (wrote w .CC_FENCE_IDX 0
      ((s.wr F.CC_FENCE_IDX_index 0 (bits v 0 13)).wr F.CC_FENCE_ENTRY_entry 0
        (if bits v 0 13 < s.flogUsed then logEntry s (bits v 0 13) else 0))) := by
  change execFenceIndexSelect w v s = _
  rw [execFenceIndexSelect, regWrite_granted h, fenceIdxWrite, if_pos hw]

/-! ### Shadow tables, start-up times and homes (R326, R327, R399, R449) -/

theorem exec_shardSelect_granted (h : Granted s w .CC_CKPT_SHARD_SEL 0) (hown : s.isOwner w = true) :
    exec (.shardSelect w v) s = .next (wrote w .CC_CKPT_SHARD_SEL 0
      (showShard (s.wr F.CC_CKPT_SHARD_SEL_index 0 (bits v 0 F.CC_CKPT_SHARD_SEL_index.w)))) := by
  change execShardSelect w v s = _
  rw [execShardSelect, regWrite_granted h, shardSelWrite, if_pos hown]

theorem exec_hostSelect_granted (h : Granted s w .CC_CKPT_HOST_SEL 0) (hown : s.isOwner w = true) :
    exec (.hostSelect w v) s = .next (wrote w .CC_CKPT_HOST_SEL 0
      (showHost (s.wr F.CC_CKPT_HOST_SEL_index 0 (bits v 0 F.CC_CKPT_HOST_SEL_index.w)))) := by
  change execHostSelect w v s = _
  rw [execHostSelect, regWrite_granted h, hostSelWrite, if_pos hown]

theorem exec_bootSelect_granted (h : Granted s w .CC_BOOT_SEL 0) (hw : notTenant w = true) :
    exec (.bootSelect w v) s = .next (wrote w .CC_BOOT_SEL 0
      ((s.wr F.CC_BOOT_SEL_step 0 (bits v 0 4)).wr F.CC_BOOT_T_wt 0 (tget 0 s.boot.ends (bits v 0 4)))) := by
  change execBootSelect w v s = _
  rw [execBootSelect, regWrite_granted h, bootSelWrite, if_pos hw]

theorem exec_homeSelect_granted (h : Granted s w .CC_HOME_SEL 0) (hw : notTenant w = true) :
    exec (.homeSelect w v) s = .next (wrote w .CC_HOME_SEL 0
      (((s.wr F.CC_HOME_SEL_index 0 (bits v 0 10)).wr F.CC_HOME_SEL_kind 0 (bits v 10 1)).setReg .CC_HOME_DATA 0
        (homeWord (bit v 10) (bits v 0 10)))) := by
  change execHomeSelect w v s = _
  rw [execHomeSelect, regWrite_granted h, homeSelWrite, if_pos hw]

theorem homeWord_mt {m : Nat} (hm : mtOk m = true) :
    homeWord false m = Config.mtHome m + 2 ^ 8 * Config.mtStack m + 2 ^ 31 := by
  rw [homeWord, if_neg Bool.false_ne_true, if_pos hm]

/-! ### Self-test results (R403) -/

/-- What CC_BIST_DATA shows of a unit: its result, and for a unit that has none, whether it ran. -/
def bistShown (s : State) (u : Nat) : W64 × W64 := (tfind s.bist u).getD (if bistRan s u then (1, 0) else (0, 0))

theorem exec_bistSelect_granted {a b : W64} (h : Granted s w .CC_BIST_SEL 0) (hw : notTenant w = true)
    (hr : bistShown s (bits v 0 24) = (a, b)) :
    exec (.bistSelect w v) s = .next (wrote w .CC_BIST_SEL 0 (((s.wr F.CC_BIST_SEL_unit 0 (bits v 0 24)).setReg
      .CC_BIST_DATA0 0 a.toNat).setReg .CC_BIST_DATA1 0 b.toNat)) := by
  rw [bistShown] at hr
  change execBistSelect w v s = _
  simp only [execBistSelect, regWrite_granted h, bistSelWrite, if_pos hw, hr]

theorem bistShown_result {u : Nat} {r : W64 × W64} (hr : tfind s.bist u = some r) : bistShown s u = r := by
  rw [bistShown, hr, Option.getD_some]

theorem bistShown_notRun {u : Nat} (hnone : tfind s.bist u = none) (hran : bistRan s u = false) :
    bistShown s u = (0, 0) := by
  rw [bistShown, hnone, hran, Option.getD_none, if_neg Bool.false_ne_true]

/-! ### Archive words (R426, R428) -/

theorem exec_archiveSelect_granted {bad ue : Bool} (h : Granted s w .CC_ARCH_SEL 0) (hown : s.isOwner w = true)
    (hread : archRead (bits v 0 15) bad (s.wr F.CC_ARCH_SEL_word 0 (bits v 0 15)) = (ue, t)) :
    exec (.archiveSelect w v bad) s = .next (wrote w .CC_ARCH_SEL 0
      ((t.setReg .CC_ARCH_DATA 0 (tget 0 t.arch (bits v 0 15)).toNat).setReg .CC_ARCH_WEAR 0
        (tget 0 t.wear (bits v 0 15) + 2 ^ 17 * b2n (decide (wearLimit ≤ tget 0 t.wear (bits v 0 15)))
          + 2 ^ 18 * b2n ue))) := by
  change execArchiveSelect w v bad s = _
  simp only [execArchiveSelect, regWrite_granted h, archSelWrite, if_pos hown, hread]

/-- Settles O50: each selector captures what it names, and a write without a right to it is ignored or counted. -/
theorem selectorCaptures : Obligations.SelectorCaptures := by
  unfold Obligations.SelectorCaptures
  refine ⟨?_, ?_, ?_, ?_, ?_, ?_, ?_, ?_, ?_, ?_, ?_, ?_, ?_⟩
  · intro s w f v hf
    exact ⟨exec_ledgerSelect_granted hf, exec_ledgerSelect_noRight hf⟩
  · intro s f e he
    simp only [ledgerShow, if_pos he]
  · intro s w f v hf
    exact ⟨exec_fixSelect_granted hf, exec_fixSelect_noRight hf⟩
  · intro s w v h hw
    rw [exec_fenceIndexSelect_granted h hw]
    exact ⟨fun hused => by rw [if_pos hused], fun hpast => by rw [if_neg (Nat.not_lt.mpr hpast)]⟩
  · intro s w v
    exact ⟨exec_shardSelect_granted, regWrite_noRight (t := shardSelWrite w v s)⟩
  · intro s w v
    exact ⟨exec_hostSelect_granted, regWrite_noRight (t := hostSelWrite w v s)⟩
  · intro s w v
    exact ⟨exec_bootSelect_granted, regWrite_noRight (t := bootSelWrite w v s)⟩
  · intro s w v r h hw hr
    exact exec_bistSelect_granted h hw (bistShown_result hr)
  · intro s w v h hw hnone hran
    rw [exec_bistSelect_granted h hw (bistShown_notRun hnone hran), show (0 : W64).toNat = 0 from rfl]
  · intro s w v h hw
    exact exec_homeSelect_granted h hw
  · intro m hm
    exact homeWord_mt hm
  · intro s t w v bad ue h hown hread
    exact exec_archiveSelect_granted h hown hread
  · intro s w v bad
    exact regWrite_noRight (t := archSelWrite w v bad s)

end Sys2Proof.Machine
end

