-- ==== Sys2Proof/Proofs/BracketSessions.lean ====
section
/-!
PROOF. How a bracketing session starts, waits for its tokens and its hold, and is cancelled, and how a maintenance
window opens and closes (R180 to R182, R190 to R192).
-/
namespace Sys2Proof.Machine

variable {s t u : State} {w : Writer} {f v n : Nat} {x : Session}

/-! ### FS_BRK_CMD (R180, R182, R192) -/

@[simp] theorem State.setSess_tokQ : (s.setSess f x).tokQ = s.tokQ := rfl

theorem brkStart_sessionOpen (hopen : (s.sess f).isSome = true) : brkStart f v s = (true, s) := by
  simp only [brkStart, hopen, Bool.true_or, if_true]

/-- The effective limit of a frequency push is the least of the three that R182 names. -/
theorem brkLimit_push (hkind : bits v 0 2 = 0) (henv : s.rd F.CC_BRK_ENV_f_steps ≠ 0) :
    brkLimit f v s =
      some (min (bits v 8 5) (min (s.rd F.CC_BRK_ENV_f_steps) (s.rd F.FS_BRK_LIMIT_f_steps f))) := by
  simp only [brkLimit, hkind, if_neg henv]

/-- A push that nothing refuses asks for the tokens of its hold and of its steps and waits last in the queue (R190). -/
theorem brkStart_push {m : Nat} (hnone : s.sess f = none) (haon : s.aonOnly = false) (hworks : s.fsWorks f = true)
    (hkind : bits v 0 2 = 0) (hcl : bits v 2 6 < Config.nCluster) (hrec : recipeOk s f (bits v 13 9) = true)
    (henv : s.rd F.CC_BRK_ENV_f_steps ≠ 0)
    (hm : m = min (bits v 8 5) (min (s.rd F.CC_BRK_ENV_f_steps) (s.rd F.FS_BRK_LIMIT_f_steps f)))
    (hn : n = s.rd F.CC_TOKEN_COST_hold_tok * (holdSet s f 0 (bits v 2 6)).length + s.rd F.CC_TOKEN_COST_push_tok * m)
    (hfits : n ≤ s.rd F.CC_TEST_BUDGET_budget)
    (hx : x = { kind := 0, cluster := bits v 2 6, smax := m, recipe := bits v 13 9, tTarget := bits v 22 8, phase := 1,
                want := n, bank := reqBank s f (bits v 13 9),
                tokEnd := s.wt + max 1 (s.rd F.FS_BRK_CFG_token_wait_ms f) * ms }) :
    brkStart f v s = (false, ({ s.setSess f x with tokQ := s.tokQ ++ [TokReq.mk f n] } : State).wr
      F.CC_TEST_BUDGET_waiting 0 (s.tokQ.length + 1)) := by
  have hlimit : brkLimit f v s = some m := hm ▸ brkLimit_push hkind henv
  have hclOk : decide (Config.nCluster ≤ bits v 2 6) = false := decide_eq_false (Nat.not_le.mpr hcl)
  have hbudget : ¬ n > s.rd F.CC_TEST_BUDGET_budget := Nat.not_lt.mpr hfits
  have hheat : ¬ (0 : Nat) = 2 := by decide
  simp only [brkStart, hnone, haon, hworks, hclOk, hrec, hlimit, Option.isSome_none, Bool.not_true, Bool.and_false,
    Bool.or_self, Bool.false_eq_true, if_false, hkind, if_true, if_neg hheat, Nat.add_zero, ← hn, ← hx,
    if_neg hbudget, State.setSess_tokQ, List.length_append, List.length_singleton]

theorem exec_brkCmdStart_granted (h : Granted s w .FS_BRK_CMD f) (hf : fieldOk f = true) :
    exec (.brkCmdStart w f v) s = .next (wrote w .FS_BRK_CMD f (brkCmdWrite w f v s)) := by
  change execBrkCmdStart w f v s = _
  rw [execBrkCmdStart, onUnit_ok hf, regWrite_granted h]

section
variable (hw : notTenant w = true)
include hw

theorem brkCmdWrite_refused (hstart : bit v 30 = false) (hr : brkStart f v s = (true, t)) :
    brkCmdWrite w f v s = t.wr F.FS_BRK_STAT_cmd_refused f 1 := by
  simp only [brkCmdWrite, hw, hstart, hr, Bool.not_true, Bool.false_eq_true, if_false]

theorem brkCmdWrite_accepted (hstart : bit v 30 = false) (hr : brkStart f v s = (false, t)) :
    brkCmdWrite w f v s = t := by
  simp only [brkCmdWrite, hw, hstart, hr, Bool.not_true, Bool.false_eq_true, if_false]

theorem brkCmdWrite_cancel (hcancel : bit v 30 = true) : brkCmdWrite w f v s = brkAbort f 10 s := by
  simp only [brkCmdWrite, hw, hcancel, Bool.not_true, Bool.false_eq_true, if_false, if_true]

theorem exec_brkCancel_granted (h : Granted s w .FS_BRK_CMD f) (hf : fieldOk f = true) :
    exec (.brkCancel w f) s = .next (wrote w .FS_BRK_CMD f (brkAbort f 10 s)) := by
  have hcancel : bit (2 ^ 30) 30 = true := by decide
  change execBrkCancel w f s = _
  rw [execBrkCancel, onUnit_ok hf, regWrite_granted h, brkCmdWrite_cancel hw hcancel]

end

/-! ### Tokens (R190, R191) -/

section
variable {r : TokReq} {l : List TokReq}

theorem exec_tokenGrant_fits {y : Session} (hq : s.tokQ = r :: l) (haon : s.aonOnly = false)
    (hfits : s.rd F.CC_TEST_BUDGET_in_use + r.n ≤ s.rd F.CC_TEST_BUDGET_budget)
    (ht : t = (({ s with tokQ := l } : State).wr F.CC_TEST_BUDGET_in_use 0 (s.rd F.CC_TEST_BUDGET_in_use + r.n)).wr
      F.CC_TEST_BUDGET_waiting 0 l.length)
    (hx : t.sess r.field = some x)
    (hy : y = { x with
      phase := 2
      tokens := r.n
      holdEnd := t.wt + max 1 (t.rd F.FS_BRK_CFG_hold_wait_ms r.field) * ms }) :
    exec .tokenGrant s = .next (holdCheck r.field
      (forAll (holdSet (t.setSess r.field y) r.field x.kind x.cluster) holdReq (t.setSess r.field y))) := by
  change execTokenGrant s = _
  simp only [execTokenGrant, hq, haon, decide_eq_false (Nat.not_lt.mpr hfits), Bool.or_self, Bool.false_eq_true,
    if_false, ← ht, hx, ← hy]

theorem exec_tokenGrant_overBudget (hq : s.tokQ = r :: l)
    (hover : s.rd F.CC_TEST_BUDGET_budget < s.rd F.CC_TEST_BUDGET_in_use + r.n) : exec .tokenGrant s = .next s := by
  change execTokenGrant s = _
  simp only [execTokenGrant, hq, gt_iff_lt, decide_eq_true hover, Bool.or_true, if_true]

theorem exec_tokenReturn_returned (hret : s.tokRet = r :: l) (haon : s.aonOnly = false) :
    exec .tokenReturn s = .next (({ s with tokRet := l } : State).wr F.CC_TEST_BUDGET_in_use 0
      (s.rd F.CC_TEST_BUDGET_in_use - r.n)) := by
  change execTokenReturn s = _
  simp only [execTokenReturn, hret, haon, Bool.false_eq_true, if_false]

end

/-! ### A session that waits too long (R181, R190) -/

section
variable (hf : fieldOk f = true) (hx : s.sess f = some x)
include hf hx

theorem exec_tokenWaitExpire_waiting (hphase : x.phase = 1) :
    exec (.tokenWaitExpire f) s = .next (brkAbort f 9 (s.toWt x.tokEnd)) := by
  change execTokenWaitExpire f s = _
  simp only [execTokenWaitExpire, onUnit_ok hf, hx, if_pos hphase]

theorem exec_holdWaitExpire_session (hphase : x.phase = 2) :
    exec (.holdWaitExpire f) s = .next (brkAbort f 8 (s.toWt x.holdEnd)) := by
  change execHoldWaitExpire f s = _
  simp only [execHoldWaitExpire, onUnit_ok hf, hx, if_pos hphase]

end

/-! ### Maintenance windows (R181) -/

section
variable (hw : notTenant w = true)
include hw

/-- A window that is neither open nor opening is asked for: every core of the field is to be held. -/
theorem maintWrite_open (hopen : bit v 0 = true) (hclose : bit v 1 = false)
    (ht : t = s.wr F.FS_MAINT_win_max_ms f (bits v 16 16)) (hshut : t.rb F.FS_MAINT_is_open f = false)
    (hidle : tfind t.maintHold f = none) (hlive : t.fieldLive f = true)
    (hu : u = { t with
      maintHold := tput 0 t.maintHold f (t.wt + max 1 (t.rd F.FS_BRK_CFG_hold_wait_ms f) * ms) }) :
    maintWrite w f v s = holdCheck f (forAll (holdSet u f 1 0) holdReq u) := by
  simp only [maintWrite, hw, hopen, hclose, ← ht, hshut, hidle, hlive, ← hu, Option.isNone_none, Bool.not_true,
    Bool.not_false, Bool.and_self, Bool.false_eq_true, if_false, if_true]

theorem maintWrite_close (hopen : bit v 0 = false) (hclose : bit v 1 = true) :
    maintWrite w f v s = closeWindow f (s.wr F.FS_MAINT_win_max_ms f (bits v 16 16)) := by
  simp only [maintWrite, hw, hopen, hclose, Bool.not_true, Bool.false_and, Bool.false_eq_true, if_false, if_true]

end

section
variable (h : Granted s w .FS_MAINT f) (hf : fieldOk f = true)
include h hf

theorem exec_maintOpen_granted :
    exec (.maintOpen w f v) s = .next (wrote w .FS_MAINT f (maintWrite w f v s)) := by
  change execMaintOpen w f v s = _
  rw [execMaintOpen, onUnit_ok hf, regWrite_granted h]

theorem exec_maintClose_granted :
    exec (.maintClose w f v) s = .next (wrote w .FS_MAINT f (maintWrite w f v s)) := by
  change execMaintClose w f v s = _
  rw [execMaintClose, onUnit_ok hf, regWrite_granted h]

end

theorem exec_maintWindowExpire_open {d : Nat} (hf : fieldOk f = true) (hd : tfind s.maintEnd f = some d) :
    exec (.maintWindowExpire f) s = .next (closeWindow f (s.toWt d)) := by
  change execMaintWindowExpire f s = _
  simp only [execMaintWindowExpire, onUnit_ok hf, hd]

/-- Settles O14: each clause is one case of a write of FS_BRK_CMD or of FS_MAINT, of the token queues or of a wait. -/
theorem bracketSessions : Obligations.BracketSessions := by
  unfold Obligations.BracketSessions
  refine ⟨?_, ?_, ?_, ?_, ?_, ?_, ?_, ?_, ?_, ?_, ?_⟩
  · intro s w f v h hf hw hstart hopen
    rw [exec_brkCmdStart_granted h hf, brkCmdWrite_refused hw hstart (brkStart_sessionOpen hopen)]
  · intro s w f v m n x h hf hw hstart hnone haon hworks hkind hcl hrec henv hm hn hfits hx
    rw [exec_brkCmdStart_granted h hf, brkCmdWrite_accepted hw hstart
      (brkStart_push hnone haon hworks hkind hcl hrec henv hm hn hfits hx)]
  · intro s w f h hf hw
    exact exec_brkCancel_granted hw h hf
  · intro s t r l x y hq haon hfits ht hx hy
    exact exec_tokenGrant_fits hq haon hfits ht hx hy
  · intro s r l hq hover
    exact exec_tokenGrant_overBudget hq hover
  · intro s f x hf hx hphase
    exact exec_tokenWaitExpire_waiting hf hx hphase
  · intro s r l hret haon
    exact exec_tokenReturn_returned hret haon
  · intro s f x hf hx hphase
    exact exec_holdWaitExpire_session hf hx hphase
  · intro s t u w f v h hf hw hopen hclose ht hshut hidle hlive hu
    rw [exec_maintOpen_granted h hf, maintWrite_open hw hopen hclose ht hshut hidle hlive hu]
  · intro s w f v h hf hw hopen hclose
    rw [exec_maintClose_granted h hf, maintWrite_close hw hopen hclose]
  · intro s f d hf hd
    exact exec_maintWindowExpire_open hf hd

end Sys2Proof.Machine
end

