-- ==== Sys2Proof/Proofs/SuppliesAndCycles.lean ====
section
/-!
PROOF. The AON supply's warning, droops of a core supply, captures of the host cycle count and stale temperatures (R287,
R422, R423, R425, R440). That a stale temperature ends heating with reason 3 is log entry 55 (R183, R189).
-/
namespace Sys2Proof.Machine

variable {s t u : State} {w : Writer} {f k mv ns : Nat} {x : Session}

/-! ### The AON supply (R422, R287) -/

section
variable (ht : t = s.wr F.CC_VDD_STAT_aon_mv 0 mv)
include ht

/-- The warning is given once, at the fall through 0.70 V. -/
theorem exec_vddWarn_notFalling (hno : 700 ≤ mv ∨ t.rb F.CC_VDD_STAT_warn = true) :
    exec (.vddWarn mv) s = .next t := by
  have hstays : (decide (700 ≤ mv) || t.rb F.CC_VDD_STAT_warn) = true := by
    rw [Bool.or_eq_true, decide_eq_true_iff]; exact hno
  change execVddWarn mv s = _
  simp only [execVddWarn, ← ht, hstays, if_true]

theorem exec_vddWarn_falls (hlow : mv < 700) (hnew : t.rb F.CC_VDD_STAT_warn = false)
    (hu : u = (t.wr F.CC_VDD_STAT_warn 0 1).bump F.CC_VDD_STAT_warns) :
    exec (.vddWarn mv) s = .next (saveRecords (forAll (List.range Config.nField) (fun f t => brkEvent f 4 t)
      (raiseCc { code := Code.VDD_WARN, unit := u.ccUnit, params := mv + 2 ^ 16 } u))) := by
  have hset : 2 ^ 16 * b2n true = 2 ^ 16 := rfl
  change execVddWarn mv s = _
  simp only [execVddWarn, vddRecord, ← ht, decide_eq_false (Nat.not_le.mpr hlow), hnew, Bool.or_self,
    Bool.false_eq_true, if_false, ← hu, hset]

theorem exec_vddWarnClear_notRising (hno : mv ≤ 720 ∨ t.rb F.CC_VDD_STAT_warn = false) :
    exec (.vddWarnClear mv) s = .next t := by
  have hstays : (decide (mv ≤ 720) || !t.rb F.CC_VDD_STAT_warn) = true := by
    rw [Bool.or_eq_true, decide_eq_true_iff, Bool.not_eq_true']; exact hno
  change execVddWarnClear mv s = _
  simp only [execVddWarnClear, ← ht, hstays, if_true]

theorem exec_vddWarnClear_rises (hhigh : 720 < mv) (hset : t.rb F.CC_VDD_STAT_warn = true)
    (hu : u = t.wr F.CC_VDD_STAT_warn 0 0) :
    exec (.vddWarnClear mv) s =
      .next (raiseCc { code := Code.VDD_WARN, unit := u.ccUnit, params := mv } u) := by
  have hclear : 2 ^ 16 * b2n false = 0 := rfl
  change execVddWarnClear mv s = _
  simp only [execVddWarnClear, vddRecord, ← ht, decide_eq_false (Nat.not_le.mpr hhigh), hset, Bool.not_true,
    Bool.or_self, Bool.false_eq_true, if_false, ← hu, hclear, Nat.add_zero]

end

/-! ### Droops of a core supply (R423) -/

theorem exec_vddDroop_notSeen (hf : fieldOk f = true)
    (hno : s.rd F.CC_VDD_CFG_droop_mv ≤ mv ∨ s.fieldLive f = false) : exec (.vddDroop f mv ns) s = .next s := by
  have hskip : ∀ least, s.rd F.CC_VDD_CFG_droop_mv = 0 ∨ s.rd F.CC_VDD_CFG_droop_mv ≤ mv ∨ ns < least
      ∨ s.fieldLive f = false := fun _ => hno.elim (.inr ∘ .inl) (.inr ∘ .inr ∘ .inr)
  change execVddDroop f mv ns s = _
  simp only [execVddDroop, onUnit_ok hf, if_pos (hskip _)]

section
variable (hlow : mv < s.rd F.CC_VDD_CFG_droop_mv) (hlong : s.rd F.CC_VDD_CFG_droop_ns ≤ ns) (hleast : 2 ≤ ns)
  (hlive : s.fieldLive f = true)
include hlow hlong hleast hlive

/-- A droop counts from droop_ns on, and from 2 ns where droop_ns is 0. -/
theorem droop_seen : ¬ (s.rd F.CC_VDD_CFG_droop_mv = 0 ∨ s.rd F.CC_VDD_CFG_droop_mv ≤ mv
    ∨ ns < (if s.rd F.CC_VDD_CFG_droop_ns = 0 then 2 else s.rd F.CC_VDD_CFG_droop_ns) ∨ s.fieldLive f = false) := by
  simp only [hlive, Bool.true_eq_false, or_false]
  split <;> omega

variable (hf : fieldOk f = true)
  (ht : t = raiseFs f { code := Code.VDD_DROOP, unit := fsUnit f, params := f + 2 ^ 7 * mv + 2 ^ 23 * sat 16 ns }
    (((s.wr F.FS_VMON_mv f mv).wr F.FS_VMON_last_min f mv).bump F.FS_VMON_droops f))
include hf ht

theorem exec_vddDroop_noSession (hnone : t.sess f = none) : exec (.vddDroop f mv ns) s = .next t := by
  have hseen := droop_seen hlow hlong hleast hlive
  change execVddDroop f mv ns s = _
  simp only [execVddDroop, onUnit_ok hf, if_neg hseen, ← ht, hnone]

theorem exec_vddDroop_voltageStep (hx : t.sess f = some x) (hkind : x.kind = 1) (happlied : x.applied ≠ 0) :
    exec (.vddDroop f mv ns) s = .next (brkAbort f 4 t) := by
  have hseen := droop_seen hlow hlong hleast hlive
  change execVddDroop f mv ns s = _
  simp only [execVddDroop, onUnit_ok hf, if_neg hseen, ← ht, hx, if_pos (And.intro hkind happlied)]

end

/-! ### Host cycles (R425) -/

/-- A capture samples the cycle count and WT of the moment it is made. -/
theorem cycWrite_capture (hright : t.mayWrite w .CT_CYC k = true) :
    cycWrite w k (2 ^ 32) t =
      (t.wr F.CT_CYC_cycles k (t.cycOf k % 2 ^ 32)).setReg .CT_CYC_WT k (t.wt % 2 ^ 64) := by
  have hcapture : bit (2 ^ 32) 32 = true := by decide
  simp only [cycWrite, hcapture, hright, Bool.and_self, if_true]

theorem exec_cycleCapture_granted {cyc : Nat} (h : Granted s w .CT_CYC k) (hk : ctOk k = true) :
    exec (.cycleCapture w k cyc) s = .next (wrote w .CT_CYC k (cycWrite w k (2 ^ 32) (advCyc k cyc s))) := by
  change execCycleCapture w k cyc s = _
  rw [execCycleCapture, onUnit_ok hk, regWrite_granted h]

/-! ### Cluster temperatures (R440) -/

section
variable (hk : ctOk k = true) (ht : t = { s with ctTemp := tput 0x80 s.ctTemp k 0x80 })
include hk ht

theorem exec_tempStale_noSession (hnone : t.sess (ctField k) = none) : exec (.tempStale k) s = .next t := by
  change execTempStale k s = _
  simp only [execTempStale, onUnit_ok hk, ← ht, hnone]

theorem exec_tempStale_heating (hx : t.sess (ctField k) = some x) (hkind : x.kind = 2) (hphase : x.phase = 4)
    (hcluster : x.cluster = k % 64) : exec (.tempStale k) s = .next (brkAbort (ctField k) 3 t) := by
  have hheats : x.kind = 2 ∧ x.phase = 4 ∧ x.cluster = k % 64 := ⟨hkind, hphase, hcluster⟩
  change execTempStale k s = _
  simp only [execTempStale, onUnit_ok hk, ← ht, hx, if_pos hheats]

end

/-- Settles O53: each clause is one case of a supply's reading, of a capture or of a temperature that grows stale. -/
theorem suppliesAndCycles : Obligations.SuppliesAndCycles := by
  unfold Obligations.SuppliesAndCycles
  refine ⟨?_, ?_, ?_, ?_, ?_⟩
  · intro s t u mv ht
    exact ⟨fun hhigh => exec_vddWarn_notFalling ht (.inl hhigh), fun hset => exec_vddWarn_notFalling ht (.inr hset),
      exec_vddWarn_falls ht, fun hlow => exec_vddWarnClear_notRising ht (.inl hlow),
      fun hclear => exec_vddWarnClear_notRising ht (.inr hclear), exec_vddWarnClear_rises ht⟩
  · intro s t f mv ns hf hlow hlong hleast hlive ht
    exact ⟨exec_vddDroop_noSession hlow hlong hleast hlive hf ht,
      fun _ => exec_vddDroop_voltageStep hlow hlong hleast hlive hf ht⟩
  · intro s f mv ns hf hno
    exact exec_vddDroop_notSeen hf hno
  · intro s t w k cyc h hk ht hright
    rw [exec_cycleCapture_granted h hk, ← ht, cycWrite_capture hright]
  · intro s t k hk ht
    exact ⟨exec_tempStale_noSession hk ht, fun _ => exec_tempStale_heating hk ht⟩

end Sys2Proof.Machine
end

