-- ==== Sys2Proof/Proofs/SeqIdle.lean ====
section
/-!
PROOF. A sequencer that sleeps, is halted or has no working unit executes nothing (R213, R235, R261).
-/
namespace Sys2Proof.Machine

theorem seqInstr_notRunning {s : State} {q : Nat} (f : Seq → State → SeqEff) (hidle : s.seqRuns q = false) :
    seqInstr q f s = s := by
  rw [seqInstr, hidle, if_neg Bool.false_ne_true]

/-- Every sequencer instruction is one use of `seqInstr`, with an effect of its own. -/
theorem exec_sequencerInstruction {i : Instr} {q : Nat} (hq : seqOf i = some q) (s : State) :
    ∃ f, exec i s = onUnit (seqOk q) (seqInstr q f s) := by
  cases i with
  | add | sub | andI | orI | xorI | shl | shr | sra | mul | mulhu | slt | sltu | clz | popc
  | addi | andi | ori | xori | shli | shri | srai | slti | sltui | lui
  | lw | lh | lhu | lb | lbu | sw | sh | sb | csrr | csrw
  | beq | bne | blt | bge | bltu | bgeu | jal | jalr | tret
  | wait | sigLocalAdd | sigRemoteAdd | sigLocalSub | waits | send | recv | log
  | timeRead | timeArmRel | timeArmAbs | rdr | wrr
  | strip | proofSetForce | proofSetRekey | proofSetRate
  | fenceConfirm | fenceClear | fenceMakeLatent | fenceReplay
  | resetContext | resetEngine | resetPartition | resetWafer | resetPowerCycle | bracket =>
    cases hq
    exact ⟨_, rfl⟩
  | _ => cases hq

/-- Settles O23: a sequencer instruction is a use of `seqInstr`, which does nothing while its sequencer does not run. -/
theorem seqIdle : Obligations.SeqIdle := by
  unfold Obligations.SeqIdle
  intro s i q hq hok hidle
  obtain ⟨f, hf⟩ := exec_sequencerInstruction hq s
  rw [hf, seqInstr_notRunning f hidle, onUnit_ok hok]

end Sys2Proof.Machine
end

