-- ==== Sys2Proof/Proofs/FenceCommands.lean ====
section
/-!
PROOF. Confirmations and their answers, the owner's fences and removals, the fence port, the resend and the latent
window (R196, R202 to R207, R209).
-/
namespace Sys2Proof.Machine

/-! ### The CC stores a confirmation (R202, R203) -/

section
variable {s t u : State} {unit reason i : Nat}

theorem storeFence_held (known : Bool) (hheld : fenceHeld s unit = some i) :
    storeFence unit reason s known = ((3, i), s) := by
  simp only [storeFence, hheld]

/-- The unit joins the set and its update is queued; an engine's confirmation on its way to the CC has confirmed it
already. -/
theorem storeFence_newEntry (hheld : fenceHeld s unit = none)
    (hlog : logAppend (unit % 2 ^ 24 + 2 ^ 24 * reason) s = (some i, t))
    (hu : u = { t with
      fset := t.fset.filter (fun x => x.unit != unit) ++ [FUnit.mk unit reason i false false]
      fenceQ := t.fenceQ ++ [FUpd.mk unit true reason i false] }) :
    storeFence unit reason s true = ((0, i), fenceSync (if unitKind unit = 0 then u else confirmEffect unit u)) := by
  simp only [storeFence, hheld, hlog, Option.getD_some, Bool.true_or, and_true, ← hu]

end

/-! ### A confirmation arrives and is answered (R204) -/

section
variable {s : State}

/-- What goes with the FSs that an effect stops depends on the states before and after it alone. -/
theorem afterFs_congr {g : State → State} {t : State} (h : g s = t) : afterFs g s = afterFs (fun _ => t) s := by
  rw [afterFs, h, afterFs]

section
variable {m : Confirm} {l : List Confirm} (hq : s.confQ = m :: l) (hon : s.aonOnly = false)
include hq hon

theorem confirmArrive_oldest {t : State} {status i : Nat}
    (hstore : storeFence m.unit m.reason { s with confQ := l } true = ((status, i), t)) :
    confirmArrive s = { t with ansQ := t.ansQ ++ [FAnswer.mk m.src m.unit status i] } := by
  simp only [confirmArrive, hq, hon, hstore, Bool.false_eq_true, if_false]

theorem exec_fenceConfirmArrive {t : State} {status i : Nat}
    (hstore : storeFence m.unit m.reason { s with confQ := l } true = ((status, i), t)) :
    exec .fenceConfirmArrive s =
      .next (afterFs (fun _ => { t with ansQ := t.ansQ ++ [FAnswer.mk m.src m.unit status i] }) s) := by
  change execFenceConfirmArrive s = _
  rw [execFenceConfirmArrive, afterFs_congr (confirmArrive_oldest hq hon hstore)]

end

theorem exec_fenceAnswer_oldest {m : FAnswer} {l : List FAnswer} (hq : s.ansQ = m :: l) (hon : s.aonOnly = false) :
    exec .fenceAnswer s = .next (fenceReturn m.dst m.unit (m.status + 2 ^ 8 * m.idx) { s with ansQ := l }) := by
  change execFenceAnswer s = _
  simp only [execFenceAnswer, hq, hon, Bool.false_eq_true, if_false]

end

/-! ### The owner's fences and removals (R205, R206) -/

section
variable {s : State} {w : Writer} {v : Nat} (hown : s.isOwner w = true)
include hown

/-- Reason field 0 stands for reason 0x0A. -/
theorem fenceCmdWrite_fence (hfence : bit v 32 = false) (hlive : s.scrapped = false) (hreason : bits v 24 8 = 0)
    (hpresent : unitPresent (bits v 0 24) = true) (hallowed : ccFenceRefused s (bits v 0 24) = false) :
    fenceCmdWrite w v s = (storeFence (bits v 0 24) 0x0A s).2 := by
  have hgood : reasonBad 0x0A = false := by decide
  simp only [fenceCmdWrite, hown, hfence, hlive, hreason, hpresent, hallowed, hgood, Bool.not_true, Bool.or_self,
    Bool.false_eq_true, if_false, if_true]

theorem fenceCmdWrite_absentUnit (hfence : bit v 32 = false) (habsent : unitPresent (bits v 0 24) = false) :
    fenceCmdWrite w v s = s.wr F.CC_FENCE_STAT_refused 0 1 := by
  simp only [fenceCmdWrite, hown, hfence, habsent, Bool.not_true, Bool.not_false, Bool.or_true, Bool.true_or,
    Bool.false_eq_true, if_false, if_true]

theorem fenceCmdWrite_removeUnlisted (hremove : bit v 32 = true) (hunlisted : logFind s (bits v 0 24) = none) :
    fenceCmdWrite w v s = s.wr F.CC_FENCE_STAT_refused 0 1 := by
  simp only [fenceCmdWrite, hown, hremove, hunlisted, Bool.not_true, Bool.false_eq_true, if_false, if_true]

theorem fenceCmdWrite_removeListed {t : State} {i j : Nat} (hremove : bit v 32 = true)
    (hlisted : logFind s (bits v 0 24) = some j) (hfactory : s.factory = true)
    (hfuse : s.fuseBad.contains (bits v 0 24) = false) (hlog : logAppend (bits v 0 24 % 2 ^ 24) s = (some i, t)) :
    fenceCmdWrite w v s = fenceSync { t with fenceQ := t.fenceQ ++ [FUpd.mk (bits v 0 24) false 0 i false] } := by
  simp only [fenceCmdWrite, hown, hremove, hlisted, hfactory, hfuse, hlog, Bool.not_true, Bool.or_self,
    Bool.false_eq_true, if_false, if_true]

end

section
variable {s t : State} {w : Writer} {v : Nat} (h : Granted s w .CC_FENCE_CMD 0) (ht : fenceCmdWrite w v s = t)
include h ht

theorem exec_ownerFence_granted :
    exec (.ownerFence w v) s = .next (wrote w .CC_FENCE_CMD 0 (afterFs (fun _ => t) s)) := by
  change execOwnerFence w v s = _
  rw [execOwnerFence, regWrite_granted h, afterFs_congr ht]

/-- A removal is a write of the same register, told apart by bit 32 of the value. -/
theorem exec_fenceRemove_granted :
    exec (.fenceRemove w v) s = .next (wrote w .CC_FENCE_CMD 0 (afterFs (fun _ => t) s)) :=
  exec_ownerFence_granted h ht

end

/-! ### The fence port (R207, R209) -/

section
variable {s : State}

theorem exec_fenceUpdate_free {u : FUpd} {l : List FUpd} (hport : s.fencePort = none) (hq : s.fenceQ = u :: l) :
    exec .fenceUpdate s = .next { s with
      fencePort := some { upd := u, since := s.wt }
      fenceQ := l } := by
  change execFenceUpdate s = _
  simp only [execFenceUpdate, hport, hq]

theorem exec_fenceResync : exec .fenceResync s =
    .next (fenceSync { s with fenceQ := resendList s ++ s.fenceQ.filter (fun u => !u.resend) }) := rfl

variable {p : FPort} (hport : s.fencePort = some p)
include hport

theorem exec_fenceUpdate_driven : exec .fenceUpdate s = .next s := by
  change execFenceUpdate s = _
  simp only [execFenceUpdate, hport]

theorem exec_fenceAck_firstOfUnit {t : State} {x : FUnit} (hset : p.upd.set = true)
    (hfind : s.fset.find? (fun x => x.unit == p.upd.unit) = some x) (hfirst : x.acked = false)
    (ht : t = { s with
      fencePort := none
      fset := s.fset.map (fun y => if y.unit = p.upd.unit then { y with acked := true } else y) }) :
    exec .fenceAck s = .next (setAcked (fenceSync (raiseUnit
      { code := Code.UNIT_FENCED, unit := p.upd.unit, params := p.upd.reason + 2 ^ 8 * p.upd.idx }
      (unitAcked p.upd.unit t)))) := by
  change execFenceAck s = _
  simp only [execFenceAck, fenceAck, hport, hset, hfind, hfirst, Bool.false_eq_true, if_false, if_true, ← ht]

theorem exec_fenceAckTimeout_recorded (hpast : p.timedOut = true) : exec .fenceAckTimeout s = .next s := by
  change execFenceAckTimeout s = _
  simp only [execFenceAckTimeout, hport, hpast, if_true]

variable {t : State} (hnew : p.timedOut = false)
  (ht : t = s.toWt (p.since + max 1 (s.rd F.CC_FIX_POLICY_ack_ms) * ms))
include hnew ht

theorem exec_fenceAckTimeout_firstOfUnit
    (hfirst : (p.upd.set && s.fset.any (fun x => x.unit == p.upd.unit && (x.acked || x.late))) = false) :
    exec .fenceAckTimeout s = .next (raiseCc
      { code := Code.FENCE_ACK_TIMEOUT, unit := p.upd.unit, params := b2n p.upd.set }
      { t with
        fencePort := some { p with timedOut := true }
        fset := s.fset.map (fun x => if x.unit = p.upd.unit then { x with late := true } else x) }) := by
  change execFenceAckTimeout s = _
  simp only [execFenceAckTimeout, hport, hnew, State.toWt_fset, hfirst, Bool.false_eq_true, if_false, ht]

theorem exec_fenceAckTimeout_known
    (hknown : (p.upd.set && s.fset.any (fun x => x.unit == p.upd.unit && (x.acked || x.late))) = true) :
    exec .fenceAckTimeout s = .next { t with fencePort := some { p with timedOut := true } } := by
  change execFenceAckTimeout s = _
  simp only [execFenceAckTimeout, hport, hnew, State.toWt_fset, hknown, Bool.false_eq_true, if_false, if_true, ht]

end

/-! ### The latent window (R196) -/

theorem exec_latentWindow_ends {s t : State} {e k : Nat} {x : Latent} (he : engOk e = true)
    (hat : latentAt s e = some (k, x)) (hconf : x.confirmed = false) (hlive : s.fieldLive (engField e) = true)
    (ht : t = s.toWt (x.window + max 1 (s.rd F.FS_FIX_CFG_latent_s (engField e)) * sec)) :
    exec (.latentWindow e) s =
      .next (notifyFs (engField e) Code.LATENT_WINDOW e 0 (setLatent k { x with window := t.wt } t)) := by
  change execLatentWindow e s = _
  simp only [execLatentWindow, onUnit_ok he, hat, hconf, hlive, Bool.not_true, Bool.or_self, Bool.false_eq_true,
    if_false, ← ht]

/-- Settles O16: each clause is one case of a confirmation's way to the CC, of the owner's command, of the port or of
the latent window. -/
theorem fenceCommands : Obligations.FenceCommands := by
  unfold Obligations.FenceCommands
  refine ⟨?_, ?_, ?_, ?_, ?_, ?_, ?_, ?_, ?_, ?_, ?_, ?_, ?_, ?_⟩
  · rintro s t u v w m l i hq hon rfl hheld hlog hw rfl
    exact exec_fenceConfirmArrive hq hon (storeFence_newEntry hheld hlog hw)
  · intro s m l i hq hon hheld
    exact exec_fenceConfirmArrive hq hon (storeFence_held true hheld)
  · intro s m l hq hon
    exact exec_fenceAnswer_oldest hq hon
  · intro s w v h hown hfence hlive hreason hpresent hallowed
    exact exec_ownerFence_granted h (fenceCmdWrite_fence hown hfence hlive hreason hpresent hallowed)
  · intro s w v h hown hfence habsent
    exact exec_ownerFence_granted h (fenceCmdWrite_absentUnit hown hfence habsent)
  · intro s w v h hown hremove hunlisted
    exact exec_fenceRemove_granted h (fenceCmdWrite_removeUnlisted hown hremove hunlisted)
  · intro s t w v i j h hown hremove hlisted hfactory hfuse hlog
    exact exec_fenceRemove_granted h (fenceCmdWrite_removeListed hown hremove hlisted hfactory hfuse hlog)
  · intro s u l hport hq
    exact exec_fenceUpdate_free hport hq
  · intro s p hport
    exact exec_fenceUpdate_driven hport
  · intro s t p x hport hset hfind hfirst ht
    exact exec_fenceAck_firstOfUnit hport hset hfind hfirst ht
  · intro s p hport hpast
    exact exec_fenceAckTimeout_recorded hport hpast
  · intro s t p hport hnew ht
    exact ⟨exec_fenceAckTimeout_firstOfUnit hport hnew ht, exec_fenceAckTimeout_known hport hnew ht⟩
  · intro s
    exact exec_fenceResync
  · intro s t e k x he hat hconf hlive ht
    exact exec_latentWindow_ends he hat hconf hlive ht

end Sys2Proof.Machine
end

