-- ==== Sys2Proof/Proofs/PackLoading.lean ====
section
/-!
PROOF. The owner's begin, data, commit, abort, swap and revert of a pattern pack, the fields' answers and the floor
(R226 to R229). The wear counted at begin and the refusals of begin and revert are log entry 51; that the write of a
bank may fail is log entry 117.
-/
namespace Sys2Proof.Machine

variable {s t u : State} {w : Writer} {n v : Nat} {l : List Byte}

/-! ### CC_PACK_CMD (R227, R228) -/

section
variable (hown : s.isOwner w = true)
include hown

theorem packCmdWrite_begin (hn : n < 2 ^ 32) : packCmdWrite w (1 + 2 ^ 32 * n) s = epochSync (packBegin n s) := by
  have hop : bits (1 + 2 ^ 32 * n) 0 3 = 1 := by unfold bits; omega
  have hlen : bits (1 + 2 ^ 32 * n) 32 32 = n := by unfold bits; omega
  simp only [packCmdWrite, hown, hop, hlen, Bool.not_true, Bool.false_eq_true, if_false]

theorem packCmdWrite_abort : packCmdWrite w 3 s = epochSync (packAbort s) := by
  have hop : bits 3 0 3 = 3 := by decide
  simp only [packCmdWrite, hown, hop, Bool.not_true, Bool.false_eq_true, if_false]

theorem packCmdWrite_swap : packCmdWrite w 4 s = epochSync (packSwap s) := by
  have hop : bits 4 0 3 = 4 := by decide
  simp only [packCmdWrite, hown, hop, Bool.not_true, Bool.false_eq_true, if_false]

theorem packCmdWrite_revert : packCmdWrite w 5 s = epochSync (packRevert s) := by
  have hop : bits 5 0 3 = 5 := by decide
  simp only [packCmdWrite, hown, hop, Bool.not_true, Bool.false_eq_true, if_false]

variable (h : Granted s w .CC_PACK_CMD 0)
include h

theorem exec_packBegin_owner (hn : n < 2 ^ 32) :
    exec (.packBegin w n) s = .next (wrote w .CC_PACK_CMD 0 (epochSync (packBegin n s))) := by
  change execPackBegin w n s = _
  rw [execPackBegin, regWrite_granted h, packCmdWrite_begin hown hn]

theorem exec_packCommit_owner :
    exec (.packCommit w) s = .next (wrote w .CC_PACK_CMD 0 (epochSync (packCommit s))) := by
  change execPackCommit w s = _
  rw [execPackCommit, regWrite_granted h, if_pos hown]

theorem exec_packAbort_owner :
    exec (.packAbort w) s = .next (wrote w .CC_PACK_CMD 0 (epochSync (packAbort s))) := by
  change execPackAbort w s = _
  rw [execPackAbort, regWrite_granted h, packCmdWrite_abort hown]

theorem exec_packSwap_owner :
    exec (.packSwap w) s = .next (wrote w .CC_PACK_CMD 0 (epochSync (packSwap s))) := by
  change execPackSwap w s = _
  rw [execPackSwap, regWrite_granted h, packCmdWrite_swap hown]

theorem exec_packRevert_owner :
    exec (.packRevert w) s = .next (wrote w .CC_PACK_CMD 0 (epochSync (packRevert s))) := by
  change execPackRevert w s = _
  rw [execPackRevert, regWrite_granted h, packCmdWrite_revert hown]

end

/-! ### Begin and data (R226, R227) -/

section
variable (hlive : s.scrapped = false)
include hlive

theorem packBegin_idleFree (hfree : bankInUse s (idleBank s) = false) (hsw : s.packSw = none)
    (ht : t = { s with
      packRecv := some (n, [])
      bankWear := tput 0 s.bankWear (idleBank s) (tget 0 s.bankWear (idleBank s) + 1) }.setBank (idleBank s) []) :
    packBegin n s =
      ((t.wr F.CC_PACK_STAT_state 0 1).wr F.CC_PACK_STAT_received 0 0).wr F.CC_PACK_VER_staged 0 0 := by
  have hidle : (bankInUse s (idleBank s) || s.packSw.isSome) = false := by rw [hfree, hsw]; rfl
  simp only [packBegin, hlive, hidle, Bool.false_eq_true, if_false, ← ht]

theorem packBegin_idleInUse (huse : bankInUse s (idleBank s) = true) :
    packBegin n s = s.wr F.CC_PACK_STAT_reason 0 12 := by
  simp only [packBegin, hlive, huse, Bool.true_or, Bool.false_eq_true, if_false, if_true]

theorem exec_packData_receiving (h : Granted s w .CC_PACK_DATA 0) (hown : s.isOwner w = true)
    (hrecv : s.packRecv = some (n, l)) (hst : s.rd F.CC_PACK_STAT_state = 1) (hroom : l.length < 4 * 2 ^ 20) :
    exec (.packData w v) s = .next (wrote w .CC_PACK_DATA 0
      (({ s with packRecv := some (n, l ++ leBytes 8 v) } : State).bump F.CC_PACK_STAT_received 0 8)) := by
  have hnow : (s.isOwner w && s.rd F.CC_PACK_STAT_state == 1 && !s.scrapped) = true := by
    rw [hown, hst, hlive]; rfl
  change execPackData w v s = _
  rw [execPackData, regWrite_granted h]
  simp only [packDataWrite, hrecv, if_pos hnow, if_pos hroom]

end

/-! ### Commit (R227) -/

theorem packCommit_receiving (hst : s.rd F.CC_PACK_STAT_state = 1) (ht : t = s.wr F.CC_PACK_STAT_state 0 2)
    (hon : t.aonOnly = false) : packCommit s = packVerify t := by
  simp only [packCommit, hst, ← ht, hon, ne_eq, not_true_eq_false, Bool.false_eq_true, if_false]

section
variable (hrecv : t.packRecv = some (n, l)) (hu : u = { t with packRecv := none })
include hrecv hu

theorem packVerify_scrapped (hscrap : u.scrapped = true) :
    packVerify t = packReject 0 10 false (u.wr F.CC_PACK_STAT_state 0 5) := by
  simp only [packVerify, hrecv, ← hu, hscrap, if_true]

variable (hwhole : u.rd F.CC_PACK_STAT_received = (n + 7) / 8 * 8) (hmax : n ≤ 4 * 2 ^ 20)
  (hlive : u.scrapped = false)
include hwhole hmax hlive

theorem packVerify_checkFails {r : Nat}
    (hcheck : (checkPack (u.rd F.CC_PACK_FLOOR_floor) (l.take n)).res = .error r) :
    packVerify t = packReject (checkPack (u.rd F.CC_PACK_FLOOR_floor) (l.take n)).version r false
      (u.wr F.CC_PACK_STAT_state 0 5) := by
  simp only [packVerify, hrecv, ← hu, hlive, if_pos (And.intro hwhole hmax), hcheck, Bool.false_eq_true, if_false]

/-- A pack that passes every check within the wear limit is staged, unless the write of the bank fails. -/
theorem packVerify_checksPass {p : Pack} {k : State}
    (hcheck : (checkPack (u.rd F.CC_PACK_FLOOR_floor) (l.take n)).res = .ok p)
    (hwear : tget 0 u.bankWear (idleBank t) ≤ 10000) (hk : k = (u.drawFree 1).2) :
    packVerify t = if (u.drawFree 1).1 = 1 then packReject p.version 9 false (k.wr F.CC_PACK_STAT_state 0 5)
      else raiseCc
        { code := Code.PACK_STAGED, unit := k.ccUnit,
          params := p.version + 2 ^ 32 * p.recipes.length
            + 2 ^ 40 * (checkPack (u.rd F.CC_PACK_FLOOR_floor) (l.take n)).kid }
        (((k.setBank (idleBank t) (l.take n)).wr F.CC_PACK_STAT_state 0 3).wr F.CC_PACK_VER_staged 0 p.version) := by
  have hworn : ¬ 10000 < tget 0 k.bankWear (idleBank t) := hk ▸ Nat.not_lt.mpr hwear
  simp only [packVerify, hrecv, ← hu, hlive, if_pos (And.intro hwhole hmax), hcheck, ← hk, hworn, or_false,
    Bool.false_eq_true, if_false]

end

/-! ### Abort, swap and revert (R227, R228) -/

theorem packAbort_staging (hsw : s.packSw = none) (hst : s.rd F.CC_PACK_STAT_state ≠ 0) :
    packAbort s = packEnd s := by
  simp only [packAbort, hsw, beq_false_of_ne hst, Option.isSome_none, Bool.or_self, Bool.false_eq_true, if_false]

theorem packSwap_staged (hst : s.rd F.CC_PACK_STAT_state = 3) :
    packSwap s = packSwitch (idleBank s) (s.rd F.CC_PACK_VER_staged) false s := by
  rw [packSwap, if_neg (fun hne => hne hst)]

theorem packSwap_notStaged (hst : s.rd F.CC_PACK_STAT_state ≠ 3) :
    packSwap s = s.wr F.CC_PACK_STAT_reason 0 11 := by
  rw [packSwap, if_pos hst]

theorem packRevert_checksPass {p : Pack} (hsw : s.packSw = none) (hrecv : s.packRecv = none)
    (hcheck : (checkPack (s.rd F.CC_PACK_FLOOR_floor) (s.bank (idleBank s))).res = .ok p) :
    packRevert s = packSwitch (idleBank s) p.version true s := by
  simp only [packRevert, hsw, hrecv, hcheck, Option.isSome_none, Bool.or_self, Bool.false_eq_true, if_false]

theorem exec_packFieldAnswer_works {f : Nat} {fs : List Nat} {rv : Bool} (hsw : s.packSw = some ⟨f :: fs, rv⟩)
    (hon : s.aonOnly = false) (hworks : s.fsWorks f = true) :
    exec .packFieldAnswer s = .next (epochSync (swAdvance fs rv
      ((loadTable f s.bankAct (s.rd F.CC_PACK_VER_active) s).bump F.CC_PACK_STAT_switched))) := by
  change execPackFieldAnswer s = _
  simp only [execPackFieldAnswer, hsw, hon, hworks, Bool.false_eq_true, if_false, if_true]

/-! ### The floor (R229) -/

section
variable (hv : v < 2 ^ 32)
include hv

theorem packFloorWrite_notLower (hown : s.isOwner w = true) (hle : s.rd F.CC_PACK_FLOOR_floor ≤ v) :
    packFloorWrite w v s = wrPersist F.CC_PACK_FLOOR_floor 0 v s := by
  simp only [packFloorWrite, Nat.mod_eq_of_lt hv, hown, decide_eq_true hle, Bool.true_or, Bool.and_self, if_true]

theorem packFloorWrite_lower (hlt : v < s.rd F.CC_PACK_FLOOR_floor) (hfac : s.factory = false) :
    packFloorWrite w v s = s := by
  simp only [packFloorWrite, Nat.mod_eq_of_lt hv, decide_eq_false (Nat.not_le.mpr hlt), hfac, Bool.or_self,
    Bool.and_false, Bool.false_eq_true, if_false]

end

theorem exec_packFloorWrite_granted (h : Granted s w .CC_PACK_FLOOR 0) :
    exec (.packFloorWrite w v) s = .next (wrote w .CC_PACK_FLOOR 0 (packFloorWrite w v s)) := by
  change execPackFloorWrite w v s = _
  rw [execPackFloorWrite, regWrite_granted h]

/-- Settles O17: each clause is one case of an op of CC_PACK_CMD, of a field's answer or of a write of the floor. -/
theorem packLoading : Obligations.PackLoading := by
  unfold Obligations.PackLoading
  refine ⟨?_, ?_, ?_, ?_, ?_, ?_, ?_, ?_, ?_, ?_, ?_, ?_, ?_⟩
  · intro s t w n h hown hn hlive hfree hsw ht
    rw [exec_packBegin_owner hown h hn, packBegin_idleFree hlive hfree hsw ht]
  · intro s w n h hown hn hlive huse
    rw [exec_packBegin_owner hown h hn, packBegin_idleInUse hlive huse]
  · intro s w v n l h hown hrecv hst hlive hroom
    exact exec_packData_receiving hlive h hown hrecv hst hroom
  · intro s t u k w n l p h hown hst ht hon hrecv hu hwhole hmax hlive hcheck hwear hk
    rw [exec_packCommit_owner hown h, packCommit_receiving hst ht hon,
      packVerify_checksPass hrecv hu hwhole hmax hlive hcheck hwear hk]
  · intro s t u w n l h hown hst ht hon hrecv hu hscrap
    rw [exec_packCommit_owner hown h, packCommit_receiving hst ht hon, packVerify_scrapped hrecv hu hscrap]
  · intro s t u w n r l h hown hst ht hon hrecv hu hwhole hmax hlive hcheck
    rw [exec_packCommit_owner hown h, packCommit_receiving hst ht hon,
      packVerify_checkFails hrecv hu hwhole hmax hlive hcheck]
  · intro s w h hown hsw hst
    rw [exec_packAbort_owner hown h, packAbort_staging hsw hst]
  · intro s w h hown hst
    rw [exec_packSwap_owner hown h, packSwap_staged hst]
  · intro s w h hown hst
    rw [exec_packSwap_owner hown h, packSwap_notStaged hst]
  · intro s w p h hown hsw hrecv hcheck
    rw [exec_packRevert_owner hown h, packRevert_checksPass hsw hrecv hcheck]
  · intro s f l rv hsw hon hworks
    exact exec_packFieldAnswer_works hsw hon hworks
  · intro s w v h hown hv hle
    rw [exec_packFloorWrite_granted h, packFloorWrite_notLower hv hown hle]
  · intro s w v h _ hv hlt hfac
    rw [exec_packFloorWrite_granted h, packFloorWrite_lower hv hlt hfac]

end Sys2Proof.Machine
end

