-- ==== Sys2Proof/Proofs/ListaporExport.lean ====
section
/-!
PROOF. How a Listapor record is exported: the negative a command names, the record that becomes ready and the reads of
its bytes (R220 to R222, R466).
-/
namespace Sys2Proof.Machine

variable {s t : State} {w : Writer} {v : Nat} {n : Neg}

/-! ### The negative a command names (R221, R222) -/

theorem lspNamed_holdsNothing (hnone : tget [] t.negs (bits v 0 7) = []) : lspNamed v t = none := by
  simp only [lspNamed, hnone, List.find?_nil, Option.orElse_none, ite_self]

section
variable (hlive : t.fieldLive (bits v 0 7) = true)
include hlive

theorem lspNamed_summary (hsum : bit v 7 = true) :
    lspNamed v t = (tget [] t.negs (bits v 0 7)).find? (fun n => n.entry == bits v 8 4) := by
  simp only [lspNamed, hlive, hsum, Bool.not_true, Bool.false_eq_true, if_false, if_true]

variable (hslot : bit v 7 = false)
include hslot

theorem lspNamed_kept
    (hkept : (tget [] t.negs (bits v 0 7)).find? (fun n => n.slot == some (bits v 8 4)) = some n) :
    lspNamed v t = some n := by
  simp only [lspNamed, hlive, hslot, hkept, Option.orElse_some, Bool.not_true, Bool.false_eq_true, if_false]

theorem lspNamed_notKept
    (hnone : (tget [] t.negs (bits v 0 7)).find? (fun n => n.slot == some (bits v 8 4)) = none) :
    lspNamed v t = (tget [] t.negs (bits v 0 7)).find? (fun n => n.was == some (bits v 8 4)) := by
  simp only [lspNamed, hlive, hslot, hnone, Option.orElse_none, Bool.not_true, Bool.false_eq_true, if_false]

end

/-! ### CC_LSP_CMD (R221) -/

section
variable (h : Granted s w .CC_LSP_CMD 0) (hown : s.isOwner w = true) (ht : t = lspReset s)
include h hown ht

theorem exec_lspExport_nothing (hnamed : lspNamed v t = none) :
    exec (.lspExport w v) s = .next (wrote w .CC_LSP_CMD 0 (lspSync (t.wr F.CC_LSP_STAT_state 0 3))) := by
  change execLspExport w v s = _
  rw [execLspExport, regWrite_granted h]
  simp only [lspCmdWrite, hown, ← ht, hnamed, Bool.not_true, Bool.false_eq_true, if_false]

theorem exec_lspExport_negative (hnamed : lspNamed v t = some n) :
    exec (.lspExport w v) s = .next (wrote w .CC_LSP_CMD 0 (lspSync (({ t with
      lsp := some ⟨bits v 0 7, bit v 7, bits v 8 4, bit v 12, n, none, false⟩ } : State).wr
      F.CC_LSP_STAT_state 0 1))) := by
  change execLspExport w v s = _
  rw [execLspExport, regWrite_granted h]
  simp only [lspCmdWrite, hown, ← ht, hnamed, Bool.not_true, Bool.false_eq_true, if_false]

end

/-! ### The record becomes ready (R221, R222) -/

section
variable {x : Lsp} {d : List Byte}

theorem exec_lspRecordReady_waiting {g : Bool} (hx : s.lsp = some x) (hdata : x.data = none) (hend : x.ended = false)
    (hlive : s.fieldLive x.field = true)
    (hg : g = (x.payload && !x.summary && x.neg.slot.isSome && !x.neg.sealed)) (hd : d = lspRecord s x g)
    (ht : t = { s with lsp := some { x with data := some d, payload := g } }) :
    exec .lspRecordReady s = .next (lspSync (((t.wr F.CC_LSP_STAT_state 0 2).wr F.CC_LSP_STAT_length 0 d.length).wr
      F.CC_LSP_STAT_no_payload 0 (b2n (x.payload && !g)))) := by
  have hbuilt : (x.data.isSome || x.ended || !s.fieldLive x.field) = false := by rw [hdata, hend, hlive]; rfl
  change execLspRecordReady s = _
  simp only [execLspRecordReady, hx, hbuilt, Bool.false_eq_true, if_false, ← hg, ← hd, ← ht]

/-! ### A read of CC_LSP_DATA (R221, R466) -/

theorem exec_lspDataRead_reached (hreach : s.regReach w .CC_LSP_DATA 0 = true) :
    exec (.lspDataRead w) s = .next (ownerSeen w (lspDataRead w s)) := by
  change execLspDataRead w s = _
  rw [execLspDataRead, if_pos hreach]

variable (hw : notTenant w = true) (ht : t = lspSync (s.wr F.CC_LSP_PTR_offset 0 (s.rd F.CC_LSP_PTR_offset + 8)))
  (hx : s.lsp = some x) (hdata : x.data = some d)
include hw ht hx hdata

theorem lspDataRead_notLast (hpart : d.length ≤ s.rd F.CC_LSP_PTR_offset ∨ s.rd F.CC_LSP_PTR_offset + 8 < d.length) :
    lspDataRead w s = t := by
  have hlast : (decide (s.rd F.CC_LSP_PTR_offset < d.length) && decide (d.length ≤ s.rd F.CC_LSP_PTR_offset + 8))
      = false := by
    rw [← Bool.decide_and]
    exact decide_eq_false (by omega)
  simp only [lspDataRead, hw, hx, hdata, Bool.and_assoc, hlast, ← ht, Bool.and_false, Bool.not_true,
    Bool.false_eq_true, if_false]

theorem lspDataRead_last (hend : x.ended = false) (hin : s.rd F.CC_LSP_PTR_offset < d.length)
    (hcovers : d.length ≤ s.rd F.CC_LSP_PTR_offset + 8) :
    lspDataRead w s = endExport (raiseCc
      { code := Code.NEG_EXPORTED, unit := t.ccUnit,
        params := x.field + 2 ^ 7 * b2n x.summary + 2 ^ 8 * x.index + 2 ^ 12 * b2n x.payload
          + 2 ^ 13 * b2n x.neg.sealed } t) := by
  simp only [lspDataRead, hw, hx, hdata, hend, decide_eq_true hin, decide_eq_true hcovers, ← ht, Bool.not_true,
    Bool.not_false, Bool.and_self, Bool.false_eq_true, if_false, if_true]

end

/-- Settles O18: each clause is one way to name a negative, the record that becomes ready or one case of a read. -/
theorem listaporExport : Obligations.ListaporExport := by
  unfold Obligations.ListaporExport
  refine ⟨?_, ?_, ?_, ?_, ?_, ?_, ?_⟩
  · intro s t w v h hown ht hnone
    exact exec_lspExport_nothing h hown ht (lspNamed_holdsNothing hnone)
  · intro s t w v n h hown ht hlive hslot hkept
    rw [exec_lspExport_negative h hown ht (lspNamed_kept hlive hslot hkept), hslot]
  · intro s t w v n h hown ht hlive hsum hentry
    rw [exec_lspExport_negative h hown ht ((lspNamed_summary hlive hsum).trans hentry), hsum]
  · intro s t w v n h hown ht hlive hslot hnone hwas
    rw [exec_lspExport_negative h hown ht ((lspNamed_notKept hlive hslot hnone).trans hwas), hslot]
  · intro s t x g d hx hdata hend hlive hg hd ht
    exact exec_lspRecordReady_waiting hx hdata hend hlive hg hd ht
  · intro s t w x d hreach hw ht hx hdata hpart
    rw [exec_lspDataRead_reached hreach, lspDataRead_notLast hw ht hx hdata hpart]
  · intro s t w x d hreach hw ht hx hdata hend hin hcovers
    rw [exec_lspDataRead_reached hreach, lspDataRead_last hw ht hx hdata hend hin hcovers]

end Sys2Proof.Machine
end

