-- ==== Sys2Proof/Proofs/SeqWords.lean ====
section
/-!
PROOF. The words of the sequencer instructions: a word and its instruction determine each other (R236, R237, R249,
R255, Tables 10-3 to 10-5).
-/
namespace Sys2Proof
open Sys2Proof.Machine

variable {q w op rd ra rb sub imm off fn : Nat} {i : Instr}

/-! ### What well-formedness says of the operands -/

theorem wf_reg (h : (seqIn q && regIn rd) = true) : rd < 16 :=
  of_decide_eq_true (Bool.and_eq_true_iff.mp h).2

theorem wf_regReg (h : (seqIn q && regIn rd && regIn ra) = true) : rd < 16 ∧ ra < 16 :=
  have ⟨hrd, hra⟩ := Bool.and_eq_true_iff.mp h
  ⟨wf_reg hrd, of_decide_eq_true hra⟩

theorem wf_regRegReg (h : (seqIn q && regIn rd && regIn ra && regIn rb) = true) : rd < 16 ∧ ra < 16 ∧ rb < 16 :=
  have ⟨hregs, hrb⟩ := Bool.and_eq_true_iff.mp h
  have ⟨hrd, hra⟩ := wf_regReg hregs
  ⟨hrd, hra, of_decide_eq_true hrb⟩

theorem wf_regFits (h : (seqIn q && regIn rd && fits w imm) = true) : rd < 16 ∧ imm < 2 ^ w :=
  have ⟨hreg, himm⟩ := Bool.and_eq_true_iff.mp h
  ⟨wf_reg hreg, of_decide_eq_true himm⟩

theorem wf_regRegFits (h : (seqIn q && regIn rd && regIn ra && fits w imm) = true) :
    rd < 16 ∧ ra < 16 ∧ imm < 2 ^ w :=
  have ⟨hregs, himm⟩ := Bool.and_eq_true_iff.mp h
  have ⟨hrd, hra⟩ := wf_regReg hregs
  ⟨hrd, hra, of_decide_eq_true himm⟩

theorem wf_regRegRegFits (h : (seqIn q && regIn rd && regIn ra && regIn rb && fits w fn) = true) :
    rd < 16 ∧ ra < 16 ∧ rb < 16 ∧ fn < 2 ^ w :=
  have ⟨hregs, hfn⟩ := Bool.and_eq_true_iff.mp h
  have ⟨hrd, hra, hrb⟩ := wf_regRegReg hregs
  ⟨hrd, hra, hrb, of_decide_eq_true hfn⟩

/-! ### Which part of the decoder reads an encoded word -/

theorem encR_fields (hop : op < 64) (hrd : rd < 16) (hra : ra < 16) (hrb : rb < 16) (hfn : fn < 2 ^ 14) :
    fOp (encR op rd ra rb fn) = op ∧ fRd (encR op rd ra rb fn) = rd ∧ fRa (encR op rd ra rb fn) = ra
      ∧ fRb (encR op rd ra rb fn) = rb ∧ fFunc (encR op rd ra rb fn) = fn :=
  ⟨encR_op hop hrd hra hrb hfn, encR_rd hrd hra hrb hfn, encR_ra hra hrb hfn, encR_rb hrb hfn, encR_func hfn⟩

theorem encI_fields (hop : op < 64) (hrd : rd < 16) (hra : ra < 16) (hsub : sub < 4) (himm : imm < 2 ^ 16) :
    fOp (encI op rd ra sub imm) = op ∧ fRd (encI op rd ra sub imm) = rd ∧ fRa (encI op rd ra sub imm) = ra
      ∧ fSub (encI op rd ra sub imm) = sub ∧ fImm (encI op rd ra sub imm) = imm :=
  ⟨encI_op hop hrd hra hsub himm, encI_rd hrd hra hsub himm, encI_ra hra hsub himm, encI_sub hsub himm, encI_imm himm⟩

section
variable (hrd : rd < 16) (hra : ra < 16) (hrb : rb < 16)
include hrd hra hrb

theorem decodeSeq_encR_alu (hfn : fn < 2 ^ 14) :
    decodeSeq q (encR 0 rd ra rb fn) = decodeAlu q rd ra rb fn := by
  simp [decodeSeq, encR_fields (op := 0) (by decide) hrd hra hrb hfn]

theorem decodeSeq_encR_wait : decodeSeq q (encR 0x30 rd ra rb 0) = some (.wait q rd ra rb) := by
  simp [decodeSeq, encR_fields (op := 0x30) (fn := 0) (by decide) hrd hra hrb (by decide)]

theorem decodeSeq_encR_waits (hfn : fn < 16) : decodeSeq q (encR 0x32 rd ra rb fn) = some (.waits q rd ra rb fn) := by
  simp [decodeSeq, encR_fields (op := 0x32) (by decide) hrd hra hrb (Nat.lt_trans hfn (by decide)), hfn]

theorem decodeSeq_encR_send (hfn : fn < 2 ^ 14) : decodeSeq q (encR 0x33 rd ra rb fn) = some (.send q rd ra rb fn) := by
  simp [decodeSeq, encR_fields (op := 0x33) (by decide) hrd hra hrb hfn]

/-- The opcodes that read the whole word by their function: reliability instructions and TIME. -/
theorem decodeSeq_encR_rel (hop : op = 0x38 ∨ op = 0x39 ∨ op = 0x3A ∨ op = 0x3B ∨ op = 0x3D ∨ op = 0x3E)
    (hfn : fn < 2 ^ 14) : decodeSeq q (encR op rd ra rb fn) = decodeRel q op rd ra rb fn := by
  have hfields := encR_fields (op := op) (by omega) hrd hra hrb hfn
  rcases hop with rfl | rfl | rfl | rfl | rfl | rfl <;> simp [decodeSeq, hfields]

end

theorem decodeSeq_encR_recv (hrd : rd < 16) (hrb : rb < 16) :
    decodeSeq q (encR 0x34 rd 0 rb 0) = some (.recv q rd rb) := by
  simp [decodeSeq, encR_fields (op := 0x34) (ra := 0) (fn := 0) (by decide) hrd (by decide) hrb (by decide)]

theorem decodeSeq_encR_tret : decodeSeq q (encR 0x28 0 0 0 0) = some (.tret q) := rfl

section
variable (hrd : rd < 16) (hra : ra < 16) (himm : imm < 2 ^ 16)
include hrd hra himm

theorem decodeSeq_encI_imm (hlow : 1 ≤ op) (hhigh : op ≤ 0x0A) :
    decodeSeq q (encI op rd ra 0 imm) = decodeImm q op rd ra imm := by
  have hop : op ≠ 0 := by omega
  simp [decodeSeq, encI_fields (op := op) (sub := 0) (by omega) hrd hra (by decide) himm, hop, hhigh]

theorem decodeSeq_encI_mem (hop : (0x10 ≤ op ∧ op ≤ 0x1B) ∨ op = 0x27 ∨ op = 0x3C) :
    decodeSeq q (encI op rd ra 0 imm) = decodeMem q op rd ra imm := by
  have hne : op ≠ 0 := by omega
  have hhigh : ¬ op ≤ 0x0A := by omega
  simp [decodeSeq, encI_fields (op := op) (sub := 0) (by omega) hrd hra (by decide) himm, hne, hhigh, hop]

theorem decodeSeq_encI_branch (hlow : 0x20 ≤ op) (hhigh : op ≤ 0x25) :
    decodeSeq q (encI op rd ra 0 imm) = decodeBranch q op rd ra imm := by
  have hne : op ≠ 0 := by omega
  have himmOp : ¬ op ≤ 0x0A := by omega
  have hmemOp : ¬ ((0x10 ≤ op ∧ op ≤ 0x1B) ∨ op = 0x27 ∨ op = 0x3C) := by omega
  simp [decodeSeq, encI_fields (op := op) (sub := 0) (by omega) hrd hra (by decide) himm, hne, himmOp, hmemOp, hlow,
    hhigh]

theorem decodeSeq_encI_sig (hsub : sub < 4) : decodeSeq q (encI 0x31 rd ra sub imm) = decodeSig q rd ra sub imm := by
  simp [decodeSeq, encI_fields (op := 0x31) (by decide) hrd hra hsub himm]

end

theorem decodeSeq_encJ_jal (hrd : rd < 16) (hoff : off < 2 ^ 22) :
    decodeSeq q (encJ 0x26 rd off) = some (.jal q rd off) := by
  simp [decodeSeq, encJ_op hrd hoff (by decide : 0x26 < 64), encJ_rd hrd hoff, encJ_off hoff]

/-- Settles O30: by the format of the instruction, whose word is decoded by one part of the decoder. -/
theorem seqDecodeEncode : Obligations.SeqDecodeEncode := by
  unfold Obligations.SeqDecodeEncode
  intro i q hwf hq
  cases i with
  | add | sub | andI | orI | xorI | shl | shr | sra | mul | mulhu | slt | sltu | clz | popc =>
    cases hq
    obtain ⟨hrd, hra, hrb⟩ := wf_regRegReg hwf
    exact ⟨_, rfl, encR_lt (by decide) hrd hra hrb (by decide), decodeSeq_encR_alu hrd hra hrb (by decide)⟩
  | addi | andi | ori | xori | shli | shri | srai | slti | sltui =>
    cases hq
    obtain ⟨hrd, hra, himm⟩ := wf_regRegFits hwf
    exact ⟨_, rfl, encI_lt (by decide) hrd hra (by decide) himm,
      decodeSeq_encI_imm hrd hra himm (by decide) (by decide)⟩
  | lui =>
    cases hq
    obtain ⟨hrd, himm⟩ := wf_regFits hwf
    exact ⟨_, rfl, encI_lt (by decide) hrd (by decide) (by decide) himm,
      decodeSeq_encI_imm hrd (by decide) himm (by decide) (by decide)⟩
  | lw | lh | lhu | lb | lbu | sw | sh | sb | rdr | wrr | jalr | log =>
    cases hq
    obtain ⟨hrd, hra, himm⟩ := wf_regRegFits hwf
    exact ⟨_, rfl, encI_lt (by decide) hrd hra (by decide) himm, decodeSeq_encI_mem hrd hra himm (by decide)⟩
  | csrr =>
    cases hq
    obtain ⟨hrd, hn⟩ := wf_regFits hwf
    exact ⟨_, rfl, encI_lt (by decide) hrd (by decide) (by decide) hn,
      decodeSeq_encI_mem hrd (by decide) hn (by decide)⟩
  | csrw =>
    cases hq
    obtain ⟨hra, hn⟩ := wf_regFits hwf
    exact ⟨_, rfl, encI_lt (by decide) (by decide) hra (by decide) hn,
      decodeSeq_encI_mem (by decide) hra hn (by decide)⟩
  | beq | bne | blt | bge | bltu | bgeu =>
    cases hq
    obtain ⟨hra, hrb, hoff⟩ := wf_regRegFits hwf
    exact ⟨_, rfl, encI_lt (by decide) hra hrb (by decide) hoff,
      decodeSeq_encI_branch hra hrb hoff (by decide) (by decide)⟩
  | jal =>
    cases hq
    obtain ⟨hrd, hoff⟩ := wf_regFits hwf
    exact ⟨_, rfl, encJ_lt hrd hoff (by decide), decodeSeq_encJ_jal hrd hoff⟩
  | tret =>
    cases hq
    exact ⟨_, rfl, by decide, decodeSeq_encR_tret⟩
  | wait =>
    cases hq
    obtain ⟨hrd, hra, hrb⟩ := wf_regRegReg hwf
    exact ⟨_, rfl, encR_lt (by decide) hrd hra hrb (by decide), decodeSeq_encR_wait hrd hra hrb⟩
  | sigLocalAdd | sigLocalSub =>
    cases hq
    obtain ⟨hra, himm⟩ := wf_regFits hwf
    exact ⟨_, rfl, encI_lt (by decide) (by decide) hra (by decide) himm,
      decodeSeq_encI_sig (by decide) hra himm (by decide)⟩
  | sigRemoteAdd =>
    cases hq
    obtain ⟨hrt, hra, himm⟩ := wf_regRegFits hwf
    exact ⟨_, rfl, encI_lt (by decide) hrt hra (by decide) himm, decodeSeq_encI_sig hrt hra himm (by decide)⟩
  | waits =>
    cases hq
    obtain ⟨hrd, hra, hrb, hn⟩ := wf_regRegRegFits hwf
    exact ⟨_, rfl, encR_lt (by decide) hrd hra hrb (Nat.lt_trans hn (by decide)), decodeSeq_encR_waits hrd hra hrb hn⟩
  | send q rd ra rb fn =>
    cases hq
    obtain ⟨hrd, hra, hrb, -⟩ := wf_regRegRegFits hwf
    have hfn : fn % 2 ^ 14 < 2 ^ 14 := Nat.mod_lt _ (by decide)
    exact ⟨_, rfl, encR_lt (by decide) hrd hra hrb hfn, decodeSeq_encR_send hrd hra hrb hfn⟩
  | recv =>
    cases hq
    obtain ⟨hrd, hrb⟩ := wf_regReg hwf
    exact ⟨_, rfl, encR_lt (by decide) hrd (by decide) hrb (by decide), decodeSeq_encR_recv hrd hrb⟩
  | strip | proofSetForce | proofSetRate | fenceConfirm | fenceMakeLatent
  | resetContext | resetEngine | resetPartition | resetWafer | resetPowerCycle =>
    cases hq
    obtain ⟨hrd, hra, hrb⟩ := wf_regRegReg hwf
    exact ⟨_, rfl, encR_lt (by decide) hrd hra hrb (by decide),
      decodeSeq_encR_rel hrd hra hrb (by decide) (by decide)⟩
  | fenceClear | fenceReplay | bracket =>
    cases hq
    obtain ⟨hrd, hra⟩ := wf_regReg hwf
    exact ⟨_, rfl, encR_lt (by decide) hrd hra (by decide) (by decide),
      decodeSeq_encR_rel hrd hra (by decide) (by decide) (by decide)⟩
  | proofSetRekey | timeRead =>
    cases hq
    have hrd := wf_reg hwf
    exact ⟨_, rfl, encR_lt (by decide) hrd (by decide) (by decide) (by decide),
      decodeSeq_encR_rel hrd (by decide) (by decide) (by decide) (by decide)⟩
  | timeArmRel | timeArmAbs =>
    cases hq
    have hra := wf_reg hwf
    exact ⟨_, rfl, encR_lt (by decide) (by decide) hra (by decide) (by decide),
      decodeSeq_encR_rel (by decide) hra (by decide) (by decide) (by decide)⟩
  | _ => cases hq

/-! ### What a decoded instruction says of its word -/

section
variable (hw : w < 2 ^ 32) (hop : fOp w = op) (hrd : fRd w = rd)
include hw hop hrd

/-- The fields of a format are the whole of a word. -/
theorem encR_ofFields (hra : fRa w = ra) (hrb : fRb w = rb) (hfn : fFunc w = fn) : encR op rd ra rb fn = w := by
  subst hop hrd hra hrb hfn
  simp only [encR, fOp, fRd, fRa, fRb, fFunc, bits]; omega

theorem encI_ofFields (hra : fRa w = ra) (hsub : fSub w = sub) (himm : fImm w = imm) : encI op rd ra sub imm = w := by
  subst hop hrd hra hsub himm
  simp only [encI, fOp, fRd, fRa, fSub, fImm, bits]; omega

theorem encJ_ofFields (hoff : fOff22 w = off) : encJ op rd off = w := by
  subst hop hrd hoff
  simp only [encJ, fOp, fRd, fOff22, bits]; omega

end

/-- Without bits below its opcode a word is its opcode. -/
theorem encR_ofOpcode (hop : fOp w = op) (hw : w < 2 ^ 32) (hlow : bits w 0 26 = 0) : encR op 0 0 0 0 = w := by
  subst hop
  simp only [bits] at hlow
  simp only [encR, fOp, bits]; omega

/-- `w` is the word of `i`, which runs on sequencer `q`. -/
def IsWordOf (q w : Nat) (i : Instr) : Prop := encodeSeq i = some w ∧ seqOf i = some q

/-- An arm of the decoder that gives an instruction is the arm of its condition. -/
theorem of_ite_some {c P : Prop} [Decidable c] {x y : Option Instr} (hthen : c → x = some i → P)
    (helse : y = some i → P) (h : (if c then x else y) = some i) : P := by
  by_cases hc : c
  · exact hthen hc (by rwa [if_pos hc] at h)
  · exact helse (by rwa [if_neg hc] at h)

/-- A condition of two parts, one part at a time. -/
theorem ite_and_nested {c d : Prop} [Decidable c] [Decidable d] (x y : Option Instr) :
    (if c ∧ d then x else y) = if c then if d then x else y else y := by
  by_cases hc : c
  · simp only [hc, true_and, if_true]
  · simp only [hc, false_and, if_false]

theorem of_decodeAlu (h : decodeAlu q rd ra rb fn = some i) : IsWordOf q (encR 0 rd ra rb fn) i := by
  unfold decodeAlu at h
  split at h <;> cases h <;> exact ⟨rfl, rfl⟩

theorem of_decodeImm : decodeImm q op rd ra imm = some i → IsWordOf q (encI op rd ra 0 imm) i := by
  unfold decodeImm
  repeat' refine of_ite_some (fun _ => ?_) ?_
  all_goals rintro ⟨⟩
  all_goals subst_vars; exact ⟨rfl, rfl⟩

theorem of_decodeMem : decodeMem q op rd ra imm = some i → IsWordOf q (encI op rd ra 0 imm) i := by
  unfold decodeMem
  repeat' refine of_ite_some (fun _ => ?_) ?_
  all_goals rintro ⟨⟩
  all_goals subst_vars; exact ⟨rfl, rfl⟩

theorem of_decodeBranch : decodeBranch q op ra rb off = some i → IsWordOf q (encI op ra rb 0 off) i := by
  unfold decodeBranch
  repeat' refine of_ite_some (fun _ => ?_) ?_
  all_goals rintro ⟨⟩
  all_goals subst_vars; exact ⟨rfl, rfl⟩

theorem of_decodeSig : decodeSig q rd ra sub imm = some i → IsWordOf q (encI 0x31 rd ra sub imm) i := by
  unfold decodeSig
  repeat' refine of_ite_some (fun _ => ?_) ?_
  all_goals rintro ⟨⟩
  all_goals subst_vars; exact ⟨rfl, rfl⟩

theorem of_decodeRel : decodeRel q op rd ra rb fn = some i → IsWordOf q (encR op rd ra rb fn) i := by
  simp only [decodeRel, ite_and_nested, ne_eq, ite_not]
  repeat' refine of_ite_some (fun _ => ?_) ?_
  all_goals rintro ⟨⟩
  all_goals subst_vars; exact ⟨rfl, rfl⟩

/-- Settles O31: by the opcode of the word, whose fields the instruction keeps. -/
theorem seqEncodeDecode : Obligations.SeqEncodeDecode := by
  unfold Obligations.SeqEncodeDecode
  intro q w i hw
  change _ → IsWordOf q w i
  refine of_ite_some (fun hop h => ?alu) <| of_ite_some (fun _ => of_ite_some (fun hsub h => ?imm) nofun) <|
    of_ite_some (fun _ => of_ite_some (fun hsub h => ?mem) nofun) <|
    of_ite_some (fun _ => of_ite_some (fun hsub h => ?branch) nofun) <| of_ite_some (fun hop h => ?jal) <|
    of_ite_some (fun hop => of_ite_some (fun hlow h => ?tret) nofun) <|
    of_ite_some (fun hop => of_ite_some (fun hfn h => ?wait) nofun) <| of_ite_some (fun hop h => ?sig) <|
    of_ite_some (fun hop => of_ite_some (fun _ h => ?waits) nofun) <| of_ite_some (fun hop h => ?send) <|
    of_ite_some (fun hop => of_ite_some (fun hzero h => ?recv) nofun) fun h => ?rel
  case alu => exact encR_ofFields hw hop rfl rfl rfl rfl ▸ of_decodeAlu h
  case imm => exact encI_ofFields hw rfl rfl rfl hsub rfl ▸ of_decodeImm h
  case mem => exact encI_ofFields hw rfl rfl rfl hsub rfl ▸ of_decodeMem h
  case branch => exact encI_ofFields hw rfl rfl rfl hsub rfl ▸ of_decodeBranch h
  case jal => cases h; exact ⟨congrArg some (encJ_ofFields hw hop rfl rfl), rfl⟩
  case tret => cases h; exact ⟨congrArg some (encR_ofOpcode hop hw hlow), rfl⟩
  case wait => cases h; exact ⟨congrArg some (encR_ofFields hw hop rfl rfl rfl hfn), rfl⟩
  case sig => exact encI_ofFields hw hop rfl rfl rfl rfl ▸ of_decodeSig h
  case waits => cases h; exact ⟨congrArg some (encR_ofFields hw hop rfl rfl rfl rfl), rfl⟩
  case send =>
    cases h
    have hfn : fFunc w = fFunc w % 2 ^ 14 := by simp only [fFunc, bits, Nat.mod_mod]
    exact ⟨congrArg some (encR_ofFields hw hop rfl rfl rfl hfn), rfl⟩
  case recv =>
    obtain ⟨hra, hfn⟩ := hzero
    cases h
    exact ⟨congrArg some (encR_ofFields hw hop rfl hra rfl hfn), rfl⟩
  case rel => exact encR_ofFields hw rfl rfl rfl rfl rfl ▸ of_decodeRel h

/-- Settles O29: the decoder evaluates each word, written out field by field. -/
theorem seqDecodeWords : Obligations.SeqDecodeWords := by
  unfold Obligations.SeqDecodeWords
  exact ⟨rfl, rfl, rfl, rfl, rfl, rfl, rfl, rfl, rfl, rfl, rfl, rfl, rfl⟩

end Sys2Proof
end

