-- ==== Sys2Proof/Proofs/SeqNotified.lean ====
section
/-!
PROOF. What is read of a sequencer after a write of one, and that a record or a pin changes no more of a sequencer than
its notifications and its event bits (R244, R246, R270).
-/
namespace Sys2Proof.Machine

/-! ### Reads of a sequencer after a write of one -/

section
variable {s t : State} {p q : Nat} {x : Seq}

/-- A value that the table lists is read back whatever the table's form. -/
theorem seq_setSeq_same (hx : x ≠ {}) : (s.setSeq q x).seq q = x := by
  rw [State.seq, State.setSeq_seqs, tget, tput, if_neg hx, tfind_tins_same, Option.getD_some]

theorem seq_setSeq_other (x : Seq) (hp : p ≠ q) : (s.setSeq q x).seq p = s.seq p :=
  tget_tput_other ({} : Seq) s.seqs x hp

theorem seq_setSeq_executed (hx : x.icount ≠ 0) : (s.setSeq q x).seq q = x :=
  seq_setSeq_same (mt (congrArg Seq.icount) hx)

theorem seq_setSeq_inHandler (hx : x.inTrap = true) : (s.setSeq q x).seq q = x :=
  seq_setSeq_same fun h => Bool.false_ne_true ((congrArg Seq.inTrap h).symm.trans hx)

theorem seq_setSeq_halted (hx : x.mode = .halted) : (s.setSeq q x).seq q = x :=
  seq_setSeq_same fun h => by rw [h] at hx; cases hx

theorem seq_now (s : State) (q : Nat) : (now s q).seq q = nowSeq s q :=
  seq_setSeq_executed (Nat.succ_ne_zero _)

end

/-! ### What a notification leaves of a sequencer -/

/-- A sequencer without what a notification changes: its queue of notifications and its event bits (R246). -/
def Seq.unnotified (x : Seq) : Seq := { x with notes := [], edges := 0 }

/-- From `s` to `t` a sequencer that executes an instruction has changed only by notifications. -/
def OnlyNotified (s t : State) : Prop := ∀ q, (s.seq q).icount ≠ 0 → (t.seq q).unnotified = (s.seq q).unnotified

section
variable {s t u : State}

theorem OnlyNotified.of_seqs (h : t.seqs = s.seqs) : OnlyNotified s t := fun q _ => by
  rw [State.seq, State.seq, h]

theorem OnlyNotified.trans (hst : OnlyNotified s t) (htu : OnlyNotified t u) : OnlyNotified s u := fun q hq => by
  have hcount : (t.seq q).icount = (s.seq q).icount := (congrArg Seq.icount (hst q hq) :)
  rw [htu q (hcount ▸ hq), hst q hq]

theorem OnlyNotified.setSeq {q : Nat} {x : Seq} (hx : x.unnotified = (s.seq q).unnotified) :
    OnlyNotified s (s.setSeq q x) := fun p hp => by
  by_cases hpq : p = q
  · subst hpq
    have hcount : x.icount = (s.seq p).icount := (congrArg Seq.icount hx :)
    rw [seq_setSeq_executed (hcount ▸ hp), hx]
  · rw [seq_setSeq_other x hpq]

end

section
variable (s : State) (q r : Nat)

@[simp] theorem State.setPin_seqs (f i : Nat) (p : Pin) : (s.setPin f i p).seqs = s.seqs := rfl
@[simp] theorem State.bump_seqs (f : Fld) (i n : Nat) : (s.bump f i n).seqs = s.seqs := State.wr_seqs s f i _

theorem seqEdge_onlyNotified (b : Nat) : OnlyNotified s (seqEdge q b s) := .setSeq rfl

theorem postOne_onlyNotified (n : Note) : OnlyNotified s (postOne q n s) := by
  unfold postOne
  dsimp only
  split
  · split
    · exact .setSeq rfl
    · refine (seqEdge_onlyNotified s q 1).trans (.of_seqs ?_)
      split
      · rw [State.bump_seqs]
      · split
        · rw [State.bump_seqs]
        · rfl
  · exact .of_seqs rfl

theorem notifyAt_onlyNotified (wt code unit params : Nat) : OnlyNotified s (notifyAt wt q code unit params s) := by
  unfold notifyAt
  dsimp only
  split
  · exact (postOne_onlyNotified s q _).trans (postOne_onlyNotified _ sbSeq _)
  · exact postOne_onlyNotified s q _

/-! ### Recorders hold no sequencer -/

theorem recCount_seqs (ff cf : Fld) (n : Nat) : (recCount r ff cf n s).seqs = s.seqs := by
  unfold recCount
  split
  · rw [State.bump_seqs]
  · split
    · rw [State.bump_seqs]
    · rfl

theorem recStore_seqs (seq : Nat) (x : Rec) : (recStore r seq x s).seqs = s.seqs := by
  rw [recStore]
  by_cases hfs : r < 128
  · rw [if_pos hfs, State.wr_seqs, State.setRcdr_seqs]
  · rw [if_neg hfs]
    split
    · rw [State.wr_seqs, State.setRcdr_seqs]
    · rw [State.setRcdr_seqs]

theorem recFreezeRule_seqs (seq : Nat) (x : Rec) : (recFreezeRule r seq x s).seqs = s.seqs := by
  unfold recFreezeRule
  dsimp only
  split
  · split
    · split
      · rfl
      · rw [recCount_seqs, State.setRcdr_seqs]
    · rw [recCount_seqs, State.setRcdr_seqs]
  · rw [recStore_seqs]

theorem recNumber_seqs (x : Rec) : (recNumber r x s).seqs = s.seqs := by
  unfold recNumber
  dsimp only
  rw [recFreezeRule_seqs]
  split
  · split
    · rw [State.bump_seqs, State.setRcdr_seqs]
    · rfl
  · rfl

theorem recBucket_seqs (code : Nat) : (recBucket r code s).2.seqs = s.seqs := by
  unfold recBucket
  dsimp only
  split
  · rfl
  · split
    · rw [recCount_seqs, State.setRcdr_seqs]
    · rfl

theorem standbyCopy_seqs (x : Rec) : (standbyCopy x s).seqs = s.seqs := by
  unfold standbyCopy
  dsimp only
  split
  · rw [recStore_seqs, State.setRcdr_seqs]
  · rfl

end

/-! ### Records and pins only notify -/

section
variable (s : State) (q f i : Nat)

theorem raiseFs_onlyNotified (e : Ev) : OnlyNotified s (raiseFs f e s) := by
  unfold raiseFs
  split
  · have hseqs := recBucket_seqs (notify f e.code e.unit e.params s) f e.code
    refine (notifyAt_onlyNotified s f (wtRead s) e.code e.unit e.params).trans (.of_seqs ?_)
    split
    · rename_i hb; rw [hb] at hseqs; exact hseqs
    · rename_i hb; rw [hb] at hseqs; rw [recNumber_seqs]; exact hseqs
  · exact .of_seqs rfl

theorem ccStore_onlyNotified (x : Rec) : OnlyNotified s (ccStore x s) := by
  have hseqs := recBucket_seqs (notifyAt x.wt ccSeq x.code x.unit x.params s) ccRec x.code
  unfold ccStore
  refine (notifyAt_onlyNotified s ccSeq x.wt x.code x.unit x.params).trans (.of_seqs ?_)
  split
  · rename_i hb; rw [hb] at hseqs; exact hseqs
  · rename_i hb; rw [hb] at hseqs; rw [standbyCopy_seqs, recNumber_seqs]; exact hseqs

theorem raiseCc_onlyNotified (e : Ev) : OnlyNotified s (raiseCc e s) := by
  unfold raiseCc
  split
  · exact .of_seqs rfl
  · split
    · split
      · exact .of_seqs rfl
      · exact .of_seqs (State.bump_seqs _ _ _ _)
    · exact ccStore_onlyNotified s _

theorem seqRaise_onlyNotified (e : Ev) : OnlyNotified s (seqRaise q e s) := by
  unfold seqRaise
  split
  · exact raiseFs_onlyNotified s q e
  · exact raiseCc_onlyNotified s e

theorem setGlobal_seqs (v : Nat) : (setGlobal f v s).seqs = s.seqs := by
  unfold setGlobal
  split <;> rw [State.setReg_seqs]

theorem ccHandling_seqs : (ccHandling s).seqs = s.seqs := by
  unfold ccHandling
  split
  · rw [State.wr_seqs, State.bump_seqs]
  · exact State.wr_seqs s F.CC_FAULT_CTL_open 0 1

theorem fswSync_seqs : (fswSync f s).seqs = s.seqs := by
  unfold fswSync
  dsimp only
  rw [State.wr_seqs, State.wr_seqs, State.wr_seqs, State.wr_seqs, State.wr_seqs]

/-- A handling that opens at an FS reaches the CC without touching a sequencer. -/
theorem handlingOpened_seqs : (ccHandling (setGlobal f 1 s)).seqs = s.seqs := by
  rw [ccHandling_seqs, setGlobal_seqs]

theorem fsHandling_onlyNotified : OnlyNotified s (fsHandling f i s) := by
  unfold fsHandling
  dsimp only
  split
  · exact .of_seqs (by rw [State.wr_seqs, State.bump_seqs, fswSync_seqs])
  · have hopen : OnlyNotified s ((fswSync f s).wr F.FS_FSW_open f 1) :=
      .of_seqs (by rw [State.wr_seqs, fswSync_seqs])
    exact hopen.trans (.trans (raiseFs_onlyNotified _ f _) (.of_seqs (handlingOpened_seqs _ f)))

theorem fsPinLatch_onlyNotified (edge held : Bool) : OnlyNotified s (fsPinLatch f i edge held s) := by
  unfold fsPinLatch
  dsimp only
  split
  · exact .of_seqs rfl
  · split
    · exact .of_seqs (by rw [fswSync_seqs, State.setPin_seqs])
    · exact .trans (.of_seqs (State.setPin_seqs s f i _)) (fsHandling_onlyNotified _ f i)

theorem ccPinLatch_onlyNotified (edge held : Bool) : OnlyNotified s (ccPinLatch i edge held s) := by
  unfold ccPinLatch
  dsimp only
  split
  · exact .of_seqs (by rw [State.wr_seqs, State.setPin_seqs])
  · split
    · exact .of_seqs (by rw [ccHandling_seqs, State.wr_seqs, State.setPin_seqs])
    · refine .trans (.of_seqs ?_) ((raiseCc_onlyNotified _ _).trans (.of_seqs (ccHandling_seqs _)))
      rw [State.wr_seqs, State.setPin_seqs]

theorem fsPinDrive_onlyNotified (on : Bool) : OnlyNotified s (fsPinDrive f i on s) := by
  unfold fsPinDrive
  split
  · exact fsPinLatch_onlyNotified s f i true true
  · split
    · exact .of_seqs rfl
    · exact .of_seqs rfl

theorem ccPinDrive_onlyNotified (on : Bool) : OnlyNotified s (ccPinDrive i on s) := by
  unfold ccPinDrive
  split
  · exact ccPinLatch_onlyNotified s i true true
  · split
    · exact .of_seqs rfl
    · exact .of_seqs rfl

theorem seqPin_onlyNotified (on : Bool) : OnlyNotified s (seqPin q on s) := by
  unfold seqPin
  split
  · exact fsPinDrive_onlyNotified s q 144 on
  · split
    · exact ccPinDrive_onlyNotified s 0 on
    · exact .of_seqs rfl

end

@[simp] theorem seqStat_seqs (q : Nat) (ff cf : Fld) (v : Nat) (s : State) : (seqStat q ff cf v s).seqs = s.seqs := by
  unfold seqStat
  split <;> rw [State.wr_seqs]

@[simp] theorem seqCount_seqs (q : Nat) (ff cf : Fld) (s : State) : (seqCount q ff cf s).seqs = s.seqs := by
  unfold seqCount
  split <;> rw [State.bump_seqs]

end Sys2Proof.Machine
end

