-- ==== Sys2Proof/Proofs/SeqArithmetic.lean ====
section
/-!
PROOF. The arithmetic instructions: their results, and what they leave unchanged (R233, R238, Table 10-5).
-/
namespace Sys2Proof.Machine

/-! ### Values (Table 10-5) -/

theorem bool32_slt (a b : W32) : bool32 (a.slt b) = if a.toInt < b.toInt then 1 else 0 := by
  rw [bool32, BitVec.slt_eq_decide]
  simp only [decide_eq_true_eq]

theorem bool32_ult (a b : W32) : bool32 (a.ult b) = if a.toNat < b.toNat then 1 else 0 := by
  rw [bool32, BitVec.ult_eq_decide]
  simp only [decide_eq_true_eq]

/-- A count of leading zeros is the distance of the highest one from the top. -/
theorem clzIn_eq {w v n : Nat} (hn : n ≤ w) (hzeros : ∀ k, k < n → v.testBit (w - 1 - k) = false)
    (hone : n = w ∨ v.testBit (w - 1 - n) = true) : clzIn w v = n := by
  induction w generalizing n with
  | zero => exact (Nat.le_zero.mp hn).symm
  | succ w ih =>
    cases n with
    | zero =>
      have htop : v / 2 ^ w % 2 = 1 := by
        rcases hone with h | h
        · exact absurd h (Nat.succ_ne_zero w).symm
        · simpa [Nat.testBit_eq_decide_div_mod_eq] using h
      rw [clzIn, if_pos htop]
    | succ n =>
      have htop : v / 2 ^ w % 2 ≠ 1 := by
        simpa [Nat.testBit_eq_decide_div_mod_eq] using hzeros 0 (Nat.succ_pos n)
      have hrest : clzIn w v = n := by
        refine ih (Nat.le_of_succ_le_succ hn) (fun k hk => ?_) (hone.imp Nat.succ.inj fun h => ?_)
        · have := hzeros (k + 1) (Nat.succ_lt_succ hk)
          rwa [show w + 1 - 1 - (k + 1) = w - 1 - k by omega] at this
        · rwa [show w + 1 - 1 - (n + 1) = w - 1 - n by omega] at h
      rw [clzIn, if_neg htop, hrest]

theorem clz32_eq {a : W32} {n : Nat} (hn : n ≤ 32) (hzeros : ∀ k, k < n → a.getLsbD (31 - k) = false)
    (hone : n = 32 ∨ a.getLsbD (31 - n) = true) : clz32 a = BitVec.ofNat 32 n :=
  congrArg (BitVec.ofNat 32) (clzIn_eq hn hzeros hone)

theorem popc_eq_countP (n v : Nat) : popc n v = (List.range n).countP (fun k => v.testBit k) := by
  induction n generalizing v with
  | zero => rfl
  | succ n ih =>
    have hrest : (fun k => v.testBit k) ∘ Nat.succ = fun k => (v / 2).testBit k :=
      funext fun k => Nat.testBit_succ v k
    rw [popc, ih, List.range_succ_eq_map, List.countP_cons, List.countP_map, hrest, Nat.testBit_zero, Nat.add_comm]
    rcases Nat.mod_two_eq_zero_or_one v with h | h <;> simp [h]

/-! ### The shapes of arithmetic instructions -/

section
variable {s : State} {q rd ra rb imm : Nat} (h : Ready s q)
include h

theorem aluR_ready (f : W32 → W32 → W32) :
    aluR q rd ra rb f s = .next (result s q rd (f ((nowSeq s q).gr ra) ((nowSeq s q).gr rb))) :=
  ready_done h rfl

theorem aluI_ready (f : W32 → W32) : aluI q rd ra f s = .next (result s q rd (f ((nowSeq s q).gr ra))) :=
  ready_done h rfl

theorem unary_ready (f : W32 → W32) : unary q rd ra 0 f s = .next (result s q rd (f ((nowSeq s q).gr ra))) :=
  ready_done h (if_pos rfl)

theorem unary_illegal (f : W32 → W32) (hrb : rb ≠ 0) :
    unary q rd ra rb f s = .next (trapped s q trapIllegal rb) :=
  ready_trap h (if_neg hrb)

theorem shiftI_ready (f : W32 → Nat → W32) (himm : imm < 32) :
    shiftI q rd ra imm f s = .next (result s q rd (f ((nowSeq s q).gr ra) imm)) :=
  ready_done h (if_pos himm)

theorem shiftI_illegal (f : W32 → Nat → W32) (himm : 32 ≤ imm) :
    shiftI q rd ra imm f s = .next (trapped s q trapIllegal imm) :=
  ready_trap h (if_neg (Nat.not_lt.mpr himm))

end

/-- Settles O19: each instruction is one of the shapes, with the function of Table 10-5. -/
theorem seqAlu : Obligations.SeqAlu := by
  unfold Obligations.SeqAlu
  rintro s q rd ra rb x h rfl
  refine ⟨aluR_ready h (· + ·), aluR_ready h (· - ·), aluR_ready h (· &&& ·), aluR_ready h (· ||| ·),
    aluR_ready h (· ^^^ ·), aluR_ready h (fun a b => a <<< sham b), aluR_ready h (fun a b => a >>> sham b),
    aluR_ready h (fun a b => a.sshiftRight (sham b)), aluR_ready h (· * ·),
    aluR_ready h (fun a b => BitVec.ofNat 32 (a.toNat * b.toNat / 2 ^ 32)), ?slt, ?sltu, ?clz, ?popc,
    fun hrb => ⟨unary_illegal h clz32 hrb, unary_illegal h popc32 hrb⟩, ?immediates,
    fun i hi => ⟨shiftI_ready h (· <<< ·) hi, shiftI_ready h (· >>> ·) hi, shiftI_ready h (·.sshiftRight ·) hi⟩,
    fun i hi => ⟨shiftI_illegal h (· <<< ·) hi, shiftI_illegal h (· >>> ·) hi, shiftI_illegal h (·.sshiftRight ·) hi⟩⟩
  case slt => rw [← bool32_slt]; exact aluR_ready h (fun a b => bool32 (a.slt b))
  case sltu => rw [← bool32_ult]; exact aluR_ready h (fun a b => bool32 (a.ult b))
  case clz =>
    intro n hn hzeros hone
    rw [← clz32_eq hn hzeros hone]
    exact unary_ready h clz32
  case popc =>
    have hones : popc32 ((nowSeq s q).gr ra) =
        BitVec.ofNat 32 ((List.range 32).countP (fun k => ((nowSeq s q).gr ra).getLsbD k)) :=
      congrArg (BitVec.ofNat 32) (popc_eq_countP 32 _)
    rw [← hones]
    exact unary_ready h popc32
  case immediates =>
    intro i hi
    have hfit : i % 2 ^ 16 = i := Nat.mod_eq_of_lt hi
    have andi := aluI_ready (rd := rd) (ra := ra) h (· &&& BitVec.ofNat 32 (i % 2 ^ 16))
    have ori := aluI_ready (rd := rd) (ra := ra) h (· ||| BitVec.ofNat 32 (i % 2 ^ 16))
    have xori := aluI_ready (rd := rd) (ra := ra) h (· ^^^ BitVec.ofNat 32 (i % 2 ^ 16))
    have lui := aluI_ready (rd := rd) (ra := 0) h (fun _ => BitVec.ofNat 32 (i % 2 ^ 16 * 2 ^ 16))
    refine ⟨aluI_ready h (· + sext16 i), ?andi, ?ori, ?xori, ?slti, ?sltui, ?lui⟩
    case andi => exact andi.trans (by rw [hfit])
    case ori => exact ori.trans (by rw [hfit])
    case xori => exact xori.trans (by rw [hfit])
    case slti => rw [← bool32_slt]; exact aluI_ready h (fun a => bool32 (a.slt (sext16 i)))
    case sltui => rw [← bool32_ult]; exact aluI_ready h (fun a => bool32 (a.ult (sext16 i)))
    case lui => exact lui.trans (by rw [hfit])

/-! ### What they leave unchanged -/

/-- An arithmetic instruction writes one result and goes on. -/
theorem exec_arithmetic {s : State} {i : Instr} {q rd : Nat} (hi : aluOf i = some (q, rd)) (h : Ready s q) :
    ∃ v, exec i s = .next (result s q rd v) := by
  cases i with
  | add | sub | andI | orI | xorI | shl | shr | sra | mul | mulhu | slt | sltu =>
    cases hi
    dsimp only [exec, execAdd, execSub, execAnd, execOr, execXor, execShl, execShr, execSra, execMul, execMulhu,
      execSlt, execSltu]
    exact ⟨_, aluR_ready h _⟩
  | addi | andi | ori | xori | slti | sltui | lui =>
    cases hi
    dsimp only [exec, execAddi, execAndi, execOri, execXori, execSlti, execSltui, execLui]
    exact ⟨_, aluI_ready h _⟩
  | clz | popc =>
    obtain ⟨rfl, hi⟩ := Option.ite_none_right_eq_some.mp hi
    cases hi
    dsimp only [exec, execClz, execPopc]
    exact ⟨_, unary_ready h _⟩
  | shli | shri | srai =>
    obtain ⟨himm, hi⟩ := Option.ite_none_right_eq_some.mp hi
    cases hi
    dsimp only [exec, execShli, execShri, execSrai]
    exact ⟨_, shiftI_ready h _ himm⟩
  | _ => cases hi

section
variable (x : Seq) (r rd : Nat) (v : W32)

theorem Seq.gr_setGr_other (hr : r ≠ rd) : (x.setGr rd v).gr r = x.gr r := by
  by_cases hrd : rd = 0
  · rw [Seq.setGr, if_pos hrd]
  · simp only [Seq.setGr, if_neg hrd, Seq.gr, tget_tput_other (0 : W32) x.g v hr]

/-- A write of a general register changes no more of the sequencer than its general registers. -/
theorem Seq.setGr_eq : x.setGr rd v = { x with g := (x.setGr rd v).g } := by
  unfold Seq.setGr
  split <;> rfl

end

section
variable (s : State) (q rd : Nat) (v : W32)

theorem seq_result : (result s q rd v).seq q = ((nowSeq s q).setGr rd v).adv := by
  have hcount : ((nowSeq s q).setGr rd v).icount = (s.seq q).icount + 1 := by rw [Seq.setGr_eq]; rfl
  exact seq_setSeq_executed (by rw [Seq.adv, hcount]; exact Nat.succ_ne_zero _)

theorem seq_result_other {p : Nat} (hp : p ≠ q) : (result s q rd v).seq p = s.seq p :=
  (seq_setSeq_other _ hp).trans (seq_setSeq_other _ hp)

/-- A result leaves the block's registers, memories and queues. -/
theorem result_frame : { result s q rd v with seqs := s.seqs } = s := by
  have hframe : ∀ (u : State) (x : Seq), { u.setSeq q x with seqs := s.seqs } = { u with seqs := s.seqs } := by
    intro u x
    rw [State.setSeq]
  rw [result, hframe, now, hframe]

end

/-- Settles O24: an arithmetic instruction's effect is `result`, whose frame is that of a register write. -/
theorem seqFrame : Obligations.SeqFrame := by
  unfold Obligations.SeqFrame
  intro s i q rd hi h
  obtain ⟨v, hv⟩ := exec_arithmetic hi h
  refine ⟨_, hv, result_frame s q rd v, fun p hp => seq_result_other s q rd v hp, ?_⟩
  rw [seq_result]
  refine ⟨fun r hr => Seq.gr_setGr_other (nowSeq s q) r rd v hr, rfl, ?_, ?_⟩
  · rw [Seq.setGr_eq]; rfl
  · rw [Seq.setGr_eq]; rfl

end Sys2Proof.Machine
end

