-- ==== Sys2Proof/Proofs/SeqTraps.lean ====
section
/-!
PROOF. Taking a trap, returning from it, and double traps (R234, R237, R259 to R261).
-/
namespace Sys2Proof.Machine

/-! ### Into the handler (R259) -/

section
variable (s : State) (q c i : Nat) (hin : (s.seq q).inTrap = false) (hvec : (s.seq q).trapVec ≠ 0)
include hin hvec

/-- A trap with a handler saves the pc, the cause and the information; before that it is only recorded. -/
theorem seqTrap_handler : ∃ t, OnlyNotified s t ∧ (seqTrap q c i s).seq q =
    { t.seq q with trapPc := (s.seq q).pc, trapCause := c, inTrap := true, trapInfo := BitVec.ofNat 32 i,
                   pc := (s.seq q).trapVec &&& 0xFFFFFFFC } := by
  unfold seqTrap
  dsimp only
  rw [hin, Bool.false_or, if_neg (by simpa using hvec)]
  refine ⟨_, ?_, seq_setSeq_inHandler rfl⟩
  have hcounted : OnlyNotified s (seqCount q F.FS_SEQ_STAT_traps F.CC_SEQ_STAT_traps
      (seqStat q F.FS_SEQ_STAT_cause F.CC_SEQ_STAT_cause c s)) :=
    .of_seqs (by rw [seqCount_seqs, seqStat_seqs])
  split
  · exact (hcounted.trans (seqRaise_onlyNotified _ q _)).trans (seqPin_onlyNotified _ q true)
  · exact hcounted.trans (seqRaise_onlyNotified _ q _)

theorem seqTrap_trapPc : ((seqTrap q c i s).seq q).trapPc = (s.seq q).pc := by
  obtain ⟨t, -, ht⟩ := seqTrap_handler s q c i hin hvec
  rw [ht]

/-- The trap of an instruction changes, besides what it saves, no more of the sequencer than its notifications. -/
theorem seq_trapped : ∃ y : Seq, y.unnotified = (nowSeq s q).unnotified ∧ (trapped s q c i).seq q =
    { y with trapPc := (s.seq q).pc, trapCause := c, inTrap := true, trapInfo := BitVec.ofNat 32 i,
             pc := (s.seq q).trapVec &&& 0xFFFFFFFC } := by
  have hnow := seq_now s q
  obtain ⟨t, honly, ht⟩ := seqTrap_handler (now s q) q c i (by rw [hnow]; exact hin) (by rw [hnow]; exact hvec)
  have hkept := honly q (by rw [hnow]; exact Nat.succ_ne_zero _)
  rw [hnow] at hkept ht
  exact ⟨t.seq q, hkept, ht⟩

/-- A trapping instruction changes no byte of the sequencer's memory. -/
theorem byte_trapped (b : Nat) : ((trapped s q c i).seq q).byte q b = (s.seq q).byte q b := by
  obtain ⟨y, hy, ht⟩ := seq_trapped s q c i hin hvec
  have hsram : y.sram = (s.seq q).sram := (congrArg Seq.sram hy :)
  simp only [ht, Seq.byte, hsram]

end

/-! ### Double traps (R261) -/

section
variable {s t : State} {q c i : Nat}

theorem seqTrap_double (hdouble : (s.seq q).inTrap = true ∨ (s.seq q).trapVec = 0)
    (ht : t = seqRaise q { code := Code.SEQ_TRAP, unit := seqUnit s q,
                           params := c + 2 ^ 8 * ((s.seq q).pc.toNat % 2 ^ 20) + 2 ^ 28 * (i % 2 ^ 20) }
      (seqCount q F.FS_SEQ_STAT_traps F.CC_SEQ_STAT_traps (seqStat q F.FS_SEQ_STAT_cause F.CC_SEQ_STAT_cause c s))) :
    seqTrap q c i s = seqDoubleTrap q c (if c = trapMemUe then seqPin q true t else t) := by
  have hcond : ((s.seq q).inTrap || (s.seq q).trapVec == 0) = true := by simpa using hdouble
  rw [seqTrap, ht]
  exact if_pos hcond

theorem seqDoubleTrap_replacement (hrun : (s.seq q).running ≠ 0)
    (ht : t = seqRaise q { code := Code.SEQ_FALLBACK, unit := seqUnit s q,
                           params := c + 2 ^ 8 * ((s.seq q).pc.toNat % 2 ^ 20) } s) :
    seqDoubleTrap q c s = seqStart q 0 0 [] t := by
  have hcond : ((s.seq q).running == 0) = false := beq_false_of_ne hrun
  rw [seqDoubleTrap, ht]
  simp only [hcond, b2n, Bool.false_eq_true, if_false, Nat.mul_zero, Nat.add_zero]

/-- The reference program itself halts. -/
theorem seqDoubleTrap_reference (hrun : (s.seq q).running = 0) : ((seqDoubleTrap q c s).seq q).mode = .halted := by
  have hcond : ((s.seq q).running == 0) = true := beq_iff_eq.mpr hrun
  unfold seqDoubleTrap
  dsimp only
  rw [if_pos hcond, State.seq, seqStat_seqs, ← State.seq, seq_setSeq_halted rfl]

end

/-! ### The instructions -/

section
variable {s : State} {q w : Nat} (h : Ready s q)
include h

theorem exec_undefinedOpcode_undefined (hw : w < 2 ^ 32) (hnone : decodeSeq q w = none) :
    exec (.undefinedOpcode q w) s = .next (trapped s q trapIllegal w) := by
  have hue : bit w 32 = false := by simp only [bit, beq_eq_false_iff_ne]; omega
  change execUndefinedOpcode q w s = _
  unfold execUndefinedOpcode
  dsimp only
  rw [hue, Nat.mod_eq_of_lt hw, if_neg Bool.false_ne_true, if_pos hnone]
  exact ready_trap h rfl

theorem exec_undefinedOpcode_uncorrectable (hw : w < 2 ^ 32) (hsram : inSram q (nowSeq s q).pc.toNat = true) :
    exec (.undefinedOpcode q (2 ^ 32 + w)) s = .next (trapped s q trapMemUe (nowSeq s q).pc.toNat) := by
  have hue : bit (2 ^ 32 + w) 32 = true := by simp only [bit, beq_iff_eq]; omega
  change execUndefinedOpcode q (2 ^ 32 + w) s = _
  unfold execUndefinedOpcode
  dsimp only
  rw [hue, if_pos rfl]
  exact ready_trap h (if_pos hsram)

theorem exec_tret_outside (hin : (s.seq q).inTrap = false) :
    exec (.tret q) s = .next (trapped s q trapIllegal 0) := by
  have hnow : (nowSeq s q).inTrap = false := hin
  change execTret q s = _
  exact ready_trap h (by rw [hnow, if_neg Bool.false_ne_true])

/-- A return from the handler drops the pin that an uncorrectable error drove. -/
theorem exec_tret_handler (hin : (nowSeq s q).inTrap = true) {t : State}
    (ht : t = (now s q).setSeq q { nowSeq s q with inTrap := false, pc := (nowSeq s q).trapPc &&& 0xFFFFFFFC }) :
    exec (.tret q) s = .next (if (nowSeq s q).trapCause = trapMemUe then seqPin q false t else t) := by
  change execTret q s = _
  exact ready_done h (by rw [if_pos hin, ht])

end

section
variable {s : State} {q : Nat} (hq : seqOk q = true)
include hq

theorem exec_wdogTrap_reached (hrun : s.seqRuns q = true) (hwdog : (s.seq q).wdog ≠ 0)
    (hcount : (s.seq q).wdog.toNat * 65536 ≤ (s.seq q).icount) :
    exec (.wdogTrap q) s =
      .next (seqTrap q trapWdog (s.seq q).pc.toNat (s.setSeq q { s.seq q with icount := 0 })) := by
  have hcond : (s.seqRuns q && (s.seq q).wdog != 0
      && decide ((s.seq q).wdog.toNat * 65536 ≤ (s.seq q).icount)) = true := by
    rw [hrun, decide_eq_true hcount, bne_iff_ne.mpr hwdog]; rfl
  change execWdogTrap q s = _
  exact (onUnit_ok hq _).trans (congrArg _ (if_pos hcond))

theorem exec_wdogTrap_disabled (hwdog : (s.seq q).wdog = 0) : exec (.wdogTrap q) s = .next s := by
  have hcond : (s.seqRuns q && (s.seq q).wdog != 0
      && decide ((s.seq q).wdog.toNat * 65536 ≤ (s.seq q).icount)) ≠ true := by
    simp only [hwdog, bne_self_eq_false, Bool.and_false, Bool.false_and, ne_eq, Bool.false_eq_true, not_false_eq_true]
  change execWdogTrap q s = _
  exact (onUnit_ok hq _).trans (congrArg _ (if_neg hcond))

end

/-- Settles O22: each clause is one case of a trap's entry, of a double trap or of an instruction that traps. -/
theorem seqTrapEntry : Obligations.SeqTrapEntry := by
  unfold Obligations.SeqTrapEntry
  refine ⟨?handler, ?double, ?_, ?_, ?_, ?_, ?tret, ?tretPin, ?_, ?_, ?_⟩
  case handler =>
    rintro s q c i x y - rfl hin hvec rfl
    obtain ⟨z, hz, ht⟩ := seq_trapped s q c i hin hvec
    rw [ht]
    exact ⟨rfl, rfl, rfl, rfl, rfl, (congrArg Seq.g hz :), (congrArg Seq.sram hz :), (congrArg Seq.sems hz :),
      (congrArg Seq.mode hz :), (congrArg Seq.timer hz :), (congrArg Seq.trapVec hz :), (congrArg Seq.rx hz :),
      (congrArg Seq.tx hz :), (congrArg Seq.noteMask hz :)⟩
  case double =>
    rintro s t u q c i x rfl hdouble hu hpin hplain
    rw [seqTrap_double hdouble hu]
    by_cases hc : c = trapMemUe
    · rw [if_pos hc, hpin hc]
    · rw [if_neg hc, hplain hc]
  · rintro s t q c x rfl hrun ht
    exact seqDoubleTrap_replacement hrun ht
  · intro s q c hrun
    exact seqDoubleTrap_reference hrun
  · intro s q w h hw hnone
    exact exec_undefinedOpcode_undefined h hw hnone
  · rintro s q w x h hw rfl hsram
    exact exec_undefinedOpcode_uncorrectable h hw hsram
  case tret =>
    rintro s q x h rfl hin hcause
    exact (exec_tret_handler h hin rfl).trans (congrArg _ (if_neg hcause))
  case tretPin =>
    rintro s q x h rfl hin hcause
    exact (exec_tret_handler h hin rfl).trans (congrArg _ (if_pos hcause))
  · intro s q h hin
    exact exec_tret_outside h hin
  · rintro s q x hq rfl hrun hwdog hcount
    exact exec_wdogTrap_reached hq hrun hwdog hcount
  · intro s q hq hwdog
    exact exec_wdogTrap_disabled hq hwdog

end Sys2Proof.Machine
end

