-- ==== Sys2Proof/Proofs/SeqMemory.lean ====
section
/-!
PROOF. The loads and stores of a sequencer, and their traps (R234, R239, Table 10-1).
-/
namespace Sys2Proof.Machine

section
variable {s : State} {q rd rs ra imm a n : Nat} {ue : Bool} {ext : Nat → W32} (h : Ready s q)
  (ha : a = memAddr (nowSeq s q) ra imm)
include h ha

/-! ### A load of `n` bytes -/

theorem loadN_misaligned (hmis : a % n ≠ 0) : loadN q rd ra imm n ue ext s = .next (trapped s q trapAlign a) :=
  ready_trap h (by simp only [← ha, if_pos hmis])

variable (hal : a % n = 0)

section
include hal

theorem loadN_outside (hsram : inSram q a = false) (hrom : inRom q a = false) :
    loadN q rd ra imm n ue ext s = .next (trapped s q trapAddr a) :=
  ready_trap h (by simp [← ha, hal, hsram, hrom])

theorem loadN_uncorrectable (hsram : inSram q a = true) :
    loadN q rd ra imm n true ext s = .next (trapped s q trapMemUe a) :=
  ready_trap h (by simp [← ha, hal, hsram])

theorem loadN_value (hin : (inSram q a || inRom q a) = true) :
    loadN q rd ra imm n false ext s = .next (result s q rd (ext ((nowSeq s q).load q a n))) :=
  ready_done h (by simp [← ha, hal, hin, result])

/-- The ROM has no uncorrectable errors. -/
theorem loadN_rom (hrom : inRom q a = true) (hsram : inSram q a = false) :
    loadN q rd ra imm n true ext s = loadN q rd ra imm n false ext s := by
  rw [loadN_value h ha hal (by rw [hrom, Bool.or_true])]
  exact ready_done h (by simp [← ha, hal, hrom, hsram, result])

end

/-! ### A store of `n` bytes -/

theorem storeN_misaligned (hmis : a % n ≠ 0) : storeN q rs ra imm n s = .next (trapped s q trapAlign a) :=
  ready_trap h (by simp only [← ha, if_pos hmis])

include hal

theorem storeN_outside (hsram : inSram q a = false) : storeN q rs ra imm n s = .next (trapped s q trapAddr a) :=
  ready_trap h (by simp [← ha, hal, hsram])

theorem storeN_stored (hsram : inSram q a = true) : storeN q rs ra imm n s =
    .next ((now s q).setSeq q ((nowSeq s q).store a (leBytes n ((nowSeq s q).gr rs).toNat)).adv) :=
  ready_done h (by simp [← ha, hal, hsram])

end

/-- Settles O20: each instruction is a load or a store of 4, 2 or 1 bytes. -/
theorem seqLoadsStores : Obligations.SeqLoadsStores := by
  unfold Obligations.SeqLoadsStores
  rintro s q rd ra imm a x h rfl ha
  have hbyte : a % 1 = 0 := Nat.mod_one a
  dsimp only [exec, execLw, execLh, execLhu, execLb, execLbu, execSw, execSh, execSb]
  exact ⟨loadN_value h ha, loadN_value h ha, loadN_value h ha, loadN_value h ha hbyte, loadN_value h ha hbyte,
    loadN_uncorrectable h ha, loadN_rom h ha, fun _ => loadN_misaligned h ha, fun _ => loadN_outside h ha,
    loadN_uncorrectable h ha, loadN_rom h ha, fun _ => loadN_misaligned h ha, fun _ => loadN_outside h ha,
    loadN_uncorrectable h ha, loadN_rom h ha, fun _ => loadN_misaligned h ha, fun _ => loadN_outside h ha,
    loadN_uncorrectable h ha hbyte, loadN_rom h ha hbyte, fun _ => loadN_outside h ha hbyte,
    loadN_uncorrectable h ha hbyte, loadN_rom h ha hbyte, fun _ => loadN_outside h ha hbyte,
    storeN_stored h ha, storeN_misaligned h ha, storeN_outside h ha,
    storeN_stored h ha, storeN_misaligned h ha, storeN_outside h ha,
    storeN_stored h ha hbyte, storeN_outside h ha hbyte, fun c b hin hvec => byte_trapped s q c a hin hvec b⟩

end Sys2Proof.Machine
end

