-- ==== Sys2Proof/Proofs/SeqJumps.lean ====
section
/-!
PROOF. The branches and jumps of a sequencer, and the fetch outside its memory (R240, Table 10-1).
-/
namespace Sys2Proof.Machine

section
variable {s : State} {q rd ra rb off : Nat} (h : Ready s q)
include h

theorem branch_taken {c : W32 → W32 → Bool} (hc : c ((nowSeq s q).gr ra) ((nowSeq s q).gr rb) = true) :
    branch q ra rb off c s = .next (jumped s q ((nowSeq s q).pc + sext16 off * 4)) :=
  ready_done h (by rw [if_pos hc]; rfl)

theorem branch_notTaken {c : W32 → W32 → Bool} (hc : c ((nowSeq s q).gr ra) ((nowSeq s q).gr rb) = false) :
    branch q ra rb off c s = .next (jumped s q ((nowSeq s q).pc + 4)) :=
  ready_done h (by rw [hc, if_neg Bool.false_ne_true]; rfl)

theorem exec_jal : exec (.jal q rd off) s = .next ((now s q).setSeq q
    { (nowSeq s q).setGr rd ((nowSeq s q).pc + 4) with pc := (nowSeq s q).pc + sext22 off * 4 }) := by
  change execJal q rd off s = _
  exact ready_done h rfl

theorem exec_jalr : exec (.jalr q rd ra off) s = .next ((now s q).setSeq q
    { (nowSeq s q).setGr rd ((nowSeq s q).pc + 4) with
      pc := ((nowSeq s q).gr ra + sext16 off) &&& 0xFFFFFFFC }) := by
  change execJalr q rd ra off s = _
  exact ready_done h rfl

end

/-- Whatever the instruction, a pc outside Table 10-1 traps before it. -/
theorem exec_fetchOutside {s : State} {i : Instr} {q : Nat} (hi : seqOf i = some q) (hq : seqOk q = true)
    (hrun : s.seqRuns q = true) (hfetch : fetchOk q (s.seq q).pc = false) :
    exec i s = .next (seqTrap q trapAddr (s.seq q).pc.toNat s) := by
  obtain ⟨f, hf⟩ := exec_sequencerInstruction hi s
  rw [hf, onUnit_ok hq, seqInstr, if_pos hrun, if_neg (Bool.eq_false_iff.mp hfetch)]

/-- Settles O21: a branch by its condition, and every instruction by its fetch. -/
theorem seqJumps : Obligations.SeqJumps := by
  unfold Obligations.SeqJumps
  refine ⟨?jumps, ?fetch⟩
  case jumps =>
    rintro s q rd ra rb off x h rfl
    dsimp only [exec, execBeq, execBne, execBlt, execBge, execBltu, execBgeu]
    refine ⟨fun hc => branch_taken h (beq_iff_eq.mpr hc), fun hc => branch_notTaken h (beq_eq_false_iff_ne.mpr hc),
      fun hc => branch_taken h (bne_iff_ne.mpr hc),
      fun hc => branch_notTaken h (bne_eq_false_iff_eq.mpr (Classical.not_not.mp hc)),
      fun hc => branch_taken h (BitVec.slt_iff_toInt_lt.mpr hc), fun hc => branch_notTaken h ?bltNot,
      fun hc => branch_taken h ?bge, fun hc => branch_notTaken h ?bgeNot,
      fun hc => branch_taken h (BitVec.ult_iff_lt.mpr hc), fun hc => branch_notTaken h ?bltuNot,
      fun hc => branch_taken h ?bgeu, fun hc => branch_notTaken h ?bgeuNot, exec_jal h, exec_jalr h⟩
    case bltNot => rw [BitVec.slt_eq_decide, decide_eq_false hc]
    case bge => rw [BitVec.slt_eq_decide, decide_eq_false (Int.not_lt.mpr hc), Bool.not_false]
    case bgeNot => rw [BitVec.slt_eq_decide, decide_eq_true (Int.not_le.mp hc), Bool.not_true]
    case bltuNot => rw [BitVec.ult_eq_decide, decide_eq_false hc]
    case bgeu => rw [BitVec.ult_eq_decide, decide_eq_false (Nat.not_lt.mpr hc), Bool.not_false]
    case bgeuNot => rw [BitVec.ult_eq_decide, decide_eq_true (Nat.not_le.mp hc), Bool.not_true]
  case fetch =>
    intro s i q hi hq hrun hfetch
    exact ⟨exec_fetchOutside hi hq hrun hfetch, seqTrap_trapPc s q trapAddr _⟩

end Sys2Proof.Machine
end

