-- ==== Sys2Proof/Proofs/SeqWaits.lean ====
section
/-!
PROOF. WAIT, TIME, the timer and the owner's mailbox (R236, R244, R245, R248, R260, Table 10-15).
-/
namespace Sys2Proof.Machine

/-! ### WAIT (R245) -/

section
variable {s : State} {q rd ra rb hit : Nat} {y : Seq} (h : Ready s q)
include h

theorem exec_wait_pending (htake : (nowSeq s q).takeEvents ((nowSeq s q).gr ra).toNat = (hit, y)) (hhit : hit ≠ 0) :
    exec (.wait q rd ra rb) s = .next ((now s q).setSeq q (y.setGr rd (BitVec.ofNat 32 hit)).adv) := by
  change execWait q rd ra rb s = _
  exact ready_done h (by rw [htake]; exact if_pos hhit)

variable (hnone : ((nowSeq s q).takeEvents ((nowSeq s q).gr ra).toNat).1 = 0)
include hnone

theorem exec_wait_poll (hzero : (nowSeq s q).gr rb = 0) : exec (.wait q rd ra rb) s = .next (result s q rd 0) := by
  change execWait q rd ra rb s = _
  exact ready_done h ((if_neg (Classical.not_not.mpr hnone)).trans (if_pos hzero))

theorem exec_wait_sleep (hend : (nowSeq s q).gr rb ≠ 0) : exec (.wait q rd ra rb) s = .next ((now s q).setSeq q
    { nowSeq s q with mode := .wait rd ((nowSeq s q).gr ra).toNat (waitEnd (now s q) ((nowSeq s q).gr rb))
                      icount := 0 }) := by
  change execWait q rd ra rb s = _
  exact ready_done h ((if_neg (Classical.not_not.mpr hnone)).trans (if_neg hend))

end

section
variable {s : State} {q rd m : Nat} (hq : seqOk q = true)
include hq

theorem exec_waitWake_event {hit : Nat} {d : Option Nat} {y : Seq} (hmode : (s.seq q).mode = .wait rd m d)
    (htake : (s.seq q).takeEvents m = (hit, y)) (hhit : hit ≠ 0) :
    exec (.waitWake q) s = .next (s.setSeq q ({ y with mode := .run }.setGr rd (BitVec.ofNat 32 hit)).adv) := by
  change execWaitWake q s = _
  unfold execWaitWake
  rw [onUnit_ok hq]
  simp only [hmode, htake, ne_eq, hhit, not_false_eq_true, if_true]

theorem exec_waitWake_timeout {d : Nat} (hmode : (s.seq q).mode = .wait rd m (some d))
    (hnone : ((s.seq q).takeEvents m).1 = 0) :
    exec (.waitWake q) s = .next ((s.toWt d).setSeq q ({ s.seq q with mode := .run }.setGr rd 0).adv) := by
  change execWaitWake q s = _
  unfold execWaitWake
  rw [onUnit_ok hq]
  simp only [hmode, hnone, ne_eq, not_true_eq_false, if_false]

/-! ### The timer and TIME (R236, R248) -/

theorem exec_timerExpire_armed {d : Nat} (harmed : (s.seq q).timer = some d) :
    exec (.timerExpire q) s = .next (seqEdge q 3 ((s.toWt d).setSeq q { s.seq q with timer := none })) := by
  change execTimerExpire q s = _
  unfold execTimerExpire
  rw [onUnit_ok hq, harmed]

end

section
variable {s : State} {q r : Nat} (h : Ready s q)
include h

theorem exec_timeRead_evenPair (heven : r % 2 = 0) (hon : s.aonOnly = false) :
    exec (.timeRead q r) s = .next ((now s q).setSeq q ((nowSeq s q).setPair r (now s q).wt).adv) := by
  have hwt : wtRead (now s q) = (now s q).wt := if_neg (Bool.eq_false_iff.mp hon)
  change execTimeRead q r s = _
  exact ready_done h (by rw [heven, if_neg Nat.zero_ne_one, hwt])

theorem exec_timeRead_oddPair (hodd : r % 2 = 1) : exec (.timeRead q r) s = .next (trapped s q trapIllegal r) := by
  change execTimeRead q r s = _
  exact ready_trap h (if_pos hodd)

theorem exec_timeArmRel : exec (.timeArmRel q r) s = .next ((now s q).setSeq q
    { nowSeq s q with timer := if (nowSeq s q).gr r = 0 then none
                               else some ((now s q).wt + us * ((nowSeq s q).gr r).toNat) }.adv) := by
  change execTimeArmRel q r s = _
  exact ready_done h rfl

theorem exec_timeArmAbs_oddPair (hodd : r % 2 = 1) :
    exec (.timeArmAbs q r) s = .next (trapped s q trapIllegal r) := by
  change execTimeArmAbs q r s = _
  exact ready_trap h (if_pos hodd)

variable (heven : r % 2 = 0)
include heven

theorem exec_timeArmAbs_ahead (hahead : (now s q).wt < (nowSeq s q).pair r) :
    exec (.timeArmAbs q r) s =
      .next ((now s q).setSeq q { nowSeq s q with timer := some ((nowSeq s q).pair r) }.adv) := by
  change execTimeArmAbs q r s = _
  exact ready_done h (by rw [heven, if_neg Nat.zero_ne_one, if_neg (Nat.not_le.mpr hahead)])

theorem exec_timeArmAbs_past (hpast : (nowSeq s q).pair r ≤ (now s q).wt) :
    exec (.timeArmAbs q r) s = .next (seqEdge q 3 ((now s q).setSeq q { nowSeq s q with timer := none }.adv)) := by
  change execTimeArmAbs q r s = _
  exact ready_done h (by rw [heven, if_neg Nat.zero_ne_one, if_pos hpast])

end

/-! ### The owner's mailbox (R244) -/

section
variable {s t : State} {w : Writer} {q v : Nat} (hown : s.isOwner w = true)
include hown

theorem exec_mboxWrite_cc (h : Granted s w .CC_SEQ_MBOX 0) (ht : t = s.wr F.CC_SEQ_MBOX_value 0 v) :
    exec (.mboxWrite w 128 v) s = .next (wrote w .CC_SEQ_MBOX 0
      (seqEdge 128 4 (t.setSeq 128 { t.seq 128 with mbox := BitVec.ofNat 32 v }))) := by
  have hwrite : mboxWrite w 128 v s = seqEdge 128 4 (t.setSeq 128 { t.seq 128 with mbox := BitVec.ofNat 32 v }) := by
    rw [ht]; exact if_pos hown
  change execMboxWrite w 128 v s = _
  rw [← hwrite]
  exact regWrite_granted h

theorem exec_mboxWrite_fs (h : Granted s w .FS_SEQ_MBOX q) (hq : q < 128) (hok : seqOk q = true)
    (ht : t = s.wr F.FS_SEQ_MBOX_value q v) :
    exec (.mboxWrite w q v) s = .next (wrote w .FS_SEQ_MBOX q
      (seqEdge q 4 (t.setSeq q { t.seq q with mbox := BitVec.ofNat 32 v }))) := by
  change execMboxWrite w q v s = _
  rw [execMboxWrite, if_pos hq, if_pos hq, onUnit_ok hok, regWrite_granted h, mboxWrite, if_pos hown, if_pos hq, ← ht]

end

/-- Settles O26: each clause is one path of WAIT or of TIME, or one case of an expiry or of the mailbox write. -/
theorem seqWaitsAndTime : Obligations.SeqWaitsAndTime := by
  unfold Obligations.SeqWaitsAndTime
  refine ⟨?_, ?_, ?_, ?_, ?_, ?_, ?_, ?_, ?_, ?_, ?_, ?_, ?_⟩
  · rintro s q rd ra rb hit x y h rfl htake hhit
    exact exec_wait_pending h htake hhit
  · rintro s q rd ra rb x h rfl hnone hzero
    exact exec_wait_poll h hnone hzero
  · rintro s q rd ra rb x h rfl hnone hend
    exact exec_wait_sleep h hnone hend
  · intro s q rd m hit d y hq hmode htake hhit
    exact exec_waitWake_event hq hmode htake hhit
  · intro s q rd m d hq hmode hnone
    exact exec_waitWake_timeout hq hmode hnone
  · intro s q rd h heven hon
    exact exec_timeRead_evenPair h heven hon
  · intro s q r h hodd
    exact ⟨exec_timeRead_oddPair h hodd, exec_timeArmAbs_oddPair h hodd⟩
  · rintro s q ra x h rfl
    exact exec_timeArmRel h
  · rintro s q ra x h rfl heven hahead
    exact exec_timeArmAbs_ahead h heven hahead
  · rintro s q ra x h rfl heven hpast
    exact exec_timeArmAbs_past h heven hpast
  · intro s q d hq harmed
    exact exec_timerExpire_armed hq harmed
  · intro s t w v h hown ht
    exact exec_mboxWrite_cc hown h ht
  · intro s t w q v h hq hok hown ht
    exact exec_mboxWrite_fs hown h hq hok ht

end Sys2Proof.Machine
end

