-- ==== Sys2Proof/Proofs/RecorderAreas.lean ====
section
/-!
PROOF. What numbering a record does to the recorders: the numbered recorder's areas, and the others as they were (R282,
R284, R285, R291).
-/
namespace Sys2Proof.Machine

/-! ### One recorder -/

/-- A recorder within its areas (Table 11-5), with at most 16 held records (R291). -/
def Recorder.Fits (r : Nat) (c : Recorder) : Prop :=
  c.first.length ≤ firstCap r ∧ c.last.length ≤ lastCap r ∧ c.holdq.length ≤ 16

/-- A recorder that has given out its next record number (R285). -/
def Recorder.advanced (c : Recorder) : Recorder := { c with nextSeq := (c.nextSeq + 1) % 2 ^ 32 }

/-- A recorder that has stored a record: in the last area, and in the first while that is not full (R284). -/
def Recorder.stored (r seq : Nat) (x : Rec) (c : Recorder) : Recorder :=
  { c with
    last := ((seq, recSealed x) :: c.last).take (lastCap r)
    first := if c.first.length < firstCap r then (seq, recSealed x) :: c.first else c.first }

/-- A recorder to which a record came: it stores the record, or, frozen, holds it, drops it or misses it (R291). -/
def Recorder.taken (r seq : Nat) (x : Rec) (c : Recorder) : Recorder :=
  if c.frozen then
    if heldCodes.contains x.code then
      if c.holdq.length < 16 then { c with holdq := c.holdq ++ [(seq, x)] } else { c with dropped := c.dropped + 1 }
    else { c with missed := c.missed + 1 }
  else c.stored r seq x

section
variable {r seq : Nat} {x : Rec} {c : Recorder}

theorem Recorder.stored_fits (h : c.Fits r) : (c.stored r seq x).Fits r := by
  obtain ⟨hfirst, -, hheld⟩ := h
  refine ⟨?_, List.length_take_le _ _, hheld⟩
  unfold Recorder.stored
  dsimp only
  split
  · rename_i hroom; exact hroom
  · exact hfirst

theorem Recorder.taken_fits (h : c.Fits r) : (c.taken r seq x).Fits r := by
  obtain ⟨hfirst, hlast, hheld⟩ := h
  unfold Recorder.taken
  split
  · split
    · split
      · rename_i hroom
        exact ⟨hfirst, hlast, by rw [List.length_append, List.length_singleton]; exact hroom⟩
      · exact ⟨hfirst, hlast, hheld⟩
    · exact ⟨hfirst, hlast, hheld⟩
  · exact Recorder.stored_fits ⟨hfirst, hlast, hheld⟩

theorem Recorder.taken_nextSeq : (c.taken r seq x).nextSeq = c.nextSeq := by
  unfold Recorder.taken
  split
  · split
    · split
      · rfl
      · rfl
    · rfl
  · rfl

theorem Recorder.taken_frozen (hfrozen : c.frozen = true) :
    (c.taken r seq x).last = c.last ∧ (c.taken r seq x).first = c.first := by
  rw [Recorder.taken, if_pos hfrozen]
  split
  · split
    · exact ⟨rfl, rfl⟩
    · exact ⟨rfl, rfl⟩
  · exact ⟨rfl, rfl⟩

theorem Recorder.taken_notFrozen (hfrozen : c.frozen = false) : c.taken r seq x = c.stored r seq x :=
  if_neg (Bool.eq_false_iff.mp hfrozen)

theorem lastCap_pos (r : Nat) : 0 < lastCap r := by
  unfold lastCap
  split
  · decide
  · decide

/-- The stored record is the newest of the last area. -/
theorem Recorder.stored_last_newest : (c.stored r seq x).last.head? = some (seq, recSealed x) := by
  obtain ⟨n, hn⟩ := Nat.exists_eq_succ_of_ne_zero (Nat.ne_of_gt (lastCap_pos r))
  rw [Recorder.stored, hn, List.take_succ_cons, List.head?_cons]

theorem Recorder.mem_stored_first {e : Nat × Rec} (he : e ∈ c.first) : e ∈ (c.stored r seq x).first := by
  unfold Recorder.stored
  dsimp only
  split
  · exact List.mem_cons_of_mem _ he
  · exact he

theorem Recorder.mem_taken_first {e : Nat × Rec} (he : e ∈ c.first) : e ∈ (c.taken r seq x).first := by
  cases hfrozen : c.frozen
  case false => rw [Recorder.taken_notFrozen hfrozen]; exact Recorder.mem_stored_first he
  case true => rw [(Recorder.taken_frozen hfrozen).2]; exact he

end

/-! ### The recorders' table -/

section
variable {s t : State} {r r' : Nat} {c : Recorder} (x : Rec)

theorem rcdr_of_recs (h : t.recs = s.recs) : t.rcdr r = s.rcdr r := by
  rw [State.rcdr, State.rcdr, h]

theorem rcdr_setRcdr_same (h : tsorted none s.recs = true) : (s.setRcdr r c).rcdr r = c :=
  tget_tput_same ({} : Recorder) r c h

theorem rcdr_setRcdr_other (c : Recorder) (hr : r' ≠ r) : (s.setRcdr r c).rcdr r' = s.rcdr r' :=
  tget_tput_other ({} : Recorder) s.recs c hr

theorem setRcdr_recs_sorted (c : Recorder) (h : tsorted none s.recs = true) :
    tsorted none (s.setRcdr r c).recs = true :=
  tsorted_tput ({} : Recorder) r c h

theorem twf_setRcdr_recs (c : Recorder) (h : twf ({} : Recorder) s.recs = true) :
    twf ({} : Recorder) (s.setRcdr r c).recs = true :=
  twf_tput ({} : Recorder) r c h

theorem tsorted_of_twf {α : Type} [DecidableEq α] {d : α} {u : Tbl α} (h : twf d u = true) :
    tsorted none u = true :=
  (Bool.and_eq_true_iff.mp h).1

theorem RecordersFit.sorted (h : RecordersFit s) : tsorted none s.recs = true := tsorted_of_twf h.1

theorem RecordersFit.fits (h : RecordersFit s) (r : Nat) : (s.rcdr r).Fits r := h.2 r

/-- A write of a recorder that is within its areas keeps all of them so. -/
theorem RecordersFit.setRcdr (h : RecordersFit s) (hc : c.Fits r) : RecordersFit (s.setRcdr r c) := by
  refine ⟨twf_setRcdr_recs c h.1, fun r' => ?_⟩
  by_cases hr : r' = r
  · subst hr
    rw [rcdr_setRcdr_same h.sorted]; exact hc
  · rw [rcdr_setRcdr_other c hr]; exact h.fits r'

theorem RecordersFit.of_recs (h : RecordersFit s) (hrecs : t.recs = s.recs) : RecordersFit t :=
  ⟨hrecs ▸ h.1, fun r => rcdr_of_recs hrecs ▸ h.2 r⟩

/-! ### What the stages of a record do to it -/

@[simp] theorem State.bump_recs (s : State) (f : Fld) (i n : Nat) : (s.bump f i n).recs = s.recs :=
  State.wr_recs s f i _

@[simp] theorem recCount_recs (ff cf : Fld) (n : Nat) (s : State) : (recCount r ff cf n s).recs = s.recs := by
  unfold recCount
  split
  · rw [State.bump_recs]
  · split
    · rw [State.bump_recs]
    · rfl

theorem recStore_recs (seq : Nat) :
    (recStore r seq x s).recs = (s.setRcdr r ((s.rcdr r).stored r seq x)).recs := by
  rw [recStore]
  by_cases hfs : r < 128
  · rw [if_pos hfs, State.wr_recs]; rfl
  · rw [if_neg hfs]
    split
    · rw [State.wr_recs]; rfl
    · rfl

theorem recFreezeRule_recs (seq : Nat) :
    (recFreezeRule r seq x s).recs = (s.setRcdr r ((s.rcdr r).taken r seq x)).recs := by
  unfold recFreezeRule Recorder.taken
  dsimp only
  split
  · split
    · split
      · rfl
      · rw [recCount_recs]
    · rw [recCount_recs]
  · rw [recStore_recs]

/-- The freeze rule reads and writes no more of a state than its recorders. -/
theorem recFreezeRule_recs_of_recs (seq : Nat) (h : t.recs = s.recs) :
    (recFreezeRule r seq x t).recs = (s.setRcdr r ((s.rcdr r).taken r seq x)).recs := by
  rw [recFreezeRule_recs, rcdr_of_recs h]
  exact congrArg (fun l => tput {} l r _) h

/-- The recorder gives out its number and takes the record; what is forwarded is in no recorder (R284, R285). -/
theorem recNumber_recs : (recNumber r x s).recs = ((s.setRcdr r (s.rcdr r).advanced).setRcdr r
    (((s.setRcdr r (s.rcdr r).advanced).rcdr r).taken r (s.rcdr r).nextSeq x)).recs := by
  unfold recNumber
  refine recFreezeRule_recs_of_recs x _ ?_
  split
  · split
    · rw [State.bump_recs]; rfl
    · rfl
  · rfl

theorem rcdr_recNumber_same (h : tsorted none s.recs = true) :
    (recNumber r x s).rcdr r = (s.rcdr r).advanced.taken r (s.rcdr r).nextSeq x := by
  rw [rcdr_of_recs (recNumber_recs x), rcdr_setRcdr_same (setRcdr_recs_sorted _ h), rcdr_setRcdr_same h]

theorem rcdr_recNumber_other (hr : r' ≠ r) : (recNumber r x s).rcdr r' = s.rcdr r' := by
  rw [rcdr_of_recs (recNumber_recs x), rcdr_setRcdr_other _ hr, rcdr_setRcdr_other _ hr]

theorem RecordersFit.recNumber (h : RecordersFit s) : RecordersFit (recNumber r x s) := by
  have hadvanced : RecordersFit (s.setRcdr r (s.rcdr r).advanced) := h.setRcdr (h.fits r)
  exact (hadvanced.setRcdr (Recorder.taken_fits (hadvanced.fits r))).of_recs (recNumber_recs x)

end

/-- Settles O60: the numbered recorder advances its number and takes the record, and no other recorder is written. -/
theorem recorderAreas : Obligations.RecorderAreas := by
  unfold Obligations.RecorderAreas
  refine ⟨fun s r x h => h.recNumber x, ?_, fun s r r' x hr => rcdr_recNumber_other x hr⟩
  intro s r x h
  rw [rcdr_recNumber_same x h.sorted]
  refine ⟨Recorder.taken_nextSeq, fun e he => Recorder.mem_taken_first he, fun hfrozen => ?_, fun hfrozen => ?_⟩
  · exact Recorder.taken_frozen (c := (s.rcdr r).advanced) hfrozen
  · rw [Recorder.taken_notFrozen (c := (s.rcdr r).advanced) hfrozen, Recorder.stored_last_newest]

end Sys2Proof.Machine
end

