-- ==== Sys2Proof/Proofs/FaultPins.lean ====
section
/-!
PROOF. Error inputs of an FS, a CT and the CC, the handlings they open, and the registers that show and clear them (R270
to R276).
-/
namespace Sys2Proof.Machine

/-! ### A pulse on an input of an FS (R272, R273) -/

section
variable {s : State} {f i u : Nat} {e h : Bool}

/-- The first pulse of an input that stands for a unit opens a handling. -/
theorem fsPinLatch_first (hunit : pinUnit f i = some u) (hlatched : (s.pin f i).latched = false)
    (hstuck : (s.pin f i).stuck = false) :
    fsPinLatch f i e h s = fsHandling f i (s.setPin f i (pinPulse s (s.pin f i) e h)) := by
  simp only [fsPinLatch, hunit, hlatched, hstuck, Option.isNone_some, Bool.or_self, Bool.false_eq_true, if_false]

/-- A pulse of a latched or stuck input opens none. -/
theorem fsPinLatch_again (hunit : pinUnit f i = some u)
    (hagain : (s.pin f i).latched = true ∨ (s.pin f i).stuck = true) :
    fsPinLatch f i e h s = fswSync f (s.setPin f i (pinPulse s (s.pin f i) e h)) := by
  simp only [fsPinLatch, hunit, Bool.or_eq_true_iff.mpr hagain, Option.isNone_some, Bool.false_eq_true, if_false,
    if_true]

/-! ### Handlings (R275, R276) -/

theorem fsHandling_opens (hopen : (fswSync f s).rb F.FS_FSW_open f = false) :
    fsHandling f i s = ccHandling (setGlobal f 1 (raiseFs f
      { code := Code.ERR_PIN, unit := (pinUnit f i).getD (fsUnit f),
        params := i + 2 ^ 9 * (if i < 64 then (fswSync f s).rd F.CT_ERR_latched (64 * f + i) else 0)
          + 2 ^ 17 * ((fswSync f s).pin f i).edges }
      ((fswSync f s).wr F.FS_FSW_open f 1))) :=
  if_neg (Bool.eq_false_iff.mp hopen)

theorem fsHandling_merges (hopen : (fswSync f s).rb F.FS_FSW_open f = true) :
    fsHandling f i s = ((fswSync f s).bump F.FS_FSW_sec_count f).wr F.FS_FSW_merged f 1 :=
  if_pos hopen

end

/-! ### Commands of inputs (R272, R273) -/

section
variable {s : State} {p : PinRef} (hp : pinOk p = true)
include hp

theorem exec_errPinLatch (e h : Bool) : exec (.errPinLatch p e h) s = .next (pinLatch p e h s) := onUnit_ok hp _

theorem exec_pinRelatch_active (hlevel : (pinEntry s p).level = true) (hlatched : (pinEntry s p).latched = false)
    (hstuck : (pinEntry s p).stuck = false) :
    exec (.pinRelatch p) s = .next (pinLatch p false true (s.toWt ((pinEntry s p).clearedAt + 10 * ms))) := by
  change execPinRelatch p s = _
  simp only [execPinRelatch, onUnit_ok hp, hlevel, hlatched, hstuck, Bool.not_false, Bool.and_self, if_true]

theorem exec_pinStuck_active (hlevel : (pinEntry s p).level = true) (hstuck : (pinEntry s p).stuck = false)
    (hgated : pinGated s p = false) :
    exec (.pinStuck p) s = .next (stuckRecord p true (latchBit p (setPinEntry (s.toWt ((pinEntry s p).since + sec))
      { pinEntry s p with stuck := true, latched := true } p))) := by
  change execPinStuck p s = _
  simp only [execPinStuck, onUnit_ok hp, hlevel, hstuck, hgated, Bool.not_false, Bool.and_self, if_true]

theorem exec_pinStuck_stuck (hstuck : (pinEntry s p).stuck = true) : exec (.pinStuck p) s = .next s := by
  change execPinStuck p s = _
  simp only [execPinStuck, onUnit_ok hp, hstuck, Bool.not_true, Bool.and_false, Bool.false_and, Bool.false_eq_true,
    if_false]

theorem exec_pinUnstuck_stuck (hstuck : (pinEntry s p).stuck = true) (hgated : pinGated s p = false) :
    exec (.pinUnstuck p) s = .next (stuckRecord p false
      (setPinEntry s { pinEntry s p with stuck := false, level := false } p)) := by
  change execPinUnstuck p s = _
  simp only [execPinUnstuck, onUnit_ok hp, hstuck, hgated, Bool.not_false, Bool.and_self, if_true]

theorem exec_pinUnstuck_gated (hgated : pinGated s p = true) : exec (.pinUnstuck p) s = .next s := by
  change execPinUnstuck p s = _
  simp only [execPinUnstuck, onUnit_ok hp, hgated, Bool.not_true, Bool.and_false, Bool.false_eq_true, if_false]

end

/-! ### Inputs of a gated cluster (Table 11-7a) -/

section
variable {s : State} {k : Nat} (hgated : s.ctGated k = true)
include hgated

theorem pinLatch_host_gated (i : Nat) (e h : Bool) : pinLatch (.host k i) e h s = s := if_pos hgated

theorem pinLatch_ctInt_gated (i : Nat) (e h : Bool) : pinLatch (.ctInt k i) e h s = s := if_pos hgated

end

/-! ### Registers of the inputs and of the handlings (R272, R275, R276) -/

section
variable {s : State} {w : Writer} {f i k v : Nat}

theorem exec_fswClose_granted (h : Granted s w .FS_FSW f) (hf : fieldOk f = true) :
    exec (.fswClose w f v) s = .next (wrote w .FS_FSW f (fswWrite w f v s)) := by
  change execFswClose w f v s = _
  rw [execFswClose, onUnit_ok hf, regWrite_granted h]

theorem fswWrite_closes (hw : isSeq w f = true ∨ s.isOwner w = true) (hv : bit v 33 = true) :
    fswWrite w f v s =
      setGlobal f 0 (((s.wr F.FS_FSW_open f 0).wr F.FS_FSW_sec_count f 0).wr F.FS_FSW_merged f 0) :=
  if_pos (by rw [Bool.or_eq_true_iff.mpr hw, hv, Bool.and_self])

theorem exec_ccFaultClose_granted (h : Granted s w .CC_FAULT_CTL 0) :
    exec (.ccFaultClose w v) s = .next (wrote w .CC_FAULT_CTL 0 (ccFaultWrite w v s)) :=
  regWrite_granted h

/-- A write of `open` alone, bit 5 of CC_FAULT_CTL, leaves the bits from 8 that clear the CC's sources at 0. -/
theorem bit_openOnly (i : Nat) : bit 32 (8 + i) = false := by
  have hbelow : 32 < 2 ^ (8 + i) :=
    calc 32 < 2 ^ 8 := by decide
      _ ≤ 2 ^ (8 + i) := Nat.pow_le_pow_right (by decide) (Nat.le_add_right 8 i)
  rw [bit, Nat.div_eq_of_lt hbelow]; rfl

theorem ccFaultWrite_closes (hown : s.isOwner w = true) : ccFaultWrite w 32 s =
    ((s.wr F.CC_FAULT_CTL_open 0 0).wr F.CC_FAULT_CTL_sec_count 0 0).wr F.CC_FAULT_CTL_merged 0 0 := by
  have hclose : (s.isOwner w && bit 32 5) = true := by rw [hown]; rfl
  simp only [ccFaultWrite, hclose, if_true]
  split
  · exact forAll_unchanged (fun i => by rw [bit_openOnly i]; rfl) _
  · rfl

theorem exec_pinSelect_granted (h : Granted s w .FS_PIN_SEL f) (hf : fieldOk f = true) :
    exec (.pinSelect w f v) s = .next (wrote w .FS_PIN_SEL f (pinSelWrite w f v s)) := by
  change execPinSelect w f v s = _
  rw [execPinSelect, onUnit_ok hf, regWrite_granted h]

theorem pinSelWrite_shows (hw : notTenant w = true) (hi : i < 256) : pinSelWrite w f i s =
    ((s.wr F.FS_PIN_SEL_index f i).setReg .FS_PIN_DATA f (b2n (s.pin f i).level + 2 * b2n (s.pin f i).latched
      + 4 * (s.pin f i).edges + 2 ^ 6 * b2n (s.pin f i).stuck + 2 ^ 8 * (pinUnit f i).getD 0)).setPin f i
        { s.pin f i with edges := 0 } := by
  simp only [pinSelWrite, hw, if_true, Nat.mod_eq_of_lt hi]

theorem exec_pinClear_granted (h : Granted s w .FS_PIN_CLR f) (hf : fieldOk f = true) :
    exec (.pinClear w f v) s = .next (wrote w .FS_PIN_CLR f (pinClrWrite w f v s)) := by
  change execPinClear w f v s = _
  rw [execPinClear, onUnit_ok hf, regWrite_granted h]

theorem pinClrWrite_clears (hw : notTenant w = true) (hi : i < 256) (hstuck : (s.pin f i).stuck = false) :
    pinClrWrite w f i s = fswSync f (s.setPin f i { s.pin f i with latched := false, clearedAt := s.wt }) := by
  simp only [pinClrWrite, hw, if_true, Nat.mod_eq_of_lt hi, hstuck, Bool.false_and]

theorem exec_ctErrCapture_granted (h : Granted s w .CT_ERR_CAP k) (hk : ctOk k = true) :
    exec (.ctErrCapture w k v) s = .next (wrote w .CT_ERR_CAP k (ctErrCapWrite w k v s)) := by
  change execCtErrCapture w k v s = _
  rw [execCtErrCapture, onUnit_ok hk, regWrite_granted h]

theorem ctErrCapWrite_captures (hw : notTenant w = true) : ctErrCapWrite w k 1 s =
    forAll (List.range 8) (fun i t => t.setHpin k i { t.hpin k i with edges := 0 })
      (s.wr F.CT_ERR_edges k ((List.range 8).foldl (fun a i => a + 2 ^ (4 * i) * (s.hpin k i).edges) 0)) :=
  if_pos (by rw [hw]; rfl)

end

/-- Settles O35: each clause is one case of a pulse, of a handling, of an input's expiry or of a granted write. -/
theorem faultPins : Obligations.FaultPins := by
  unfold Obligations.FaultPins
  refine ⟨?_, ?_, ?_, ?_, ?_, ?_, ?_, ?_, ?_, ?_, ?_, ?_, ?_, ?_⟩
  · intro s t f i u e h hf hunit hlatched hstuck ht
    rw [ht, ← fsPinLatch_first hunit hlatched hstuck]
    exact exec_errPinLatch (p := .fs f i) hf e h
  · intro s f i u e h hf hunit hagain
    rw [← fsPinLatch_again hunit hagain]
    exact exec_errPinLatch (p := .fs f i) hf e h
  · intro s t u f i host ht hopen hhost hu
    subst ht
    rw [fsHandling_opens hopen, hu, hhost]
  · intro s t f i ht hopen
    subst ht
    exact fsHandling_merges hopen
  · intro s k i e h hk hgated
    rw [exec_errPinLatch (p := .host k i) hk, exec_errPinLatch (p := .ctInt k i) hk, pinLatch_host_gated hgated,
      pinLatch_ctInt_gated hgated]
    exact ⟨rfl, rfl⟩
  · intro s i e h hi
    exact exec_errPinLatch (p := .cc i) (decide_eq_true hi) e h
  · intro s p x hp hx hlevel hlatched hstuck
    subst hx
    exact exec_pinRelatch_active hp hlevel hlatched hstuck
  · intro s p x hp hx hlevel hstuck hgated
    subst hx
    exact exec_pinStuck_active hp hlevel hstuck hgated
  · intro s p x hp hx hstuck
    subst hx
    exact ⟨exec_pinStuck_stuck hp hstuck, exec_pinUnstuck_stuck hp hstuck, exec_pinUnstuck_gated hp⟩
  · intro s w f v h hf hw hv
    rw [exec_fswClose_granted h hf, fswWrite_closes hw hv]
  · intro s w h hown
    rw [exec_ccFaultClose_granted h, ccFaultWrite_closes hown]
  · intro s t w f i h hf hw hi ht
    rw [exec_pinSelect_granted h hf, pinSelWrite_shows hw hi, ht]
  · intro s w f i h hf hw hi hstuck
    rw [exec_pinClear_granted h hf, pinClrWrite_clears hw hi hstuck]
  · intro s w k h hk hw
    rw [exec_ctErrCapture_granted h hk, ctErrCapWrite_captures hw]

end Sys2Proof.Machine
end

