-- ==== Sys2Proof/Proofs/PartitionResets.lean ====
section
/-!
PROOF. The phases of a partition reset and the partition map (R296, R305 to R309, R319). An event that comes in another
phase changes nothing by log entry 15.
-/
namespace Sys2Proof.Machine

section
variable {s t : State} {p : Nat} {x : PReset} (hp : partOk p = true)
include hp

/-! ### T_iso and the drain (R305, R307) -/

theorem exec_partitionIsolate_otherPhase (hphase : s.phase p ≠ 1) : exec (.partitionIsolate p) s = .next s := by
  change execPartitionIsolate p s = _
  rw [execPartitionIsolate, onUnit_ok hp]
  cases s.preset? p with
  | none => rfl
  | some x => simp only [beq_false_of_ne hphase, Bool.false_and, Bool.false_eq_true, if_false]

variable (hx : s.preset? p = some x)
include hx

theorem exec_partitionIsolate_isolating (hphase : s.phase p = 1) (hiso : x.iso = false) :
    exec (.partitionIsolate p) s = .next (isolate p s) := by
  change execPartitionIsolate p s = _
  simp only [execPartitionIsolate, onUnit_ok hp, hx, hphase, hiso, beq_self_eq_true, Bool.not_false, Bool.and_self, if_true]

theorem exec_resetDrained_isolated (all : Bool) (hphase : s.phase p = 1) (hiso : x.iso = true) (hkind : x.kind ≠ .scrub)
    (ht : t = if all then s else s.toWt (x.tIso + 20 * us)) :
    exec (.resetDrained p all) s = .next (({ t with
      prtReq := t.prtReq.filter (· != p) ++ [p]
      prtScrub := t.prtScrub.filter (· != p) } : State).setPhase p 2) := by
  change execResetDrained p all s = _
  simp only [execResetDrained, onUnit_ok hp, hx, hphase, hiso, ← ht, if_neg hkind, List.append_nil, beq_self_eq_true,
    Bool.and_self, if_true]

/-! ### The host's acknowledgement and retraining (R306, R308, R316) -/

theorem exec_partitionResetAck_waiting (hphase : s.phase p = 2) (hreq : s.prtReq.contains p = true)
    (hgated : partGated s p = false) (hkind : x.kind ≠ .scrub) :
    exec (.partitionResetAck p) s = .next (epochSync (resetAcked p s)) := by
  change execPartitionResetAck p s = _
  simp only [execPartitionResetAck, onUnit_ok hp, partAcked, hx, hphase, hreq, hgated, if_neg hkind, bne_self_eq_false,
    Bool.not_true, Bool.or_self, Bool.false_eq_true, if_false]

theorem exec_retrainDone_recordsInUse (hphase : s.phase p = 3) (hrel : x.releasing = false) (hon : s.aonOnly = false)
    (hall : x.left.all (fun m => trained s m) = true) :
    exec (.retrainDone p []) s = .next ((s.setPreset p { x with left := [], full := false, releasing := true }).wr
      F.CC_PART_STAT_full p 0) := by
  change execRetrainDone p [] s = _
  simp only [execRetrainDone, onUnit_ok hp, hx, hphase, hrel, hon, List.any_nil, Bool.or_false, hall, beq_self_eq_true,
    Bool.not_false, Bool.and_self, if_true]
  rfl

theorem exec_retrainTimeout_late {a : Nat} (hack : x.ackAt = some a) (hphase : s.phase p = 3) (hrel : x.releasing = false)
    (hfired : x.fired1 = false) (hpaused : x.paused = none)
    (ht : t = (s.toWt (a + 12 * sec)).setPreset p { x with fired1 := true }) :
    exec (.retrainTimeout p) s = .next (resetLate 2 p 1 0 t.ccUnit (t.fieldsOf p) t) := by
  subst ht
  change execRetrainTimeout p s = _
  simp only [execRetrainTimeout, onUnit_ok hp, hx, hack, hphase, hrel, hfired, hpaused, beq_self_eq_true,
    Bool.not_false, Option.isNone_none, Bool.and_self, if_true]

/-! ### The release (R305) -/

theorem exec_partitionRelease_releasing (hrel : x.releasing = true) (hdeseal : tfind s.deseals p = none)
    (hon : s.aonOnly = false) (hkind : x.kind ≠ .scrub) :
    exec (.partitionRelease p) s = .next (epochSync (runHolds (partRelease p s))) := by
  change execPartitionRelease p s = _
  simp only [execPartitionRelease, onUnit_ok hp, partReleaseDone, hx, hrel, hdeseal, hon, if_neg hkind, Bool.not_true,
    Option.isSome_none, Bool.or_self, Bool.false_eq_true, if_false]

theorem exec_partitionRelease_notReleasing (hrel : x.releasing = false) : exec (.partitionRelease p) s = .next s := by
  change execPartitionRelease p s = _
  simp only [execPartitionRelease, onUnit_ok hp, partReleaseDone, hx, hrel, Bool.not_false, Bool.true_or, if_true]

end

section
variable {s t : State} {p : Nat} {x : PReset} (hx : s.preset? p = some x)
include hx

theorem resetAcked_outage (hkind : x.kind = .outage) :
    resetAcked p s = wdogSyncAll ((s.setPreset p { x with ackAt := some s.wt }).setPhase p 5) := by
  simp only [resetAcked, hx, if_pos hkind]

theorem resetAcked_retrains (hkind : x.kind ≠ .outage) (ht : t = forAll (s.chansOf p) trainRead s) :
    resetAcked p s =
      wdogSyncAll (((prtDrop p t).setPreset p { x with ackAt := some t.wt, left := t.chansOf p }).setPhase p 3) := by
  simp only [resetAcked, retrainStart, hx, if_neg hkind, ht]

end

/-! ### The partition map (R296) -/

section
variable {s : State} {w : Writer} {j v : Nat}

theorem exec_partitionMapWrite_fields (h : Granted s w .CC_PART_FIELD j) (hj : j < 16) :
    exec (.partitionMapWrite w false j v) s = .next (wrote w .CC_PART_FIELD j (mapWrite w false j v s)) := by
  have hin : decide (j < 16) = true := decide_eq_true hj
  change execPartitionMapWrite w false j v s = _
  simp only [execPartitionMapWrite, onUnit_ok hin, regWrite_granted h, Bool.false_eq_true, if_false]

theorem exec_partitionMapWrite_channels_noRight (hreach : s.regReach w .CC_PART_CHAN j = true)
    (hmay : s.mayWrite w .CC_PART_CHAN j = false) (hj : j < 128) :
    exec (.partitionMapWrite w true j v) s = .next (noRight w .CC_PART_CHAN s) := by
  have hin : decide (j < 128) = true := decide_eq_true hj
  change execPartitionMapWrite w true j v s = _
  simp only [execPartitionMapWrite, onUnit_ok hin, regWrite_noRight hreach hmay, if_true]

/-- A field of a partition in service stays, and so does one that would join such a partition. -/
theorem mapEntry_field_refused {i q : Nat} (hq : q = bits v (8 * i) 6) (hf : fieldOk (8 * j + i) = true)
    (hmoves : bits (s.regVal .CC_PART_FIELD j) (8 * i) 8 ≠ q) (hok : partOk q = true)
    (hserves : fieldHeld s (8 * j + i) = false ∨ s.phase q < 4) :
    mapEntry false j v i s = s.wr F.CC_RESET_STAT_refused 0 1 := by
  have hlow : q % 2 ^ 6 = q := by rw [hq, bits, Nat.mod_mod]
  have hrefused : (!fieldHeld s (8 * j + i) || !notReleased s q) = true := by
    rcases hserves with hheld | hphase
    · rw [hheld]; rfl
    · rw [notReleased, decide_eq_false (Nat.not_le.mpr hphase), Bool.not_false, Bool.or_true]
  simp only [mapEntry, ← hq, hlow, hf, hok, beq_false_of_ne hmoves, Bool.false_and, Bool.not_false, Bool.true_and,
    Bool.not_true, Bool.or_self, Bool.or_assoc, hrefused, Bool.or_true, Bool.false_eq_true, if_false, if_true]

end

/-- Settles O38: each clause is one case of a phase of the reset or of a write of the map. -/
theorem partitionResets : Obligations.PartitionResets := by
  unfold Obligations.PartitionResets
  refine ⟨?_, ?_, ?_, ?_, ?_, ?_, ?_, ?_, ?_, ?_, ?_, ?_⟩
  · intro s p x hp hx hphase hiso
    exact exec_partitionIsolate_isolating hp hx hphase hiso
  · intro s p hp hphase
    exact exec_partitionIsolate_otherPhase hp hphase
  · intro s p x hp hx hphase hiso hkind
    exact exec_resetDrained_isolated hp hx true hphase hiso hkind rfl
  · intro s t p x hp hx hphase hiso hkind ht
    exact exec_resetDrained_isolated hp hx false hphase hiso hkind ht
  · intro s t p x hp hx hphase hreq hgated hscrub ht
    rw [exec_partitionResetAck_waiting hp hx hphase hreq hgated hscrub]
    exact ⟨fun hkind => by rw [resetAcked_retrains hx hkind ht], fun hkind => by rw [resetAcked_outage hx hkind]⟩
  · intro s p x hp hx hphase hrel hon hall
    exact exec_retrainDone_recordsInUse hp hx hphase hrel hon hall
  · intro s t p a x hp hx hack hphase hrel hfired hpaused ht
    exact exec_retrainTimeout_late hp hx hack hphase hrel hfired hpaused ht
  · intro s p x hp hx hrel hdeseal hon hkind
    exact exec_partitionRelease_releasing hp hx hrel hdeseal hon hkind
  · intro s p x hp hx hrel
    exact exec_partitionRelease_notReleasing hp hx hrel
  · intro s w j v h hj hown
    rw [exec_partitionMapWrite_fields h hj, mapWrite, if_pos hown]
  · intro s w j v hreach hmay hj
    exact exec_partitionMapWrite_channels_noRight hreach hmay hj
  · intro s j v i p q _ hq hf hmoves hok hserves
    exact mapEntry_field_refused hq hf hmoves hok hserves

end Sys2Proof.Machine
end

