-- ==== Sys2Proof/Proofs/SuspectsAndReplays.lean ====
section
/-!
PROOF. Suspect lists and context replays (R320 to R322, Table 12-4). That the first of the core's watchdogs to expire ends a
replay is log entry 66.
-/
namespace Sys2Proof.Machine

/-! ### Suspect lists (R320, Table 12-14) -/

/-- CT_SUSP_SEL and CT_SUSP_DATA show the suspect list of engine `i` of cluster `k`. -/
def suspShow (k i : Nat) (x : Susp) (s : State) : State :=
  ((s.setReg .CT_SUSP_SEL k (i + 2 ^ 10 * b2n x.frozen + 2 ^ 11 * x.ids.length + 2 ^ 15 * b2n x.ovf)).setReg
    .CT_SUSP_DATA0 k (leNat (((x.ids.take 4).map (leBytes 2)).flatten))).setReg
    .CT_SUSP_DATA1 k (leNat (((x.ids.drop 4).map (leBytes 2)).flatten))

section
variable {s : State} {w : Writer} {k v : Nat}

theorem exec_suspectSelect_granted (h : Granted s w .CT_SUSP_SEL k) (hk : ctOk k = true) :
    exec (.suspectSelect w k v) s = .next (wrote w .CT_SUSP_SEL k (suspSelWrite w k v s)) := by
  change execSuspectSelect w k v s = _
  rw [execSuspectSelect, onUnit_ok hk, regWrite_granted h]

theorem exec_suspectListRelease_granted (h : Granted s w .CT_SUSP_SEL k) (hk : ctOk k = true) :
    exec (.suspectListRelease w k v) s = .next (wrote w .CT_SUSP_SEL k (suspSelWrite w k v s)) := by
  change execSuspectListRelease w k v s = _
  rw [execSuspectListRelease, onUnit_ok hk, regWrite_granted h]

variable (hw : notTenant w = true)
include hw

theorem suspSelWrite_select (hrel : bit v 9 = false) :
    suspSelWrite w k v s = suspShow k (v % 512) (s.suspOf (512 * k + v % 512)) s := by
  simp only [suspSelWrite, suspShow, hw, hrel, Bool.not_true, Bool.false_eq_true, if_false]

theorem suspSelWrite_release {e : Nat} {t : State} (hrel : bit v 9 = true) (he : e = 512 * k + v % 512)
    (ht : t = s.setSusp e { s.suspOf e with frozen := false }) :
    suspSelWrite w k v s = suspShow k (v % 512) (t.suspOf e) t := by
  subst he ht
  simp only [suspSelWrite, suspShow, hw, hrel, Bool.not_true, Bool.false_eq_true, if_false, if_true]

end

/-! ### A write of FS_CREPLAY_CMD (R321) -/

section
variable {s t : State} {w : Writer} {f v : Nat}

theorem exec_creplayStart_granted (h : Granted s w .FS_CREPLAY_CMD f) (hf : fieldOk f = true) :
    exec (.creplayStart w f v) s = .next (wrote w .FS_CREPLAY_CMD f (crepWrite w f v s)) := by
  change execCreplayStart w f v s = _
  rw [execCreplayStart, onUnit_ok hf, regWrite_granted h]

theorem exec_creplayCancel_granted (h : Granted s w .FS_CREPLAY_CMD f) (hf : fieldOk f = true) :
    exec (.creplayCancel w f v) s = .next (wrote w .FS_CREPLAY_CMD f (crepWrite w f v s)) := by
  change execCreplayCancel w f v s = _
  rw [execCreplayCancel, onUnit_ok hf, regWrite_granted h]

variable (hw : notTenant w = true) (hworks : s.fsWorks f = true)
include hw hworks

theorem crepWrite_cancel (hop : bit v 31 = true) : crepWrite w f v s = crepEnd f 5 false s := by
  simp only [crepWrite, hw, hworks, hop, Bool.not_true, Bool.or_self, Bool.false_eq_true, if_false, if_true]

variable (hop : bit v 31 = false)
include hop

theorem crepWrite_start_open {x : CRep} (hx : tfind s.crep f = some x) :
    crepWrite w f v s = s.wr F.FS_CREPLAY_STAT_refused f 1 := by
  simp only [crepWrite, hw, hworks, hop, hx, Option.isSome_some, Bool.not_true, Bool.or_self, Bool.false_eq_true,
    if_false, if_true]

variable (hnone : tfind s.crep f = none) (hon : s.aonOnly = false)
include hnone hon

theorem crepWrite_start_noWitness (hcore : witnessOf s (engCore (f * 2 ^ 15 + v % 2 ^ 15)) = none) :
    crepWrite w f v s = crepRefuse f (f * 2 ^ 15 + v % 2 ^ 15) (bits v 15 16) 6 0 s := by
  simp only [crepWrite, hw, hworks, hop, hnone, hon, hcore, Option.isSome_none, Bool.not_true, Bool.or_self,
    Bool.false_eq_true, if_false]

theorem crepWrite_start_witness {c : Nat} {x : CRep} {u : State}
    (hcore : witnessOf s (engCore (f * 2 ^ 15 + v % 2 ^ 15)) = some c) (hforce : tryForce c s = (true, t))
    (hx : x = { eng := f * 2 ^ 15 + v % 2 ^ 15, ctx := bits v 15 16, core := c,
                limit := t.wt + t.rd F.FS_CREPLAY_CFG_wait_ms f * ms })
    (hu : u = (t.wr F.FS_CREPLAY_STAT_state f 1).wr F.FS_CREPLAY_STAT_core f (coreIdx c)) :
    crepWrite w f v s = ({ u with crep := tins u.crep f x } : State).setCore c (raiseReq (u.core c) 2 0 false) := by
  simp only [crepWrite, hw, hworks, hop, hnone, hon, hcore, hforce, hx, hu, Option.isSome_none, Bool.not_true,
    Bool.or_self, Bool.false_eq_true, if_false]

end

/-! ### How a replay ends (R321, R322, Table 12-4) -/

section
variable {s : State} {f : Nat} {x : CRep}

/-- The watchdog of an engine of the replay's core expires first at `b`, which ends the replay. -/
theorem crepWatchdog_expires {t : State} {e b : Nat} {w : Wdog} (ht : t = coreWdogs x.core s)
    (hnext : nextExpiry t x.core = some (e, b)) (hw : w = tget {} t.wdogs e) :
    crepWatchdog f x s = crepEnd f 2 false { t.toWt b with wdogs := tput {} t.wdogs e { w with fired := true } } := by
  simp only [crepWatchdog, ← ht, hnext, hw]

theorem crepWatchdog_still (hnext : nextExpiry (coreWdogs x.core s) x.core = none) :
    crepWatchdog f x s = coreWdogs x.core s := by
  simp only [crepWatchdog, hnext]

variable (hf : fieldOk f = true) (hx : tfind s.crep f = some x)
include hf hx

theorem exec_creplayWaitExpire_open :
    exec (.creplayWaitExpire f) s = .next (if x.running then s else crepEnd f 6 false (s.toWt x.limit)) := by
  change execCreplayWaitExpire f s = _
  simp only [execCreplayWaitExpire, onUnit_ok hf, hx]

theorem exec_creplayLimitExpire_open (lim : Bool) :
    exec (.creplayLimitExpire f lim) s = .next (if !x.running then s
      else if lim then crepEnd f 2 true (s.toWt x.limit) else crepWatchdog f x s) := by
  change execCreplayLimitExpire f lim s = _
  simp only [execCreplayLimitExpire, onUnit_ok hf, hx]

theorem exec_replayDone_open (unable : Bool) :
    exec (.replayDone f unable) s = .next (if x.running then
      crepEnd f (if unable then 4 else if x.hit || coreLatent s x.core then 3 else 1) false s else s) := by
  change execReplayDone f unable s = _
  simp only [execReplayDone, onUnit_ok hf, hx]

end

/-- Settles O39: each clause is one case of a write of CT_SUSP_SEL or FS_CREPLAY_CMD, or of an event of an open replay. -/
theorem suspectsAndReplays : Obligations.SuspectsAndReplays := by
  unfold Obligations.SuspectsAndReplays
  refine ⟨?_, ?_, ?_, ?_, ?_, ?_, ?_⟩
  · rintro s _ w k v _ h hk hw hrel rfl rfl
    rw [exec_suspectSelect_granted h hk, suspSelWrite_select hw hrel, suspShow]
  · rintro s t _ w k v e _ h hk hw hrel he ht rfl rfl
    rw [exec_suspectListRelease_granted h hk, suspSelWrite_release hw hrel he ht, suspShow]
  · intro s w f v x h hf hw hworks hx
    refine ⟨fun hop => ?_, fun hop => ?_⟩
    · rw [exec_creplayStart_granted h hf, crepWrite_start_open hw hworks hop hx]
    · rw [exec_creplayCancel_granted h hf, crepWrite_cancel hw hworks hop]
  · intro s w f v h hf hw hworks hnone hop hon hcore
    rw [exec_creplayStart_granted h hf, crepWrite_start_noWitness hw hworks hop hnone hon hcore]
  · intro s t u w f v c x h hf hw hworks hnone hop hon hcore hforce hx hu
    rw [exec_creplayStart_granted h hf, crepWrite_start_witness hw hworks hop hnone hon hcore hforce hx hu]
  · intro s f x hf hx hrun
    refine ⟨?_, fun b => ?_, fun b => ?_⟩
    · rw [exec_creplayWaitExpire_open hf hx, hrun, if_neg Bool.false_ne_true]
    · rw [exec_creplayLimitExpire_open hf hx, hrun, Bool.not_false, if_pos rfl]
    · rw [exec_replayDone_open hf hx, hrun, if_neg Bool.false_ne_true]
  · intro s f x hf hx hrun
    rw [exec_creplayWaitExpire_open hf hx, exec_creplayLimitExpire_open hf hx, exec_creplayLimitExpire_open hf hx,
      exec_replayDone_open hf hx, exec_replayDone_open hf hx, hrun]
    refine ⟨rfl, rfl, rfl, fun t e b w ht hnext hw => crepWatchdog_expires ht hnext hw, crepWatchdog_still, rfl, ?_⟩
    simp only [Bool.or_eq_true, Bool.false_eq_true, if_false, if_true]

end Sys2Proof.Machine
end

