-- ==== Sys2Proof/Proofs/CheckpointHost.lean ====
section
/-!
PROOF. The partner's side of a save and the restores (R327, R332, R334, R337 to R340). Log entries 61 and 62 name the
cause 7, the newest manifest and the end of a receiving slot, 110 the wait for staging buffers, 118 the bytes of a served
block, and 15 the block of an entry that hosts nothing.
-/
namespace Sys2Proof.Machine

/-! ### The open (R334) -/

section
variable {s : State} {h wafer part shard count len key step : Nat}

theorem exec_ckptOpenArrive_accepted {x : Words4} (hx : x = s.host h) (hvalid : x.hValid = true)
    (hwafer : x.hWafer = wafer) (hpart : x.hPart = part) (hshard : x.hShard = shard) (hcount : x.hChans.length = count)
    (hlen : len ≤ x.hLen) (hchans : x.hChans.all (fun m => mtOk m && s.chanFree m && !mtOrphan s m) = true)
    (hon : s.aonOnly = false) (hscrap : s.scrapped = false) :
    exec (.ckptOpenArrive h wafer part shard count len key step) s = .next (hostSay h true { s with
      hosting := tins (tdel s.hosting h) h
        { slot := if x.hHeld = true then 1 - x.hCommitted else 0, len := len, key := key, step := step } }) := by
  change execCkptOpenArrive h wafer part shard count len key step s = _
  simp only [execCkptOpenArrive, ← hx, hvalid, hwafer, hpart, hshard, hcount, hchans, hon, hscrap, decide_eq_true hlen,
    beq_self_eq_true, Bool.not_false, Bool.and_self, if_true]

theorem exec_ckptOpenArrive_otherWafer (hwafer : (s.host h).hWafer ≠ wafer) :
    exec (.ckptOpenArrive h wafer part shard count len key step) s = .next (hostSay h false s) := by
  change execCkptOpenArrive h wafer part shard count len key step s = _
  simp only [execCkptOpenArrive, beq_false_of_ne hwafer, Bool.and_false, Bool.false_and, Bool.false_eq_true, if_false]

end

/-! ### Blocks, root and manifest of an open slot (R332, R334) -/

section
variable {s : State} {h k j slv : Nat} {data : List Byte}

theorem exec_shadowBlockArrive_notHosting (hnone : tfind s.hosting h = none) :
    exec (.shadowBlockArrive h k j slv data) s = .next s := by
  change execShadowBlockArrive h k j slv data s = _
  simp only [execShadowBlockArrive, hnone]

variable {x : HSess} (hx : tfind s.hosting h = some x)
include hx

theorem exec_shadowBlockArrive_written {t u : State} {m b : Nat} (hm : (s.host h).hChans[k]? = some m)
    (hon : s.aonOnly = false) (hdrain : drainStalls s = false) (horphan : mtOrphan s m = false) (hj : j < x.len)
    (hstage : stageFree s [m] = true) (hb : b = (s.host h).hSlot x.slot + j)
    (ht : t = (mtWriteAs true m b slv data s).bumpWrap F.MT_SHADOW_STAT_in m)
    (hu : u = (if (slvFog (getSlv t m b) || !slvOk slv) = true then t.bump F.MT_SHADOW_ERR_bad_block m else t)) :
    exec (.shadowBlockArrive h k j slv data) s = .next { u with
      hosting := tins (tdel u.hosting h) h { x with
        digs := x.digs.filter (fun d => !(d.1 == k && d.2.1 == j)) ++ [(k, j, blockDigest x.key k j data)] } } := by
  subst hu ht hb
  change execShadowBlockArrive h k j slv data s = _
  simp only [execShadowBlockArrive, hx, hm, hon, hdrain, horphan, hstage, decide_eq_false (Nat.not_le.mpr hj),
    Bool.not_true, Bool.or_self, Bool.false_eq_true, if_false]

theorem exec_ckptRootArrive_agrees {root : Nat} (hroot : hostRoot (s.host h).hChans.length x = some root) :
    exec (.ckptRootArrive h root) s =
      .next (hostSay h true { s with hosting := tins (tdel s.hosting h) h { x with matched := true } }) := by
  change execCkptRootArrive h root s = _
  simp only [execCkptRootArrive, hx, hroot, beq_self_eq_true, if_true]

theorem exec_ckptRootArrive_disagrees {root : Nat} (hroot : hostRoot (s.host h).hChans.length x ≠ some root) :
    exec (.ckptRootArrive h root) s = .next (hostSay h false { s with hosting := tdel s.hosting h }) := by
  change execCkptRootArrive h root s = _
  simp only [execCkptRootArrive, hx, beq_false_of_ne hroot, Bool.false_eq_true, if_false]

theorem exec_ckptManifestArrive_notMatched {man : List Byte} (hmat : x.matched = false) :
    exec (.ckptManifestArrive h man) s = .next (hostSay h false s) := by
  change execCkptManifestArrive h man s = _
  simp only [execCkptManifestArrive, hx, hmat, Bool.false_and, Bool.false_eq_true, if_false]

theorem exec_ckptManifestArrive_committed {m : Nat} {man : List Byte} {y : Words4} {put : Nat → State → State}
    (hmat : x.matched = true) (hsha : beNat (man.drop 4048) = Config.sha384 (man.take 4048)) (hy : y = s.host h)
    (hm : m = y.hChans.headD 0)
    (hput : put = fun i t => putSlv m (y.hSlot x.slot + y.hLen + i)
      (mkSlv (crc48 (slice man (2048 * i) 2048)) 30 false 1 y.hPart) t) :
    exec (.ckptManifestArrive h man) s = .next (hostSay h true { put 1 (put 0 s) with
      hosts := tput {} s.hosts h { y with w2 := setBits y.w2 61 2 (x.slot % 2 + 2), w3 := x.step }
      copyLen := tput 0 s.copyLen h x.len
      hosting := tdel s.hosting h }) := by
  subst hput hm hy
  change execCkptManifestArrive h man s = _
  simp only [execCkptManifestArrive, hx, hmat, hsha, beq_self_eq_true, Bool.and_self, if_true]

end

/-! ### A copy is served (R338, R339) -/

section
variable {s : State} {h : Nat}

theorem exec_restoreServeRequest_held {x : Words4} (hx : x = s.host h) (hvalid : x.hValid = true)
    (hheld : x.hHeld = true) (hon : s.aonOnly = false) (hchans : x.hChans.all (fun m => !mtOrphan s m) = true) :
    exec (.restoreServeRequest h) s = .next (hostSay h true
      (forAll x.hChans (fun m t => forAll (List.range (tget 0 s.copyLen h))
        (fun j t => serveBlock m (x.hSlot x.hCommitted + j) t) t) s)) := by
  change execRestoreServeRequest h s = _
  simp only [execRestoreServeRequest, ← hx, hvalid, hheld, hon, hchans, Bool.not_false, Bool.and_self, if_true]

theorem exec_restoreServeRequest_noCopy (hheld : (s.host h).hHeld = false) :
    exec (.restoreServeRequest h) s = .next (hostSay h false s) := by
  change execRestoreServeRequest h s = _
  simp only [execRestoreServeRequest, hheld, Bool.and_false, Bool.false_and, Bool.false_eq_true, if_false]

theorem serveBlock_read {t k u : State} {m b v : Nat} (ht : t = s.bumpWrap F.MT_SHADOW_STAT_out m)
    (hk : k = (t.drawFree 16384).2)
    (hread : mtRead m b (leBytes 2048 (t.drawFree 16384).1) ((k.drawFree 1).1 == 1) (k.drawFree 1).2 = (v, u)) :
    serveBlock m b s = if slvFog v = true then u.bump F.MT_SHADOW_ERR_bad_block m else u := by
  subst hk ht
  simp only [serveBlock, hread]

end

/-! ### Op restore (R338) -/

section
variable {s : State} {v p : Nat} (hp : p = bits v 3 6)
include hp

theorem exec_ckptRestore_granted {w : Writer} (h : Granted s w .CC_CKPT_CMD 0) (hok : partOk p = true)
    (hown : s.ownerOrTenant w p = true) :
    exec (.ckptRestore w v) s = .next (wrote w .CC_CKPT_CMD 0 (ckptRestore v s)) := by
  subst hp
  change execCkptRestore w v s = _
  simp only [execCkptRestore, onUnit_ok hok, regWrite_granted h, hown, if_true]

variable (hscrap : s.scrapped = false)
include hscrap

theorem ckptRestore_open (hopen : ckptOpen s p = true) : ckptRestore v s = s.wr F.CC_CKPT_STAT_busy p 1 := by
  subst hp
  simp only [ckptRestore, hscrap, hopen, Bool.true_or, Bool.false_eq_true, if_false, if_true]

variable (hopen : ckptOpen s p = false) (hscrub : tfind s.scrubs p = none) {r : Restore}
  (hr : r = { buf := bits v 9 1, src := bits v 11 2, realign := bit v 10 })
include hopen hscrub hr

theorem ckptRestore_fromPartner (hbar : restoreBar s p (partShards s p) = none) (hsrc : bits v 11 2 ≠ 0) :
    ckptRestore v s = ({ s with restores := tins s.restores p r } : State).wr F.CC_CKPT_STAT_state p 5 := by
  subst hr hp
  simp only [ckptRestore, hscrap, hopen, hscrub, hbar, beq_false_of_ne hsrc, Option.isSome_none, Bool.or_self,
    Bool.false_eq_true, if_false]

theorem ckptRestore_barred (hbar : (restoreBar s p (partShards s p)).isSome = true) :
    ckptRestore v s = restoreRefuse p 7 0
      (({ s with restores := tins s.restores p r } : State).wr F.CC_CKPT_STAT_state p 5) := by
  subst hr hp
  simp only [ckptRestore, hscrap, hopen, hscrub, hbar, Option.isSome_none, Bool.or_self, Bool.false_eq_true, if_false,
    if_true]

end

/-! ### The data of a restore (R338, R339) -/

/-- Of two manifests the one of the higher step is taken, the first where both are the same. -/
theorem newestMan_ofBoth {a b : List Byte} (ha : a ≠ []) (hb : b ≠ []) :
    newestMan a b = if leNat (slice a 16 8) < leNat (slice b 16 8) then b else a := by
  have hane : a.isEmpty = false := List.isEmpty_eq_false_iff.mpr ha
  have hbne : b.isEmpty = false := List.isEmpty_eq_false_iff.mpr hb
  simp only [newestMan, hane, hbne, Bool.not_false, Bool.true_and, Bool.false_or, decide_eq_true_eq]

section
variable {s : State} {p : Nat} {r : Restore} (hp : partOk p = true) (hr : tfind s.restores p = some r)
  (hdrain : drainStalls s = false) (hstage : stageFree s (partShadowChans s p) = true)
include hp hr hdrain hstage

theorem exec_restoreDataComplete_open (reach : Bool) (man : List Byte) (l : List MemRd) :
    exec (.restoreDataComplete p reach man l) s = .next (
      if r.src == 0 then restoreRun p r (tget [] s.ckptMan p) l s
      else if !reach then restoreRefuse p 6 0 s
      else restoreRun p r (if r.src == 3 then newestMan (man.take 4096) (man.drop 4096) else man) l s) := by
  change execRestoreDataComplete p reach man l s = _
  simp only [execRestoreDataComplete, onUnit_ok hp, hr, hdrain, hstage, Bool.not_true, Bool.or_self, Bool.false_eq_true,
    if_false]

theorem exec_restoreDataComplete_local {reach : Bool} {man : List Byte} {l : List MemRd} (hsrc : r.src = 0) :
    exec (.restoreDataComplete p reach man l) s = .next (restoreRun p r (tget [] s.ckptMan p) l s) := by
  rw [exec_restoreDataComplete_open hp hr hdrain hstage, hsrc, beq_self_eq_true, if_pos rfl]

variable (hsrc : r.src ≠ 0)
include hsrc

theorem exec_restoreDataComplete_answered (man : List Byte) (l : List MemRd) :
    exec (.restoreDataComplete p true man l) s = .next
      (restoreRun p r (if r.src == 3 then newestMan (man.take 4096) (man.drop 4096) else man) l s) := by
  rw [exec_restoreDataComplete_open hp hr hdrain hstage, beq_false_of_ne hsrc, if_neg Bool.false_ne_true, Bool.not_true,
    if_neg Bool.false_ne_true]

theorem exec_restoreDataComplete_noAnswer (man : List Byte) (l : List MemRd) :
    exec (.restoreDataComplete p false man l) s = .next (restoreRefuse p 6 0 s) := by
  rw [exec_restoreDataComplete_open hp hr hdrain hstage, beq_false_of_ne hsrc, if_neg Bool.false_ne_true, Bool.not_false,
    if_pos rfl]

end

/-- Settles O41: each clause is one case of a command to a partner, of op restore or of the arrival of its data. -/
theorem checkpointHost : Obligations.CheckpointHost := by
  unfold Obligations.CheckpointHost
  refine ⟨?_, ?_, ?_, ?_, ?_, ?_, ?_, ?_, ?_, ?_, ?_, ?_, ?_, ?_, ?_⟩
  · intro s h wafer part shard count len key step x hx hvalid hwafer hpart hshard hcount hlen hchans hon hscrap
    exact exec_ckptOpenArrive_accepted hx hvalid hwafer hpart hshard hcount hlen hchans hon hscrap
  · intro s h wafer part shard count len key step hwafer
    exact exec_ckptOpenArrive_otherWafer hwafer
  · intro s t u h k j slv m b data x hx hm hon hdrain horphan hj hstage hb ht hu
    exact exec_shadowBlockArrive_written hx hm hon hdrain horphan hj hstage hb ht hu
  · intro s h k j slv data hnone
    exact exec_shadowBlockArrive_notHosting hnone
  · intro s h root x hx
    exact ⟨exec_ckptRootArrive_agrees hx, exec_ckptRootArrive_disagrees hx⟩
  · intro s h man x hx hmat
    exact exec_ckptManifestArrive_notMatched hx hmat
  · intro s h m man x y put hx hmat hsha hy hm hput
    exact exec_ckptManifestArrive_committed hx hmat hsha hy hm hput
  · intro s h x hx hvalid hheld hon hchans
    exact exec_restoreServeRequest_held hx hvalid hheld hon hchans
  · intro s h hheld
    exact exec_restoreServeRequest_noCopy hheld
  · intro s t k u m b v ht hk hread
    exact serveBlock_read ht hk hread
  · intro s w v p h hp hok hown hscrap hopen
    rw [exec_ckptRestore_granted hp h hok hown, ckptRestore_open hp hscrap hopen]
  · intro s w v p r h hp hok hown hscrap hopen hscrub hbar hsrc hr
    rw [exec_ckptRestore_granted hp h hok hown, ckptRestore_fromPartner hp hscrap hopen hscrub hr hbar hsrc]
  · intro s p r man l hp hr hdrain hstage
    refine ⟨exec_restoreDataComplete_local hp hr hdrain hstage, fun hsrc => ?_, fun hsrc => ?_, fun hsrc => ?_⟩
    · have hpartner : r.src ≠ 0 := by omega
      have hsingle : r.src ≠ 3 := by omega
      rw [exec_restoreDataComplete_answered hp hr hdrain hstage hpartner, beq_false_of_ne hsingle, if_neg Bool.false_ne_true]
    · have hpartner : r.src ≠ 0 := by omega
      rw [exec_restoreDataComplete_answered hp hr hdrain hstage hpartner, hsrc, beq_self_eq_true, if_pos rfl]
    · exact exec_restoreDataComplete_noAnswer hp hr hdrain hstage hsrc man l
  · intro a b
    exact newestMan_ofBoth
  · intro s w v p r h hp hok hown hscrap hopen hscrub hbar hr
    rw [exec_ckptRestore_granted hp h hok hown, ckptRestore_barred hp hscrap hopen hscrub hr hbar]

end Sys2Proof.Machine
end

