-- ==== Sys2Proof/Proofs/Barriers.lean ====
section
/-!
PROOF. Barrier channels (R356 to R359, Tables 14-4, 14-5 and 14-8). That an entry of an engine that has not joined enters
nothing is log entry 64.
-/
namespace Sys2Proof.Machine

/-! ### Misuse (R356) -/

section
variable {s : State} {e c : Nat}

theorem barBad_disabled (hon : barOn s c = false) : barBad s e c = some 0 := by
  rw [barBad, hon, Bool.not_false, if_pos rfl]

section
variable (hon : barOn s c = true)
include hon

theorem barBad_otherPart (hpart : barPart s c ≠ s.partOf (engField e)) : barBad s e c = some 1 := by
  rw [barBad, hon, Bool.not_true, if_neg Bool.false_ne_true, if_pos (bne_iff_ne.mpr hpart)]

theorem barBad_ownPart (hpart : barPart s c = s.partOf (engField e)) : barBad s e c = none := by
  rw [barBad, hon, Bool.not_true, if_neg Bool.false_ne_true, hpart, bne_self_eq_false, if_neg Bool.false_ne_true]

end
end

/-! ### Operations on the barrier port (R356, R357) -/

section
variable {s u : State} {e cyc c : Nat} (he : engOk e = true) (hrun : s.ctGated (engCt e) = false)
  (hu : u = advCyc (engCt e) cyc s)
include he hrun hu

section
variable {r : Nat} (hbad : barBad u e c = some r)
include hbad

theorem barOp_misuse (f : State → State) : barOp e cyc c f s = .next (barMisuse e c r u) := by
  subst hu
  simp only [barOp, onUnit_ok he, hrun, hbad, Bool.false_eq_true, if_false]

theorem exec_barrierJoin_misuse : exec (.barrierJoin e cyc c) s = .next (barMisuse e c r u) := by
  change execBarrierJoin e cyc c s = _
  rw [execBarrierJoin, barOp_misuse he hrun hu hbad]

theorem exec_barrierEnter_misuse : exec (.barrierEnter e cyc c) s = .next (barMisuse e c r u) := by
  change execBarrierEnter e cyc c s = _
  rw [execBarrierEnter, barOp_misuse he hrun hu hbad]

theorem exec_barrierLeave_misuse : exec (.barrierLeave e cyc c) s = .next (barMisuse e c r u) := by
  change execBarrierLeave e cyc c s = _
  rw [execBarrierLeave, barOp_misuse he hrun hu hbad]

end

variable (hok : barBad u e c = none)
include hok

theorem barOp_allowed (f : State → State) : barOp e cyc c f s = .next (f u) := by
  subst hu
  simp only [barOp, onUnit_ok he, hrun, hok, Bool.false_eq_true, if_false]

section
variable (hnone : tfind u.bars (barKey e c) = none)
include hnone

theorem exec_barrierJoin_new : exec (.barrierJoin e cyc c) s = .next (putBar e c {} u) := by
  change execBarrierJoin e cyc c s = _
  rw [execBarrierJoin, barOp_allowed he hrun hu hok, hnone, Option.isSome_none, if_neg Bool.false_ne_true]

theorem exec_barrierEnter_notJoined : exec (.barrierEnter e cyc c) s = .next u := by
  change execBarrierEnter e cyc c s = _
  simp only [execBarrierEnter, barOp_allowed he hrun hu hok, hnone]

theorem exec_barrierLeave_notJoined : exec (.barrierLeave e cyc c) s = .next (barMisuse e c 2 u) := by
  change execBarrierLeave e cyc c s = _
  rw [execBarrierLeave, barOp_allowed he hrun hu hok, hnone, Option.isSome_none, if_neg Bool.false_ne_true]

end

section
variable {k r : Nat} (hx : tfind u.bars (barKey e c) = some ⟨k, r⟩)
include hx

theorem exec_barrierJoin_joined : exec (.barrierJoin e cyc c) s = .next u := by
  change execBarrierJoin e cyc c s = _
  rw [execBarrierJoin, barOp_allowed he hrun hu hok, hx, Option.isSome_some, if_pos rfl]

theorem exec_barrierLeave_joined :
    exec (.barrierLeave e cyc c) s = .next { u with bars := tdel u.bars (barKey e c) } := by
  change execBarrierLeave e cyc c s = _
  rw [execBarrierLeave, barOp_allowed he hrun hu hok, hx, Option.isSome_some, if_pos rfl]

theorem exec_barrierEnter_counts (hk : k = 0) :
    exec (.barrierEnter e cyc c) s = .next (traceEv (engCt e) 4 e c (putBar e c ⟨1, (r + 1) % 4⟩ u)) := by
  change execBarrierEnter e cyc c s = _
  simp only [execBarrierEnter, barOp_allowed he hrun hu hok, hx, if_pos hk]

theorem exec_barrierEnter_early (hk : k = 1) :
    exec (.barrierEnter e cyc c) s = .next (raiseCt (engCt e)
      { code := Code.BARRIER_EARLY, unit := e, params := c + 2 ^ 5 * ((r + 1) % 4) }
      (traceEv (engCt e) 4 e c (putBar e c ⟨2, (r + 1) % 4⟩ (u.bump F.CT_BAR_STAT_early (engCt e))))) := by
  have hentered : ¬ k = 0 := by omega
  change execBarrierEnter e cyc c s = _
  simp only [execBarrierEnter, barOp_allowed he hrun hu hok, hx, if_neg hentered, if_pos hk]

theorem exec_barrierEnter_overruns (hk : 2 ≤ k) :
    exec (.barrierEnter e cyc c) s = .next (raiseCt (engCt e)
      { code := Code.BARRIER_OVERRUN, unit := e, params := c + 2 ^ 5 * r }
      (barErrPulse e (u.bump F.CT_BAR_STAT_overrun (engCt e)))) := by
  have hentered : ¬ k = 0 := by omega
  have hearly : ¬ k = 1 := by omega
  change execBarrierEnter e cyc c s = _
  simp only [execBarrierEnter, barOp_allowed he hrun hu hok, hx, if_neg hentered, if_neg hearly]

end
end

/-! ### Releases (R358) -/

section
variable {s t : State} {c : Nat} {l : List (Nat × BarPart)}

theorem exec_barrierRelease_toggles (hl : l = barMembers s c) (haon : s.aonOnly = false) (hon : barOn s c = true)
    (hsome : l ≠ []) (hall : l.all (fun e => decide (1 ≤ e.2.k)) = true) (hphase : (tget {} s.barCh c : BarCh).phase = 0)
    (hwait : l.any (fun e => tget false s.barWait (32 * engCt (e.1 / 32) + c)) = false)
    (ht : t = { s with
      barSense := tput false s.barSense c (!tget false s.barSense c)
      barCh := tput {} s.barCh c { phase := 1, at_ := s.wt } }) :
    exec (.barrierRelease c) s = .next (forAll (barClusters s c) (fun k u =>
      if u.ctGated k = true then { u with barWait := tput false u.barWait (32 * k + c) true } else barApply k c u) t) := by
  have hmember : l.isEmpty = false := List.isEmpty_eq_false_iff.mpr hsome
  change execBarrierRelease c s = _
  simp only [execBarrierRelease, ← hl, haon, hon, hmember, hall, hphase, hwait, ← ht, bne_self_eq_false, Bool.not_true,
    Bool.or_self, Bool.false_eq_true, if_false]

theorem exec_barrierRelease_waits (h : (barMembers s c).any (fun e => e.2.k == 0) = true ∨ barOn s c = false) :
    exec (.barrierRelease c) s = .next s := by
  change execBarrierRelease c s = _
  rcases h with hout | hon
  · have hall : (barMembers s c).all (fun e => decide (1 ≤ e.2.k)) = false := by
      obtain ⟨e, he, hzero⟩ := List.any_eq_true.mp hout
      have hk : ¬ 1 ≤ e.2.k := by rw [beq_iff_eq.mp hzero]; exact Nat.not_succ_le_zero 0
      exact List.all_eq_false.mpr ⟨e, he, by rw [decide_eq_true_eq]; exact hk⟩
    simp only [execBarrierRelease, hall, Bool.not_false, Bool.or_true, Bool.true_or, if_true]
  · simp only [execBarrierRelease, hon, Bool.not_false, Bool.or_true, Bool.true_or, if_true]

variable {x : BarCh} (hx : x = tget {} s.barCh c)
include hx

theorem exec_barrierReleaseTimer_ctsContributeZero (hphase : x.phase = 1) :
    exec (.barrierReleaseTimer c) s =
      .next { s.toWt (x.at_ + 600) with barCh := tput {} s.barCh c { x with phase := 2 } } := by
  change execBarrierReleaseTimer c s = _
  simp only [execBarrierReleaseTimer, ← hx, hphase]

theorem exec_barrierReleaseTimer_treeCounts (hphase : x.phase = 2) :
    exec (.barrierReleaseTimer c) s = .next { s.toWt (x.at_ + 1800) with barCh := tdel s.barCh c } := by
  change execBarrierReleaseTimer c s = _
  simp only [execBarrierReleaseTimer, ← hx, hphase]

end

/-! ### CC_BAR_CFG (R356, R359) -/

theorem exec_barCfgWrite_granted {s : State} {w : Writer} {c v : Nat} (h : Granted s w .CC_BAR_CFG c) (hc : c < 32)
    (hw : notTenant w = true) :
    exec (.barCfgWrite w c v) s = .next (wrote w .CC_BAR_CFG c
      (barClear c ((s.wr F.CC_BAR_CFG_enable c (v % 2)).wr F.CC_BAR_CFG_partition c (bits v 1 6)))) := by
  have hin : decide (c < 32) = true := decide_eq_true hc
  change execBarCfgWrite w c v s = _
  rw [execBarCfgWrite, onUnit_ok hin, regWrite_granted h, barCfgWrite, if_pos hw]

/-- Settles O42: each clause is one case of an operation on the port, of a release or of a write of CC_BAR_CFG. -/
theorem barriers : Obligations.Barriers := by
  unfold Obligations.Barriers
  refine ⟨?_, ?_, ?_, ?_, ?_, ?_, ?_, ?_⟩
  · intro s u e cyc c r he hrun hu hbad
    exact ⟨exec_barrierJoin_misuse he hrun hu hbad, exec_barrierEnter_misuse he hrun hu hbad,
      exec_barrierLeave_misuse he hrun hu hbad⟩
  · intro s e c
    exact ⟨barBad_disabled, barBad_otherPart, barBad_ownPart⟩
  · intro s u e cyc c he hrun hu hok hnone
    exact ⟨exec_barrierJoin_new he hrun hu hok hnone, exec_barrierEnter_notJoined he hrun hu hok hnone,
      exec_barrierLeave_notJoined he hrun hu hok hnone⟩
  · intro s u e cyc c k r he hrun hu hok hx
    exact ⟨exec_barrierJoin_joined he hrun hu hok hx, exec_barrierLeave_joined he hrun hu hok hx,
      exec_barrierEnter_counts he hrun hu hok hx, exec_barrierEnter_early he hrun hu hok hx,
      exec_barrierEnter_overruns he hrun hu hok hx⟩
  · intro s t c l hl haon hon hsome hall hphase hwait ht
    exact exec_barrierRelease_toggles hl haon hon hsome hall hphase hwait ht
  · intro s c h
    exact exec_barrierRelease_waits h
  · intro s c x hx
    exact ⟨exec_barrierReleaseTimer_ctsContributeZero hx, exec_barrierReleaseTimer_treeCounts hx⟩
  · intro s w c v h hc hw
    exact exec_barCfgWrite_granted h hc hw

end Sys2Proof.Machine
end

