-- ==== Sys2Proof/Proofs/StopCourse.lean ====
section
/-!
PROOF. The course of a stop, joined stops and contact sheets (R344 to R346, R348 to R353, R355). That a tap that cannot be
reached counts high is log entry 44, and how a stop's own events follow each other log entry 74.
-/
namespace Sys2Proof.Machine

/-! ### From the announcement to T_stop (R344 to R346) -/

section
variable {s : State} {x : Stop}

/-- A CT that the announcement reaches becomes quiet. -/
theorem exec_stopAnnounceArrive_ct {k f : Nat} (hpresent : unitPresent (ctUnit k) = true)
    (hkind : unitKind (ctUnit k) = 1) (htype : unitType (ctUnit k) = 2) (hinst : unitInst (ctUnit k) = k)
    (hstop : s.stop = some x) (hfield : unitField (ctUnit k) = some f) (hsampled : x.sampled = false)
    (hlive : s.fieldLive f = true) :
    exec (.stopAnnounceArrive (ctUnit k)) s = .next
      (({ s.toWt (x.tStop - localLead s) with stopWire := true } : State).wr F.CT_STOP_STAT_quiet k 1) := by
  have htap : (unitPresent (ctUnit k) && unitKind (ctUnit k) == 1 && (unitType (ctUnit k) == 2
      || unitType (ctUnit k) == 3 || unitType (ctUnit k) == 4)) = true := by
    rw [hpresent, hkind, htype]; rfl
  change execStopAnnounceArrive (ctUnit k) s = _
  rw [execStopAnnounceArrive, onUnit_ok htap]
  simp only [hstop, hfield, hsampled, hlive, htype, hinst, Bool.not_true, Bool.or_self, Bool.false_eq_true, if_false,
    if_true]

theorem exec_stopSample_notSampled {t : State} (hstop : s.stop = some x) (hsampled : x.sampled = false)
    (hon : s.aonOnly = false) (ht : t = { s.toWt (x.tStop - 300) with stopWire := true }) :
    exec .stopSample s = .next (if tapsQuiet t = true then { t with stop := some { x with sampled := true } }
      else stopCancel 1 t) := by
  subst ht
  change execStopSample s = _
  simp only [execStopSample, hstop, hsampled, hon, Bool.or_self, Bool.false_eq_true, if_false]

theorem exec_stopGate_tapclk (txs : List MtTx) (hon : s.aonOnly = false) :
    exec (.stopGate txs) s = .next (gate false txs s) := by
  change execStopGate txs s = _
  rw [execStopGate, hon, if_neg Bool.false_ne_true]

theorem gate_noStop (txs : List MtTx) (hstop : s.stop = none) : gate false txs s = s := by
  simp only [gate, hstop]

end

/-! ### The capture window (R350) -/

section
variable {s : State} {x : Stop}

theorem exec_stopMarkArrive_peer {l id : Nat} (hl : ltOk l = true) (hstop : s.stop = some x) (hjoined : x.joined = true)
    (hid : x.id = id) (hdone : x.done = false) (hrun : x.tRun = none) :
    exec (.stopMarkArrive l id) s = .next (s.wr F.LT_STOP_STAT_closed l 1) := by
  change execStopMarkArrive l id s = _
  simp only [execStopMarkArrive, onUnit_ok hl, hstop, hjoined, hid, hdone, hrun, beq_self_eq_true, Bool.not_false,
    Option.isNone_none, Bool.and_self, if_true]

theorem exec_captureWindowExpire_inForce (hforce : inForce s = some x) :
    exec .captureWindowExpire s = .next (if x.done then s else captureEnd x s) := by
  change execCaptureWindowExpire s = _
  simp only [execCaptureWindowExpire, hforce]

end

/-! ### Joined stops (R349, R352) -/

section
variable {s : State} {l id lead : Nat} (hl : ltOk l = true)
include hl

theorem exec_linkLatencyPing_up {rtt turn : Nat} (hup : tget false s.ltUp l = true) :
    exec (.linkLatencyPing l rtt turn) s = .next (s.wr F.LT_STOP_STAT_lat_ns l (sat 16 ((rtt - turn) / 2))) := by
  change execLinkLatencyPing l rtt turn s = _
  rw [execLinkLatencyPing, onUnit_ok hl, if_pos hup]

theorem exec_joinArrive_port : exec (.joinArrive l id lead) s = .next (joinArrive l id lead s) := by
  change execJoinArrive l id lead s = _
  rw [execJoinArrive, onUnit_ok hl]

variable {x : Stop} (hforce : inForce s = some x)
include hforce

theorem exec_resumeArrive_frozen (hfrozen : s.freezeWire = true) : exec (.resumeArrive l id lead) s = .next s := by
  change execResumeArrive l id lead s = _
  simp only [execResumeArrive, onUnit_ok hl, hforce, hfrozen, Bool.true_or, if_true]

theorem exec_resumeArrive_fixesRun {t : Nat} (hfrozen : s.freezeWire = false) (hid : x.id = id) (hrun : x.tRun = none)
    (hon : s.aonOnly = false) (ht : t = s.wt + max minLead (lead - s.rd F.LT_STOP_STAT_lat_ns l)) :
    exec (.resumeArrive l id lead) s = .next (resumeForward (some l) x t (resumeAt t false x s)) := by
  change execResumeArrive l id lead s = _
  simp only [execResumeArrive, onUnit_ok hl, hforce, hfrozen, hid, hrun, hon, ← ht, bne_self_eq_false,
    Option.isSome_none, Bool.or_self, Bool.false_eq_true, if_false]

end

section
variable {s : State} {l id lead : Nat}

theorem joinArrive_seen (hseen : s.joinIds.contains id = true) : joinArrive l id lead s = s := if_pos hseen

variable (hseen : s.joinIds.contains id = false)
include hseen

theorem joinArrive_notAccepted (hcfg : s.rd F.CC_STOP_CFG_accept_joined = 0) :
    joinArrive l id lead s =
      ({ s with joinIds := (id :: s.joinIds).take 16 } : State).bump F.LT_STOP_STAT_joins_ignored l := by
  rw [joinArrive, hseen, if_neg Bool.false_ne_true]
  exact if_pos (.inl hcfg)

/-- The stop opens at the lead that is left after the port's latency, and the join goes on to the other ports. -/
theorem joinArrive_opens (hcfg : s.rd F.CC_STOP_CFG_accept_joined ≠ 0) (hstop : s.stop = none) (hon : s.aonOnly = false)
    (hlead : minLead ≤ lead - s.rd F.LT_STOP_STAT_lat_ns l) :
    joinArrive l id lead s = ltControlAll (some l) 0 id (lead - s.rd F.LT_STOP_STAT_lat_ns l) (stopOpen
      { id := id, tStop := s.wt + (lead - s.rd F.LT_STOP_STAT_lat_ns l), joined := true, freeze := false, late := false }
      { s with joinIds := (id :: s.joinIds).take 16 }) := by
  have haccepted : ¬ (s.rd F.CC_STOP_CFG_accept_joined = 0 ∨ s.stop.isSome = true ∨ s.aonOnly = true) := by
    rw [hstop, hon]
    rintro (hzero | hsome | haon)
    · exact hcfg hzero
    · exact Bool.false_ne_true hsome
    · exact Bool.false_ne_true haon
  have hintime : decide (lead - s.rd F.LT_STOP_STAT_lat_ns l < minLead) = false :=
    decide_eq_false (Nat.not_lt.mpr hlead)
  rw [joinArrive, hseen, if_neg Bool.false_ne_true]
  refine (if_neg haccepted).trans ?_
  have hrd : ({ s with joinIds := (id :: s.joinIds).take 16 } : State).rd F.LT_STOP_STAT_lat_ns l =
      s.rd F.LT_STOP_STAT_lat_ns l := rfl
  simp only [hrd, hintime, Bool.false_eq_true, if_false]

end

/-! ### The resume (R351, R352) -/

section
variable {s : State} {x : Stop}

theorem exec_stopAutoResume_fixesRun {t : State} (hforce : inForce s = some x) (hfrozen : s.freezeWire = false)
    (hrun : x.tRun = none) (hon : s.aonOnly = false)
    (ht : t = s.toWt (x.tStop + max 1 (s.rd F.CC_STOP_CFG_max_ms) * ms)) :
    exec .stopAutoResume s = .next (resumeAt (t.wt + localLead t) true x t) := by
  change execStopAutoResume s = _
  simp only [execStopAutoResume, hforce, hfrozen, hrun, hon, ← ht, Option.isSome_none, Bool.or_self, Bool.false_eq_true,
    if_false]

theorem exec_stopRun_ungates {d : Nat} (hforce : inForce s = some x) (hrun : x.tRun = some d) (hon : s.aonOnly = false) :
    exec .stopRun s = .next (ungate false x (s.toWt d)) := by
  change execStopRun s = _
  simp only [execStopRun, hforce, hrun, hon, Bool.false_eq_true, if_false]

theorem exec_stopWireDrop_ungated {d : Nat} (hstop : s.stop = some x) (hrun : x.tRun = some d)
    (hgated : x.gated = false) :
    exec .stopWireDrop s = .next (stopState 0 { s.toWt (d + 1 * us) with stop := none, stopWire := false }) := by
  change execStopWireDrop s = _
  simp only [execStopWireDrop, hstop, hrun, hgated, Bool.false_eq_true, if_false]

end

/-! ### Contact sheets (R353, R355) -/

section
variable {s : State} {w : Writer}

theorem exec_sheetCapture_granted {v : Nat} (h : Granted s w .CC_SHEET_CMD 0) :
    exec (.sheetCapture w v) s = .next (wrote w .CC_SHEET_CMD 0 (sheetCmdWrite w v s)) :=
  regWrite_granted h

theorem exec_sheetAbort_granted (h : Granted s w .CC_SHEET_CMD 0) :
    exec (.sheetAbort w) s = .next (wrote w .CC_SHEET_CMD 0 (sheetCmdWrite w 2 s)) :=
  regWrite_granted h

variable (hown : s.isOwner w = true)
include hown

theorem sheetCmdWrite_abort : sheetCmdWrite w 2 s =
    if s.sheet.isSome then sheetEnd 0 (s.rd F.CC_SHEET_STAT_blocks) false true s else s := by
  have hop : bits 2 0 2 = 2 := rfl
  simp only [sheetCmdWrite, hown, hop, Bool.not_true, Bool.false_eq_true, if_false]

variable {v : Nat} (hop : bits v 0 2 = 1)
include hop

theorem sheetCmdWrite_capture_refused
    (h : inForce s = none ∨ s.freezeWire = false ∨ s.sheet.isSome = true) :
    sheetCmdWrite w v s = s.wr F.CC_SHEET_STAT_refused 0 1 := by
  have hrefused : ((inForce s).isNone || !s.freezeWire || s.sheet.isSome) = true := by
    rcases h with hforce | hfrozen | hsheet
    · rw [hforce]; rfl
    · rw [hfrozen, Bool.not_false, Bool.or_true, Bool.true_or]
    · rw [hsheet, Bool.or_true]
  simp only [sheetCmdWrite, hown, hop, hrefused, Bool.not_true, Bool.true_or, Bool.false_eq_true, if_false, if_true]

/-- With nothing sealed a sheet to the peer reads at once. -/
theorem sheetCmdWrite_capture_starts {x : Sheet} (hforce : (inForce s).isSome = true) (hfrozen : s.freezeWire = true)
    (hsheet : s.sheet = none) (hdest : bit v 2 = true)
    (hsealed : (List.range Config.nPart).any (fun p => s.sealed p) = false)
    (hx : x = { all := bit v 3, part := bits v 4 6, content := bits v 10 4, dest := 1, auto := bit v 14,
                desealed := false }) :
    sheetCmdWrite w v s = epochSync (sheetCheck
      (({ (s.wr F.CC_SHEET_STAT_blocks 0 0).wr F.CC_SHEET_STAT_truncated 0 0 with sheet := some x } : State).wr
        F.CC_SHEET_STAT_state 0 1)) := by
  have hpeer : bits v 2 1 = 1 := beq_iff_eq.mp hdest
  have hnone (y : Sheet) : (List.range Config.nPart).filter (fun p => s.sealed p && inSheet y p) = [] := by
    refine List.filter_eq_nil_iff.mpr fun p hp hboth => ?_
    rw [Bool.and_eq_true] at hboth
    exact List.any_eq_false.mp hsealed p hp hboth.1
  have hready : ((inForce s).isNone || !s.freezeWire || s.sheet.isSome) = false := by
    rw [Option.isNone_eq_false_iff.mpr hforce, hfrozen, hsheet]; rfl
  have hother : ((1 : Nat) == 0) = false := rfl
  simp only [sheetCmdWrite, hown, hop, hpeer, hready, hother, hnone, hx, Bool.not_true, Bool.false_and, Bool.or_self,
    List.isEmpty_nil, Bool.false_eq_true, if_false]
  rfl

end

section
variable {s : State} {n need : Nat} {x : Sheet} (hstate : s.rd F.CC_SHEET_STAT_state = 2) (hon : s.aonOnly = false)
  (hsheet : s.sheet = some x)
include hstate hon hsheet

theorem exec_sheetComplete_reading {trunc : Bool} (htrunc : trunc = (x.dest == 0 && decide (sheetCap s < need))) :
    exec (.sheetComplete n need) s = .next (sheetEnd n (if trunc then sheetCap s else need) trunc false s) := by
  change execSheetComplete n need s = _
  simp only [execSheetComplete, hstate, hon, hsheet, ← htrunc, ne_eq, not_true_eq_false, Bool.false_eq_true, or_self,
    if_false]

theorem exec_sheetComplete_truncated (hdest : x.dest = 0) (hcap : sheetCap s < need) :
    exec (.sheetComplete n need) s = .next (sheetEnd n (sheetCap s) true false s) := by
  have htrunc : true = (x.dest == 0 && decide (sheetCap s < need)) := by rw [hdest, decide_eq_true hcap]; rfl
  rw [exec_sheetComplete_reading hstate hon hsheet htrunc, if_pos rfl]

theorem exec_sheetComplete_whole (h : x.dest ≠ 0 ∨ need ≤ sheetCap s) :
    exec (.sheetComplete n need) s = .next (sheetEnd n need false false s) := by
  have htrunc : false = (x.dest == 0 && decide (sheetCap s < need)) := by
    rcases h with hdest | hcap
    · rw [beq_false_of_ne hdest, Bool.false_and]
    · rw [decide_eq_false (Nat.not_lt.mpr hcap), Bool.and_false]
  rw [exec_sheetComplete_reading hstate hon hsheet htrunc, if_neg Bool.false_ne_true]

end

/-- Settles O44: each clause is one case of an event of the stop, of a message of a peer or of a sheet's command. -/
theorem stopCourse : Obligations.StopCourse := by
  unfold Obligations.StopCourse
  refine ⟨?_, ?_, ?_, ?_, ?_, ?_, ?_, ?_, ?_, ?_, ?_, ?_, ?_, ?_, ?_, ?_⟩
  · intro s k f x hpresent hkind htype hinst hstop hfield hsampled hlive
    exact exec_stopAnnounceArrive_ct hpresent hkind htype hinst hstop hfield hsampled hlive
  · intro s t x hstop hsampled hon ht
    exact exec_stopSample_notSampled hstop hsampled hon ht
  · intro s txs hon
    exact exec_stopGate_tapclk txs hon
  · intro s txs hstop
    exact gate_noStop txs hstop
  · intro s l id x hl hstop hjoined hid hdone hrun
    exact exec_stopMarkArrive_peer hl hstop hjoined hid hdone hrun
  · intro s x hforce
    rw [exec_captureWindowExpire_inForce hforce]
    exact ⟨fun hdone => by rw [hdone, if_neg Bool.false_ne_true], fun hdone => by rw [if_pos hdone]⟩
  · intro s l rtt turn hl hup
    exact exec_linkLatencyPing_up hl hup
  · intro s l id lead hl
    rw [exec_joinArrive_port hl]
    refine ⟨fun hseen => ?_, fun hseen hcfg => ?_, fun hseen hcfg hstop hon hlead => ?_⟩
    · rw [joinArrive_seen hseen]
    · rw [joinArrive_notAccepted hseen hcfg]
    · rw [joinArrive_opens hseen hcfg hstop hon hlead]
  · intro s l id lead x hl hforce
    exact ⟨exec_resumeArrive_frozen hl hforce, fun t => exec_resumeArrive_fixesRun hl hforce⟩
  · intro s t x hforce hfrozen hrun hon ht
    exact exec_stopAutoResume_fixesRun hforce hfrozen hrun hon ht
  · intro s x d hforce hrun hon
    exact exec_stopRun_ungates hforce hrun hon
  · intro s x d hstop hrun hgated
    exact exec_stopWireDrop_ungated hstop hrun hgated
  · intro s w v h hown hop hrefused
    rw [exec_sheetCapture_granted h, sheetCmdWrite_capture_refused hown hop hrefused]
  · intro s w h hown
    rw [exec_sheetAbort_granted h, sheetCmdWrite_abort hown]
    exact ⟨fun hsheet => by rw [if_pos hsheet],
      fun hsheet => by rw [hsheet, Option.isSome_none, if_neg Bool.false_ne_true]⟩
  · intro s w v x h hown hop hforce hfrozen hsheet hdest hsealed hx
    rw [exec_sheetCapture_granted h, sheetCmdWrite_capture_starts hown hop hforce hfrozen hsheet hdest hsealed hx]
  · intro s n need x hstate hon hsheet
    exact ⟨exec_sheetComplete_truncated hstate hon hsheet, exec_sheetComplete_whole hstate hon hsheet⟩

end Sys2Proof.Machine
end

