-- ==== Sys2Proof/Proofs/SpdmResponder.lean ====
section
/-!
PROOF. The attestation responder: the order of its requests, what each answers and what a signed response keeps (R362, R370,
R371, R373). The message layouts are those of log entry 40.
-/
namespace Sys2Proof.Machine

/-! ### The order of the requests (R370, R373) -/

section
variable {s : State} {ver need : Nat} {f : State → State}

theorem spdmReq_resynch (h : s.spdm = 4) : spdmReq ver need f s = spdmErr ver 0x43 0 s := if_pos h

/-- Before GET_VERSION every request that needs a stage of the connection is out of order. -/
theorem spdmReq_noConnection (h : s.spdm = 0) : spdmReq ver (need + 1) f s = spdmErr ver 0x04 0 s := by
  have hsync : ¬ s.spdm = 4 := by omega
  have hearly : s.spdm < need + 1 := by omega
  rw [spdmReq, if_neg hsync, if_pos hearly]

theorem spdmReq_otherVersion (hsync : s.spdm ≠ 4) (hstage : need ≤ s.spdm) (hver : ver ≠ s.spdmVer) :
    spdmReq ver need f s = spdmErr s.spdmVer 0x41 0 s := by
  rw [spdmReq, if_neg hsync, if_neg (Nat.not_lt.mpr hstage), if_pos hver]

theorem spdmReq_inOrder (hsync : s.spdm ≠ 4) (hstage : need ≤ s.spdm) : spdmReq s.spdmVer need f s = f s := by
  rw [spdmReq, if_neg hsync, if_neg (Nat.not_lt.mpr hstage), if_neg (not_not_intro rfl)]

end

/-! ### Requests that need no order -/

section
variable {s : State}

theorem exec_getVersion :
    exec .getVersion s = .next { s with
      spdm := 1
      spdmVer := 0
      spdmOut := [0x10, 0x04, 0, 0, 0, 2, 0x00, 0x12, 0x00, 0x13] } := rfl

variable {ver code : Nat}

theorem exec_spdmUnsupported_resynch (h : s.spdm = 4) :
    exec (.spdmUnsupported ver code) s = .next (spdmErr ver 0x43 0 s) := by
  change execSpdmUnsupported ver code s = _
  rw [execSpdmUnsupported, if_pos h]

theorem exec_spdmUnsupported_other (h : s.spdm ≠ 4) :
    exec (.spdmUnsupported ver code) s = .next (spdmErr ver 0x07 code s) := by
  change execSpdmUnsupported ver code s = _
  rw [execSpdmUnsupported, if_neg h]

theorem exec_getCapabilities_resynch (h : s.spdm = 4) :
    exec (.getCapabilities ver) s = .next (spdmErr ver 0x43 0 s) := by
  change execGetCapabilities ver s = _
  rw [execGetCapabilities, if_pos h]

theorem exec_getCapabilities_noConnection (h : s.spdm = 0) :
    exec (.getCapabilities ver) s = .next (spdmErr ver 0x04 0 s) := by
  have hsync : ¬ s.spdm = 4 := by omega
  change execGetCapabilities ver s = _
  rw [execGetCapabilities, if_neg hsync, if_pos h]

theorem exec_getCapabilities_connected {t u : State} {ct mx : Nat} (hopen : s.spdm ≠ 0) (hsync : s.spdm ≠ 4)
    (hver : ver = 0x12 ∨ ver = 0x13) (ht : s.drawFree 8 = (ct, t)) (hu : t.drawFree 32 = (mx, u)) :
    exec (.getCapabilities ver) s = .next (spdmSay (leBytes 1 ver ++ [0x61, 0, 0, 0] ++ leBytes 1 ct ++ leBytes 2 0
      ++ leBytes 4 0x20016 ++ leBytes 4 4096 ++ leBytes 4 mx) { u with spdm := 2, spdmVer := ver }) := by
  have hknown : ¬ (ver ≠ 0x12 ∧ ver ≠ 0x13) := by omega
  change execGetCapabilities ver s = _
  simp only [execGetCapabilities, if_neg hsync, if_neg hopen, if_neg hknown, ht, hu]

end

/-! ### Requests after the algorithms (R370, R371) -/

section
variable {s : State} (hstage : s.spdm = 3)
include hstage

theorem spdmReq_negotiated {f : State → State} : spdmReq s.spdmVer 3 f s = f s :=
  spdmReq_inOrder (by omega) hstage.ge

theorem exec_getDigests_negotiated :
    exec (.getDigests s.spdmVer) s = .next
      (spdmSay (leBytes 1 s.spdmVer ++ [0x01, 0, 1] ++ beBytes 48 (Config.sha384 Config.certChain)) s) := by
  change execGetDigests s.spdmVer s = _
  rw [execGetDigests, spdmReq_negotiated hstage]

section
variable {slot off len : Nat}

theorem exec_getCertificate_otherSlot (hslot : slot ≠ 0) :
    exec (.getCertificate s.spdmVer slot off len) s = .next (spdmErr s.spdmVer 0x01 0 s) := by
  change execGetCertificate s.spdmVer slot off len s = _
  rw [execGetCertificate, spdmReq_negotiated hstage]
  exact congrArg _ (if_pos (.inl hslot))

theorem exec_getCertificate_portion {n : Nat} (hoff : off ≤ Config.certChain.length)
    (hn : n = min len (min (Config.certChain.length - off) 4088)) :
    exec (.getCertificate s.spdmVer 0 off len) s = .next (spdmSay (leBytes 1 s.spdmVer ++ [0x02, 0, 0] ++ leBytes 2 n
      ++ leBytes 2 (Config.certChain.length - off - n) ++ (Config.certChain.drop off).take n) s) := by
  have hin : ¬ ((0 : Nat) ≠ 0 ∨ Config.certChain.length < off) := by omega
  change execGetCertificate s.spdmVer 0 off len s = _
  subst hn
  rw [execGetCertificate, spdmReq_negotiated hstage]
  exact congrArg _ (if_neg hin)

end

section
variable {summary : Bool} {nonce : List Byte}

theorem exec_challenge_otherSlot {slot : Nat} (hslot : slot ≠ 0) :
    exec (.challenge s.spdmVer slot summary nonce) s = .next (spdmErr s.spdmVer 0x01 0 s) := by
  change execChallenge s.spdmVer slot summary nonce s = _
  rw [execChallenge, spdmReq_negotiated hstage, if_pos hslot]

/-- The response carries a fresh nonce and is signed with the identity key. -/
theorem exec_challenge_signed {t : State} {n h body : List Byte} (hn : spdmNonce s = (n, t))
    (hh : h = (if summary = true then
      beBytes 48 (Config.sha384 ((List.range 9).map (fun i => measBlock t (i + 1))).flatten) else []))
    (hbody : body = leBytes 1 s.spdmVer ++ [0x03, 0, 1] ++ beBytes 48 (Config.sha384 Config.certChain) ++ n ++ h
      ++ leBytes 2 0) :
    exec (.challenge s.spdmVer 0 summary nonce) s = .next (spdmSay (body ++ Config.ecdsaSign 0 (nonce ++ body)) t) := by
  have hslot : ¬ (0 : Nat) ≠ 0 := not_not_intro rfl
  subst hbody hh
  change execChallenge s.spdmVer 0 summary nonce s = _
  rw [execChallenge, spdmReq_negotiated hstage, if_neg hslot]
  simp only [hn]

end

section
variable {sign : Bool} {index : Nat} {nonce : List Byte}

theorem exec_getMeasurements_noSuchIndex (hlarge : 9 < index) (hall : index ≠ 0xFF) :
    exec (.getMeasurements s.spdmVer sign index nonce) s = .next (spdmErr s.spdmVer 0x01 0 s) := by
  change execGetMeasurements s.spdmVer sign index nonce s = _
  rw [execGetMeasurements, spdmReq_negotiated hstage, if_pos ⟨hlarge, hall⟩]

variable {t u : State} {n rec body : List Byte} (ht : t = epochSync s) (hn : spdmNonce t = (n, u))
include ht hn

theorem exec_getMeasurements_oneBlock (hlow : 1 ≤ index) (hhigh : index ≤ 9) (hrec : rec = measBlock t index)
    (hbody : body = leBytes 1 s.spdmVer ++ [0x60] ++ leBytes 1 0 ++ [0] ++ leBytes 1 1 ++ leBytes 3 rec.length ++ rec ++ n
      ++ leBytes 2 0) :
    exec (.getMeasurements s.spdmVer sign index nonce) s = .next
      (spdmSay (body ++ if sign = true then Config.ecdsaSign 0 (nonce ++ body) else []) u) := by
  have hok : ¬ (9 < index ∧ index ≠ 0xFF) := by omega
  have hnotAll : index ≠ 0xFF := by omega
  have hnotCount : ¬ index = 0 := by omega
  subst hbody hrec
  change execGetMeasurements s.spdmVer sign index nonce s = _
  rw [execGetMeasurements, spdmReq_negotiated hstage, if_neg hok, ← ht]
  simp only [if_neg hnotAll, if_neg hnotCount, beq_false_of_ne hnotAll, hn, List.map_cons, List.map_nil,
    List.flatten_singleton, List.length_singleton, Bool.and_false, Bool.false_eq_true, if_false]

/-- A signed response with every block keeps the nonce with WT and the epochs of all partitions (R373). -/
theorem exec_getMeasurements_allSigned (hrec : rec = ((List.range 9).map (fun i => measBlock t (i + 1))).flatten)
    (hbody : body = leBytes 1 s.spdmVer ++ [0x60] ++ leBytes 1 0 ++ [0] ++ leBytes 1 9 ++ leBytes 3 rec.length ++ rec ++ n
      ++ leBytes 2 0) :
    exec (.getMeasurements s.spdmVer true 0xFF nonce) s = .next
      (spdmSay (body ++ Config.ecdsaSign 0 (nonce ++ body)) { u with
        nonces := (Nonce.mk (leNat (nonce.take 32)) u.wt
          ((List.range Config.nPart).map (fun p => u.rd F.CC_PART_SEAL_epoch p)) :: u.nonces).take 16 }) := by
  have hok : ¬ (9 < 0xFF ∧ 0xFF ≠ 0xFF) := by omega
  have hnotCount : ¬ 0xFF = 0 := by omega
  subst hbody hrec
  change execGetMeasurements s.spdmVer true 0xFF nonce s = _
  rw [execGetMeasurements, spdmReq_negotiated hstage, if_neg hok, ← ht]
  simp only [if_neg hnotCount, hn, List.map_map, Function.comp_def, List.length_map, List.length_range,
    beq_self_eq_true, Bool.and_self, if_true]

end
end

/-- Settles O47: each clause is one case of the order of requests or of one request's answer. -/
theorem spdmResponder : Obligations.SpdmResponder := by
  unfold Obligations.SpdmResponder
  refine ⟨fun _ => exec_getVersion, ?_, ?_, ?_, ?_, ?_, ?_, ?_, ?_, ?_, ?_, ?_, ?_, ?_⟩
  · intro s ver code slot off len i b n h
    exact ⟨exec_getCapabilities_resynch h, congrArg _ (spdmReq_resynch h), congrArg _ (spdmReq_resynch h),
      congrArg _ (spdmReq_resynch h), congrArg _ (spdmReq_resynch h), congrArg _ (spdmReq_resynch h),
      exec_spdmUnsupported_resynch h⟩
  · intro s ver slot off len i b n h
    exact ⟨exec_getCapabilities_noConnection h, congrArg _ (spdmReq_noConnection h), congrArg _ (spdmReq_noConnection h),
      congrArg _ (spdmReq_noConnection h), congrArg _ (spdmReq_noConnection h), congrArg _ (spdmReq_noConnection h)⟩
  · intro s ver code h
    rw [exec_spdmUnsupported_other h]
    rfl
  · intro s t u ver ct mx hopen hsync hver ht hu
    rw [exec_getCapabilities_connected hopen hsync hver ht hu, spdmSay]
  · intro s hopen hsync
    exact congrArg _ (spdmReq_inOrder hsync hopen)
  · intro s ver hstage hsync hver
    exact congrArg _ (spdmReq_otherVersion hsync hstage hver)
  · intro s hstage
    rw [exec_getDigests_negotiated hstage, spdmSay]
  · intro s off len n hstage hoff hn
    rw [exec_getCertificate_portion hstage hoff hn, spdmSay]
  · intro s slot off len b n hstage hslot
    exact ⟨exec_getCertificate_otherSlot hstage hslot, exec_challenge_otherSlot hstage hslot⟩
  · intro s t b nonce n h body hstage hn hh hbody
    rw [exec_challenge_signed hstage hn hh hbody, spdmSay]
  · intro s b i nonce hstage hlarge hall
    exact exec_getMeasurements_noSuchIndex hstage hlarge hall
  · intro s t u b i nonce n rec body hstage hlow hhigh ht hrec hn hbody
    rw [exec_getMeasurements_oneBlock hstage ht hn hlow hhigh hrec hbody, spdmSay]
  · intro s t u nonce n rec body hstage ht hrec hn hbody
    rw [exec_getMeasurements_allSigned hstage ht hn hrec hbody, spdmSay]

end Sys2Proof.Machine
end

