-- ==== Sys2Proof/Proofs/SafelightAndCounters.lean ====
section
/-!
PROOF. Safelight counters and their sums, and the programmable counters (R387, R389 to R391).
-/
namespace Sys2Proof.Machine

/-! ### Reports (R389) -/

section
variable {s : State} {k f : Nat}

theorem exec_safelightCtReport_travels (hk : ctOk k = true) (hlive : s.fieldLive (ctField k) = true)
    (hquiet : ctQuiet s k = false) :
    exec (.safelightCtReport k) s = .next (forAll (List.range 10) (fun i t => { t with
      safeCt := tdel t.safeCt (16 * k + i)
      safeFs := tput 0 t.safeFs (16 * ctField k + i)
        (tget 0 t.safeFs (16 * ctField k + i) + tget 0 t.safeCt (16 * k + i)) }) s) := by
  change execSafelightCtReport k s = _
  rw [execSafelightCtReport, onUnit_ok hk, hlive, hquiet, Bool.not_true, Bool.or_self, if_neg Bool.false_ne_true]

theorem exec_safelightCtReport_held (hk : ctOk k = true)
    (h : s.fieldLive (ctField k) = false ∨ ctQuiet s k = true) : exec (.safelightCtReport k) s = .next s := by
  have hheld : (!s.fieldLive (ctField k) || ctQuiet s k) = true := by
    rcases h with hlive | hquiet
    · rw [hlive]; rfl
    · rw [hquiet, Bool.or_true]
  change execSafelightCtReport k s = _
  rw [execSafelightCtReport, onUnit_ok hk, if_pos hheld]

section
variable (hf : fieldOk f = true)
include hf

theorem exec_safelightFsReport_notLive (hlive : s.fieldLive f = false) : exec (.safelightFsReport f) s = .next s := by
  change execSafelightFsReport f s = _
  rw [execSafelightFsReport, onUnit_ok hf, hlive, Bool.not_false, if_pos rfl]

/-- The three parts of a field's report in their order: its own counts, its MTs' and its LTs'. -/
theorem exec_safelightFsReport_live {t u v : State} (hlive : s.fieldLive f = true)
    (ht : t = forAll (List.range 10) (fun i t => safeCredit 64 i (tget 0 t.safeFs (16 * f + i))
      (safeCredit (s.partOf f) i (tget 0 t.safeFs (16 * f + i)) { t with safeFs := tdel t.safeFs (16 * f + i) })) s)
    (hu : u = forAll (mtsOf f) (fun m t => if s.chanFree m = true then
        safeCredit 64 4 (tget 0 t.safeTap m) { t with safeTap := tdel t.safeTap m }
      else safeCredit (s.partOfChan m) 4 (tget 0 t.safeTap m)
        (safeCredit 64 4 (tget 0 t.safeTap m) { t with safeTap := tdel t.safeTap m })) t)
    (hv : v = forAll (ltsOf f) (fun l t => safeCredit 64 4 (tget 0 t.safeTap (1024 + l)) { t with
      safeTap := tdel t.safeTap (1024 + l) }) u) :
    exec (.safelightFsReport f) s = .next (
      let z : State := { v with safeAt := tput 0 v.safeAt f s.wt }
      z.setReg .CC_SAFE_AT 0 (((List.range Config.nField).filter z.fsWorks).foldl
        (fun a g => min a (tget 0 z.safeAt g)) s.wt)) := by
  have htravels : ¬ (!s.fieldLive f) = true := by rw [hlive]; exact Bool.false_ne_true
  rw [hv, hu, ht]
  exact (onUnit_ok hf _).trans (congrArg _ (if_neg htravels))

end
end

/-! ### Selections (R387, R390, R391) -/

section
variable {s : State} {w : Writer} {k v : Nat}

section
variable (hk : ctOk k = true)
include hk

theorem exec_safeSelect_granted (h : Granted s w .CT_SAFE_SEL k) :
    exec (.safeSelect w k v) s = .next (wrote w .CT_SAFE_SEL k (ctSafeSelWrite w k v s)) := by
  change execSafeSelect w k v s = _
  rw [execSafeSelect, onUnit_ok hk, regWrite_granted h]

theorem exec_safeSelect_noRight (hreach : s.regReach w .CT_SAFE_SEL k = true)
    (hmay : s.mayWrite w .CT_SAFE_SEL k = false) :
    exec (.safeSelect w k v) s = .next s.denied := by
  change execSafeSelect w k v s = _
  rw [execSafeSelect, onUnit_ok hk, regWrite_noRight hreach hmay, noRight_tableReg (by decide)]

theorem exec_pcntSelect_granted (h : Granted s w .CT_PCNT_SEL k) :
    exec (.pcntSelect w k v) s = .next (wrote w .CT_PCNT_SEL k (pcntSelWrite w k v s)) := by
  change execPcntSelect w k v s = _
  rw [execPcntSelect, onUnit_ok hk, regWrite_granted h]

theorem exec_pcntCfgWrite_granted (h : Granted s w .CT_PCNT_CFG k) :
    exec (.pcntCfgWrite w k v) s = .next (wrote w .CT_PCNT_CFG k (pcntCfgWrite w k v s)) := by
  change execPcntCfgWrite w k v s = _
  rw [execPcntCfgWrite, onUnit_ok hk, regWrite_granted h]

theorem exec_pcntClear_granted (h : Granted s w .CT_PCNT_CTL k) :
    exec (.pcntClear w k v) s = .next (wrote w .CT_PCNT_CTL k (pcntCtlWrite w k v s)) := by
  change execPcntClear w k v s = _
  rw [execPcntClear, onUnit_ok hk, regWrite_granted h]

end

theorem exec_ccSafeSelect_granted (h : Granted s w .CC_SAFE_SEL 0) :
    exec (.ccSafeSelect w v) s = .next (wrote w .CC_SAFE_SEL 0 (ccSafeSelWrite w v s)) :=
  regWrite_granted h

section
variable (hown : s.isOwner w = true)
include hown

/-- Scope 127 is the wafer. -/
theorem ccSafeSelWrite_wafer (hscope : bits v 8 7 = 127) :
    ccSafeSelWrite w v s = ((s.wr F.CC_SAFE_SEL_index 0 (bits v 0 4)).wr F.CC_SAFE_SEL_scope 0 127).wr
      F.CC_SAFE_VAL_value 0 (tget 0 s.safeSum (1024 + bits v 0 4)) := by
  simp only [ccSafeSelWrite, hown, hscope, Bool.true_or, if_true]

theorem ccSafeSelWrite_partition (hscope : bits v 8 7 < 64) :
    ccSafeSelWrite w v s = ((s.wr F.CC_SAFE_SEL_index 0 (bits v 0 4)).wr F.CC_SAFE_SEL_scope 0 (bits v 8 7)).wr
      F.CC_SAFE_VAL_value 0 (tget 0 s.safeSum (16 * bits v 8 7 + bits v 0 4)) := by
  have hpart : ¬ bits v 8 7 = 127 := by omega
  simp only [ccSafeSelWrite, hown, if_neg hpart, if_pos hscope, Bool.true_or, if_true]

end

theorem ccSafeSelWrite_otherScope {p : Nat} (hown : s.isOwner (.tenant p) = false) (hscope : bits v 8 7 ≠ p) :
    ccSafeSelWrite (.tenant p) v s = s.denied := by
  simp only [ccSafeSelWrite, hown, beq_false_of_ne hscope.symm, Bool.or_self, Bool.false_eq_true, if_false]

/-! ### What an observer's write does (R387, R390) -/

variable (hobs : obsOk s w (s.partOf (ctField k)) = true)
include hobs

theorem ctSafeSelWrite_observer :
    ctSafeSelWrite w k v s = (s.wr F.CT_SAFE_SEL_index k (bits v 0 4)).wr F.CT_SAFE_VAL_value k
      (tget 0 s.safe (16 * k + bits v 0 4)) := if_pos hobs

theorem pcntSelWrite_observer :
    pcntSelWrite w k v s = pcntShow k (bits v 0 5) (s.wr F.CT_PCNT_SEL_counter k (bits v 0 5)) := if_pos hobs

theorem pcntCfgWrite_observer {c : Nat} (hc : c = setBits v 31 1 0 % 2 ^ 64) :
    pcntCfgWrite w k v s = ({ s with
      pcnt := tput {} s.pcnt (32 * k + s.rd F.CT_PCNT_SEL_counter k) ⟨c, 0, false⟩ } : State).setReg .CT_PCNT_CFG k c := by
  rw [hc]
  exact if_pos hobs

theorem pcntCtlWrite_clears (hclear : bit v 0 = true) :
    pcntCtlWrite w k v s = forAll (List.range 32) (fun j t => { t with
      pcnt := tput {} t.pcnt (32 * k + j) { tget {} t.pcnt (32 * k + j) with
        value := 0
        wrapped := false } }) (s.wr F.CT_PCNT_CTL_freeze k (bits v 1 1)) := by
  rw [pcntCtlWrite, if_pos hobs, hclear, if_pos rfl]

theorem pcntCtlWrite_freezes (hclear : bit v 0 = false) :
    pcntCtlWrite w k v s = s.wr F.CT_PCNT_CTL_freeze k (bits v 1 1) := by
  rw [pcntCtlWrite, if_pos hobs, hclear, if_neg Bool.false_ne_true]

end

/-- Settles O48: each clause is one case of a report, or of a write of one of the five registers. -/
theorem safelightAndCounters : Obligations.SafelightAndCounters := by
  unfold Obligations.SafelightAndCounters
  refine ⟨?_, ?_, ?_, ?_, ?_, ?_, ?_, ?_, ?_⟩
  · intro s k hk
    exact ⟨exec_safelightCtReport_travels hk, exec_safelightCtReport_held hk⟩
  · intro s f hf hlive
    exact exec_safelightFsReport_notLive hf hlive
  · intro s t u v f hf hlive ht hu hv
    exact exec_safelightFsReport_live hf hlive ht hu hv
  · intro s w k v hk
    refine ⟨fun h hobs => ?_, exec_safeSelect_noRight hk⟩
    rw [exec_safeSelect_granted hk h, ctSafeSelWrite_observer hobs]
  · intro s w v h hown
    rw [exec_ccSafeSelect_granted h]
    exact ⟨fun hscope => by rw [ccSafeSelWrite_wafer hown hscope],
      fun hscope => by rw [ccSafeSelWrite_partition hown hscope]⟩
  · intro s p v h hown hscope
    rw [exec_ccSafeSelect_granted h, ccSafeSelWrite_otherScope hown hscope]
  · intro s w k v h hk hobs
    rw [exec_pcntSelect_granted hk h, pcntSelWrite_observer hobs, pcntShow]
    rfl
  · intro s w k v c h hk hobs hc
    rw [exec_pcntCfgWrite_granted hk h, pcntCfgWrite_observer hobs hc]
  · intro s w k v h hk hobs
    rw [exec_pcntClear_granted hk h]
    exact ⟨fun hclear => by rw [pcntCtlWrite_clears hobs hclear],
      fun hclear => by rw [pcntCtlWrite_freezes hobs hclear]⟩

end Sys2Proof.Machine
end

