-- ==== Sys2Proof/Proofs/TraceWriting.lean ====
section
/-!
PROOF. Enabling trace, marks, and the writer's records and blocks (R391 to R395). What a refused enable leaves as it is, and
the record that comes while the writer cannot place it, are log entry 112.
-/
namespace Sys2Proof.Machine

/-! ### CC_TRACE_CFG (R391, R392) -/

section
variable {s t : State} {w : Writer} {p v : Nat}

section
variable (hp : partOk p = true)
include hp

theorem exec_traceEnable_granted (h : Granted s w .CC_TRACE_CFG p) :
    exec (.traceEnable w p v) s = .next (wrote w .CC_TRACE_CFG p (traceCfgWrite w p v s)) := by
  change execTraceEnable w p v s = _
  rw [execTraceEnable, onUnit_ok hp, regWrite_granted h]

theorem exec_traceEnable_noRight (hreach : s.regReach w .CC_TRACE_CFG p = true)
    (hmay : s.mayWrite w .CC_TRACE_CFG p = false) : exec (.traceEnable w p v) s = .next s.denied := by
  change execTraceEnable w p v s = _
  rw [execTraceEnable, onUnit_ok hp, regWrite_noRight hreach hmay, noRight_tableReg (by decide)]

theorem exec_traceMark_granted (h : Granted s w .CC_TRACE_MARK p) :
    exec (.traceMark w p v) s = .next (wrote w .CC_TRACE_MARK p (traceMarkWrite w p v s)) := by
  change execTraceMark w p v s = _
  rw [execTraceMark, onUnit_ok hp, regWrite_granted h]

theorem exec_traceMark_noRight (hreach : s.regReach w .CC_TRACE_MARK p = true)
    (hmay : s.mayWrite w .CC_TRACE_MARK p = false) : exec (.traceMark w p v) s = .next s.denied := by
  change execTraceMark w p v s = _
  rw [execTraceMark, onUnit_ok hp, regWrite_noRight hreach hmay, noRight_tableReg (by decide)]

end

section
variable (hown : s.isOwner w = true)
  (ht : t = (s.wr F.CC_TRACE_CFG_stop_mode p (bits v 1 1)).wr F.CC_TRACE_CFG_events p (bits v 8 7))
include hown ht

theorem traceCfgWrite_disables (hen : bit v 0 = false) : traceCfgWrite w p v s = t.wr F.CC_TRACE_CFG_enable p 0 := by
  simp only [traceCfgWrite, hown, hen, ← ht, Bool.not_false, if_true]

theorem traceCfgWrite_enables (hen : bit v 0 = true) (hring : ringOk s p = true) :
    traceCfgWrite w p v s = ((({ t with traceW := tdel t.traceW p } : State).wr F.CC_TRACE_CFG_enable p 1).wr
      F.CC_TRACE_HEAD_head p 0).wr F.CC_TRACE_TAIL_tail p 0 := by
  subst ht
  simp only [traceCfgWrite, hown, hen, hring, Bool.not_true, Bool.false_eq_true, if_false, if_true]

theorem traceCfgWrite_refused (hen : bit v 0 = true) (hring : ringOk s p = false) :
    traceCfgWrite w p v s = (traceDisable p 2 t).wr F.CC_TRACE_CFG_enable p (s.rd F.CC_TRACE_CFG_enable p) := by
  simp only [traceCfgWrite, hown, hen, hring, ← ht, Bool.not_true, Bool.false_eq_true, if_false, if_true]

end

/-! ### Marks (R394) -/

section
variable (hright : s.ownerOrTenant w p = true)
include hright

theorem traceMarkWrite_on (hen : s.rb F.CC_TRACE_CFG_enable p = true) :
    traceMarkWrite w p v s = writerTake p ⟨s.wt, 7, 0, v % 2 ^ 48⟩ s := by
  rw [traceMarkWrite, if_pos hright, if_pos hen]

theorem traceMarkWrite_off (hen : s.rb F.CC_TRACE_CFG_enable p = false) : traceMarkWrite w p v s = s := by
  rw [traceMarkWrite, if_pos hright, hen, if_neg Bool.false_ne_true]

end
end

/-! ### A record reaches the writer (R393, R395) -/

section
variable {s : State} {p : Nat} (r : TRec)

theorem writerTake_lost (hok : writerOk s p = false) :
    writerTake p r s = ({ s with
      traceW := tput ({} : TWriter) s.traceW p { s.trW p with lost := (s.trW p).lost + 1 } } : State).bump
        F.CC_TRACE_STAT_lost p := by
  rw [writerTake, hok, if_neg Bool.false_ne_true]

/-- With no loss to report and room left after it, the record joins those of the block. -/
theorem writerTake_joins {recs : List TRec} {first : Nat} (hwf : tsorted none s.traceW = true)
    (hok : writerOk s p = true) (hx : s.trW p = ⟨recs, first, 0⟩) (hsome : recs ≠ []) (hroom : recs.length < 127) :
    (writerTake p r s).trW p = ⟨recs ++ [r], first, 0⟩ := by
  have hopen : recs.isEmpty = false := List.isEmpty_eq_false_iff.mpr hsome
  have hnoLoss : ¬ 0 > 0 := Nat.lt_irrefl 0
  have hnotFull : ¬ recs.length ≥ 128 := by omega
  have hstillNotFull : ¬ (recs ++ [r]).length ≥ 128 := by
    rw [List.length_append, List.length_singleton]; omega
  rw [State.trW] at hx
  have hfirst (x : TWriter) := tget_tput_same ({} : TWriter) p x hwf
  have hsecond (x y : TWriter) := tget_tput_same ({} : TWriter) p y (tsorted_tput ({} : TWriter) p x hwf)
  simp only [writerTake, State.trW, hok, hx, hopen, hnoLoss, hnotFull, hstillNotFull, hfirst, hsecond, List.append_nil,
    Bool.false_eq_true, if_false, if_true]

end

/-! ### Blocks (R393) -/

section
variable {s t : State} {p : Nat}

/-- The padded block goes out with a sleeve made of its checksum, and head moves on. -/
theorem traceFlush_written {bytes : List Byte} (hsome : (s.trW p).recs ≠ []) (hok : writerOk s p = true)
    (hbytes : bytes = (((s.trW p).recs ++ List.replicate (128 - (s.trW p).recs.length)
      (TRec.mk s.wt 15 0 0)).map TRec.bytes).flatten) :
    traceFlush p s = putSlv (ringBlock s p (s.rd F.CC_TRACE_HEAD_head p / 128)).1
      (ringBlock s p (s.rd F.CC_TRACE_HEAD_head p / 128)).2 (mkSlv (crc48 bytes) 30 false 1 p)
      (({ s with
        traceW := tput ({} : TWriter) s.traceW p { lost := (s.trW p).lost }
        traceOut := tput [] s.traceOut p bytes } : State).wr F.CC_TRACE_HEAD_head p
          (s.rd F.CC_TRACE_HEAD_head p + 128)) := by
  have hopen : (s.trW p).recs.isEmpty = false := List.isEmpty_eq_false_iff.mpr hsome
  subst hbytes
  simp only [traceFlush, hopen, hok, Bool.false_eq_true, if_false, if_true]

variable (hp : partOk p = true)
include hp

theorem exec_traceBlockWrite_empty (hnone : (s.trW p).recs = []) : exec (.traceBlockWrite p) s = .next s := by
  change execTraceBlockWrite p s = _
  rw [execTraceBlockWrite, onUnit_ok hp, hnone, List.isEmpty_nil, if_pos rfl]

theorem exec_traceBlockWrite_records (hsome : (s.trW p).recs ≠ [])
    (ht : t = s.toWt ((s.trW p).firstWt + 50 * us)) : exec (.traceBlockWrite p) s = .next (traceFlush p t) := by
  change execTraceBlockWrite p s = _
  rw [execTraceBlockWrite, onUnit_ok hp, List.isEmpty_eq_false_iff.mpr hsome, if_neg Bool.false_ne_true, ht]

end

/-! ### A CT's queue (R393) -/

section
variable {s : State} {k : Nat} (hk : ctOk k = true)
include hk

theorem exec_traceRecordArrive_none (hq : s.trQ k = []) : exec (.traceRecordArrive k) s = .next s := by
  change execTraceRecordArrive k s = _
  simp only [execTraceRecordArrive, onUnit_ok hk, hq]

variable {r : TRec} {q : List TRec} (hq : s.trQ k = r :: q)
include hq

theorem exec_traceRecordArrive_taken (hlive : s.fieldLive (ctField k) = true) (hquiet : ctQuiet s k = false) :
    exec (.traceRecordArrive k) s = .next (writerTake (s.partOf (ctField k)) r (setTrQ k q s)) := by
  change execTraceRecordArrive k s = _
  simp only [execTraceRecordArrive, onUnit_ok hk, hq, hlive, hquiet, Bool.not_false, Bool.and_self, if_true]

theorem exec_traceRecordArrive_quiet (hquiet : ctQuiet s k = true) : exec (.traceRecordArrive k) s = .next s := by
  change execTraceRecordArrive k s = _
  simp only [execTraceRecordArrive, onUnit_ok hk, hq, hquiet, Bool.not_true, Bool.and_false, Bool.false_eq_true, if_false]

end

/-- Settles O49: each clause is one case of a write of CC_TRACE_CFG or CC_TRACE_MARK, of the writer or of a CT's queue. -/
theorem traceWriting : Obligations.TraceWriting := by
  unfold Obligations.TraceWriting
  refine ⟨?_, ?_, ?_, ?_, ?_, ?_, ?_, ?_, ?_, ?_⟩
  · intro s t w p v h hp hown ht
    rw [exec_traceEnable_granted hp h]
    refine ⟨fun hen => ?_, fun hen hring => ?_, fun hen hring => ?_⟩
    · rw [traceCfgWrite_disables hown ht hen]
    · rw [traceCfgWrite_enables hown ht hen hring]
    · rw [traceCfgWrite_refused hown ht hen hring]
  · intro s w p v hreach hmay hp
    exact exec_traceEnable_noRight hp hreach hmay
  · intro s w p v h hp hright
    rw [exec_traceMark_granted hp h]
    exact ⟨fun hen => by rw [traceMarkWrite_on hright hen], fun hen => by rw [traceMarkWrite_off hright hen]⟩
  · intro s w p v hreach hmay hp
    exact exec_traceMark_noRight hp hreach hmay
  · intro s p r hok
    exact writerTake_lost r hok
  · intro s p r hwf hok hlost hsome hroom
    have hsorted : tsorted none s.traceW = true := tsorted_of_twf hwf
    have hx : s.trW p = ⟨(s.trW p).recs, (s.trW p).firstWt, 0⟩ := by rw [← hlost]
    rw [writerTake_joins r hsorted hok hx hsome hroom]
    exact ⟨rfl, rfl, rfl⟩
  · intro s p hp hnone
    exact exec_traceBlockWrite_empty hp hnone
  · intro s t p bytes hp hsome ht hok hbytes
    have hkeeps : (t.trW p).recs ≠ [] := by rw [ht]; exact hsome
    rw [exec_traceBlockWrite_records hp hsome ht, traceFlush_written hkeeps hok hbytes]
  · intro s k hk hq
    exact exec_traceRecordArrive_none hk hq
  · intro s k r q hk hq
    exact ⟨exec_traceRecordArrive_taken hk hq, exec_traceRecordArrive_quiet hk hq⟩

end Sys2Proof.Machine
end

