-- ==== Sys2Proof/Proofs/ClockJudgement.lean ====
section
/-!
PROOF. The judgement of the clocks, condemning, and AON-only operation (R414 to R421, Table 18-1). The pairs that vote, the
count in CLK_TRIP and what no majority ends are log entries 86 and 87, and the spread above 10 log entry 88.
-/
namespace Sys2Proof.Machine

/-! ### A judgement window (R414, R415, Table 18-1) -/

/-- The pairs whose clocks both take part in the judgement. -/
def livePairs (t : State) : List Nat := [0, 1, 2].filter (fun i => (pairClks i).all (clkAwake t))

/-- The live pairs of clocks that are not condemned. -/
def votingPairs (t : State) : List Nat := (livePairs t).filter (fun i => (pairClks i).all (fun c => !clkCondemned t c))

/-- The voting pairs that disagree in a window with these counts. -/
def badPairs (ref bk : Nat) (t : State) : List Nat :=
  (votingPairs t).filter (fun i => (pairWindow i ref bk (t.pair i)).1)

/-- Every live pair takes the window. -/
def stepPairs (ref bk : Nat) (t : State) : State :=
  forAll (livePairs t) (fun i v => v.setPairs i (pairWindow i ref bk (v.pair i)).2) t

/-- What the pairs that disagree lead to (Table 18-1). -/
def judge (vote bad : List Nat) (u : State) : State :=
  match bad with
  | [] => clkSync (pardon u)
  | [_] => if vote.length = 1 then noMajority u else clkSync u
  | [i, j] => match (pairClks i).find? (fun c => (pairClks j).contains c) with
    | some c => condemn c 1 u
    | none => clkSync u
  | _ => noMajority u

section
variable {vote : List Nat} (u : State)

theorem judge_noneDisagrees : judge vote [] u = clkSync (pardon u) := rfl

theorem judge_sharedClock {i j c : Nat} (hc : (pairClks i).find? (fun c => (pairClks j).contains c) = some c) :
    judge vote [i, j] u = condemn c 1 u := by
  simp only [judge, hc]

theorem judge_allDisagree {i j k : Nat} : judge vote [i, j, k] u = noMajority u := rfl

end

section
variable {s t u : State} {ref bk : Nat}

/-- While BKCLK is not on its way from a cold start the window steps the pairs and judges them. -/
theorem exec_clockWindow_judges (ht : t = (s.wr F.CC_CLK_CNT_ref 0 ref).wr F.CC_CLK_CNT_bk 0 bk)
    (hu : u = stepPairs ref bk t) (hbk : u.bkRun ≠ .stable) :
    exec (.clockWindow ref bk) s = .next (judge (votingPairs t) (badPairs ref bk t) u) := by
  rw [stepPairs, livePairs] at hu
  change execClockWindow ref bk s = _
  rw [execClockWindow, ← ht]
  simp only [← hu, if_neg hbk]
  unfold judge badPairs votingPairs livePairs
  generalize List.filter (fun i => (pairWindow i ref bk (t.pair i)).1) _ = bad
  rfl

theorem badPairs_none (h : ∀ i, i ∈ livePairs t → (pairClks i).all (fun c => !clkCondemned t c) = true →
    (pairWindow i ref bk (t.pair i)).1 = false) : badPairs ref bk t = [] := by
  refine List.filter_eq_nil_iff.mpr fun i hi hbad => ?_
  obtain ⟨hlive, hvotes⟩ := List.mem_filter.mp hi
  exact Bool.false_ne_true ((h i hlive hvotes).symm.trans hbad)

theorem pairClks_lt {i c : Nat} (hc : c ∈ pairClks i) : c < 3 := by
  have hall : (pairClks i).all (fun d => decide (d < 3)) = true := by
    unfold pairClks
    split
    · rfl
    · split <;> rfl
  exact decide_eq_true_eq.mp (List.all_eq_true.mp hall c hc)

section
variable (h : ∀ d, d < 3 → clkAwake t d = true ∧ clkCondemned t d = false)
include h

theorem livePairs_allAwake : livePairs t = [0, 1, 2] :=
  List.filter_eq_self.mpr fun _ _ => List.all_eq_true.mpr fun c hc => (h c (pairClks_lt hc)).1

theorem votingPairs_noneCondemned : votingPairs t = [0, 1, 2] := by
  rw [votingPairs, livePairs_allAwake h]
  refine List.filter_eq_self.mpr fun i _ => List.all_eq_true.mpr fun c hc => ?_
  rw [(h c (pairClks_lt hc)).2, Bool.not_false]

/-- With every clock awake and none condemned, all three pairs step and vote. -/
theorem exec_clockWindow_allVote (ht : t = (s.wr F.CC_CLK_CNT_ref 0 ref).wr F.CC_CLK_CNT_bk 0 bk)
    (hu : u = forAll [0, 1, 2] (fun i v => v.setPairs i (pairWindow i ref bk (v.pair i)).2) t)
    (hbk : u.bkRun ≠ .stable) :
    exec (.clockWindow ref bk) s =
      .next (judge [0, 1, 2] ([0, 1, 2].filter (fun i => (pairWindow i ref bk (t.pair i)).1)) u) := by
  have hstep : u = stepPairs ref bk t := by rw [hu, stepPairs, livePairs_allAwake h]
  rw [exec_clockWindow_judges ht hstep hbk, badPairs, votingPairs_noneCondemned h]

end
end

/-- A settled pair whose ratio leaves its reference disagrees, and settles anew. -/
theorem pairWindow_disagrees {ref bk i : Nat} {x : ClkPair} {m : Nat × Nat} (hx : x.ref = some m)
    (hfar : near 1000 (pairRatio i ref bk) m = false) : pairWindow i ref bk x = (true, {}) := by
  simp only [pairWindow, hx, hfar, Bool.false_eq_true, if_false]

/-! ### A clock with no edge (R415, R420) -/

section
variable {s : State} {bk : Bool}

theorem exec_clockEdgeLoss_unjudged (h : clkCondemned s (refClk bk) = true ∨ (bk = true ∧ s.bkRun = .asleep)) :
    exec (.clockEdgeLoss bk) s = .next s := by
  have hskip : (clkCondemned s (refClk bk) || (bk && s.bkRun != .on && s.bkRun != .stable)) = true := by
    rcases h with hcond | ⟨hbk, hasleep⟩
    · rw [hcond, Bool.true_or]
    · rw [hbk, hasleep]; exact Bool.or_true _
  change execClockEdgeLoss bk s = _
  simp only [execClockEdgeLoss, hskip, if_true]

theorem exec_clockEdgeLoss_condemns (hcond : clkCondemned s (refClk bk) = false)
    (hrun : bk = true → s.bkRun = .on ∨ s.bkRun = .stable) :
    exec (.clockEdgeLoss bk) s = .next (condemn (refClk bk) 0 s) := by
  have hchecked : (bk && s.bkRun != .on && s.bkRun != .stable) = false := by
    cases bk with
    | false => rfl
    | true => rcases hrun rfl with hon | hstable
              · rw [hon]; rfl
              · rw [hstable]; rfl
  change execClockEdgeLoss bk s = _
  simp only [execClockEdgeLoss, hcond, hchecked, Bool.or_self, Bool.false_eq_true, if_false]

end

/-! ### Condemning the source of TAPCLK (R415, R417, Table 18-2) -/

section
variable {s t : State} (cause : Nat) (ht : t = unsettle 1 (setCondemned 1 true s)) (hsrc : t.rd F.CC_CLK_STAT_src = 0)
include ht hsrc

theorem condemn_refclk :
    condemn 1 cause s = if clkReady t true then
        clkSync (clkSwitch 1 0 true ((clkTrip 1 cause (s.rd F.CC_CLK_CNT_ref) false t).wr F.CC_CLK_STAT_src 0 1))
      else clkSync (enterAon (clkTrip 1 cause (s.rd F.CC_CLK_CNT_ref) true t)) := by
  have hcount : lastCount s 1 = s.rd F.CC_CLK_CNT_ref := rfl
  have hinUse : ((1 : Nat) != 0 && 0 + 1 == 1) = true := rfl
  rw [condemn, ← ht]
  simp only [hcount, hsrc, hinUse, if_true]
  rfl

theorem condemn_refclk_switches (hready : clkReady t true = true) :
    condemn 1 cause s = clkSync (clkSwitch 1 0 true
      ((clkTrip 1 cause (s.rd F.CC_CLK_CNT_ref) false t).wr F.CC_CLK_STAT_src 0 1)) := by
  rw [condemn_refclk cause ht hsrc, if_pos hready]

theorem condemn_refclk_stops (hready : clkReady t true = false) :
    condemn 1 cause s = clkSync (enterAon (clkTrip 1 cause (s.rd F.CC_CLK_CNT_ref) true t)) := by
  rw [condemn_refclk cause ht hsrc, hready, if_neg Bool.false_ne_true]

end

/-! ### A reference becomes ready (R417, R419) -/

section
variable {s t : State}

theorem exec_pllReady_unjudged {bk : Bool} (h : clkJudged s (refClk bk) = false) :
    exec (.pllReady bk) s = .next s := by
  change execPllReady bk s = _
  rw [execPllReady, h, Bool.not_false, if_pos rfl]

section
variable (h : clkJudged s 1 = true) (ht : t = { s with pllRef := true })
include h ht

/-- REFCLK is ready: AON-only operation ends, on the preferred source when that is ready too. -/
theorem exec_pllReady_refclk {u : State}
    (hu : u = if t.aonOnly then leaveAon (if clkReady t (prefBk t) then prefBk t else false) t else t)
    (hstep : u.step ≠ 3) : exec (.pllReady false) s = .next (clkSync u) := by
  have hjudged : clkJudged s (refClk false) = true := h
  change execPllReady false s = _
  simp only [execPllReady, hjudged, Bool.not_true, Bool.false_eq_true, if_false]
  rw [← ht, ← hu, if_neg hstep]

theorem exec_pllReady_tapclk (hstep : t.step ≠ 3) (hon : t.aonOnly = false) :
    exec (.pllReady false) s = .next (clkSync t) := by
  refine exec_pllReady_refclk h ht ?_ hstep
  rw [hon, if_neg Bool.false_ne_true]

theorem exec_pllReady_aonOnly (hstep : (leaveAon false t).step ≠ 3) (hon : t.aonOnly = true) (hpref : prefBk t = false) :
    exec (.pllReady false) s = .next (clkSync (leaveAon false t)) := by
  refine exec_pllReady_refclk h ht ?_ hstep
  rw [if_pos hon, hpref, ite_self]

end

theorem exec_sourceReturn_notReady (h : s.srcReady = none) : exec .sourceReturn s = .next s := by
  change execSourceReturn s = _
  simp only [execSourceReturn, h]

theorem exec_sourceReturn_switches {d : Nat} (h : s.srcReady = some d) (ht : t = s.toWt (d + sec)) :
    exec .sourceReturn s = .next (clkSync (clkSwitch (b2n (prefBk t)) (t.rd F.CC_CLK_STAT_src) true
      (t.wr F.CC_CLK_STAT_src 0 (b2n (prefBk t))))) := by
  change execSourceReturn s = _
  simp only [execSourceReturn, h, ← ht]

theorem exec_bkclkStable_cold {d : Nat} (h : s.bkRun = .cold d) :
    exec .bkclkStable s = .next { s.toWt (d + 200 * us) with bkRun := .stable } := by
  change execBkclkStable s = _
  simp only [execBkclkStable, h]

theorem exec_bkclkStable_on (h : s.bkRun = .on) : exec .bkclkStable s = .next s := by
  change execBkclkStable s = _
  simp only [execBkclkStable, h]

end

/-! ### Loss of AONCLK (R416) -/

section
variable {s : State}

section
variable (hon : s.aonOnly = false) (hlost : s.aonLost = none)
include hon hlost

theorem exec_aonClockLoss_condemned (hcond : clkCondemned s 0 = true) :
    exec .aonClockLoss s = .next { s with aonLost := some (s.wt + 10 * us) } := by
  change execAonClockLoss s = _
  simp only [execAonClockLoss, hon, hlost, hcond, Option.isSome_none, Bool.or_self, Bool.false_eq_true, if_false, if_true]

theorem exec_aonClockLoss_condemns (hcond : clkCondemned s 0 = false) :
    exec .aonClockLoss s = .next { condemn 0 0 s with aonLost := some ((condemn 0 0 s).wt + 10 * us) } := by
  change execAonClockLoss s = _
  simp only [execAonClockLoss, hon, hlost, hcond, Option.isSome_none, Bool.or_self, Bool.false_eq_true, if_false]

end

variable {id sa : Nat} {bad : List Nat}

theorem exec_aonSelfReset_lost (h : s.aonLost.isSome = true) :
    exec (.aonSelfReset id sa bad) s = .next (powerUp id sa bad s) := by
  change execAonSelfReset id sa bad s = _
  rw [execAonSelfReset, if_pos h]

theorem exec_aonSelfReset_notLost (h : s.aonLost = none) : exec (.aonSelfReset id sa bad) s = .next s := by
  change execAonSelfReset id sa bad s = _
  rw [execAonSelfReset, h, Option.isSome_none, if_neg Bool.false_ne_true]

end

/-! ### CC_SSC_CFG (R421) -/

section
variable {s t : State} {w : Writer} {v : Nat}

theorem exec_sscCfgWrite_granted (h : Granted s w .CC_SSC_CFG 0) :
    exec (.sscCfgWrite w v) s = .next (wrote w .CC_SSC_CFG 0 (sscWrite w v s)) := regWrite_granted h

theorem sscWrite_noRight (hlimit : s.limitOk w = false) : sscWrite w v s = s := by
  rw [sscWrite, hlimit, Bool.not_false, if_pos rfl]

variable (hlimit : s.limitOk w = true)
include hlimit

theorem sscWrite_inRange (hspread : bits (v % 2 ^ 7) 1 4 ≤ 10) (ht : t = setPersist .CC_SSC_CFG 0 (v % 2 ^ 7) s) :
    sscWrite w v s = { t with sscNow := t.regVal .CC_SSC_CFG 0 } := by
  subst ht
  simp only [sscWrite, hlimit, if_neg (Nat.not_lt.mpr hspread), Bool.not_true, Bool.false_eq_true, if_false]

theorem sscWrite_keepsSpread (hspread : 10 < bits (v % 2 ^ 7) 1 4)
    (ht : t = setPersist .CC_SSC_CFG 0 (setBits (v % 2 ^ 7) 1 4 (s.rd F.CC_SSC_CFG_spread)) s) :
    sscWrite w v s = { t with sscNow := t.regVal .CC_SSC_CFG 0 } := by
  subst ht
  simp only [sscWrite, hlimit, if_pos hspread, Bool.not_true, Bool.false_eq_true, if_false]

end

/-- Settles O52: each clause is one case of a window, of condemning, of an event of the clocks or of a write of
CC_SSC_CFG. -/
theorem clockJudgement : Obligations.ClockJudgement := by
  unfold Obligations.ClockJudgement
  refine ⟨?_, ?_, ?_, ?_, ?_, ?_, ?_, ?_, ?_, ?_, ?_, ?_, ?_, ?_, ?_, ?_⟩
  · rintro s t u ref bk live ht hlive hu hbk hagree
    have hl : live = livePairs t := hlive
    subst hl
    rw [exec_clockWindow_judges ht hu hbk, badPairs_none hagree, judge_noneDisagrees]
  · intro s t u ref bk i j c ht hawake hbad hc hu hbk
    rw [exec_clockWindow_allVote hawake ht hu hbk, hbad, judge_sharedClock u hc]
  · intro s t u ref bk ht hawake hbad hu hbk
    rw [exec_clockWindow_allVote hawake ht hu hbk, hbad, judge_allDisagree]
  · intro ref bk i x m hx hfar
    exact pairWindow_disagrees hx hfar
  · intro s bk
    refine ⟨fun hcond => exec_clockEdgeLoss_unjudged (.inl hcond), ?_, ?_, ?_⟩
    · rintro rfl hcond
      exact exec_clockEdgeLoss_condemns hcond (fun h => absurd h Bool.false_ne_true)
    · rintro rfl hcond hrun
      exact exec_clockEdgeLoss_condemns hcond (fun _ => hrun)
    · intro hbk hasleep
      exact exec_clockEdgeLoss_unjudged (.inr ⟨hbk, hasleep⟩)
  · intro s t cause ht hsrc
    exact ⟨condemn_refclk_switches cause ht hsrc, condemn_refclk_stops cause ht hsrc⟩
  · intro s bk h
    exact exec_pllReady_unjudged h
  · intro s t h ht hstep
    exact ⟨exec_pllReady_tapclk h ht hstep, fun hon hpref hend => exec_pllReady_aonOnly h ht hend hon hpref⟩
  · intro s h
    exact exec_sourceReturn_notReady h
  · intro s t d h ht
    exact exec_sourceReturn_switches h ht
  · intro s d h
    exact exec_bkclkStable_cold h
  · intro s h
    exact exec_bkclkStable_on h
  · intro s hon hlost
    exact ⟨exec_aonClockLoss_condemned hon hlost, exec_aonClockLoss_condemns hon hlost⟩
  · intro s id sa bad
    exact ⟨exec_aonSelfReset_lost, exec_aonSelfReset_notLost⟩
  · intro s t w v h hlimit
    rw [exec_sscCfgWrite_granted h]
    exact ⟨fun hspread ht => by rw [sscWrite_inRange hlimit hspread ht],
      fun hspread ht => by rw [sscWrite_keepsSpread hlimit hspread ht]⟩
  · intro s w v h hlimit
    rw [exec_sscCfgWrite_granted h, sscWrite_noRight hlimit]

end Sys2Proof.Machine
end

