-- ==== Sys2Proof/Proofs/Ownership.lean ====
section
/-!
PROOF. Claims, releases, accepts and handovers of the block's owner (R409 to R411, Tables 17-3 and 17-10). That a lapsed or
ended handover names no master is log entry 79.
-/
namespace Sys2Proof.Machine

/-! ### The three operations of CC_OWNER -/

section
variable {s : State} {w : Writer}

theorem ownerClaim_noOwner (hw : masterNum w ≠ 3) (hfree : s.rd F.CC_OWNER_owner = 3) :
    ownerClaim w s = ownerChange (masterNum w) 0 s := by
  rw [ownerClaim, if_neg hw, if_pos hfree]

theorem ownerClaim_takeover (howned : s.rd F.CC_OWNER_owner ≠ 3) (hstale : s.rb F.CC_OWNER_stale = true)
    (hown : s.isOwner .tray = false) : ownerClaim .tray s = ownerChange 1 2 s := by
  have hmaster : masterNum .tray ≠ 3 := by decide
  rw [ownerClaim, if_neg hmaster, if_neg howned, if_pos ⟨hstale, rfl, hown⟩]

/-- An owner that is not stale keeps the block, and only TRAY takes it from a stale one. -/
theorem ownerClaim_owned (howned : s.rd F.CC_OWNER_owner ≠ 3) (hkeep : s.rb F.CC_OWNER_stale = false ∨ w ≠ .tray) :
    ownerClaim w s = s := by
  have hno : ¬ (s.rb F.CC_OWNER_stale = true ∧ w = .tray ∧ s.isOwner w = false) := by
    rintro ⟨hstale, htray, -⟩
    exact hkeep.elim (fun h => Bool.false_ne_true (h ▸ hstale)) (fun h => h htray)
  rw [ownerClaim, if_neg howned, if_neg hno, ite_self]

theorem ownerRelease_owner (hown : s.isOwner w = true) : ownerRelease w s = ownerChange 3 3 s := if_pos hown

theorem ownerRelease_notOwner (hown : s.isOwner w = false) : ownerRelease w s = s := by
  rw [ownerRelease, hown, if_neg Bool.false_ne_true]

theorem ownerAccept_target (hpend : s.rb F.CC_OWNER_HO_pending = true) (hw : masterNum w ≠ 3)
    (htarget : s.rd F.CC_OWNER_HO_target = masterNum w) (hwt : s.wt ≤ s.hoAt + 100 * ms) :
    ownerAccept w s = ownerChange (masterNum w) 1 s := if_pos ⟨hpend, hw, htarget, hwt⟩

theorem ownerAccept_refused (h : s.rb F.CC_OWNER_HO_pending = false ∨ s.rd F.CC_OWNER_HO_target ≠ masterNum w ∨
    s.hoAt + 100 * ms < s.wt) : ownerAccept w s = s := by
  refine if_neg ?_
  rintro ⟨hpend, -, htarget, hwt⟩
  rcases h with hnone | hother | hlate
  · exact Bool.false_ne_true (hnone ▸ hpend)
  · exact hother htarget
  · exact Nat.not_le.mpr hlate hwt

/-! ### The commands are writes of CC_OWNER (Table 17-3) -/

variable (h : Granted s w .CC_OWNER 0)
include h

theorem exec_ownerClaim_granted : exec (.ownerClaim w) s = .next (wrote w .CC_OWNER 0 (ownerClaim w s)) :=
  regWrite_granted h

theorem exec_ownerRelease_granted : exec (.ownerRelease w) s = .next (wrote w .CC_OWNER 0 (ownerRelease w s)) :=
  regWrite_granted h

theorem exec_ownerAccept_granted : exec (.ownerAccept w) s = .next (wrote w .CC_OWNER 0 (ownerAccept w s)) :=
  regWrite_granted h

end

/-! ### A stale owner (R410) -/

section
variable {s : State}

theorem exec_ownerStale_owned (howned : s.rd F.CC_OWNER_owner ≠ 3) (hstale : s.rb F.CC_OWNER_stale = false) :
    exec .ownerStale s = .next ((s.toWt (s.ownAt + 5 * sec)).wr F.CC_OWNER_stale 0 1) := by
  change execOwnerStale s = _
  simp only [execOwnerStale, howned, hstale, Bool.false_eq_true, or_self, if_false]

theorem exec_ownerStale_unchanged (h : s.rd F.CC_OWNER_owner = 3 ∨ s.rb F.CC_OWNER_stale = true) :
    exec .ownerStale s = .next s := by
  change execOwnerStale s = _
  rw [execOwnerStale, if_pos h]

end

/-! ### Handovers (R411) -/

section
variable {s : State} {w : Writer} {target : Nat}

theorem exec_handoverStart_granted (h : Granted s w .CC_OWNER_HO 0) :
    exec (.handoverStart w target) s = .next (wrote w .CC_OWNER_HO 0 (handoverWrite w target s)) :=
  regWrite_granted h

theorem exec_handoverStart_noRight (hreach : s.regReach w .CC_OWNER_HO 0 = true)
    (hmay : s.mayWrite w .CC_OWNER_HO 0 = false) :
    exec (.handoverStart w target) s = .next (noRight w .CC_OWNER_HO s) :=
  regWrite_noRight hreach hmay

/-- A master's number fills the field of the target. -/
theorem bits_target (ht : target < 4) : bits target 0 2 = target := by
  rw [bits, Nat.pow_zero, Nat.div_one]
  exact Nat.mod_eq_of_lt ht

theorem handoverWrite_toOwner (ht : target < 4) (hself : target = s.rd F.CC_OWNER_owner) :
    handoverWrite w target s = s := by
  simp only [handoverWrite, bits_target ht, ← hself, beq_self_eq_true, Bool.or_true, if_true]

variable (hown : s.isOwner w = true) (hother : target ≠ s.rd F.CC_OWNER_owner)
include hown hother

theorem handoverWrite_start (ht : target < 4) (hmaster : target ≠ 3) :
    handoverWrite w target s =
      (({ s with hoAt := s.wt } : State).wr F.CC_OWNER_HO_target 0 target).wr F.CC_OWNER_HO_pending 0 1 := by
  simp only [handoverWrite, bits_target ht, hown, beq_false_of_ne hother, if_neg hmaster, Bool.not_true, Bool.or_self,
    Bool.false_eq_true, if_false]

theorem handoverWrite_cancel (hnone : target = 3) : handoverWrite w target s = endHandover s := by
  have ht : target < 4 := by omega
  simp only [handoverWrite, bits_target ht, hown, beq_false_of_ne hother, if_pos hnone, Bool.not_true, Bool.or_self,
    Bool.false_eq_true, if_false]

end

section
variable {s t : State}

theorem exec_handoverLapsed_pending (ht : t = s.toWt (s.hoAt + 100 * ms)) (hpend : s.rb F.CC_OWNER_HO_pending = true) :
    exec .handoverLapsed s = .next (raiseCc
      { code := Code.HANDOVER_LAPSED, unit := t.ccUnit,
        params := s.rd F.CC_OWNER_HO_target + 2 ^ 2 * s.rd F.CC_OWNER_owner } (endHandover t)) := by
  change execHandoverLapsed s = _
  rw [execHandoverLapsed, if_pos hpend, ht]

theorem exec_handoverLapsed_none (hpend : s.rb F.CC_OWNER_HO_pending = false) : exec .handoverLapsed s = .next s := by
  change execHandoverLapsed s = _
  rw [execHandoverLapsed, hpend, if_neg Bool.false_ne_true]

end

/-- Settles O54: each clause is one case of an operation of CC_OWNER, of a write of CC_OWNER_HO or of one of the two
timers. -/
theorem ownership : Obligations.Ownership := by
  unfold Obligations.Ownership
  refine ⟨?_, ?_, ?_, ?_, ?_, ?_⟩
  · rintro s _ new how rfl
    rfl
  · intro s w h
    rw [exec_ownerClaim_granted h, exec_ownerRelease_granted h, exec_ownerAccept_granted h]
    refine ⟨?_, ?_, ?_, ?_, ?_, ?_, ?_, ?_⟩
    · intro hw hfree
      rw [ownerClaim_noOwner hw hfree]
    · intro howned hstale
      rw [ownerClaim_owned howned (.inl hstale)]
    · rintro rfl howned hstale hown
      rw [ownerClaim_takeover howned hstale hown]
    · intro hw howned
      rw [ownerClaim_owned howned (.inr hw)]
    · intro hown
      rw [ownerRelease_owner hown]
    · intro hown
      rw [ownerRelease_notOwner hown]
    · intro hpend hw htarget hwt
      rw [ownerAccept_target hpend hw htarget hwt]
    · intro hrefused
      rw [ownerAccept_refused hrefused]
  · intro s
    exact ⟨exec_ownerStale_owned, fun hfree => exec_ownerStale_unchanged (.inl hfree),
      fun hstale => exec_ownerStale_unchanged (.inr hstale)⟩
  · intro s w target hreach hmay
    exact exec_handoverStart_noRight hreach hmay
  · intro s w target h ht
    rw [exec_handoverStart_granted h]
    refine ⟨?_, ?_, ?_⟩
    · intro hself
      rw [handoverWrite_toOwner ht hself]
    · intro hown hother hmaster
      rw [handoverWrite_start hown hother ht hmaster]
    · intro hown hnone howned
      rw [handoverWrite_cancel hown (hnone ▸ howned.symm) hnone, endHandover]
  · intro s t ht
    exact ⟨exec_handoverLapsed_pending ht, exec_handoverLapsed_none⟩

end Sys2Proof.Machine
end

