-- ==== Sys2Proof/Proofs/StepTakesTheFront.lean ====
section
/-!
PROOF. A step takes the front of the queue, or idles (R424, log entries 13 and 26).
-/
namespace Sys2Proof.Machine

variable {s : State}

theorem step_pending {c : Instr} {l : List Instr} (hq : s.pending = c :: l) :
    step s = exec c { s with pending := l } := by
  rw [step, hq]

theorem step_idle (hq : s.pending = []) : step s = .next (sampleAll { s with wt := s.wt + idleNs s }) := by
  rw [step, hq]

theorem idleNs_tapclk (hon : s.aonOnly = false) : idleNs s = 1 := by
  rw [idleNs, hon, if_neg Bool.false_ne_true]

theorem idleNs_aonOnly (hon : s.aonOnly = true) : idleNs s = 20 := if_pos hon

/-- Settles O57: the two cases of the queue, and the two resolutions of wafer time. -/
theorem stepTakesTheFront : Obligations.StepTakesTheFront := by
  unfold Obligations.StepTakesTheFront
  refine ⟨fun _ _ _ => step_pending, ?_, ?_⟩
  · intro s hq hon
    rw [step_idle hq, idleNs_tapclk hon]
  · intro s hq hon
    rw [step_idle hq, idleNs_aonOnly hon]

end Sys2Proof.Machine
end
